-- ==== Sys2Proof/Word.lean ====
section
/-! DEFINITION. The word types of the spec (R5 to R7) and their plainest arithmetic. -/

namespace Sys2Proof

/-- A byte (R6). -/
abbrev Byte := BitVec 8

/-- A word is 48 bits and occupies 6 consecutive bytes (R7). -/
abbrev Word := BitVec 48

/-- A 96-bit quantity: two consecutive words, the less significant first (R7). -/
abbrev DWord := BitVec 96

/-- A D register: four independent lanes (R141, "The data class"). -/
abbrev Quad := Vector Word 4

/-- An X register: four lanes of 96 bits (R136). -/
abbrev XQuad := Vector DWord 4

/-- A sparse store: address and value pairs, an unlisted address reads as zero. -/
abbrev Sparse (w : Nat) := List (Nat × BitVec w)

/-- Bits [m:l] of a number (R5). -/
def bitsOf (x m l : Nat) : Nat := (x >>> l) % 2 ^ (m - l + 1)

/-- One bit of a number as a truth value. -/
def bitOf (x i : Nat) : Bool := x.testBit i

/-- The quotient rounded up. -/
def ceilDiv (a b : Nat) : Nat := (a + b - 1) / b

end Sys2Proof
end

