-- ==== Sys2Proof/Syntax.lean ====
section
/-! DEFINITION. The commands of the TQ-48: one constructor per row of the opcode table, and the types of their operands.
What the environment supplies with a command (the bytes a host read returns, an ADC sample, elapsed time) is an operand. -/

namespace Sys2Proof

/-- How a hub register is written (R9): whole, its low half, its high half, or with a size that is ignored. -/
inductive RegAccess where
  | qword | low | high | other
deriving DecidableEq, Repr

/-- State of the host link (R265, R290). -/
inductive LinkState where
  | l0 | l1aspm | l1 | l2l3Ready | recovering | down
deriving DecidableEq, Repr

structure BurstResult where
  data : Option (List Byte)
  lastBeatError : Bool
deriving DecidableEq, Repr

/-- What restore reads from the SSDs (R376): the two superblock copies of each member read, the map area and the manifest
area that the chosen superblock selects, and SET_ID and label the management core would choose. `none` is a failed read. -/
structure RestoreRead where
  superblocks : List (Nat × Option (List Byte) × Option (List Byte))
  map : Option (List Byte)
  manifest : Option (List Byte)
deriving DecidableEq, Repr

/-- The mirror header of a message (R399); `segs` Ethernet frames carried it. -/
structure MirrorHeader where
  senderPos : Nat
  epoch : Nat
  frameNo : Nat
  linkAck : BitVec 32
  segs : Nat
deriving DecidableEq, Repr

/-- A LIST payload (R403): the frame header and the records. -/
structure FrameList where
  header : List Byte
  records : List Byte
deriving DecidableEq, Repr

/-- The heartbeat block (R402). -/
structure Heartbeat where
  epoch : Nat
  position : Nat
  role : Nat
  flags : BitVec 8
  health : Nat
  faults : Nat
  frameNo : Nat
  committed : Nat
  upPos : Nat
  downPos : Nat
  toPos : Nat
deriving DecidableEq, Repr

/-- A TICK payload (R403). -/
structure TickPayload where
  hb : Heartbeat
  digestFrame : Nat
  digest : List Byte
  records : List Byte
deriving DecidableEq, Repr

/-- A DATA record (R353). -/
structure DataRecord where
  slot : Nat
  source : Nat
  offset : Nat
  pcc : Bool
  data : List Byte
deriving DecidableEq, Repr

/-- An ACK payload (R404). -/
structure AckPayload where
  hb : Heartbeat
  recv : Nat
  exec : Nat
  ack : Nat
  out : Nat
  digestFrame : Nat
  digest : List Byte
  resetReq : BitVec 64
deriving DecidableEq, Repr

/-- A JOIN_REQ payload (R405). -/
structure JoinRequest where
  name : List Byte
  firmware : List Byte
  persistBase : Nat
  mode : Nat
deriving DecidableEq, Repr

/-- A JOIN_STATE payload (R405): time stamp, digest, and the descriptor, table and entry records. -/
structure JoinStatePayload where
  tstamp : Word
  digest : List Byte
  descs : List Byte
  tables : List Byte
  entries : List Byte
deriving DecidableEq, Repr

/-- An Ethernet frame at a mirror port (R398 to R400). -/
structure MirrorFrame where
  dest : BitVec 48
  src : BitVec 48
  reservedSet : Bool
  linkSeq : BitVec 32
  pause : Bool
deriving DecidableEq, Repr

/-- A firmware bank of the configuration flash (R478). -/
structure FirmwareBank where
  header : List Byte
  body : List Byte
deriving DecidableEq, Repr

/-- A unit of the start-up self-test (R479). -/
inductive SelftestUnit where
  | tile (t : Fin 64) | kmaBank (b : Fin 24) | cacheSlice (n : Fin 16) | dieLink | hubLink (west : Bool)
deriving DecidableEq, Repr

/-- What the check of a read finds (R235): symbols in error of each 64-byte burst. -/
structure EccOutcome where
  symbols : List Nat
deriving DecidableEq, Repr

/-- Who reads or writes memory (R236). -/
inductive Requester where
  | tile (t : Fin 64) | kmaSpill (slot : Fin 256) | engineStructure (slot : Option (Fin 256)) | mover | persist | mirror | codec
deriving DecidableEq, Repr

/-- The bytes of a partial write, and how many symbols of its line's old data have come into error, burst by burst (R230). -/
structure PartialData where
  bytes : List Byte
  bursts : List Nat
deriving DecidableEq, Repr

/-- A BDP frame as received (R457). -/
structure BdpFrame where
  dest : BitVec 48
  src : BitVec 48
  version : Nat
  type : Nat
  flags : BitVec 8
  reserved : BitVec 8
  transId : Nat
  bodyLen : Nat
  index : Nat
  subindex : Nat
  dataType : Nat
  error : Nat
  reserved2 : BitVec 16
  body : List Byte
  queueFull : Bool
deriving DecidableEq, Repr

/-- A configuration-space field of a function that the spec names (R264, R288, R291, R294), or another word of it by its offset. -/
inductive ConfigField where
  | relaxedOrdering | maxPayload | maxReadRequest | pmeEnable | pmeStatus | msixEnable | functionMask | busMaster | powerState
  | vfEnable | numVfs | totalVfs | initialVfs | firstVfOffset | vfStride | vfMigration | supportedPageSizes
  | other (off : Nat)
deriving DecidableEq, Repr

/-- A host window of the engine's registers (R268, R270), or the configuration space of the function. -/
inductive Window where
  | w0 | functionPage | w2 | w4
  | config (field : ConfigField)
deriving DecidableEq, Repr

/-- A link between dies (R16). -/
inductive DieLink where
  | eastWest | eastHub | westHub
deriving DecidableEq, Repr

/-- What an SSD reports of itself (R365, R366). -/
structure SsdIdentity where
  active : Bool
  lbaBytes : Nat
  metadata : Bool
  mdtsBytes : Nat
  mqes : Nat
  blocks : Nat
  vwc : Bool
  queues : Nat
  superblock : Option (List Byte)
deriving DecidableEq, Repr

/-- The commands: one constructor per row of the opcode table. -/
inductive Instr where
  /-- FRAME_TIMER_EXPIRY (R36): The frame timer started at tick k expires; tick k+1 fires if the merge of frame k is also complete, otherwise the frame overruns -/
  | frameTimerExpiry
  /-- TICK (R24): The frame boundary: merge done, digest, cocoon seal, completion release, configuration apply, frame start, admission and mirror send, in logical order -/
  | tick (elapsedUs : Nat)
  /-- LEASE_EXPIRY (R408): The sequencer's lease runs out; it fixes lists with no entries until acknowledgements extend it -/
  | leaseExpiry
  /-- FRAME_MERGE (R40): After the last tile yields, all merge records of the frame are applied in tile-then-issue order -/
  | frameMerge
  /-- TILE_HANG_TIMEOUT (R38): A tile charges no beat for 100 ms outside a demand-restore wait; a tile hang fault fences the engine -/
  | tileHangTimeout (t : Fin 64)
  /-- SELFTEST_PART (R414): A tile runs one part of its self-test kernel in idle time after yielding and compares its signature -/
  | selftestPart (t : Fin 64) (sigOk : Bool)
  /-- SELFTEST_LATE (R414): A tile has not completed a kernel within 8,192 frames and sets SELFTEST_LATE -/
  | selftestLate (t : Fin 64)
  /-- HEALTH_EVALUATION (R416): At every 1,024th tick non-latched health bits follow their conditions and the score is recomputed -/
  | healthEvaluation
  /-- MARGIN_CHECK (R415): Once a second the eye monitor measures SerDes lanes and sets margin bits -/
  | marginCheck (mirrorPct hostPct persistPct : Nat)
  /-- MOVA (R176): Ad := Aa -/
  | mova (t : Fin 64) (f : BitVec 40)
  /-- MOVI (R176): Ad := sign-extended immediate -/
  | movi (t : Fin 64) (f : BitVec 40)
  /-- MOVH (R176): Sets bits [47:32] of Ad from the immediate -/
  | movh (t : Fin 64) (f : BitVec 40)
  /-- ADDA (R176): Ad := Aa + Ab modulo 2^48 -/
  | adda (t : Fin 64) (f : BitVec 40)
  /-- ADDAI (R176): Ad := Aa + immediate modulo 2^48 -/
  | addai (t : Fin 64) (f : BitVec 40)
  /-- SUBA (R176): Ad := Aa − Ab modulo 2^48 -/
  | suba (t : Fin 64) (f : BitVec 40)
  /-- NEGA (R176): Ad := 0 − Aa modulo 2^48 -/
  | nega (t : Fin 64) (f : BitVec 40)
  /-- SHLA (R176): Address-class left shift by Ab[7:0] -/
  | shla (t : Fin 64) (f : BitVec 40)
  /-- SHRA (R176): Address-class logical right shift by Ab[7:0] -/
  | shra (t : Fin 64) (f : BitVec 40)
  /-- SARA (R176): Address-class arithmetic right shift by Ab[7:0] -/
  | sara (t : Fin 64) (f : BitVec 40)
  /-- SHLAI (R176): Address-class left shift by an immediate count -/
  | shlai (t : Fin 64) (f : BitVec 40)
  /-- SHRAI (R176): Address-class logical right shift by an immediate count -/
  | shrai (t : Fin 64) (f : BitVec 40)
  /-- SARAI (R176): Address-class arithmetic right shift by an immediate count -/
  | sarai (t : Fin 64) (f : BitVec 40)
  /-- BRA (R140): Branches when the condition holds between two A registers -/
  | bra (t : Fin 64) (f : BitVec 40)
  /-- BRAI (R176): Branches when the condition holds between an A register and an immediate -/
  | brai (t : Fin 64) (f : BitVec 40)
  /-- JMP (R176): Unconditional branch -/
  | jmp (t : Fin 64) (f : BitVec 40)
  /-- CALL (R140): Writes the return index into A15 and branches -/
  | call (t : Fin 64) (f : BitVec 40)
  /-- JMPR (R140): Branches to Aa[13:0], with a PC trap if upper bits are set -/
  | jmpr (t : Fin 64) (f : BitVec 40)
  /-- FTIME (R43): Ad := the frame time stamp -/
  | ftime (t : Fin 64) (f : BitVec 40)
  /-- MOVD (R177): Dd := Da lane by lane -/
  | movd (t : Fin 64) (f : BitVec 40)
  /-- MOVDI (R177): Dd := immediate in every enabled lane -/
  | movdi (t : Fin 64) (f : BitVec 40)
  /-- BCST (R177): Broadcasts Aa into every enabled lane of Dd -/
  | bcst (t : Fin 64) (f : BitVec 40)
  /-- MOVAD (R177): Ad := one lane of Da -/
  | movad (t : Fin 64) (f : BitVec 40)
  /-- PERM (R177): Permutes the lanes of Da into Dd -/
  | perm (t : Fin 64) (f : BitVec 40)
  /-- GETS (R177): Reads FL, XS or LX into Ad -/
  | gets (t : Fin 64) (f : BitVec 40)
  /-- PUTS (R177): Writes FL, or ORs into XS or LX, from Aa -/
  | puts (t : Fin 64) (f : BitVec 40)
  /-- CLRS (R177): Clears selected bits of XS or LX -/
  | clrs (t : Fin 64) (f : BitVec 40)
  /-- ADD (R177): Lane-wise Da + Db with flags A -/
  | add (t : Fin 64) (f : BitVec 40)
  /-- ADDI (R177): Lane-wise Da + immediate -/
  | addi (t : Fin 64) (f : BitVec 40)
  /-- ADC (R177): Lane-wise Da + Db + C -/
  | adc (t : Fin 64) (f : BitVec 40)
  /-- SUB (R177): Lane-wise Da − Db with flags S -/
  | sub (t : Fin 64) (f : BitVec 40)
  /-- SUBI (R177): Lane-wise Da − immediate -/
  | subi (t : Fin 64) (f : BitVec 40)
  /-- NEG (R177): Lane-wise 0 − Da -/
  | neg (t : Fin 64) (f : BitVec 40)
  /-- CMP (R177): Sets flags of Da − Db only -/
  | cmp (t : Fin 64) (f : BitVec 40)
  /-- CMPI (R177): Sets flags of Da − immediate only -/
  | cmpi (t : Fin 64) (f : BitVec 40)
  /-- MUL (R177): Low 48 bits of the signed product -/
  | mul (t : Fin 64) (f : BitVec 40)
  /-- MULU (R177): Low 48 bits of the unsigned product -/
  | mulu (t : Fin 64) (f : BitVec 40)
  /-- MULH (R177): High 48 bits of the signed product -/
  | mulh (t : Fin 64) (f : BitVec 40)
  /-- MULHU (R177): High 48 bits of the unsigned product -/
  | mulhu (t : Fin 64) (f : BitVec 40)
  /-- DIV (R177): Signed quotient rounded toward zero, with the edge cases of R148 -/
  | div (t : Fin 64) (f : BitVec 40)
  /-- DIVU (R177): Unsigned quotient -/
  | divu (t : Fin 64) (f : BitVec 40)
  /-- REM (R177): Signed remainder with the sign of Da -/
  | rem (t : Fin 64) (f : BitVec 40)
  /-- REMU (R177): Unsigned remainder -/
  | remu (t : Fin 64) (f : BitVec 40)
  /-- AND (R177): Lane-wise bitwise and -/
  | and (t : Fin 64) (f : BitVec 40)
  /-- OR (R177): Lane-wise bitwise or -/
  | or (t : Fin 64) (f : BitVec 40)
  /-- XOR (R177): Lane-wise bitwise exclusive or -/
  | xor (t : Fin 64) (f : BitVec 40)
  /-- ANDN (R177): Lane-wise Da & ~Db -/
  | andn (t : Fin 64) (f : BitVec 40)
  /-- NOT (R177): Lane-wise ~Da -/
  | not (t : Fin 64) (f : BitVec 40)
  /-- ANDI (R177): Lane-wise and with an immediate -/
  | andi (t : Fin 64) (f : BitVec 40)
  /-- ORI (R177): Lane-wise or with an immediate -/
  | ori (t : Fin 64) (f : BitVec 40)
  /-- XORI (R177): Lane-wise exclusive or with an immediate -/
  | xori (t : Fin 64) (f : BitVec 40)
  /-- SHL (R177): Lane-wise left shift by the same lane of Db -/
  | shl (t : Fin 64) (f : BitVec 40)
  /-- SHR (R177): Lane-wise logical right shift by Db -/
  | shr (t : Fin 64) (f : BitVec 40)
  /-- SAR (R177): Lane-wise arithmetic right shift by Db -/
  | sar (t : Fin 64) (f : BitVec 40)
  /-- ROL (R177): Lane-wise rotate left by Db modulo 48 -/
  | rol (t : Fin 64) (f : BitVec 40)
  /-- ROR (R177): Lane-wise rotate right by Db modulo 48 -/
  | ror (t : Fin 64) (f : BitVec 40)
  /-- SHLI (R177): Lane-wise left shift by an immediate -/
  | shli (t : Fin 64) (f : BitVec 40)
  /-- SHRI (R177): Lane-wise logical right shift by an immediate -/
  | shri (t : Fin 64) (f : BitVec 40)
  /-- SARI (R177): Lane-wise arithmetic right shift by an immediate -/
  | sari (t : Fin 64) (f : BitVec 40)
  /-- ROLI (R177): Lane-wise rotate left by an immediate -/
  | roli (t : Fin 64) (f : BitVec 40)
  /-- RORI (R177): Lane-wise rotate right by an immediate -/
  | rori (t : Fin 64) (f : BitVec 40)
  /-- MIN (R177): Lane-wise signed minimum -/
  | min (t : Fin 64) (f : BitVec 40)
  /-- MAX (R177): Lane-wise signed maximum -/
  | max (t : Fin 64) (f : BitVec 40)
  /-- MINU (R177): Lane-wise unsigned minimum -/
  | minu (t : Fin 64) (f : BitVec 40)
  /-- MAXU (R177): Lane-wise unsigned maximum -/
  | maxu (t : Fin 64) (f : BitVec 40)
  /-- SEL (R177): Selects Da or Db per lane by mask Km -/
  | sel (t : Fin 64) (f : BitVec 40)
  /-- CLZ (R177): Counts leading zero bits per lane -/
  | clz (t : Fin 64) (f : BitVec 40)
  /-- POPC (R177): Counts one bits per lane -/
  | popc (t : Fin 64) (f : BitVec 40)
  /-- CMPK (R144): Compares two D registers into a mask register under a condition -/
  | cmpk (t : Fin 64) (f : BitVec 40)
  /-- CMPKI (R144): Compares a D register with an immediate into a mask register -/
  | cmpki (t : Fin 64) (f : BitVec 40)
  /-- KAND (R177): Mask and -/
  | kand (t : Fin 64) (f : BitVec 40)
  /-- KOR (R177): Mask or -/
  | kor (t : Fin 64) (f : BitVec 40)
  /-- KANDN (R177): Mask and-not -/
  | kandn (t : Fin 64) (f : BitVec 40)
  /-- KXOR (R177): Mask exclusive or -/
  | kxor (t : Fin 64) (f : BitVec 40)
  /-- KNOT (R177): Mask invert within 4 bits -/
  | knot (t : Fin 64) (f : BitVec 40)
  /-- KMOV (R177): Loads a mask register from an immediate -/
  | kmov (t : Fin 64) (f : BitVec 40)
  /-- KSET (R177): Loads a mask register from Aa[3:0] -/
  | kset (t : Fin 64) (f : BitVec 40)
  /-- KGET (R177): Reads a mask register into Ad -/
  | kget (t : Fin 64) (f : BitVec 40)
  /-- BRF (R145): Flag branch on a condition combined over enabled lanes by a summary -/
  | brf (t : Fin 64) (f : BitVec 40)
  /-- XADD (R178): Accumulator add of sign-extended Da with saturation -/
  | xadd (t : Fin 64) (f : BitVec 40)
  /-- XADDU (R178): Accumulator add of zero-extended Da -/
  | xaddu (t : Fin 64) (f : BitVec 40)
  /-- XMAC (R178): Signed multiply-accumulate -/
  | xmac (t : Fin 64) (f : BitVec 40)
  /-- XMACU (R178): Unsigned multiply-accumulate -/
  | xmacu (t : Fin 64) (f : BitVec 40)
  /-- XMIN (R178): Accumulator signed minimum -/
  | xmin (t : Fin 64) (f : BitVec 40)
  /-- XMAX (R178): Accumulator signed maximum -/
  | xmax (t : Fin 64) (f : BitVec 40)
  /-- XCNT (R178): Accumulator count -/
  | xcnt (t : Fin 64) (f : BitVec 40)
  /-- XFROMD (R178): Moves a D pair into an accumulator -/
  | xfromd (t : Fin 64) (f : BitVec 40)
  /-- XTOD (R178): Moves an accumulator into a D pair -/
  | xtod (t : Fin 64) (f : BitVec 40)
  /-- LDW (R179): Loads a memory word into an A register, checked under R149 -/
  | ldw (t : Fin 64) (f : BitVec 40)
  /-- STW (R179): Stores an A register to a memory word -/
  | stw (t : Fin 64) (f : BitVec 40)
  /-- LDQ (R179): Loads four consecutive words into a D register -/
  | ldq (t : Fin 64) (f : BitVec 40)
  /-- STQ (R179): Stores the lanes of a D register to four words -/
  | stq (t : Fin 64) (f : BitVec 40)
  /-- GATH (R179): Gathers memory words by lane index -/
  | gath (t : Fin 64) (f : BitVec 40)
  /-- LDP (R179): Loads a scratchpad word into an A register -/
  | ldp (t : Fin 64) (f : BitVec 40)
  /-- STP (R179): Stores an A register to a scratchpad word -/
  | stp (t : Fin 64) (f : BitVec 40)
  /-- LDPQ (R179): Loads four scratchpad words into a D register -/
  | ldpq (t : Fin 64) (f : BitVec 40)
  /-- STPQ (R179): Stores a D register to four scratchpad words -/
  | stpq (t : Fin 64) (f : BitVec 40)
  /-- GATHP (R179): Gathers scratchpad words by lane index -/
  | gathp (t : Fin 64) (f : BitVec 40)
  /-- LGET (R153): Block repeat copying lines of memory into the scratchpad -/
  | lget (t : Fin 64) (f : BitVec 40)
  /-- LPUT (R153): Block repeat writing scratchpad words out as lines -/
  | lput (t : Fin 64) (f : BitVec 40)
  /-- PFILL (R153): Block repeat spreading a four-lane pattern over scratchpad words -/
  | pfill (t : Fin 64) (f : BitVec 40)
  /-- WCMP (R157): Block repeat comparing two runs of scratchpad words -/
  | wcmp (t : Fin 64) (f : BitVec 40)
  /-- DSCAN (R155): Decodes one PCC block group by group into the scratchpad -/
  | dscan (t : Fin 64) (f : BitVec 40)
  /-- DSCANF (R156): Decodes a PCC block and clears mask bits of values failing the intervals -/
  | dscanf (t : Fin 64) (f : BitVec 40)
  /-- DSCANN (R156): Filters a PCC block without writing values -/
  | dscann (t : Fin 64) (f : BitVec 40)
  /-- KSRCH (R198): Issues a KMA search per enabled lane; result records arrive later -/
  | ksrch (t : Fin 64) (f : BitVec 40)
  /-- KCONT (R200): Issues a continuation search reporting the next match -/
  | kcont (t : Fin 64) (f : BitVec 40)
  /-- KINS (R181): Issues one insert merge record per enabled lane -/
  | kins (t : Fin 64) (f : BitVec 40)
  /-- KAGG (R125): Folds lanes into the local aggregate table or issues records -/
  | kagg (t : Fin 64) (f : BitVec 40)
  /-- KDRN (R181): Issues one step of a SOURCE 1 table drain -/
  | kdrn (t : Fin 64) (f : BitVec 40)
  /-- SRUN (R127): Issues sort run formation of up to 64 elements -/
  | srun (t : Fin 64) (f : BitVec 40)
  /-- SMRG (R127): Issues one sort merge step of 64 elements -/
  | smrg (t : Fin 64) (f : BitVec 40)
  /-- SDLV (R181): Delivers elements of the final sorted run -/
  | sdlv (t : Fin 64) (f : BitVec 40)
  /-- CHAND (R181): Hands a Carafe to the Mover -/
  | chand (t : Fin 64) (f : BitVec 40)
  /-- QPT (R159): Quota point: computes the next step's charge and records and either charges or yields -/
  | qpt (t : Fin 64) (f : BitVec 40)
  /-- END (R161): Finishes the tile's part of the stage, flushing local aggregate groups first -/
  | endStage (t : Fin 64) (f : BitVec 40)
  /-- NOP (R182): Does nothing -/
  | nop (t : Fin 64) (f : BitVec 40)
  /-- BRK (R169): Takes the BREAK trap when the entry has DEBUG set, else does nothing -/
  | brk (t : Fin 64) (f : BitVec 40)
  /-- TGET (R182): Reads a trap register into Ad in trap mode -/
  | tget (t : Fin 64) (f : BitVec 40)
  /-- TXA (R182): Exchanges an A register with a private TA register -/
  | txa (t : Fin 64) (f : BitVec 40)
  /-- TXD (R182): Exchanges a D register with a private TD register -/
  | txd (t : Fin 64) (f : BitVec 40)
  /-- TRETRY (R167): Leaves trap mode at TPC -/
  | tretry (t : Fin 64) (f : BitVec 40)
  /-- TSKIP (R167): Leaves trap mode at TPC + 1 -/
  | tskip (t : Fin 64) (f : BitVec 40)
  /-- TEND (R167): Ends the entry with the status of TCAUSE -/
  | tend (t : Fin 64) (f : BitVec 40)
  /-- DIVX (R183): Emulated signed 96-bit accumulator division -/
  | divx (t : Fin 64) (f : BitVec 40)
  /-- DIVXU (R183): Emulated division with zero-extended divisor -/
  | divxu (t : Fin 64) (f : BitVec 40)
  /-- RSCL (R183): Emulated decimal rescale of a D register -/
  | rscl (t : Fin 64) (f : BitVec 40)
  /-- RSCLX (R183): Emulated decimal rescale of an accumulator -/
  | rsclx (t : Fin 64) (f : BitVec 40)
  /-- UNDEFINED_OPCODE (R174): An undefined opcode or reserved field takes the EMULATE trap -/
  | undefinedOpcode (t : Fin 64) (w : Word)
  /-- UNIT_RESULT_ARRIVAL (R152): A KMA, sort-unit or Mover result lands in its named registers or scratchpad words -/
  | unitResultArrival (t : Fin 64) (n : Nat)
  /-- PIPELINE_ENTRY (R281): A pipeline submission entry naming an image is read, checked and listed -/
  | pipelineEntry (r : Fin 4096) (entry : BitVec 512)
  /-- CODEC_ENCODE (R96): An encode job cuts and encodes blocks to host memory or a span -/
  | codecEncode (slot : Fin 256) (input : Option (List Byte)) (valid : List Byte)
  /-- CODEC_DECODE (R99): A decode job reads blocks and writes raw words -/
  | codecDecode (slot : Fin 256) (input : Option (List Byte))
  /-- CODEC_UNIT_GRANT (R102): A waiting codec job takes a free unit in work-table order -/
  | codecUnitGrant (encoder : Bool)
  /-- CODEC_JOB_FINISH (R100): A codec job ends and its result record is written -/
  | codecJobFinish (slot : Fin 256)
  /-- NOP_ENTRY (R281): A NOP entry is listed, finishes in its frame and completes OK -/
  | nopEntry (r : Fin 4096) (entry : BitVec 512)
  /-- TABLE_CREATE (R220): Creates a persistent KMA table in the persistent pool -/
  | tableCreate (slot : Fin 256)
  /-- TABLE_CLEAR (R220): Invalidates every entry of a persistent table -/
  | tableClear (slot : Fin 256)
  /-- TABLE_DESTROY (R220): Destroys a persistent table and frees its extents and charge -/
  | tableDestroy (slot : Fin 256)
  /-- TABLE_LOAD (R220): Inserts host records into a persistent table -/
  | tableLoad (slot : Fin 256) (records : Option (List Byte))
  /-- SET_DESCRIPTOR (R298): A MANAGE entry queues a segment descriptor write for a later tick -/
  | setDescriptor (slot : Fin 256)
  /-- SQUASH (R305): A MANAGE entry squashes an instance's work without a PCIe reset -/
  | squash (slot : Fin 256)
  /-- SQ_DOORBELL (R276): Starts a read of a submission ring's index block -/
  | sqDoorbell (fn : Fin 64) (r : Fin 4096) (size : Nat)
  /-- CQ_DOORBELL (R276): Starts a read of a completion ring's index block -/
  | cqDoorbell (fn : Fin 64) (r : Fin 4096) (size : Nat)
  /-- INDEX_BLOCK_READ_COMPLETE (R277): An index block read returns PRODUCER and CONSUMER; reading proceeds or the ring errs -/
  | indexBlockReadComplete (cq : Bool) (r : Fin 4096) (res : Option (BitVec 32 × BitVec 32))
  /-- ENTRY_READ_COMPLETE (R277): A submission entry's bytes arrive and it counts as read or is marked refused -/
  | entryReadComplete (r : Fin 4096) (entry : Option (BitVec 512)) (desc : Option (BitVec 512))
  /-- IMAGE_READ_COMPLETE (R110): A pipeline image arrives in the image store and is checked -/
  | imageReadComplete (r : Fin 4096) (image : Option (List Byte))
  /-- RING_CONTEXT_WRITE (R273): A ring context write joins the frame-class shadow set -/
  | ringContextWrite (cq : Bool) (r : Fin 4096) (word : Fin 8) (acc : RegAccess) (v : BitVec 64)
  /-- MOD_TIMER_EXPIRY (R289): A completion ring's moderation timer expires and an interrupt falls due -/
  | modTimerExpiry (r : Fin 4096)
  /-- FUNCTION_POWER_STATE_CHANGE (R266): A function enters or leaves D3hot; host accesses are held or resume -/
  | functionPowerStateChange (fn : Fin 64) (d3hot : Bool)
  /-- BUS_MASTER_ENABLE_CHANGE (R266): Bus Master Enable changes; host accesses are held or resume -/
  | busMasterEnableChange (fn : Fin 64) (enable : Bool)
  /-- LINK_STATE_CHANGE (R290): The host link enters or returns to L0; held messages are sent -/
  | linkStateChange (link : LinkState)
  /-- PME_RESEND (R291): A PME message is resent at the PCIe interval until PME_Status is cleared -/
  | pmeResend (fn : Fin 64)
  /-- FUNCTION_LEVEL_RESET (R306): A function-level reset stops host access and queues a reset record -/
  | functionLevelReset (fn : Fin 64)
  /-- VF_ENABLE_CHANGE (R295): VF Enable or NumVFs change; instances that stop existing are reset -/
  | vfEnableChange (enable : Bool) (numVfs : Nat)
  /-- HOT_RESET (R473): A PCIe hot reset or link-down acts as a reset of the physical function -/
  | hotReset (linkDown : Bool)
  /-- OUT_DOORBELL_SEND (R301): A tenant sends its mailbox message, or sets OUT_REJECT if full -/
  | outDoorbellSend (fn : Fin 64) (acc : RegAccess) (v : BitVec 64)
  /-- IN_ACK (R301): The tenant acknowledges the manager's message, clearing IN_FULL -/
  | inAck (fn : Fin 64) (acc : RegAccess) (v : BitVec 64)
  /-- TO_TENANT (R302): The manager places a mailbox message for a tenant -/
  | toTenant (i : Fin 64) (msg : BitVec 512)
  /-- FROM_ACK (R302): The manager clears a tenant's OUT_FULL -/
  | fromAck (i : Fin 64) (ack : Bool)
  /-- CH_APPEND (R316): Queues a descriptor chain head on a Mover channel -/
  | chAppend (ch : Fin 32) (acc : RegAccess) (v : BitVec 64)
  /-- DESCRIPTOR_FETCH (R315): A Mover descriptor arrives and is checked -/
  | descriptorFetch (ch : Fin 32)
  /-- BURST_START (R318): Arbitration starts a burst of the eligible channel of highest priority -/
  | burstStart
  /-- PACING_INTERVAL_EXPIRY (R319): A channel's pacing interval passes and it becomes eligible again -/
  | pacingIntervalExpiry (ch : Fin 32)
  /-- BURST_READ_COMPLETE (R317): A burst's read arrives; it is written, held, or the descriptor fails -/
  | burstReadComplete (ch : Fin 32) (res : BurstResult)
  /-- CH_PAUSE (R326): Setting or clearing PAUSE stops a channel at the descriptor end or resumes it -/
  | chPause (ch : Fin 32) (on : Bool)
  /-- CH_DISABLE (R327): Setting DISABLE drops all descriptors of the channel at once -/
  | chDisable (ch : Fin 32) (on : Bool)
  /-- CH_ERROR_CLEAR (R330): Writing 1 to CH_ERROR.VALID clears the first-failure record -/
  | chErrorClear (ch : Fin 32)
  /-- DG_OPEN (R337): Requests a digest context or reopens the one held -/
  | dgOpen (fn : Fin 64) (h : Fin 16) (v : Word)
  /-- DG_ABORT (R337): Abandons the message and keeps the context -/
  | dgAbort (fn : Fin 64) (h : Fin 16) (v : Word)
  /-- DG_CLOSE (R337): Releases the context or cancels the wait -/
  | dgClose (fn : Fin 64) (h : Fin 16) (v : Word)
  /-- DG_COMPARE (R342): Starts the constant-time comparison of the result with DG_EXPECT -/
  | dgCompare (fn : Fin 64) (h : Fin 16) (v : Word)
  /-- COMPARE_DONE (R342): After 64 cycles MATCH and CMP_DONE are set -/
  | compareDone (fn : Fin 64) (h : Fin 16)
  /-- DG_DATA (R340): Appends six bytes to the message -/
  | dgData (fn : Fin 64) (h : Fin 16) (v : Word)
  /-- DG_KEYMSG (R340): Appends a key slot's bytes to the message -/
  | dgKeymsg (fn : Fin 64) (h : Fin 16) (v : Word)
  /-- DG_LAST (R341): Appends the last bytes and starts the finish -/
  | dgLast (fn : Fin 64) (h : Fin 16) (v : Word)
  /-- DIGEST_FINISH_COMPLETE (R341): The finish completes; the digest appears or goes to a key slot -/
  | digestFinishComplete (fn : Fin 64) (h : Fin 16)
  /-- DG_EXPECT (R342): Appends six bytes to the expected digest -/
  | dgExpect (fn : Fin 64) (h : Fin 16) (v : Word)
  /-- KS_DATA (R345): Appends six bytes to the key buffer -/
  | ksData (fn : Fin 64) (v : Word)
  /-- KS_COMMIT (R345): Writes or empties a key slot from the buffer -/
  | ksCommit (fn : Fin 64) (v : Word)
  /-- COCOON_ACKNOWLEDGED (R356): Every write command of a cocoon has completed -/
  | cocoonAcknowledged (frame : Nat)
  /-- COMMIT_TIMEOUT (R358): A journal frame stays uncommitted past COMMIT_TIMEOUT_US; COMMIT_LATE is raised -/
  | commitTimeout
  /-- CHRYSALIS_WRITE_ACK (R363): Slot, manifest and map writes are acknowledged and the superblock is written -/
  | chrysalisWriteAck
  /-- CHRYSALIS_COMPLETE (R363): Every superblock write is acknowledged and old units and ring space are freed -/
  | chrysalisComplete
  /-- SSD_COMMAND_TIMEOUT (R367): An NVMe command times out after 2 s and the member fails -/
  | ssdCommandTimeout (p : Fin 4)
  /-- SSD_COMMAND_ERROR (R367): An NVMe command returns a media or internal error; the member fails -/
  | ssdCommandError (p : Fin 4)
  /-- SSD_LINK_DOWN (R367): A persist port's link goes down and its member fails -/
  | ssdLinkDown (p : Fin 4)
  /-- SMART_LOG_POLL (R365): Every 1 s the controller reads the error and SMART logs -/
  | smartLogPoll (p : Fin 4)
  /-- FORMAT (R384): PERSIST_CMD FORMAT lays out a fresh set at the next quiescent tick -/
  | format
  /-- CHRYSALIS_SOON (R384): Makes a chrysalis due -/
  | chrysalisSoon
  /-- KEY_READY (R384): Reports the journal key loaded, releasing a waiting restore or FORMAT -/
  | keyReady
  /-- RESTORE (R376): After bring-up reaches the persist controller, restore reads superblocks, map and manifest and reinstates state -/
  | restore (rd : RestoreRead)
  /-- KEY_READY_TIMEOUT (R380): KEY_READY is not written within 60 s; restore fails with RESTORE_KEY -/
  | keyReadyTimeout
  /-- COCOON_REPLAY (R377): A cocoon read during replay is checked and executed as its frame, or replay stops -/
  | cocoonReplay (bytes : List Byte)
  /-- SLOT_FETCH_COMPLETE (R378): A restored slot becomes resident, or is lost; waiting accesses retry -/
  | slotFetchComplete (slot : Nat) (data : Option (List Byte))
  /-- LIST_MESSAGE (R403): A LIST message arrives whole and is kept and forwarded -/
  | listMessage (hdr : MirrorHeader) (list : FrameList)
  /-- TICK_MESSAGE (R403): A TICK message arrives with heartbeat, digest and descriptor and placement records -/
  | tickMessage (hdr : MirrorHeader) (msg : TickPayload)
  /-- DATA_MESSAGE (R401): A DATA message of replicated host bytes arrives -/
  | dataMessage (hdr : MirrorHeader) (recs : List DataRecord)
  /-- ACK_MESSAGE (R404): An ACK arrives, extending the lease, advancing commit and carrying reset requests -/
  | ackMessage (hdr : MirrorHeader) (msg : AckPayload)
  /-- HEARTBEAT_MESSAGE (R406): A heartbeat block arrives on the mirror path or 10BASE-T1S -/
  | heartbeatMessage (t1s : Bool) (hb : Heartbeat)
  /-- FENCE_MESSAGE (R407): A FENCE from a neighbour declares it failed at once -/
  | fenceMessage (hb : Heartbeat) (reason : Nat)
  /-- JOIN_REQ (R417): A donor receives a join request and answers with JOIN_REPLY -/
  | joinReq (pos : Nat) (req : JoinRequest)
  /-- COPY_MESSAGE (R405): A joiner receives one slot, writes it and checks its CRC -/
  | copyMessage (slot : Nat) (data : List Byte) (crc : BitVec 64)
  /-- JOIN_STATE (R417): A joiner installs the donor's state at join tick J and becomes follower -/
  | joinState (frame : Nat) (st : JoinStatePayload)
  /-- JOIN_REPLY (R401): A joiner receives the donor's reply; non-zero ends the join -/
  | joinReply (code : Nat)
  /-- LINKACK (R400): A LINKACK advances the sender's acknowledged position -/
  | linkack (portB : Bool) (linkAck : BitVec 32)
  /-- FOLLOWER_TICK (R390): A follower's tick fires once its merge is done and TICK and LIST have arrived -/
  | followerTick (elapsedUs : Nat)
  /-- RETRANSMIT_TIMEOUT (R400): No LINK_ACK progress for 20 µs; frames are resent from LINK_ACK -/
  | retransmitTimeout (portB : Bool)
  /-- LINKACK_TIMER (R400): Every 5 µs an idle receiver sends LINKACK -/
  | linkackTimer (portB : Bool)
  /-- OVERRUN_HEARTBEAT_TIMER (R406): During an overrun a HEARTBEAT or T1S heartbeat is sent after its interval -/
  | overrunHeartbeatTimer (t1s : Bool)
  /-- PATH_SILENCE_TIMEOUT (R407): A path to a neighbour goes silent past its timeout -/
  | pathSilenceTimeout (down : Bool) (t1s : Bool)
  /-- JOIN_DRAIN_TIMEOUT (R417): No drained tick within JOIN_DRAIN_FRAMES; the join returns to step 3 -/
  | joinDrainTimeout
  /-- FORMING_HEARTBEAT_TIMER (R419): Every 1 ms a forming engine sends a ROLE 6 heartbeat -/
  | formingHeartbeatTimer
  /-- FORM_WAIT_EXPIRY (R419): FORM_WAIT_MS passes; a designated primary ranking first becomes sequencer alone -/
  | formWaitExpiry
  /-- MIRROR_CMD_JOIN (R417): Starts joining as the new tail -/
  | mirrorCmdJoin
  /-- MIRROR_CMD_DETACH (R413): The sequencer detaches its downstream neighbour -/
  | mirrorCmdDetach
  /-- MIRROR_CMD_FENCE (R413): The engine fences itself -/
  | mirrorCmdFence
  /-- MIRROR_CMD_FORM (R419): A forming engine becomes sequencer whatever its rank -/
  | mirrorCmdForm
  /-- POWER_ON (R434): VAUX rises; Moth starts and sequences power-up -/
  | powerOn
  /-- VIN_ON (R434): VIN rises above VIN_ON and soft start begins -/
  | vinOn
  /-- RAIL_UP_TIMEOUT (R434): A rail misses tolerance within 2 ms; power-up ends with RAIL_FAULT -/
  | railUpTimeout
  /-- POWERUP_RETRY_TIMER (R434): After 1 s a failed power-up retries from soft start -/
  | powerupRetryTimer
  /-- PWRGOOD (R434): PWRGOOD is asserted 1 ms after the last rail and bring-up begins -/
  | pwrgood
  /-- POWER_FAIL (R430): Rule 0, 1 or 2 asserts; the engine freezes, fences and waits for a Moth reset -/
  | powerFail (rule : Fin 3)
  /-- PF_RESTART_EXPIRY (R430): Conditions held for PF_RESTART_MS; Moth issues a module reset -/
  | pfRestartExpiry
  /-- VIN_OFF (R435): VIN falls below VIN_OFF after a power-fail event and power-down runs -/
  | vinOff
  /-- RAIL_FAULT (R428): Rule 3 asserts for a rail out of window -/
  | railFault (channel : Nat)
  /-- THERMAL_BAND (R436): Rule 4, 5 or 7 asserts or releases and the die band changes -/
  | thermalBand
  /-- THERMAL_TRIP (R437): Rule 6 or 9 asserts; power-fail and immediate power-down -/
  | thermalTrip (channel : Nat)
  /-- STACK_HOT (R428): Rule 8 asserts for a stack above 105 °C -/
  | stackHot (stack : Fin 12)
  /-- RULE_ASSERT (R429): A programmable rule asserts -/
  | ruleAssert (rule : Fin 64)
  /-- RULE_RELEASE (R429): A programmable rule releases -/
  | ruleRelease (rule : Fin 64)
  /-- RULE_WRITE (R429): A programmable rule is written and reset to released -/
  | ruleWrite (rule : Fin 64) (v : Word)
  /-- MOTH_CMD_DOZE (R438): Requests doze, or refuses it with a code -/
  | mothCmdDoze
  /-- DOZE_ENTRY (R439): At a committed quiescent tick doze entry shuts down SSDs, saves state and power-gates -/
  | dozeEntry
  /-- SSD_SHUTDOWN_TIMEOUT (R439): A member does not report shutdown within 1 s -/
  | ssdShutdownTimeout
  /-- DOZE_LINK_WAIT_EXPIRY (R439): The host link is not in L2/L3 Ready in time; doze is refused with code 3 -/
  | dozeLinkWaitExpiry
  /-- MOTH_CMD_WAKE (R440): Wakes the engine from doze -/
  | mothCmdWake
  /-- MOTH_CMD_RESTART (R437): Restarts the module after a thermal trip -/
  | mothCmdRestart
  /-- DOZE_TIMER_EXPIRY (R440): DOZE_TIMER_S elapses and the engine wakes -/
  | dozeTimerExpiry
  /-- WAKE_SCHEDULE (R441): The fixed 3 ms wake schedule runs to the first tick, or fails with WAKE_FAIL -/
  | wakeSchedule (ok : Bool) (dozeMs : Nat)
  /-- PERST_N_ASSERT (R473): PERST_N resets the module, or during doze wakes it -/
  | perstNAssert
  /-- MODULE_RESET (R475): Writing 0xD1CE causes a module reset after 10 µs -/
  | moduleReset (acc : RegAccess) (v : BitVec 64)
  /-- TRST_N (R473): Test reset resets the test logic only -/
  | trstN
  /-- BRINGUP_START (R476): Bring-up begins: PROFSEL sampled, die resets released, link training started -/
  | bringupStart (profsel : Fin 4)
  /-- FIRMWARE_VERIFY (R478): The boot ROM verifies the firmware banks and runs the valid one -/
  | firmwareVerify (a : FirmwareBank) (b : FirmwareBank)
  /-- MEMORY_TRAINING_COMPLETE (R243): Channel training ends; a failed channel stops bring-up -/
  | memoryTrainingComplete (failed : List (Fin 48))
  /-- STARTUP_SELFTEST_COMPLETE (R479): The start-up self-test finishes; a mismatch fences the engine -/
  | startupSelftestComplete (mismatch : List SelftestUnit)
  /-- SYS_REFCLK_LOSS (R498): SYS_REFCLK shows no edge for 1 µs; fatal fault and fence -/
  | sysRefclkLoss
  /-- PEX_REFCLK_LOSS (R498): PEX_REFCLK is lost and the host link goes down -/
  | pexRefclkLoss
  /-- MIR_REFCLK_LOSS (R498): MIR_REFCLK is lost and both mirror ports go down -/
  | mirRefclkLoss
  /-- AUX_CLK_LOSS (R498): AUX_CLK is lost; T1S stops and the time base moves to Moth's oscillator -/
  | auxClkLoss
  /-- AUX_CLK_RETURN (R498): AUX_CLK returns and the time base moves back without a step -/
  | auxClkReturn
  /-- HOST_LINK_TRAINING (R265): Host link training ends at a speed and width, or fails to x8 and raises HOST_LINK_FAIL -/
  | hostLinkTraining (speed : Nat) (width : Nat)
  /-- REFRESH_INTERVAL_EXPIRY (R240): A refresh interval ends and the channel's debt rises by one -/
  | refreshIntervalExpiry (c : Fin 48)
  /-- REFRESH_UNIT (R240): A refresh unit is issued when idle, at the limit, or in payback -/
  | refreshUnit (c : Fin 48) (idle : Bool)
  /-- MR4_READOUT (R241): Every 1 ms mode register 4 is read and band, debt and payback are updated -/
  | mr4Readout (stack : Fin 12) (readings : List Nat)
  /-- RECALIBRATION (R243): Every 8 ms a channel recalibrates its timing -/
  | recalibration (c : Fin 48)
  /-- SCRUB_VISIT (R238): The scrubber visits the next unit of a channel -/
  | scrubVisit (c : Fin 48) (o : EccOutcome)
  /-- SCRUB_LATE (R238): A scrub pass is not complete 24 h after it began -/
  | scrubLate (c : Fin 48)
  /-- MEMORY_READ_RETURN (R235): A line read returns clean, corrected or poisoned -/
  | memoryReadReturn (ma : Nat) (who : Requester) (bursts : List Nat)
  /-- WRITE_QUEUE_DRAIN (R232): A channel starts draining its write queue -/
  | writeQueueDrain (c : Fin 48)
  /-- PARTIAL_WRITE (R230): A read-correct-merge-write sequence for a partial line write -/
  | partialWrite (ma : Nat) (data : PartialData) (who : Requester)
  /-- VERIFY_SCAN_ROW (R211): Every 512 KMA cycles a bank row is compared with its shadow and rewritten if needed -/
  | verifyScanRow (b : Fin 24) (differs : Bool)
  /-- CACHE_ENABLE_WRITE (R259): Writing CACHE_ENABLE disables the cache with a drain or re-enables it -/
  | cacheEnableWrite (on : Bool)
  /-- CACHE_DRAIN_COMPLETE (R259): Every slice has drained and invalidated; CACHE_STATE reads 2 -/
  | cacheDrainComplete
  /-- HOLD_WRITE (R49): Setting or releasing HOLD suspends or resumes step 5 -/
  | holdWrite (on : Bool)
  /-- TIME_BASE_WRITE (R52): Sets the engine time base from the next tick -/
  | timeBaseWrite (v : Word)
  /-- BDP_READ_REQ (R460): A BDP read request is answered, segmented from a snapshot when long -/
  | bdpReadReq (f : BdpFrame)
  /-- BDP_WRITE_REQ (R461): A BDP write segment is collected and the whole value accepted or refused -/
  | bdpWriteReq (f : BdpFrame)
  /-- BDP_ABORT (R462): Abandons a segmented transfer -/
  | bdpAbort (f : BdpFrame)
  /-- BDP_FRAME_DROP (R458): A malformed or unaddressed BDP frame is dropped and counted -/
  | bdpFrameDrop (f : BdpFrame)
  /-- SEGMENT_TRANSFER_TIMEOUT (R462): A transfer with no segment for 100 ms is abandoned -/
  | segmentTransferTimeout (n : Nat)
  /-- EVENT_FRAME_SEND (R464): The next queued event record is sent as a frame, at most one per 200 µs -/
  | eventFrameSend
  /-- DW_READ (R467): Window request reading an object value -/
  | dwRead (slot : Fin 8) (irq : Bool)
  /-- DW_READ_SHADOW (R448): Window request reading the pending shadow value -/
  | dwReadShadow (slot : Fin 8) (irq : Bool)
  /-- DW_WRITE (R449): Window request writing an object -/
  | dwWrite (slot : Fin 8) (irq : Bool)
  /-- DW_REQUEST_DONE (R467): A window request finishes and optionally raises its vector -/
  | dwRequestDone (slot : Fin 8)
  /-- PROFILE_LOAD (R471): Starts a profile load that waits for a quiescent tick -/
  | profileLoad (p : Nat)
  /-- PROFILE_SAVE (R471): Writes the values in effect to a profile copy -/
  | profileSave (p : Nat)
  /-- PROFILE_DEFAULTS (R471): Writes every default to a profile copy -/
  | profileDefaults (p : Nat)
  /-- PROFILE_FLASH_WRITE_DONE (R471): A profile flash write completes or fails -/
  | profileFlashWriteDone (ok : Bool)
  /-- EXTEST (R499): TAP EXTEST takes effect and fences the engine -/
  | extest
  /-- IDCODE (R499): TAP IDCODE selects the identification register -/
  | idcode
  /-- SAMPLE_PRELOAD (R499): TAP SAMPLE/PRELOAD captures the boundary register -/
  | samplePreload (pins : BitVec 180) (preload : BitVec 180)
  /-- HIGHZ (R499): TAP HIGHZ floats outputs and fences the engine -/
  | highz
  /-- CLAMP (R499): TAP CLAMP holds outputs and fences the engine -/
  | clamp
  /-- EXTEST_PULSE (R499): TAP 1149.6 EXTEST_PULSE, fencing the engine -/
  | extestPulse
  /-- EXTEST_TRAIN (R499): TAP 1149.6 EXTEST_TRAIN, fencing the engine -/
  | extestTrain
  /-- BYPASS (R499): TAP BYPASS, also taken by every other opcode -/
  | bypass (opcode : BitVec 8)
  /-- TAP_RESET (R499): The TAP resets and selects IDCODE -/
  | tapReset
  /-- REGISTER_WRITE (R9): A write to a register without a row of its own stores its RW fields -/
  | registerWrite (fn : Fin 64) (win : Window) (off : Nat) (acc : RegAccess) (v : BitVec 64)
  /-- LINK_RETRY_LIMIT (R16): A die-to-die or hub link fails its retry limit, raising a fatal fault at die level that fences the engine -/
  | linkRetryLimit (link : DieLink)
  /-- HOST_READ_TIMEOUT (R328): A host read issued by the Mover times out, abandons its descriptor and pulses ERR with CAUSE 1 -/
  | hostReadTimeout (ch : Fin 32)
  /-- MSIX_UNMASK (R289): The host clears a vector mask or the function mask, and the message pending in the PBA is sent -/
  | msixUnmask (fn : Fin 64) (vec : Option (Fin 64))
  /-- PME_STATUS_CLEAR (R291): Software clears PME_Status, which stops the PME resends and releases WAKE_N -/
  | pmeStatusClear (fn : Fin 64)
  /-- PERST_N_DEASSERT (R440): PERST_N is deasserted, which wakes the engine from doze or lets host link training begin -/
  | perstNDeassert
  /-- MIRROR_PORT_LINK_CHANGE (R400): A mirror port's Ethernet link comes up or goes down, which updates LINK_STATE and restarts LINK_SEQ numbering -/
  | mirrorPortLinkChange (portB : Bool) (up : Bool)
  /-- MIRROR_FRAME_DROP (R398): A mirror port receives an Ethernet frame with the wrong SRC or DEST, a non-zero reserved field, an unexpected LINK_SEQ, or PAUSE or PFC, and drops it and counts it -/
  | mirrorFrameDrop (portB : Bool) (f : MirrorFrame)
  /-- SSD_READY (R441): An SSD reports CSTS.RDY and completes initialisation, which lets restore proceed or, after wake, lets entries with WRITE set be read again -/
  | ssdReady (p : Fin 4) (id : SsdIdentity)
  /-- SSD_READY_TIMEOUT (R383): An SSD fails to become ready in time, and its port is marked failed with FAIL_REASON 2 -/
  | ssdReadyTimeout (p : Fin 4)
  /-- SSD_SHUTDOWN_COMPLETE (R439): An SSD reports CSTS.SHST shutdown complete during doze entry, which lets entry proceed to the host link wait -/
  | ssdShutdownComplete (p : Fin 4)
  /-- CHANNEL_SAMPLE (R426): Moth takes one ADC sample of a channel and updates its median, its IIR value and the debounce counters of its rules -/
  | channelSample (ch : Fin 64) (raw : BitVec 12)
deriving DecidableEq, Repr

end Sys2Proof
end

