-- ==== Sys2Proof/Decode.lean ====
section
/-! DEFINITION. The commands that words spell. -/

namespace Sys2Proof

/-- No row of the opcode table gives bits to its command, so no word spells one. -/
def decodeTableWord (_nbits _w : Nat) : Option Instr := none

end Sys2Proof
end

