-- ==== Sys2Proof/Machine/Crypto.lean ====
section
/-! DEFINITION. The hash functions and checks the spec takes from their standards: CRC-64/XZ (R370), SHA-256, SHA-384 and
SHA-512 of FIPS 180-4, HMAC (R333 to R343) and HKDF (R355). -/

namespace Sys2Proof.Machine

/-! ### CRC-64/XZ -/

/-- One bit of the reflected CRC. -/
def crcBit (c : BitVec 64) : BitVec 64 :=
  if c.getLsbD 0 then (c >>> 1) ^^^ 0xC96C5795D7870F42 else c >>> 1

def crcByte (c : BitVec 64) (b : Byte) : BitVec 64 :=
  crcBit (crcBit (crcBit (crcBit (crcBit (crcBit (crcBit (crcBit (c ^^^ b.setWidth 64))))))))

/-- CRC-64/XZ of some bytes. -/
def crc64 (bs : List Byte) : Nat := (~~~(bs.foldl crcByte (BitVec.allOnes 64))).toNat

/-! ### SHA-2 -/

def shaK0 : List (BitVec 64) :=
  [
    0x428A2F98D728AE22, 0x7137449123EF65CD, 0xB5C0FBCFEC4D3B2F, 0xE9B5DBA58189DBBC,
    0x3956C25BF348B538, 0x59F111F1B605D019, 0x923F82A4AF194F9B, 0xAB1C5ED5DA6D8118,
    0xD807AA98A3030242, 0x12835B0145706FBE, 0x243185BE4EE4B28C, 0x550C7DC3D5FFB4E2,
    0x72BE5D74F27B896F, 0x80DEB1FE3B1696B1, 0x9BDC06A725C71235, 0xC19BF174CF692694 ]

def shaK1 : List (BitVec 64) :=
  [
    0xE49B69C19EF14AD2, 0xEFBE4786384F25E3, 0x0FC19DC68B8CD5B5, 0x240CA1CC77AC9C65,
    0x2DE92C6F592B0275, 0x4A7484AA6EA6E483, 0x5CB0A9DCBD41FBD4, 0x76F988DA831153B5,
    0x983E5152EE66DFAB, 0xA831C66D2DB43210, 0xB00327C898FB213F, 0xBF597FC7BEEF0EE4,
    0xC6E00BF33DA88FC2, 0xD5A79147930AA725, 0x06CA6351E003826F, 0x142929670A0E6E70 ]

def shaK2 : List (BitVec 64) :=
  [
    0x27B70A8546D22FFC, 0x2E1B21385C26C926, 0x4D2C6DFC5AC42AED, 0x53380D139D95B3DF,
    0x650A73548BAF63DE, 0x766A0ABB3C77B2A8, 0x81C2C92E47EDAEE6, 0x92722C851482353B,
    0xA2BFE8A14CF10364, 0xA81A664BBC423001, 0xC24B8B70D0F89791, 0xC76C51A30654BE30,
    0xD192E819D6EF5218, 0xD69906245565A910, 0xF40E35855771202A, 0x106AA07032BBD1B8 ]

def shaK3 : List (BitVec 64) :=
  [
    0x19A4C116B8D2D0C8, 0x1E376C085141AB53, 0x2748774CDF8EEB99, 0x34B0BCB5E19B48A8,
    0x391C0CB3C5C95A63, 0x4ED8AA4AE3418ACB, 0x5B9CCA4F7763E373, 0x682E6FF3D6B2B8A3,
    0x748F82EE5DEFB2FC, 0x78A5636F43172F60, 0x84C87814A1F0AB72, 0x8CC702081A6439EC,
    0x90BEFFFA23631E28, 0xA4506CEBDE82BDE9, 0xBEF9A3F7B2C67915, 0xC67178F2E372532B ]

def shaK4 : List (BitVec 64) :=
  [
    0xCA273ECEEA26619C, 0xD186B8C721C0C207, 0xEADA7DD6CDE0EB1E, 0xF57D4F7FEE6ED178,
    0x06F067AA72176FBA, 0x0A637DC5A2C898A6, 0x113F9804BEF90DAE, 0x1B710B35131C471B,
    0x28DB77F523047D84, 0x32CAAB7B40C72493, 0x3C9EBE0A15C9BEBC, 0x431D67C49C100D4C,
    0x4CC5D4BECB3E42B6, 0x597F299CFC657E2A, 0x5FCB6FAB3AD6FAEC, 0x6C44198C4A475817 ]

/-- The 80 round constants; those of SHA-256 are the high halves of the first 64. -/
def shaK : List (BitVec 64) := shaK0 ++ shaK1 ++ shaK2 ++ shaK3 ++ shaK4

def sha512Init : List (BitVec 64) :=
  [0x6A09E667F3BCC908, 0xBB67AE8584CAA73B, 0x3C6EF372FE94F82B, 0xA54FF53A5F1D36F1,
    0x510E527FADE682D1, 0x9B05688C2B3E6C1F, 0x1F83D9ABFB41BD6B, 0x5BE0CD19137E2179]

def sha384Init : List (BitVec 64) :=
  [0xCBBB9D5DC1059ED8, 0x629A292A367CD507, 0x9159015A3070DD17, 0x152FECD8F70E5939,
    0x67332667FFC00B31, 0x8EB44A8768581511, 0xDB0C2E0D64F98FA7, 0x47B5481DBEFA4FA4]

/-- Rotations and shifts of a SHA-2 function. -/
structure ShaParams (w : Nat) where
  s0 : Nat × Nat × Nat
  s1 : Nat × Nat × Nat
  b0 : Nat × Nat × Nat
  b1 : Nat × Nat × Nat
  k : List (BitVec w)

def sha256P : ShaParams 32 :=
  { s0 := (7, 18, 3), s1 := (17, 19, 10), b0 := (2, 13, 22), b1 := (6, 11, 25),
    k := (shaK.take 64).map fun (x : BitVec 64) => (x >>> 32).setWidth 32 }

def sha512P : ShaParams 64 :=
  { s0 := (1, 8, 7), s1 := (19, 61, 6), b0 := (28, 34, 39), b1 := (14, 18, 41), k := shaK }

/-- Two rotations and a shift. -/
def shaSmall {w : Nat} (p : Nat × Nat × Nat) (x : BitVec w) : BitVec w :=
  x.rotateRight p.1 ^^^ x.rotateRight p.2.1 ^^^ (x >>> p.2.2)

/-- Three rotations. -/
def shaBig {w : Nat} (p : Nat × Nat × Nat) (x : BitVec w) : BitVec w :=
  x.rotateRight p.1 ^^^ x.rotateRight p.2.1 ^^^ x.rotateRight p.2.2

/-- The message schedule from a window of the last 16 words: the words used by the coming rounds. -/
def shaSchedule {w : Nat} (p : ShaParams w) : Nat → List (BitVec w) → List (BitVec w)
  | 0, _ => []
  | n + 1, win =>
    let x := shaSmall p.s1 (win.getD 14 0) + win.getD 9 0 + shaSmall p.s0 (win.getD 1 0) + win.getD 0 0
    win.getD 0 0 :: shaSchedule p n (win.drop 1 ++ [x])

/-- One round on the eight working variables. -/
def shaRound {w : Nat} (p : ShaParams w) (v : List (BitVec w)) (x : BitVec w × BitVec w) : List (BitVec w) :=
  match v with
  | [a, b, c, d, e, f, g, h] =>
    let t1 := h + shaBig p.b1 e + ((e &&& f) ^^^ (~~~e &&& g)) + x.1 + x.2
    let t2 := shaBig p.b0 a + ((a &&& b) ^^^ (a &&& c) ^^^ (b &&& c))
    [t1 + t2, a, b, c, d + t1, e, f, g]
  | l => l

/-- Big-endian number of some bytes. -/
def beNat (bs : List Byte) : Nat := bs.foldl (fun v b => 256 * v + b.toNat) 0

/-- The n bytes of a number, most significant first. -/
def beBytes (n v : Nat) : List Byte := (List.range n).map fun i => BitVec.ofNat 8 (v >>> (8 * (n - 1 - i)))

/-- The words of a block. -/
def shaWords (w : Nat) (bs : List Byte) : List (BitVec w) :=
  (List.range 16).map fun i => BitVec.ofNat w (beNat ((bs.drop (i * (w / 8))).take (w / 8)))

def shaBlock {w : Nat} (p : ShaParams w) (h : List (BitVec w)) (bs : List Byte) : List (BitVec w) :=
  let ws := shaSchedule p p.k.length (shaWords w bs)
  ((p.k.zip ws).foldl (shaRound p) h).zipWith (· + ·) h

/-- Whole blocks of a padded message. -/
def shaBlocks {w : Nat} (p : ShaParams w) : Nat → List (BitVec w) → List Byte → List (BitVec w)
  | 0, h, _ => h
  | n + 1, h, bs => shaBlocks p n (shaBlock p h (bs.take (2 * w))) (bs.drop (2 * w))

/-- A message with its padding: a one bit, zeros, and the bit length. -/
def shaPad (w : Nat) (bs : List Byte) : List Byte :=
  let block := 2 * w
  let lenBytes := w / 4
  let z := (block - (bs.length + 1 + lenBytes) % block) % block
  bs ++ (0x80 : Byte) :: List.replicate z 0 ++ beBytes lenBytes (8 * bs.length)

def sha2 {w : Nat} (p : ShaParams w) (init : List (BitVec w)) (out : Nat) (bs : List Byte) : List Byte :=
  let m := shaPad w bs
  ((shaBlocks p (m.length / (2 * w)) init m).flatMap fun x => beBytes (w / 8) x.toNat).take out

def sha256 (bs : List Byte) : List Byte :=
  sha2 sha256P (sha512Init.map fun (x : BitVec 64) => (x >>> 32).setWidth 32) 32 bs
def sha384 (bs : List Byte) : List Byte := sha2 sha512P sha384Init 48 bs
def sha512 (bs : List Byte) : List Byte := sha2 sha512P sha512Init 64 bs

/-! ### HMAC and HKDF -/

/-- HMAC over a hash of some block size. -/
def hmac (h : List Byte → List Byte) (block : Nat) (key msg : List Byte) : List Byte :=
  let k0 := if block < key.length then h key else key
  let k := k0 ++ List.replicate (block - k0.length) 0
  h ((k.map (· ^^^ (0x5C : Byte))) ++ h ((k.map (· ^^^ (0x36 : Byte))) ++ msg))

def hmac256 (key msg : List Byte) : List Byte := hmac sha256 64 key msg

/-- HKDF of RFC 5869 with HMAC-SHA-256, for one output block of 32 bytes. -/
def hkdf256 (salt ikm info : List Byte) : List Byte :=
  let salt := if salt.isEmpty then List.replicate 32 0 else salt
  hmac256 (hmac256 salt ikm) (info ++ [1])

end Sys2Proof.Machine
end

