-- ==== Sys2Proof/Config.lean ====
section
/-! DEFINITION. The free values: what the spec leaves open, as constants no proof can see through. Device data the spec
does not print (R355, R387, R422, R456, R478) are the model's own constants: DESIGN CHOICE, assumption 35. -/

namespace Sys2Proof

/-- A physical upset of a memory cell (R210, R212, R235, R261). -/
inductive Upset where
  | none
  /-- symbols of a DRAM burst, by its module address -/
  | dram (burst symbols : Nat)
  /-- a CAM cell of a POSITION: bit, the complementary cell of the pair, and whether it is stuck from now on -/
  | cam (pos bit : Nat) (pair stuck : Bool)
  /-- bits of an SRAM word of an entry of the array -/
  | kmaSram (pos word bits : Nat)
  /-- a word of a cached line, one bit or more -/
  | cacheData (ma word : Nat) (more : Bool)
  /-- the tag or state of a cached line -/
  | cacheTag (ma : Nat)
deriving DecidableEq, Repr, Inhabited

end Sys2Proof

namespace Sys2Proof.Config

/-- A value the spec leaves open, the n-th one a run draws (State.free counts them; DESIGN CHOICE,
assumption 34). -/
opaque freeNat : Nat → Nat

/-- The check field of a 64-byte burst (R235): the spec gives the distance of the code and not the code. -/
opaque eccField : List Byte → BitVec 16

/-- The bank, rank included, that follows the bank of the previous line of a channel, as a step of 1 to 31 less 1 (R226); and the
bank of the header of a group. -/
opaque bankStep : Nat → Nat

opaque headerBank : Nat → Nat

/-- What the idle time between two commands does to the cells, the n-th time it passes. -/
opaque upset : Nat → Upset

/-- The emulation library in a firmware image: the words of the trap region (R165). -/
opaque library : List Byte → List Word

/-- Device data the spec does not give: the module serial number (R456). -/
opaque serial : BitVec 48

/-- The time of final test (R456). -/
opaque built : BitVec 48

/-- The address of the 10BASE-T1S port (R456). -/
opaque t1sMac : BitVec 48

/-- MAC addresses of the mirror ports (R387, R422). -/
opaque macA : BitVec 48

opaque macB : BitVec 48

/-- The OTP root key (R355). -/
opaque otpRoot : List Byte

/-- KEY_DIGEST and ROLLBACK_MIN of the OTP (R478). -/
opaque keyDigest : List Byte

opaque rollbackMin : Nat

/-- Whether an ECDSA P-384 signature verifies: public key, message, signature (R478). -/
opaque ecdsaVerify : List Byte → List Byte → List Byte → Bool

end Sys2Proof.Config
end

