-- ==== Sys2Proof/Machine/MoverState.lean ====
section
/-! DEFINITION. The state of the Mover (R312 to R331). -/

namespace Sys2Proof.Machine

/-- A descriptor (R313) as fetched. `ma` is where it lies, 0 for one of the engine's own; `entry` is the work-table slot of the
entry whose Carafe it carries. -/
structure MoverDesc where
  ma : Nat
  next : Nat
  srcSpace : Nat
  dstSpace : Nat
  evtRd : Bool
  evtWr : Bool
  ro : Bool
  src : Nat
  dst : Nat
  len : Nat
  inst : Nat
  tag : Nat
  entry : Option Nat
deriving DecidableEq, Repr

/-- A chain head in an append queue (R316): the module address of a descriptor, or a descriptor an engine unit hands over. -/
inductive ChainHead where
  | ma (a : Nat)
  | own (d : MoverDesc)
deriving DecidableEq, Repr

/-- A burst whose read has been issued (R317): its offset in the descriptor and its length. -/
structure Burst where
  off : Nat
  len : Nat
deriving DecidableEq, Repr

/-- Where the writes of the current descriptor go (R324, R325). -/
inductive WriteMode where
  | leave | hold | lose
deriving DecidableEq, Repr

/-- The kinds of a pulse of the Event Matrix (R320). -/
inductive PulseKind where
  | rd | wr | err
deriving DecidableEq, Repr

/-- A pulse of the Event Matrix: its line, its kind and the TAG of its descriptor (R320). -/
structure Pulse where
  line : Nat
  kind : PulseKind
  tag : Nat
deriving DecidableEq, Repr

/-- A host write that waits for its function (R266): where it goes, and the channel and descriptor of one that lies in the Mover's hold
store (R324), with `last` on the burst after which WR is due. -/
structure HeldWrite where
  inst : Nat
  addr : Nat
  bytes : List Byte
  relaxed : Bool
  mover : Option (Nat × MoverDesc)
  last : Bool
deriving DecidableEq, Repr

/-- One channel: CH_CTRL, the queue, the descriptor in progress, and the registers of R330. -/
structure MvChannel where
  share : Nat
  burst : Nat
  prio : Nat
  pause : Bool
  disable : Bool
  queue : List ChainHead
  /-- what the channel goes on with: NEXT of the chain in progress, or the head of the next one, taken when the descriptor that ends
  the chain is fetched (R316) -/
  next : Option ChainHead
  cur : Option MoverDesc
  mode : WriteMode
  curReg : Nat
  remain : Nat
  inflight : List Burst
  /-- the pacing interval of the last burst has passed (R319) -/
  paced : Bool
  errTag : Nat
  errValid : Bool
  errCause : Nat
  errCount : Nat
  errDesc : Nat
  bytes : Nat
deriving DecidableEq, Repr

/-- The Mover: channels, the channel that last started a burst at each priority, its counters, the pulses raised, and the
instruction stores and unit ports it has written (space, address, bytes). -/
structure Mover where
  channels : Vector MvChannel 32
  lastAt : Vector Nat 8
  holdLost : Nat
  /-- ERR pulses counted by Moth (R320) -/
  errPulses : Nat
  /-- pulses of the Event Matrix, most recent last (R320) -/
  pulses : List Pulse
  /-- bytes accepted by unit ports, most recent last -/
  ports : List (Nat × List Byte)
deriving DecidableEq, Repr

end Sys2Proof.Machine
end

