-- ==== Sys2Proof/Machine/TileState.lean ====
section
/-! DEFINITION. The state of the tiles (R136, R166), of the pipeline images (R103 to R109), of the work table (R34) and of
the Key Match Array (R189 to R194). -/

namespace Sys2Proof.Machine

/-- An operator record of an image (R107). -/
structure ImageOp where
  kind : Nat
  flags : Nat
  inA : Nat
  inB : Nat
  stage : Nat
  cycles : Nat
  arg1 : Nat
  arg2 : Nat
  arg3 : Nat
  arg4 : Nat
deriving DecidableEq, Repr

/-- A stage record of an image (R106). -/
structure ImageStage where
  mask : BitVec 64
  entryPc : Nat
deriving DecidableEq, Repr

/-- A pipeline image: the engine's own copy of its bytes (R103) and its tables (R104 to R109). -/
structure Image where
  bytes : List Byte
  writes : Bool
  maxGap : Nat
  sets : List (Nat × Bool)
  stages : List ImageStage
  ops : List ImageOp
  constSp : Nat
  consts : List Word
  code : List Word
deriving DecidableEq, Repr

/-- The trap registers and the private registers of trap mode (R166). They exist only in trap mode. -/
structure TrapRegs where
  /-- status the entry takes if the handler ends it (R164); of a DECODE trap the one R91 assigns -/
  status : Nat
  tpc : BitVec 14
  tcause : BitVec 8
  tinst : Word
  taddr : Word
  tinfo : Word
  ta : Vector Word 8
  td : Vector Quad 4
deriving DecidableEq, Repr

/-- A unit result still on its way (R152): the scratchpad region it will write and the words it will write there. -/
structure Pending where
  first : Nat
  len : Nat
  words : List (Nat × Word)
  /-- true for a Carafe, whose words stay pending until the Mover has read them (R181) -/
  carafe : Bool
deriving DecidableEq, Repr

/-- A group of a local aggregate table (R125): its key and the rows folded into it, in order, each with its source words and their
validity. Its words are those rows applied to a new group (R203). -/
structure Group where
  key : DWord
  rows : List (Quad × BitVec 4)
deriving DecidableEq, Repr

/-- The local table of one AGGREGATE on one tile (R125), its groups in order of creation. -/
structure LocalTable where
  op : Nat
  groups : List Group
deriving DecidableEq, Repr

/-- The architectural state of a tile for one stage of one entry (R136). -/
structure Ctx where
  slot : Nat
  stage : Nat
  rank : Nat
  tiles : Nat
  a : Vector Word 16
  d : Vector Quad 32
  x : Vector XQuad 8
  /-- K1 to K3; K0 is fixed at 0b1111 -/
  k : Vector (BitVec 4) 3
  fl : BitVec 16
  xs : BitVec 4
  lx : BitVec 8
  pc : BitVec 14
  sp : Sparse 48
  code : List Word
  trap : Option TrapRegs
  /-- the slot a demand-restore wait is for (R162) -/
  waiting : Option Nat
  pending : List Pending
  locals : List LocalTable
  /-- iterations that a block repeat ran before a demand-restore wait in its present execution (R153) -/
  ran : Nat
  /-- beat counter at the quota point before the current step (R507) -/
  qpos : Nat
  /-- row after the last one that the chunks of a PROBE took in the present batch, by operator (R123, R217) -/
  probed : List (Nat × Nat)
  /-- merge records the current step may still issue (R159) -/
  allowed : Nat
  /-- the step is a CHECKED PROJECT, tested at the end of its batch (R121) -/
  checked : Bool
deriving DecidableEq, Repr

/-- What a merge record does (R201 to R205, R57). -/
inductive RecordKind where
  /-- an insert (R201), or a dictionary insert when the table is a dictionary index (R204) -/
  | insert (key : DWord) (prio : Nat) (payload : Quad)
  /-- an AGGREGATE update (R203): source words and their validity bits -/
  | update (key : DWord) (src : Quad) (valid : BitVec 4)
  /-- an evicted or flushed local group (R125) -/
  | group (g : Group)
  /-- a segment header change (R57): ROW_COUNT and USED_LINES of the segment in a slot -/
  | header (slot : Nat) (rowsAdded : Nat) (usedLines : Nat)
deriving DecidableEq, Repr

/-- A merge record of the frame (R39): the entry and operator that issued it, and what it does. -/
structure MergeRecord where
  slot : Nat
  op : Nat
  kind : RecordKind
deriving DecidableEq, Repr

/-- One tile: the contexts of the entries mapped to it in the order of R33 (the head is the one it runs), the counters of
R30, and its merge records of the frame in issue order. -/
structure Tile where
  ctxs : List Ctx
  beats : Nat
  records : Nat
  yielded : Bool
  /-- entries whose part this tile finished in the frame, with the counter at their last quota point (R117) -/
  ran : List (Nat × Nat)
  merge : List MergeRecord
  /-- self-test (R414): parts due and not run, parts of the current kernel passed in order, frames since the last complete kernel,
  and whether it was found late -/
  selfDue : List Nat
  selfPart : Nat
  selfAge : Nat
  selfLate : Bool
deriving DecidableEq, Repr

/-- A failure of an entry in the current frame (R507). -/
structure Failure where
  pos : Nat
  tile : Nat
  status : Nat
  detail : Nat
deriving DecidableEq, Repr

/-- A sorted run of a SORT (R127): the operator, the second-pass round, the rank and run that wrote it, its first byte in the first
half of RUN_SEL, and its elements. -/
structure SortRun where
  op : Nat
  round : Nat
  rank : Nat
  run : Nat
  byte : Nat
  count : Nat
deriving DecidableEq, Repr

/-- Progress of the merge passes of a SORT (R127): the half that holds the input of this pass; the runs still to merge, the first
eight being merged, each by its next byte and the elements left; the elements written in this pass, and those of the run being
written; the runs of the next pass; and the elements delivered. -/
structure SortState where
  op : Nat
  half : Nat
  src : List (Nat × Nat)
  written : Nat
  cur : Nat
  next : List (Nat × Nat)
  delivered : Nat
deriving DecidableEq, Repr

/-- Progress and outcome of a codec job (R94 to R102). -/
structure CodecJob where
  /-- the unit it holds -/
  unit : Option (Fin 4)
  done : Bool
  status : Nat
  flags : Nat
  consumed : Nat
  produced : Nat
  values : Nat
  trailing : Nat
  blocks : Nat
  /-- segment headers the job writes, as merge records of its frame (R101): slot and the 64 bytes -/
  headers : List (Nat × List Byte)
  written : Bool
deriving DecidableEq, Repr

/-- An entry of the work table (R34, R113), or a listed entry that takes no slot (`slot` 0xFFFF). -/
structure WorkEntry where
  slot : Nat
  frame : Nat
  pos : Nat
  inst : Nat
  /-- submission ring, or `none` for an entry that came in a list or a cocoon -/
  ring : Option Nat
  sqIndex : Nat
  /-- ring and number of the batch it belongs to (R287) -/
  batch : Option (Nat × Nat)
  /-- the completion ring that holds its place (R278) -/
  cq : Nat
  refuse : Nat
  entry : BitVec 512
  desc : BitVec 512
  image : Option Image
  /-- replicated or staged input bytes of a modifying CODEC or TABLE entry (R350) -/
  input : List Byte
  begun : Bool
  stage : Nat
  /-- the stage has begun on its tiles -/
  active : Bool
  /-- second-pass round, 0 in the first pass (R217) -/
  round : Nat
  /-- tiles that have finished the current stage -/
  done : List Nat
  fail : Option Failure
  /-- status that replaces OK at release: CARAFE_LOST or HOLD_OVERFLOW (R508) -/
  late : Nat
  /-- ended by a reset record: it has no completion (R307) -/
  silent : Bool
  carafes : Nat
  /-- Carafes closed by each tile (R130) -/
  seqs : List (Nat × Nat)
  /-- Carafes handed off in this frame: counter at the quota point, tile, CRC (R117, R411) -/
  out : List (Nat × Nat × Nat)
  /-- next free line of the rank part of an EMIT to a work span (R128): operator, rank, span offset -/
  cursors : List (Nat × Nat × Nat)
  runs : List SortRun
  sorts : List SortState
  job : Option CodecJob
  /-- frame in which it finished, with its final status and DETAIL -/
  finished : Option (Nat × Nat × Nat)
deriving DecidableEq, Repr

/-- An entry of the array (R191), listed by POSITION only while VALID. -/
structure KmaEntry where
  inst : Nat
  tag : Nat
  key : DWord
  prio : Nat
  payload : Quad
deriving DecidableEq, Repr

/-- A KMA table (R192, R193). -/
structure KmaTable where
  inst : Nat
  tag : Nat
  ordered : Bool
  unique : Bool
  dict : Bool
  dictId : Nat
  bankset : Nat
  nb : Nat
  perBank : Nat
  span : List Nat
  /-- extents taken: bank and extent number -/
  extents : List (Nat × Nat)
  limit : Nat
  charge : Nat
  /-- SPILL_SEL of a temporary table, 0 for none, and whether the write set of its image lists it (R214) -/
  spillSel : Nat
  spillListed : Bool
  /-- frame and list position of the entry a temporary table belongs to -/
  owner : Nat × Nat
  /-- partitions spilled, and those taken by rounds so far (R215, R217) -/
  spilled : List Nat
  taken : List Nat
  inRound : List Nat
  /-- its rounds have ended with a spilled set (R218) -/
  ended : Bool
  rebalances : Nat
deriving DecidableEq, Repr

/-- The CAM cells of a row (R210): every CAM bit, [117:0] of R191, is a pair of complementary cells; a stuck cell keeps its value
whatever is written. -/
structure CamRow where
  cell : BitVec 118
  pair : BitVec 118
  stuckCell : BitVec 118
  stuckPair : BitVec 118
deriving DecidableEq, Repr

/-- The Key Match Array. -/
structure Kma where
  /-- valid entries by POSITION, rising: the ECC-protected SRAM, which holds PRIO, the payload and the shadow copy of the CAM part
  (R191) -/
  entries : List (Nat × KmaEntry)
  /-- rows whose CAM cells are not what the shadow copy holds, or have a stuck cell, by POSITION; the cells of every other row
  hold the shadow copy and its complement (R210) -/
  cam : List (Nat × CamRow)
  /-- SRAM words in error: POSITION, word 0 to 6 of the entry, bits in error (R212) -/
  sram : List (Nat × Nat × Nat)
  poisoned : List Nat
  tables : List KmaTable
  /-- rewrites per row since reset, by POSITION (R211) -/
  rewrites : List (Nat × Nat)
  /-- next row of the verify scan of each bank -/
  scanRow : Vector Nat 24
  verifyDiscards : Nat
  scanRewrites : Nat
  rebalances : Nat
  eccCorrected : Nat
  spills : Nat
  /-- PERSIST_BASE in effect since the reset (R223) -/
  persistBase : Nat
deriving DecidableEq, Repr

/-- Module memory (R53): its bytes, the residency bits, and the lines that read uncorrectable (R236). -/
structure Memory where
  bytes : Sparse 8
  /-- residency of a slot not listed in `flipped` -/
  allResident : Bool
  /-- slots whose residency differs from `allResident` -/
  flipped : List Nat
  /-- line addresses that are uncorrectable -/
  poisoned : List Nat
  /-- slots restore has lost (R378) -/
  lost : List Nat
  /-- slots stored to since the last chrysalis start (R362) -/
  dirty : List Nat
  /-- accesses per slot (R374) -/
  heat : List (Nat × Nat)
deriving DecidableEq, Repr

end Sys2Proof.Machine
end

