-- ==== Sys2Proof/Machine/HostState.lean ====
section
/-! DEFINITION. The state of the host interface: rings (R271 to R278), functions (R266, R288 to R291), instances (R295, R301,
R311), the frame sequencer (R23 to R52) and the object dictionary (R445 to R454). -/

namespace Sys2Proof.Machine

/-- A posted host access as it leaves the engine (R267). -/
inductive HostWrite where
  | data (inst : Nat) (addr : Nat) (bytes : List Byte) (relaxed : Bool)
  /-- an MSI-X message of a vector: address in the low 64 bits, data above (R288) -/
  | msix (inst : Nat) (vector : Nat) (message : BitVec 96)
  | pme (inst : Nat)
deriving DecidableEq, Repr

/-- A submission entry the front end has read and not yet listed (R277). -/
structure ReadEntry where
  index : Nat
  entry : BitVec 512
  desc : BitVec 512
  image : Option Image
  /-- status of R282, R110 or R298 when it will be listed refused, else 0 -/
  refuse : Nat
  /-- its image has still to be read -/
  waitsImage : Bool
deriving DecidableEq, Repr

/-- The four context words of a ring (R273, R274). -/
structure RingWords where
  base : Word
  idx : Word
  hi : Word
  config : Word
deriving DecidableEq, Repr

/-- A submission ring (R273). -/
structure SqRing where
  written : RingWords
  inEffect : RingWords
  /-- context words written and waiting for a tick -/
  pending : BitVec 4
  state : Nat
  error : Nat
  listed : Nat
  producer : BitVec 32
  consumer : BitVec 32
  /-- index of the next entry to read -/
  readPos : BitVec 32
  /-- index-block reads asked for and not returned (R276) -/
  reading : Nat
  /-- it is the read of the enable (R275) -/
  enabling : Bool
  entries : List ReadEntry
  cur : Int
  /-- number and members so far of the batch being listed (R287) -/
  batchNo : Nat
  batchLen : Nat
deriving DecidableEq, Repr

/-- A completion entry to be written, and whether it counts toward interrupts (R285, R289). -/
structure Completion where
  inst : Nat
  cq : Nat
  bytes : BitVec 256
  /-- frame in which the covered entry finished -/
  frame : Nat
  counts : Bool
  /-- places of R278 that it gives back when it is written -/
  places : Nat
deriving DecidableEq, Repr

/-- A completion ring (R274). -/
structure CqRing where
  written : RingWords
  inEffect : RingWords
  pending : BitVec 4
  state : Nat
  error : Nat
  count : Nat
  producer : BitVec 32
  consumer : BitVec 32
  /-- index-block reads asked for and not returned (R276) -/
  reading : Nat
  enabling : Bool
  reserved : Nat
  irqCount : Nat
  irqHeld : Bool
  timer : Bool
  /-- the timer ran out before any completion it counts was published (R267) -/
  timedOut : Bool
  /-- entries written and not yet published, in a chain (R392): frame, and whether it counts toward interrupts -/
  unpublished : List (Nat × Bool)
  /-- completions released while host access is held (R290) -/
  kept : List Completion
deriving DecidableEq, Repr

/-- One released member of a batch (R287). -/
structure BatchMember where
  pos : Nat
  seq : BitVec 48
  status : Nat
  frame : Nat
  refused : Bool
  durable : Bool
  /-- ended by a reset record: it has no completion (R307) -/
  silent : Bool
  /-- space its image holds in the image store until the batch is released (R279) -/
  imageLen : Nat
deriving DecidableEq, Repr

/-- A batch of a submission ring that has not been completed (R287). -/
structure Batch where
  ring : Nat
  no : Nat
  inst : Nat
  cq : Nat
  /-- members in the batch, 0 while it is open -/
  size : Nat
  /-- ring index of its first member -/
  first : Nat
  noIrq : Bool
  members : List BatchMember
deriving DecidableEq, Repr

/-- One PCI Express function (R264, R266, R288 to R291). -/
structure Function where
  d3hot : Bool
  busMaster : Bool
  /-- Enable Relaxed Ordering (R264, R313) -/
  relaxed : Bool
  /-- codes of the payload and read-request sizes the host programs (R264) -/
  maxPayload : BitVec 3
  maxRead : BitVec 3
  msixEnable : Bool
  pmeEn : Bool
  pmeStatus : Bool
  functionMask : Bool
  vectorMask : BitVec 64
  pba : BitVec 64
  /-- MSI-X table: address and data of each vector -/
  msixTable : Sparse 96
  /-- other words of its configuration space as last written, by offset; Advanced Error Reporting among them (R264) -/
  config : Sparse 32
deriving DecidableEq, Repr

/-- The mailbox of an instance (R301). -/
structure Mailbox where
  outMsg : BitVec 512
  inMsg : BitVec 512
  outFull : Bool
  inFull : Bool
  outReject : Bool
  inIrqEn : Bool
  inVector : BitVec 6
deriving DecidableEq, Repr

/-- One instance (R295, R311). -/
structure Instance where
  mailbox : Mailbox
  resetState : Nat
  resets : Nat
  squashed : Nat
  /-- the reset in progress was requested at the function of this engine (R306, R311) -/
  hostReset : Bool
  overloadFrames : Nat
  overloadAge : Nat
deriving DecidableEq, Repr

/-- A descriptor change waiting for its tick (R71, R453): entry slot, none once its entry has been squashed, instance, selector,
descriptor. -/
structure DescChange where
  slot : Option Nat
  inst : Nat
  selector : Nat
  descriptor : BitVec 192
deriving DecidableEq, Repr

/-- The host endpoint and the work-queue front end. -/
structure HostSide where
  link : Sys2Proof.LinkState
  linkSpeed : Nat
  linkWidth : Nat
  sq : List (Nat × SqRing)
  cq : List (Nat × CqRing)
  batches : List Batch
  fns : Vector Function 64
  insts : Vector Instance 64
  vfEnable : Bool
  numVfs : Nat
  /-- valid segment descriptors, keyed 4096 × instance + selector (R67) -/
  descs : List (Nat × BitVec 192)
  changes : List DescChange
  doorbellsIgnored : Nat
  ringErrors : Nat
  listed : Nat
  refused : Nat
  irqHeldCount : Nat
  /-- host writes and messages sent, in order -/
  sent : List HostWrite
  /-- messages of vectors named by an object or the mailbox, held under R290: instance and vector -/
  heldMsgs : List (Nat × Nat)
  /-- host writes that wait for their function, in their original order, and in them the place of each completion kept meanwhile: its
  ring (R266, R290) -/
  heldWrites : List (HeldWrite ⊕ Nat)
deriving DecidableEq, Repr

/-- The frame header of an admission list (R44). -/
structure FrameHeader where
  frameNo : Nat
  tstamp : Word
  periodUs : Nat
  quota : Nat
  mergeAllow : Nat
  entryCount : Nat
  config : Bool
  quiescent : Bool
deriving DecidableEq, Repr

/-- A list record with what its entry names (R284): a reset record has `reset` set (R305). -/
structure ListRecord where
  ring : Nat
  inst : Nat
  refuse : Nat
  slot : Nat
  sqIndex : Nat
  entry : BitVec 512
  desc : BitVec 512
  image : Option Image
  input : List Byte
  reset : Bool
  batch : Option (Nat × Nat)
  /-- the completion ring of its ring when it was listed (R275, R278) -/
  cq : Nat
deriving DecidableEq, Repr

/-- An admission list (R284). -/
structure AdmissionList where
  header : FrameHeader
  records : List ListRecord
deriving DecidableEq, Repr

/-- The sums and counts of the frame-state digest (R411). -/
structure Sums where
  wsum : Nat
  wcount : Nat
  msum : Nat
  mcount : Nat
  osum : Nat
  ocount : Nat
deriving DecidableEq, Repr

/-- The frame sequencer (R23 to R52). -/
structure Frame where
  frameNo : Nat
  /-- header of the frame being executed -/
  header : FrameHeader
  /-- the list of the next frame -/
  next : AdmissionList
  timerExpired : Bool
  /-- the tiles' records are merged, and table commands and descriptor changes of the frame follow (R220, R298) -/
  merging : Bool
  mergeDone : Bool
  /-- the timer of this frame expired before its merge was complete -/
  overran : Bool
  consecutive : Nat
  alarmed : Bool
  overrunCount : Nat
  overrunMax : Nat
  timeBase : Word
  /-- microseconds left of the last whole millisecond of TIME_BASE -/
  timeFraction : Nat
  /-- a write of TIME_BASE in this frame: a free value, from which the part of the frame that had passed then follows -/
  timeWritten : Option Nat
  sums : Sums
  /-- digest D_k of the last tick (R411) -/
  digest : List Byte
  /-- squashes whose drains run (R307): the instance, and whether step 4 of the tick after it has freed its slots (R309) -/
  squashing : List (Nat × Bool)
deriving DecidableEq, Repr

/-- The object dictionary: values of writable objects that differ from their defaults, and the two shadow sets (R47). Keys
are 256 × index + subindex; values are the little-endian numbers of R445. -/
structure Dict where
  vals : List (Nat × Nat)
  shadow : List (Nat × Nat)
  resetShadow : List (Nat × Nat)
  refusals : Nat
  refuseCode : Nat
  refuseFrame : Nat
  refuseMask : Nat
deriving DecidableEq, Repr

end Sys2Proof.Machine
end

