-- ==== Sys2Proof/Machine/BootState.lean ====
section
/-! DEFINITION. The state of bring-up (R473 to R482), the dictionary paths (R457 to R471), the pins (R487 to R490) and the TAP
(R499, R500). -/

namespace Sys2Proof.Machine

/-- Bring-up and the boot registers (R475, R476). -/
structure Boot where
  stage : Nat
  code : Nat
  bank : Nat
  cause : Nat
  profsel : Nat
  /-- running firmware: header and body, retained for the wake check (R478) -/
  firmware : Option Sys2Proof.FirmwareBank
  /-- the trap region of every tile, indices 0x3C00 to 0x3FFF: the emulation library of the running firmware (R165) -/
  library : List Word
  trained : Bool
  tested : Bool
deriving DecidableEq, Repr

/-- A request slot of the dictionary window (R467). -/
structure DwSlot where
  req : Word
  irq : Bool
  resultLen : Nat
  error : Nat
  state : Nat
  vector : BitVec 6
  /-- bytes of the value buffer that are not zero -/
  buffer : Sparse 8
deriving DecidableEq, Repr

/-- A segmented BDP transfer (R460 to R462): the requester and its key, and the bytes of the snapshot or those collected. -/
structure BdpTransfer where
  src : BitVec 48
  transId : Nat
  index : Nat
  sub : Nat
  write : Bool
  total : Nat
  bytes : List Byte
  /-- next offset expected -/
  next : Nat
deriving DecidableEq, Repr

/-- A BDP frame sent (R457, R459). -/
structure BdpReply where
  dest : BitVec 48
  type : Nat
  more : Bool
  shadow : Bool
  transId : Nat
  index : Nat
  sub : Nat
  dataType : Nat
  error : Nat
  body : List Byte
deriving DecidableEq, Repr

/-- The BDP port (R456 to R465). -/
structure Bdp where
  transfers : List BdpTransfer
  /-- abandoned transfers whose next request fails, and with which error (R462) -/
  abandoned : List ((BitVec 48 × Nat × Nat × Nat) × Nat)
  /-- last request executed and its response, for the 16 most recent requesters, newest first -/
  kept : List (BitVec 48 × Sys2Proof.BdpFrame × List BdpReply)
  requests : Nat
  errors : Nat
  dropped : Nat
  sent : List BdpReply
deriving DecidableEq, Repr

/-- One copy of a profile in the configuration flash (R469); a copy that is not valid is `none` in `Profiles.copies`. -/
structure ProfileCopy where
  generation : Nat
  /-- 256 × index + subindex and value, ascending -/
  records : List (Nat × Nat)
deriving DecidableEq, Repr

/-- The profiles (R468 to R471). -/
structure Profiles where
  /-- copies by 2 × profile + copy -/
  copies : List (Nat × ProfileCopy)
  active : Nat
  /-- 0 idle; 1 load waiting; 2 writing flash -/
  state : Nat
  result : Nat
  /-- the profile of the command in progress -/
  target : Nat
  /-- the copy being written -/
  writing : Option (Nat × ProfileCopy)
deriving DecidableEq, Repr

/-- The pins and the test access port. -/
structure Pins where
  perstN : Bool
  pstPrsntN : BitVec 4
  pexRefclk : Bool
  mirRefclk : Bool
  auxClk : Bool
  sysRefclk : Bool
  /-- TAP instruction in force, shift-stage capture and the boundary register with its update latches -/
  tapInstr : BitVec 8
  boundary : BitVec 180
  preload : BitVec 180
  /-- test outputs: 0 functional; 1 driven from the boundary register; 2 floating; 3 held -/
  testMode : Nat
  trainPulse : Nat
  /-- a test instruction has fenced the engine until the next module reset (R499) -/
  testFenced : Bool
deriving DecidableEq, Repr

end Sys2Proof.Machine
end

