-- ==== Sys2Proof/Machine/DigestState.lean ====
section
/-! DEFINITION. The state of the digest engine and of the key store (R333 to R346). -/

namespace Sys2Proof.Machine

/-- A command or write that reached a handle in FINISHING and waits for the finish (R337, R341). -/
inductive DigestOp where
  | openCtx | abort | close | compare
  | data (v : Word)
  | keymsg (slot : Nat)
  | last (v : Word) (valid : Nat)
  | expect (v : Word)
deriving DecidableEq, Repr

/-- A digest handle (R336) and the context it holds (R333). `state` is STATE: 0 FREE, 1 BUSY, 2 OPEN, 3 FINISHING, 4 FINISHED. -/
structure Handle where
  destSlot : Nat
  keyLen : Nat
  toKey : Bool
  keySlot : Nat
  hmac : Bool
  alg : Nat
  lastCnt : Nat
  err : Nat
  matched : Bool
  cmpDone : Bool
  state : Nat
  ctx : Nat
  /-- algorithm and padded HMAC key latched at the last OPEN -/
  ctxAlg : Nat
  ctxKey : Option (List Byte)
  /-- key slot of the OPEN that waits in BUSY with HMAC 1 -/
  request : Option Nat
  message : List Byte
  count : Nat
  result : List Byte
  /-- digest of the last finish, for COMPARE -/
  digest : List Byte
  resultToKey : Bool
  expected : List Byte
  comparing : Bool
  waiting : List DigestOp
deriving DecidableEq, Repr

/-- The key-load port of an instance (R345). -/
structure KeyPort where
  slot : Nat
  buffer : List Byte
  err : Nat
deriving DecidableEq, Repr

/-- A context of the engine's own (R333, R334): algorithm, HMAC key, the last message and its result. -/
structure OwnContext where
  alg : Nat
  key : Option (List Byte)
  message : List Byte
  result : List Byte
deriving DecidableEq, Repr

/-- The digest engine and the key store. -/
structure Digest where
  /-- contexts 13 to 15 -/
  own : Vector OwnContext 3
  /-- persist lanes: the SHA-256 of the last chunk each has hashed -/
  lanes : Vector (List Byte) 8
  /-- handles that are not at their reset value, keyed 16 × instance + handle -/
  handles : List (Nat × Handle)
  /-- handles waiting in BUSY, by arrival (R338) -/
  queue : List Nat
  busyWaits : Nat
  messages : Nat
  compares : Nat
  /-- slots that hold a key -/
  keys : List (Nat × List Byte)
  ports : List (Nat × KeyPort)
deriving DecidableEq, Repr

end Sys2Proof.Machine
end

