-- ==== Sys2Proof/Machine/MemState.lean ====
section
/-! DEFINITION. The state of the DRAM channels (R232, R238 to R246) and of the column cache (R247 to R263). -/

namespace Sys2Proof.Machine

/-- A read that waits in a channel's read queue: its memory port (R231) and its line or header. -/
structure QueuedRead where
  port : Nat
  ma : Nat
deriving DecidableEq, Repr

/-- One DRAM channel. -/
structure Channel where
  /-- 0 absent; 1 training; 2 serving; 3 failed; 4 self-refresh (R246) -/
  state : Nat
  rate : Nat
  limband : Nat
  low : Nat
  payback : Bool
  debt : Nat
  /-- the two readouts before the last, newest first (R241) -/
  readouts : List Nat
  /-- lines (by first module address) in the write queue, oldest first (R232) -/
  queue : List Nat
  /-- a drain that began at 24 lines is in progress (R232) -/
  draining : Bool
  /-- the read queue, oldest first (R232) -/
  reads : List QueuedRead
  /-- check lines in the check buffer, oldest first (R229) -/
  checkLines : List Nat
  /-- contents of the reserved area (R224) -/
  reserved : Nat
  /-- next unit of the patrol scrub and the uncorrectable units of this pass (R238) -/
  scrubPos : Nat
  ueLines : List Nat
  scrubLate : Bool
deriving DecidableEq, Repr

/-- The channels of both dies and the memory counters (R245). -/
structure Dram where
  channels : Vector Channel 48
  stackBand : Vector Nat 12
  corrected : Nat
  uncorrectable : Nat
  scrubPasses : Nat
  scrubLastS : Nat
  partialWrites : Nat
  rawHolds : Nat
  paybacks : Nat
  lastUeAddr : Nat
  /-- check areas (R224, R227): bytes by 2^28 × channel + offset in the area -/
  check : Sparse 8
  /-- bursts with symbols in error, check symbols included, by module address of the burst (R235) -/
  errors : List (Nat × Nat)
deriving DecidableEq, Repr

/-- A cached line: its way, module address, and the time of its last fill or hit (R253). -/
structure CacheLine where
  way : Nat
  ma : Nat
  used : Nat
deriving DecidableEq, Repr

/-- An SRAM error of a cached line (R261): a word of its data with one bit in error (kind 0) or more (kind 1), or its tag (kind 2). -/
structure CacheError where
  ma : Nat
  word : Nat
  kind : Nat
deriving DecidableEq, Repr

/-- The column cache (R247). -/
structure Cache where
  /-- valid lines by 768 × slice + set -/
  sets : List (Nat × List CacheLine)
  /-- victim lines by slice, oldest first (R255) -/
  victims : List (Nat × List Nat)
  clock : Nat
  /-- lines in the write buffer of each slice, oldest first (R250) -/
  wbuf : List (Nat × List Nat)
  /-- SRAM errors no lookup has met yet (R261) -/
  errors : List CacheError
  /-- 0 enabled; 1 draining; 2 disabled (R259) -/
  state : Nat
  hits : Nat
  recalls : Nat
  misses : Nat
  fills : Nat
  noWay : Nat
  invalidated : Nat
  sramCorrected : Nat
  sramInvalidated : Nat
deriving DecidableEq, Repr

end Sys2Proof.Machine
end

