-- ==== Sys2Proof/Machine/MirrorState.lean ====
section
/-! DEFINITION. The state of mirroring and health (R385 to R423). -/

namespace Sys2Proof.Machine

/-- A mirror message sent (R399, R401). -/
structure MirrorMsg where
  portB : Bool
  type : Nat
  epoch : Nat
  frameNo : Nat
  payload : List Byte
deriving DecidableEq, Repr

/-- One mirror port and its link (R400). -/
structure MirrorPort where
  up : Bool
  /-- POSITION of the engine it exchanges messages with, 0xFFFF for none -/
  peer : Nat
  txSeq : BitVec 32
  rxSeq : BitVec 32
  /-- messages in the retransmit store: LINK_SEQ of their first Ethernet frame, frames, and the message -/
  unacked : List (BitVec 32 × Nat × MirrorMsg)
  /-- a LINKACK is owed -/
  owed : Bool
  mirLive : Bool
  t1sLive : Bool
  /-- the neighbour is declared failed (R407) -/
  failed : Bool
  /-- one path was silent when MIRROR_PATH_LOST was last raised -/
  lostRaised : Bool
  lastRole : Nat
  /-- HEALTH the neighbour last reported -/
  health : Nat
  /-- the neighbour is new after a repair, and is sent again what it lacks at its first ACK (R409) -/
  fresh : Bool
  /-- DRAIN of the neighbour's last heartbeat block (R417) -/
  drain : Bool
deriving DecidableEq, Repr

/-- What an engine last heard of another on 10BASE-T1S (R409, R419). -/
structure Heard where
  pos : Nat
  hb : Sys2Proof.Heartbeat
  live : Bool
deriving DecidableEq, Repr

/-- Progress of a join (R417, R418), on the joiner or the donor. -/
structure Join where
  donor : Bool
  /-- rounds of COPY that the donor has run -/
  round : Nat
  /-- slots stored to since they were last copied -/
  dirty : List Nat
  failures : Nat
  /-- MIRROR_STATE before the join -/
  prior : Nat
  /-- JOIN_REQ has been sent -/
  asked : Bool
  /-- the state of tick J is installed, and the joiner goes on from step 5 of that tick -/
  resume : Bool
  /-- provisional tail (R418) -/
  provisional : Bool
deriving DecidableEq, Repr

/-- The mirror controller. -/
structure Mirror where
  /-- MIRROR_STATE (R422) -/
  state : Nat
  epoch : Nat
  takeover : Nat
  /-- first frame of the epoch in force, when the engine has seen it begin (R420) -/
  epochStart : Option Nat
  /-- EPOCH of the last LIST or TICK taken from upstream -/
  feedEpoch : Nat
  portA : MirrorPort
  portB : MirrorPort
  heard : List Heard
  /-- values of the downstream neighbour's last ACK (R396), and OUT_FRAME in force -/
  downAck : Nat
  downRecv : Nat
  outFrame : Nat
  /-- COMMITTED_FRAME the sequencer last reported (R393) -/
  seqCommitted : Nat
  leaseValid : Bool
  /-- frames listed and not acknowledged by the chain: the history store (R395) -/
  history : List MirrorMsg
  /-- the list and the TICK and DATA records received for frames to come (R390) -/
  lists : List (Nat × Sys2Proof.FrameList)
  ticks : List (Nat × Sys2Proof.TickPayload)
  datas : List (Nat × Sys2Proof.DataRecord)
  /-- reset records of the lists received: frame and instance (R308, R311) -/
  listedResets : List (Nat × Nat)
  /-- digests of earlier frames, by frame (R412) -/
  digests : List (Nat × List Byte)
  /-- HEALTH carried in TICK(k), by k -/
  sentHealth : List (Nat × Nat)
  /-- FRAME_NO as restore left it, for forming (R419) -/
  formFrame : Nat
  /-- resets requested of this engine's instances or passed from downstream (R394) -/
  resetReq : BitVec 64
  downReset : BitVec 64
  detaching : Bool
  drainAsked : Bool
  join : Option Join
  msgsTx : Nat
  msgsRx : Nat
  retransmits : Nat
  divergences : Nat
  framesDropped : Nat
  fenceReason : Nat
  sent : List MirrorMsg
  t1sSent : List Sys2Proof.Heartbeat
deriving DecidableEq, Repr

/-- Health (R414 to R416). -/
structure Health where
  faults : BitVec 48
  score : Nat
  /-- eye openings of the last margin check in percent: mirror, host and persist ports -/
  margins : Nat × Nat × Nat
  selftestPasses : Nat
  postponed : Nat
  /-- frames in which a correction was made, for MEM_CE_RATE -/
  corrections : List Nat
  /-- frames in which a cached line was lost to an SRAM error, for CACHE_UE -/
  cacheUes : List Nat
  commitLate : Bool
  hardRow : Bool
deriving DecidableEq, Repr

end Sys2Proof.Machine
end

