-- ==== Sys2Proof/Machine/MothState.lean ====
section
/-! DEFINITION. The state of Moth (R424 to R444). -/

namespace Sys2Proof.Machine

/-- A channel (R426): the last five raw samples, newest first, and Y in 1/256 code. -/
structure MothChannel where
  raws : List Nat
  y : Int
deriving DecidableEq, Repr

/-- A rule on one of its channels (R427). -/
structure RuleState where
  asserted : Bool
  cnt : Nat
deriving DecidableEq, Repr

/-- Moth. -/
structure Moth where
  /-- MOTH_STATE (R444) -/
  state : Nat
  wakeSource : Nat
  dozeCount : Nat
  dozeRefusal : Nat
  channels : Vector MothChannel 48
  /-- counters of the rules by 64 × rule + place in the rule, at their initial value when not listed -/
  rules : List (Nat × RuleState)
  /-- rule changes whose events have not been raised: rule, place, asserted -/
  fired : List (Nat × Nat × Bool)
  band : Nat
  /-- VIN × input current in µW at the last 250,000 samples of channel 45, newest first (OD 0x6008.01) -/
  powers : List Nat
  /-- power: 0 off; 1 waiting for VIN; 2 rails coming up; 3 on; 4 waiting to retry; 5 off until VAUX returns; 6 powered down -/
  power : Nat
  retries : Nat
  pwrgood : Bool
  vauxLow : Bool
  powerFail : Bool
  /-- PERST_N was asserted during doze or its entry (R440) -/
  perstInDoze : Bool
  /-- members that did not report their shutdown, failed at the next restore (R439) -/
  shutLate : BitVec 4
  /-- doze entry: 0 none; 1 waiting for its tick; 2 its tick has fired; 3 SSDs shutting down; 4 waiting for the host link -/
  dozeStep : Nat
  /-- SSDs are being initialised after a wake (R441) -/
  wakeReinit : Bool
deriving DecidableEq, Repr

end Sys2Proof.Machine
end

