-- ==== Sys2Proof/Machine/PersistState.lean ====
section
/-! DEFINITION. The state of the persist controller (R349 to R384). -/

namespace Sys2Proof.Machine

/-- A persist port (R383, R489). -/
structure PersistPort where
  /-- 0 absent; 1 initialising; 2 ready; 3 failed; 4 stopped at power failure -/
  state : Nat
  failReason : Nat
  queues : Nat
  vwc : Bool
  writes : Nat
  reads : Nat
  errors : Nat
  /-- blocks of the namespace -/
  blocks : Nat
  /-- CC.SHN has been set and CSTS.SHST has not reported (R439) -/
  shutting : Bool
deriving DecidableEq, Repr

/-- What the persist controller writes to the SSDs (R356, R363). -/
inductive PersistWrite where
  | cocoon (jpos : Nat) (bytes : List Byte)
  | slot (unit : Nat) (slot : Nat)
  | map (sel : Nat) (bytes : List Byte)
  | manifest (sel : Nat) (bytes : List Byte)
  | superblock (port : Nat) (copyB : Bool) (bytes : List Byte)
  /-- LBAs 0 to 255 of a member take zeros (R368) -/
  | wipe (port : Nat)
  /-- Flush of a member with a volatile write cache (R363) -/
  | flush (port : Nat)
deriving DecidableEq, Repr

/-- A map entry (R371). -/
structure MapEntry where
  unit : Nat
  spanId : Nat
  seq : Nat
  heat : Nat
  present : Bool
  zero : Bool
  crc : Nat
deriving DecidableEq, Repr

/-- The set the members form: the values of the superblock in force (R370). -/
structure PersistSet where
  setId : List Byte
  generation : Nat
  chrysNo : Nat
  chrysFrame : Nat
  jposStart : Nat
  volumeBlocks : Nat
  jringBlocks : Nat
  storeUnits : Nat
  mapSel : Nat
  keySource : Nat
  label : List Byte
  mode : Nat
  portMask : Nat
  width : Nat
deriving DecidableEq, Repr

/-- A cocoon sealed and not acknowledged (R356). -/
structure SealedCocoon where
  frame : Nat
  jpos : Nat
  blocks : Nat
deriving DecidableEq, Repr

/-- A chrysalis in progress (R363). -/
structure Chrysalis where
  no : Nat
  frame : Nat
  tstamp : Word
  jposStart : Nat
  /-- cocoon bytes written when it started -/
  bytesAt : Nat
  /-- the new map entries, by slot -/
  map : List (Nat × MapEntry)
  manifest : List Byte
  /-- the dirty set and the fetch counts it took, given back when it is abandoned -/
  dirty : List Nat
  heat : List (Nat × Nat)
  /-- the superblocks have been written -/
  sealed : Bool
  /-- it is chrysalis 1 of a FORMAT -/
  format : Bool
deriving DecidableEq, Repr

/-- What the frame being executed leaves in its cocoon (R350): records in the order of R353, by group, and whether it is a
journal frame so far (R349). -/
structure Staged where
  segdesc : List Byte
  place : List Byte
  /-- PLACE records of every table placed, for TICK (R390) -/
  placed : List Byte
  lists : List Byte
  data : List Byte
  records : Nat
  journal : Bool
deriving DecidableEq, Repr

/-- The persist controller. -/
structure Persist where
  /-- PERSIST_STATE (R384) -/
  state : Nat
  ports : Vector PersistPort 4
  set : Option PersistSet
  map : List (Nat × MapEntry)
  staged : Staged
  /-- cocoons written and not acknowledged, oldest first -/
  waiting : List SealedCocoon
  /-- journal frames that have ended and are not committed by case 2 of R357, rising -/
  open_ : List Nat
  committed : Nat
  /-- journal frames that only a chrysalis has committed, in pair or chain mode (R396) -/
  byChrys : List Nat
  lastCocoonFrame : Nat
  nextJpos : Nat
  lowRaised : Bool
  stalled : Bool
  lateRaised : List Nat
  /-- cocoon bytes since the tick of the last complete chrysalis -/
  chrysBytes : Nat
  due : Bool
  /-- the frame in which it became due -/
  dueSince : Nat
  chrysalis : Option Chrysalis
  formatWaiting : Bool
  keyReady : Bool
  restoreRead : Option Sys2Proof.RestoreRead
  restoreStatus : Nat
  replayFrames : Nat
  /-- frame of the last cocoon replay accepted, none before the first -/
  replayPrev : Option Nat
  /-- placements that the cocoon being replayed records (R377) -/
  replayPlaces : List KmaTable
  /-- slots not yet resident and slots being asked for by a wait, oldest first -/
  demand : List Nat
  sent : List PersistWrite
deriving DecidableEq, Repr

/-- Completions held for commit (R361): the entry and the frame it finished in. -/
structure HeldCompletion where
  entry : WorkEntry
  frame : Nat
deriving DecidableEq, Repr

end Sys2Proof.Machine
end

