-- ==== Sys2Proof/Machine/State.lean ====
section
/-! DEFINITION. The state of the block, the ways a step can stop, and the state after reset. -/

namespace Sys2Proof.Machine

/-- Why the machine stops with a fault. -/
inductive Fault where
  /-- MEMORY_READ_RETURN and PARTIAL_WRITE name a line beyond the module memory of the ordering code (R53). Safe. -/
  | noSuchAddress
deriving DecidableEq, Repr

/-- Why a command has no meaning. -/
inductive Refusal where
  /-- Raised by an arm of exec whose command has no meaning yet. Safe. -/
  | notModelled (mnemonic : String)
deriving DecidableEq, Repr

/-- An event record (R464). -/
structure Event where
  seq : Nat
  code : Nat
  severity : Nat
  frame : Nat
  time : Word
  location : Nat
  detail : Nat
  arg : Nat
deriving DecidableEq, Repr

/-- The event logs and the queue of event frames (R464). -/
structure Events where
  seq : Nat
  log : List Event
  windowLog : List Event
  queue : List Event
  unsent : Nat
deriving DecidableEq, Repr

/-- The state of the block. -/
structure State where
  pending : List Sys2Proof.Instr
  /-- the ordering code is TQ48-384-E (R1) -/
  e384 : Bool
  frame : Frame
  work : List WorkEntry
  tiles : Vector Tile 64
  mem : Memory
  dram : Dram
  cache : Cache
  kma : Kma
  dict : Dict
  host : HostSide
  mover : Mover
  events : Events
  digest : Digest
  persist : Persist
  /-- completions that wait for commit (R361), in release order -/
  held : List HeldCompletion
  mirror : Mirror
  health : Health
  moth : Moth
  boot : Boot
  window : Vector DwSlot 8
  bdp : Bdp
  profiles : Profiles
  pins : Pins
  /-- free values drawn so far -/
  free : Nat
deriving DecidableEq, Repr

/-! ### The state after reset -/

/-- A context word set of a ring, a frame header and other zero values. -/
def zeroHeader : FrameHeader :=
  { frameNo := 0, tstamp := 0, periodUs := 0, quota := 0, mergeAllow := 0, entryCount := 0, config := false, quiescent := false }

/-- A Mover channel (R312, R330): PRIO, the code of its burst size, and SHARE. -/
def resetMvChannel (n : Fin 32) : MvChannel :=
  let pb : Nat × Nat := if n.val < 8 then (5, 6) else if n.val < 16 then (3, 5) else if n.val = 16 then (7, 2)
    else if n.val < 20 then (6, 6) else if n.val < 24 then (4, 6) else (2, 6)
  { share := 1024, burst := pb.2, prio := pb.1, pause := false, disable := false, queue := [], next := none, cur := none, mode := .leave,
    curReg := 0, remain := 0, inflight := [], paced := true, errTag := 0, errValid := false, errCause := 0, errCount := 0,
    errDesc := 0, bytes := 0 }

def resetTile : Tile :=
  { ctxs := [], beats := 0, records := 0, yielded := true, ran := [], merge := [], selfDue := [], selfPart := 0, selfAge := 0, selfLate := false }

def resetFrame : Frame :=
  { frameNo := 0, header := zeroHeader, next := { header := zeroHeader, records := [] }, timerExpired := false, merging := false,
    mergeDone := false, overran := false, consecutive := 0, alarmed := false, overrunCount := 0, overrunMax := 0, timeBase := 0,
    timeFraction := 0, timeWritten := none, sums := { wsum := 0, wcount := 0, msum := 0, mcount := 0, osum := 0, ocount := 0 },
    digest := List.replicate 32 0, squashing := [] }

/-- Memory after a module reset: every slot absent (R473). -/
def resetMemory : Memory :=
  { bytes := [], allResident := false, flipped := [], poisoned := [], lost := [], dirty := [], heat := [] }

def resetDramChannel : Channel :=
  { state := 0, rate := 2, limband := 2, low := 0, payback := false, debt := 0, readouts := [], queue := [], draining := false, reads := [],
    checkLines := [], reserved := 0, scrubPos := 0, ueLines := [],
    scrubLate := false }

def resetDram : Dram :=
  { channels := Vector.replicate 48 resetDramChannel, stackBand := Vector.replicate 12 2, corrected := 0, uncorrectable := 0, scrubPasses := 0,
    scrubLastS := 0, partialWrites := 0, rawHolds := 0, paybacks := 0, lastUeAddr := 0, check := [], errors := [] }

/-- Every line invalid (R260). -/
def resetCache : Cache :=
  { sets := [], victims := [], clock := 0, wbuf := [], errors := [], state := 0, hits := 0, recalls := 0, misses := 0, fills := 0, noWay := 0, invalidated := 0,
    sramCorrected := 0, sramInvalidated := 0 }

def resetKma (base : Nat) : Kma :=
  { entries := [], cam := [], sram := [], poisoned := [], tables := [], rewrites := [], scanRow := Vector.replicate 24 0, verifyDiscards := 0, scanRewrites := 0,
    rebalances := 0, eccCorrected := 0, spills := 0, persistBase := base }

def resetDict : Dict :=
  { vals := [], shadow := [], resetShadow := [], refusals := 0, refuseCode := 0, refuseFrame := 0, refuseMask := 0 }

/-- A function after reset: the configuration bits as PCI Express resets them (PRESUMED, assumption 149). -/
def resetFunction : Function :=
  { d3hot := false, busMaster := false, relaxed := true, maxPayload := 0, maxRead := 2, msixEnable := false, config := [], pmeEn := false, pmeStatus := false, functionMask := false, vectorMask := BitVec.allOnes 64,
    pba := 0, msixTable := [] }

def resetMailbox : Mailbox :=
  { outMsg := 0, inMsg := 0, outFull := false, inFull := false, outReject := false, inIrqEn := false, inVector := 0 }

def resetInstance : Instance :=
  { mailbox := resetMailbox, resetState := 0, resets := 0, squashed := 0, hostReset := false, overloadFrames := 0, overloadAge := 0 }

def resetHost : HostSide :=
  { link := .down, linkSpeed := 0, linkWidth := 0, sq := [], cq := [], batches := [], fns := Vector.replicate 64 resetFunction,
    insts := Vector.replicate 64 resetInstance, vfEnable := false, numVfs := 0, descs := [], changes := [], doorbellsIgnored := 0,
    ringErrors := 0, listed := 0, refused := 0, irqHeldCount := 0, sent := [], heldMsgs := [], heldWrites := [] }

def resetMover : Mover :=
  { channels := Vector.ofFn resetMvChannel, lastAt := Vector.replicate 8 0, holdLost := 0, errPulses := 0, pulses := [], ports := [] }

/-- Both logs start empty (R465). -/
def resetEvents : Events := { seq := 0, log := [], windowLog := [], queue := [], unsent := 0 }

def resetOwnContext : OwnContext := { alg := 0, key := none, message := [], result := [] }

/-- The key store is empty (R344). -/
def resetDigest : Digest :=
  { own := Vector.replicate 3 resetOwnContext, lanes := Vector.replicate 8 [], handles := [], queue := [], busyWaits := 0, messages := 0, compares := 0, keys := [], ports := [] }

def resetPort : PersistPort :=
  { state := 0, failReason := 0, queues := 0, vwc := false, writes := 0, reads := 0, errors := 0, blocks := 0, shutting := false }

def resetPersist : Persist :=
  { state := 0, ports := Vector.replicate 4 resetPort, set := none, map := []
    staged := { segdesc := [], place := [], placed := [], lists := [], data := [], records := 0, journal := false }
    waiting := [], open_ := [], committed := 0, byChrys := [], lastCocoonFrame := 2 ^ 48 - 1, nextJpos := 0, lowRaised := false, stalled := false,
    lateRaised := [], chrysBytes := 0, due := false, dueSince := 0, chrysalis := none, formatWaiting := false, keyReady := false,
    restoreRead := none, restoreStatus := 0, replayFrames := 0, replayPrev := none, replayPlaces := [], demand := [], sent := [] }

def resetMirrorPort : MirrorPort :=
  { up := false, peer := 0xFFFF, txSeq := 0, rxSeq := 0, unacked := [], owed := false, mirLive := false, t1sLive := false, failed := false,
    lostRaised := false, lastRole := 0, health := 0, fresh := false, drain := false }

def resetMirror : Mirror :=
  { state := 0, epoch := 0, takeover := 0, epochStart := none, feedEpoch := 0, portA := resetMirrorPort, portB := resetMirrorPort, heard := [], downAck := 0, downRecv := 0,
    outFrame := 0, seqCommitted := 0, leaseValid := false, history := [], lists := [], ticks := [], datas := [], listedResets := [], digests := [],
    sentHealth := [], formFrame := 0, resetReq := 0, downReset := 0, detaching := false, drainAsked := false, join := none, msgsTx := 0, msgsRx := 0,
    retransmits := 0, divergences := 0, framesDropped := 0, fenceReason := 0, sent := [], t1sSent := [] }

def resetHealth : Health :=
  { faults := 0, score := 1000, margins := (100, 100, 100), selftestPasses := 0, postponed := 0, corrections := [], cacheUes := [],
    commitLate := false, hardRow := false }

/-- Moth at the start: every channel empty, the die band NORMAL (R444), and the power sequence waiting for VIN (R434). -/
def resetMoth : Moth :=
  { state := 0, wakeSource := 0, dozeCount := 0, dozeRefusal := 0, channels := Vector.replicate 48 { raws := [], y := 0 }, rules := [],
    fired := [], band := 1, powers := [], power := 1, retries := 0, pwrgood := false, vauxLow := false, powerFail := false, perstInDoze := false, shutLate := 0,
    dozeStep := 0, wakeReinit := false }

def resetBoot (cause : Nat) : Boot :=
  { stage := 0, code := 0, bank := 0, cause := cause, profsel := 0, firmware := none, library := [], trained := false, tested := false }

def resetSlot : DwSlot := { req := 0, irq := false, resultLen := 0, error := 0, state := 0, vector := 0, buffer := [] }

def resetBdp : Bdp := { transfers := [], abandoned := [], kept := [], requests := 0, errors := 0, dropped := 0, sent := [] }

def resetProfiles : Profiles := { copies := [], active := 255, state := 0, result := 0, target := 0, writing := none }

def resetPins : Pins :=
  { perstN := false, pstPrsntN := 0, pexRefclk := true, mirRefclk := true, auxClk := true, sysRefclk := true,
    tapInstr := 0x01, boundary := 0, preload := 0, testMode := 0, trainPulse := 0, testFenced := false }

/-- The block right after a power-on reset (R473, R475), before VIN has risen. -/
def State.reset : State :=
  { pending := [], e384 := true, frame := resetFrame, work := [], tiles := Vector.replicate 64 resetTile, mem := resetMemory,
    dram := resetDram, cache := resetCache, kma := resetKma 96, dict := resetDict, host := resetHost, mover := resetMover,
    events := resetEvents, digest := resetDigest, persist := resetPersist, held := [], mirror := resetMirror, health := resetHealth,
    moth := resetMoth, boot := resetBoot 1, window := Vector.replicate 8 resetSlot, bdp := resetBdp, profiles := resetProfiles,
    pins := resetPins, free := 0 }

end Sys2Proof.Machine
end

