-- ==== Sys2Proof/Machine/Objects.lean ====
section
/-! DEFINITION. The table of dictionary objects (R445 to R447, R455) and the values of the writable ones. -/

namespace Sys2Proof.Machine

/-- Access right of an object (R447). -/
inductive ObjAccess where
  | const | ro | rw | wo
deriving DecidableEq, Repr

/-- Latch class of a writable object (R47). -/
inductive Latch where
  | immediate | frame | reset
deriving DecidableEq, Repr

/-- Types of R445. OCTETS of exact length; `var` is a STR or OCTETS of any length up to its maximum. -/
inductive ObjType where
  | bool | u8 | u16 | u32 | u48 | i48 | u96 | t48
  | octets (len : Nat)
  | var (str : Bool) (max : Nat)
deriving DecidableEq, Repr

/-- Type codes of R445. -/
def ObjType.code : ObjType → Nat
  | .bool => 1 | .u8 => 2 | .u16 => 3 | .u32 => 4 | .u48 => 5 | .i48 => 6 | .u96 => 7 | .t48 => 8
  | .octets _ => 10
  | .var true _ => 9
  | .var false _ => 10

/-- Bytes of a value of fixed length; the maximum of one of variable length. -/
def ObjType.bytes : ObjType → Nat
  | .bool => 1 | .u8 => 1 | .u16 => 2 | .u32 => 4 | .u48 => 6 | .i48 => 6 | .u96 => 12 | .t48 => 6
  | .octets n => n
  | .var _ m => m

/-- A row of an object table: `indices` consecutive indices from `index`, each with `subs` subindices from `sub`. -/
structure ObjRow where
  index : Nat
  indices : Nat
  sub : Nat
  subs : Nat
  ty : ObjType
  acc : ObjAccess
  latch : Latch
  dflt : Nat
  lo : Nat
  hi : Nat
  /-- refused over BDP (R455) -/
  window : Bool
deriving DecidableEq, Repr

/-- A read-only or constant object. -/
def roRow (index indices sub subs : Nat) (ty : ObjType) : ObjRow :=
  { index := index, indices := indices, sub := sub, subs := subs, ty := ty, acc := .ro, latch := .immediate, dflt := 0,
    lo := 0, hi := 0, window := false }

def constRow (index sub : Nat) (ty : ObjType) : ObjRow :=
  { index := index, indices := 1, sub := sub, subs := 1, ty := ty, acc := .const, latch := .immediate, dflt := 0,
    lo := 0, hi := 0, window := false }

/-- A readable and writable object. -/
def rwRow (index indices sub subs : Nat) (ty : ObjType) (latch : Latch) (dflt lo hi : Nat) : ObjRow :=
  { index := index, indices := indices, sub := sub, subs := subs, ty := ty, acc := .rw, latch := latch, dflt := dflt,
    lo := lo, hi := hi, window := false }

def woRow (index indices sub : Nat) (ty : ObjType) (hi : Nat) : ObjRow :=
  { index := index, indices := indices, sub := sub, subs := 1, ty := ty, acc := .wo, latch := .immediate, dflt := 0,
    lo := 0, hi := hi, window := false }

def windowOnly (r : ObjRow) : ObjRow := { r with window := true }

/-- SLOT_COUNT of the ordering code (R53). -/
def slotCount (e384 : Bool) : Nat := if e384 then 380928 else 190464

/-- Identity and communication objects (R293, R302, R456). -/
def rowsIdentity : List ObjRow :=
  [ constRow 0x1000 0 .u32, constRow 0x1008 0 (.var true 16), constRow 0x1009 0 (.var true 16),
    roRow 0x100A 1 0 1 (.var true 64), roRow 0x100B 1 0 1 (.var false 64),
    roRow 0x1010 1 1 2 .u8, rwRow 0x1010 1 3 1 .u8 .reset 5 3 5,
    constRow 0x1018 1 .u32, constRow 0x1018 2 .u48, constRow 0x1018 3 .t48,
    rwRow 0x1020 1 1 1 .u8 .reset 1 0 254, rwRow 0x1020 1 2 1 .bool .reset 1 0 1, rwRow 0x1020 1 3 1 .u8 .reset 8 1 255,
    rwRow 0x1020 1 4 1 .u8 .reset 32 0 255, rwRow 0x1020 1 5 1 .u8 .reset 0 0 255, rwRow 0x1020 1 6 1 .u8 .reset 128 0 255,
    constRow 0x1020 7 (.octets 6),
    rwRow 0x1021 1 1 1 (.octets 6) .immediate (2 ^ 48 - 1) 0 (2 ^ 48 - 1),
    windowOnly (rwRow 0x1021 1 2 1 .bool .reset 1 0 1), rwRow 0x1021 1 3 1 .u8 .immediate 255 0 255,
    roRow 0x1022 1 1 4 .u48,
    windowOnly (woRow 0x1201 63 1 (.octets 64) (2 ^ 512 - 1)), windowOnly (roRow 0x1201 63 2 1 (.octets 64)),
    windowOnly (roRow 0x1201 63 3 1 .u8), windowOnly (woRow 0x1201 63 4 .bool 1),
    windowOnly (rwRow 0x1240 1 1 1 .u8 .immediate 0 0 63), windowOnly (roRow 0x1240 1 2 1 (.octets 8)) ]

/-- Frame and admission objects (R52, R293, R299, R311, R454). -/
def rowsFrame : List ObjRow :=
  [ rwRow 0x2000 1 1 1 .u16 .frame 50 20 500, rwRow 0x2000 1 2 1 .u16 .frame 512 64 65535,
    rwRow 0x2000 1 3 1 .u8 .frame 100 50 100, roRow 0x2000 1 4 1 .u16, constRow 0x2000 5 .u8,
    rwRow 0x2001 1 1 1 .bool .immediate 0 0 1, roRow 0x2002 1 1 1 .u48, roRow 0x2002 1 2 1 .t48,
    roRow 0x2003 1 1 1 .u48, roRow 0x2003 1 2 1 .u32, rwRow 0x2003 1 3 1 .u16 .frame 16 1 65535,
    rwRow 0x2004 1 0 1 .t48 .immediate 0 0 (2 ^ 48 - 1),
    roRow 0x2005 1 1 1 .u48, roRow 0x2005 1 2 1 .u16, roRow 0x2005 1 3 1 .u48, roRow 0x2005 1 4 1 .u16,
    rwRow 0x2010 1 1 1 .u16 .frame 0 0 4095, roRow 0x2011 1 1 5 .u48, rwRow 0x2012 1 1 64 .bool .immediate 0 0 1,
    rwRow 0x2100 1 1 1 .u16 .frame 4096 0 65535, rwRow 0x2100 1 2 1 .u16 .frame 4096 0 65535,
    rwRow 0x2100 1 3 1 .u16 .frame 4095 0 65535, rwRow 0x2100 1 4 1 .u32 .frame 0 0 (2 ^ 32 - 1),
    rwRow 0x2100 1 5 1 .u32 .frame 196608 0 (2 ^ 32 - 1), rwRow 0x2100 1 6 1 .u8 .frame 0 0 255,
    rwRow 0x2100 1 7 1 .u16 .frame 256 0 256, rwRow 0x2100 1 8 1 .u8 .frame 16 0 16,
    rwRow 0x2101 63 1 1 .u16 .frame 0 0 65535, rwRow 0x2101 63 2 1 .u16 .frame 0 0 65535,
    rwRow 0x2101 63 3 1 .u16 .frame 0 0 65535, rwRow 0x2101 63 4 1 .u32 .frame 0 0 (2 ^ 32 - 1),
    rwRow 0x2101 63 5 1 .u32 .frame 0 0 (2 ^ 32 - 1), rwRow 0x2101 63 6 1 .u8 .frame 0 0 255,
    rwRow 0x2101 63 7 1 .u16 .frame 0 0 256, rwRow 0x2101 63 8 1 .u8 .frame 0 0 16,
    roRow 0x2140 64 1 1 .u8, roRow 0x2140 64 2 2 .u48 ]

/-- Memory, cache and KMA objects (R223, R245, R263). -/
def rowsMemory : List ObjRow :=
  [ constRow 0x3001 1 .u32, roRow 0x3002 1 1 48 .u32, roRow 0x3003 1 1 12 .u8,
    roRow 0x3004 1 1 3 .u48, roRow 0x3004 1 4 1 .u32, roRow 0x3004 1 5 4 .u48, rwRow 0x3005 1 1 1 .bool .immediate 1 0 1,
    rwRow 0x3020 2 1 8 .u8 .frame 4 0 7, rwRow 0x3020 2 9 1 .u8 .frame 5 0 7, rwRow 0x3020 2 10 1 .u8 .frame 3 0 7,
    rwRow 0x3020 2 11 2 .u8 .frame 6 0 7, rwRow 0x3020 2 13 1 .u8 .frame 3 0 7, rwRow 0x3020 2 14 1 .u8 .frame 1 0 7,
    rwRow 0x3100 1 1 1 .bool .immediate 1 0 1, roRow 0x3100 1 2 1 .u8, rwRow 0x3101 1 1 64 .u16 .frame 65535 0 65535,
    rwRow 0x3102 1 1 1 .u16 .frame 3 0 65535, rwRow 0x3102 1 2 1 .u16 .frame 0 0 65535, rwRow 0x3102 1 3 1 .u16 .frame 3 0 65535,
    rwRow 0x3103 1 1 16 .u8 .frame 255 0 255, rwRow 0x3104 1 1 2 .u48 .frame 0 0 (2 ^ 48 - 1), roRow 0x3105 1 1 8 .u48,
    rwRow 0x3400 1 1 1 .u8 .reset 96 0 128, roRow 0x3400 1 2 5 .u48, roRow 0x3401 1 1 24 .u32,
    rwRow 0x3410 1 1 1 .u32 .immediate 0 0 (2 ^ 32 - 1), roRow 0x3410 1 2 1 (.var false 64), roRow 0x3410 1 3 1 (.var false 32768) ]

/-- Durability and digest objects (R348, R384). -/
def rowsPersist : List ObjRow :=
  [ rwRow 0x4000 1 1 1 .bool .reset 1 0 1, rwRow 0x4000 1 2 1 .u8 .reset 0 0 1, rwRow 0x4000 1 3 1 .u8 .reset 15 1 15,
    rwRow 0x4000 1 4 1 .u32 .reset 65536 1024 1048576, rwRow 0x4000 1 5 1 .u8 .reset 0 0 1,
    rwRow 0x4000 1 6 1 (.octets 16) .reset 0 0 (2 ^ 128 - 1), rwRow 0x4000 1 7 1 .u8 .reset 255 0 255,
    rwRow 0x4001 1 1 1 .u32 .frame 20000 100 1000000, rwRow 0x4001 1 2 1 .u8 .frame 75 10 95,
    rwRow 0x4001 1 3 1 .u32 .frame 100000 0 (2 ^ 32 - 1), rwRow 0x4001 1 4 1 .u48 .frame 2147483648 0 (2 ^ 48 - 1),
    rwRow 0x4001 1 5 1 .u16 .frame 64 0 65535, woRow 0x4002 1 1 .u8 255,
    roRow 0x4003 1 1 1 .u8, roRow 0x4003 1 2 3 .u48, roRow 0x4003 1 5 1 .u8, roRow 0x4003 1 6 1 .u32,
    roRow 0x4003 1 7 1 .u48, roRow 0x4003 1 8 1 .u16, roRow 0x4003 1 9 1 .u32,
    rwRow 0x4004 1 1 1 .u16 .frame 0 0 4095, rwRow 0x4020 1 1 64 .bool .frame 1 0 1,
    roRow 0x4800 1 1 1 .u8, roRow 0x4800 1 2 1 .u48, roRow 0x4800 1 3 1 .u16, roRow 0x4800 1 4 2 .u48,
    roRow 0x4801 1 0 1 (.octets 256), roRow 0x4802 1 1 64 .u8 ]

/-- Mirroring and health objects (R51, R422). -/
def rowsMirror : List ObjRow :=
  [ rwRow 0x5000 1 1 1 .u8 .reset 0 0 2, rwRow 0x5000 1 2 1 .bool .reset 0 0 1, rwRow 0x5000 1 3 1 .u16 .reset 0 0 65535,
    roRow 0x5000 1 4 2 .u8, roRow 0x5000 1 6 1 .u48, woRow 0x5000 1 7 .u8 255, roRow 0x5000 1 8 1 .u48,
    rwRow 0x5001 1 1 1 .u32 .frame 400 0 (2 ^ 32 - 1), rwRow 0x5001 1 2 1 .u32 .frame 600 0 (2 ^ 32 - 1),
    rwRow 0x5001 1 3 1 .u32 .frame 2500 0 (2 ^ 32 - 1), rwRow 0x5001 1 4 1 .u16 .frame 1000 0 65535,
    rwRow 0x5001 1 5 1 .u8 .frame 0 0 1, rwRow 0x5001 1 6 1 .u32 .frame 2000 0 (2 ^ 32 - 1),
    rwRow 0x5001 1 7 1 .u16 .frame 0 0 4095, rwRow 0x5001 1 8 1 .u32 .reset 5000 100 600000,
    roRow 0x5002 1 1 5 .u48, roRow 0x5002 1 6 1 .u16, constRow 0x5003 1 (.octets 6), constRow 0x5003 2 (.octets 6),
    rwRow 0x5010 1 1 1 (.var false 4096) .frame 1 0 0,
    roRow 0x7000 1 1 1 .u16, roRow 0x7000 1 2 3 .u48, rwRow 0x7001 1 1 1 .u8 .frame 20 5 60,
    roRow 0x7010 1 1 1 .u32, roRow 0x7010 1 2 1 (.octets 8192), roRow 0x7100 64 1 1 .u48, roRow 0x7100 64 2 1 .u32 ]

/-- Moth objects (R444) and profile objects (R470). -/
def rowsMoth : List ObjRow :=
  [ roRow 0x6000 1 1 2 .u8, roRow 0x6000 1 3 1 .u48, roRow 0x6000 1 4 1 .u8, woRow 0x6001 1 1 .u8 255,
    rwRow 0x6001 1 2 1 .u32 .immediate 0 0 (2 ^ 32 - 1), rwRow 0x6001 1 3 1 .u16 .immediate 1000 10 60000,
    rwRow 0x6002 1 1 1 .u16 .immediate 10200 9600 11400, rwRow 0x6002 1 2 1 .bool .immediate 1 0 1,
    rwRow 0x6002 1 3 1 .u16 .immediate 200 50 60000, roRow 0x6003 1 1 48 .u16,
    rwRow 0x6004 1 1 2 .u8 .immediate 0 0 7, rwRow 0x6004 1 3 42 .u8 .immediate 3 0 7, rwRow 0x6004 1 45 2 .u8 .immediate 0 0 7,
    rwRow 0x6004 1 47 2 .u8 .immediate 3 0 7,
    roRow 0x6005 1 1 1 .i48, roRow 0x6005 1 2 1 .u8, roRow 0x6005 1 3 1 .i48, rwRow 0x6006 1 1 1 .u8 .immediate 115 85 125,
    roRow 0x6007 1 1 1 .u48, roRow 0x6008 1 1 1 .u32, rwRow 0x6100 1 1 48 .u48 .immediate 0 0 (2 ^ 48 - 1),
    roRow 0x6101 1 1 1 (.octets 8),
    woRow 0x8000 1 1 .u16 65535, roRow 0x8000 1 2 2 .u8, roRow 0x8000 1 4 1 .u16, roRow 0x8000 1 5 1 .u8,
    roRow 0x8001 4 0 1 (.octets 32) ]

/-- Every object of the dictionary. -/
def objRows : List ObjRow := rowsIdentity ++ rowsFrame ++ rowsMemory ++ rowsPersist ++ rowsMirror ++ rowsMoth

def ObjRow.has (r : ObjRow) (index sub : Nat) : Bool :=
  decide (r.index ≤ index) && decide (index < r.index + r.indices) && decide (r.sub ≤ sub) && decide (sub < r.sub + r.subs)

/-- The row of an object, other than the subindex-0 counts of R446. -/
def objRow (index sub : Nat) : Option ObjRow := objRows.find? fun r => r.has index sub

/-- Highest subindex of an index whose objects start at subindex 1 (R446); 0 when there are none. -/
def maxSub (index : Nat) : Nat :=
  objRows.foldl (fun m r => if r.index ≤ index ∧ index < r.index + r.indices ∧ 1 ≤ r.sub then max m (r.sub + r.subs - 1) else m) 0

/-- Keys of the value stores. -/
def odKey (index sub : Nat) : Nat := 256 * index + sub

/-- Default of a writable object; the SLOTS quota of instance 0 depends on the ordering code (R299). -/
def odDefault (e384 : Bool) (index sub : Nat) : Nat :=
  if index = 0x2100 ∧ sub = 4 then slotCount e384 - 256
  else match objRow index sub with
    | some r => r.dflt
    | none => 0

/-- First value stored under a key. -/
def lookup? {α : Type} (l : List (Nat × α)) (k : Nat) : Option α :=
  match l with
  | [] => none
  | (j, x) :: r => if j = k then some x else lookup? r k

/-- The value in effect of a writable object (R448). -/
def State.od (s : State) (index sub : Nat) : Nat :=
  (lookup? s.dict.vals (odKey index sub)).getD (odDefault s.e384 index sub)

/-- The value that would be in effect with the shadow set applied (R48). -/
def State.odNext (s : State) (index sub : Nat) : Nat :=
  (lookup? s.dict.shadow (odKey index sub)).getD (s.od index sub)

/-- A value takes effect at once. -/
def State.odSet (s : State) (index sub v : Nat) : State :=
  { s with dict := { s.dict with vals := (odKey index sub, v) :: s.dict.vals.filter fun p => p.1 != odKey index sub } }

end Sys2Proof.Machine
end

