-- ==== Sys2Proof/Machine/Flags.lean ====
section
/-! DEFINITION. The arithmetic of the data, address and accumulator classes and its flags (R138 to R148, R184). -/

namespace Sys2Proof.Machine

/-- Least and greatest value of a signed word. -/
def minWord : Int := -140737488355328
def maxWord : Int := 140737488355327

/-- What one lane of a data-class instruction gives: the result, the carry when it writes one, V, and a zero divisor. -/
structure LaneOut where
  r : Word
  c : Option Bool
  v : Bool
  dz : Bool
deriving DecidableEq, Repr

/-- Row L of R142: N and Z from the result, C unchanged, V 0. -/
def laneLogic (r : Word) : LaneOut := { r := r, c := none, v := false, dz := false }

/-- Row A of R142. -/
def laneAdd (a b : Word) (cin : Bool) : LaneOut :=
  let k := if cin then 1 else 0
  let r : Word := BitVec.ofNat 48 (a.toNat + b.toNat + k)
  { r := r, c := some (decide (2 ^ 48 ≤ a.toNat + b.toNat + k)), v := decide (a.toInt + b.toInt + k ≠ r.toInt), dz := false }

/-- Row S of R142: C is 1 when there is no borrow. -/
def laneSub (a b : Word) : LaneOut :=
  let r : Word := a - b
  { r := r, c := some (decide (b.toNat ≤ a.toNat)), v := decide (a.toInt - b.toInt ≠ r.toInt), dz := false }

/-- Row MS of R142. -/
def laneMul (a b : Word) : LaneOut :=
  let p := a.toInt * b.toInt
  { r := BitVec.ofInt 48 p, c := none, v := decide (p < minWord ∨ maxWord < p), dz := false }

/-- Row MU of R142. -/
def laneMulu (a b : Word) : LaneOut :=
  let p := a.toNat * b.toNat
  { r := BitVec.ofNat 48 p, c := none, v := decide (2 ^ 48 ≤ p), dz := false }

/-- Row MH of R142, signed. -/
def laneMulh (a b : Word) : LaneOut := laneLogic (BitVec.ofInt 48 ((a.toInt * b.toInt) / 2 ^ 48))

/-- Row MH of R142, unsigned. -/
def laneMulhu (a b : Word) : LaneOut := laneLogic (BitVec.ofNat 48 ((a.toNat * b.toNat) / 2 ^ 48))

/-- Signed quotient (R148, R184). -/
def laneDiv (a b : Word) : LaneOut :=
  if b = 0 then { r := 0, c := none, v := false, dz := true }
  else if a.toInt = minWord ∧ b.toInt = -1 then { r := a, c := none, v := true, dz := false }
  else laneLogic (BitVec.ofInt 48 (a.toInt.tdiv b.toInt))

/-- Unsigned quotient. -/
def laneDivu (a b : Word) : LaneOut :=
  if b = 0 then { r := 0, c := none, v := false, dz := true } else laneLogic (BitVec.ofNat 48 (a.toNat / b.toNat))

/-- Signed remainder, with the sign of the dividend (R148, R184). -/
def laneRem (a b : Word) : LaneOut :=
  if b = 0 then { r := a, c := none, v := false, dz := true }
  else if a.toInt = minWord ∧ b.toInt = -1 then { r := 0, c := none, v := true, dz := false }
  else laneLogic (BitVec.ofInt 48 (a.toInt.tmod b.toInt))

/-- Unsigned remainder. -/
def laneRemu (a b : Word) : LaneOut :=
  if b = 0 then { r := a, c := none, v := false, dz := true } else laneLogic (BitVec.ofNat 48 (a.toNat % b.toNat))

/-- The low 8 bits of a count operand (R139, R148). -/
def countOf (b : Word) : Nat := (b.setWidth 8).toNat

/-- Shifts by 48 or more give 0 or sign fill (R139, R148). -/
def shl (a : Word) (n : Nat) : Word := a <<< n
def shr (a : Word) (n : Nat) : Word := a >>> n
def sar (a : Word) (n : Nat) : Word := a.sshiftRight n

/-- Rotates take the count modulo 48 (R148). -/
def rol (a : Word) (n : Nat) : Word := (a <<< (n % 48)) ||| (a >>> (48 - n % 48))
def ror (a : Word) (n : Nat) : Word := (a >>> (n % 48)) ||| (a <<< (48 - n % 48))

/-- Leading zero bits (0 to 48). -/
def clz (a : Word) : Nat := ((List.range 48).find? fun i => a.getLsbD (47 - i)).getD 48

/-- One bits (0 to 48). -/
def popc (a : Word) : Nat := ((List.range 48).filter fun i => a.getLsbD i).length

def sMin (a b : Word) : Word := if a.toInt ≤ b.toInt then a else b
def sMax (a b : Word) : Word := if a.toInt ≤ b.toInt then b else a
def uMin (a b : Word) : Word := if a.toNat ≤ b.toNat then a else b
def uMax (a b : Word) : Word := if a.toNat ≤ b.toNat then b else a

/-- The flag nibble of a lane after an instruction: N, Z, C, V from bit 3 down (R141, R142). -/
def flagNibble (old : BitVec 4) (o : LaneOut) : BitVec 4 :=
  BitVec.ofBool o.r.msb ++ BitVec.ofBool (decide (o.r = 0)) ++ BitVec.ofBool (o.c.getD (old.getLsbD 1)) ++ BitVec.ofBool o.v

/-- The flag nibble of lane n in FL. -/
def laneFlags (fl : BitVec 16) (n : Fin 4) : BitVec 4 := fl.extractLsb' (4 * n.val) 4

/-- FL put together from its four nibbles. -/
def packFlags (g : Fin 4 → BitVec 4) : BitVec 16 := g 3 ++ g 2 ++ g 1 ++ g 0

/-- Four bits from a predicate on lanes. -/
def packMask (p : Fin 4 → Bool) : BitVec 4 :=
  BitVec.ofBool (p 3) ++ BitVec.ofBool (p 2) ++ BitVec.ofBool (p 1) ++ BitVec.ofBool (p 0)

/-- A condition of R145 over the flags of a lane, by its code of R172. -/
def condHolds (cond : BitVec 4) (f : BitVec 4) : Bool :=
  let n := f.getLsbD 3
  let z := f.getLsbD 2
  let c := f.getLsbD 1
  let v := f.getLsbD 0
  match cond.toNat with
  | 0 => z
  | 1 => !z
  | 2 => n != v
  | 3 => n == v
  | 4 => !z && (n == v)
  | 5 => z || (n != v)
  | 6 => !c
  | 7 => c
  | 8 => c && !z
  | 9 => !c || z
  | 10 => n
  | 11 => !n
  | 12 => v
  | _ => !v

/-- A condition of R140 between two address-class values, by its code of R172. -/
def addrCond (cond : BitVec 3) (a b : Word) : Bool :=
  match cond.toNat with
  | 0 => a == b
  | 1 => a != b
  | 2 => decide (a.toInt < b.toInt)
  | 3 => decide (b.toInt ≤ a.toInt)
  | 4 => decide (a.toNat < b.toNat)
  | _ => decide (b.toNat ≤ a.toNat)

/-- Saturation to a signed 96-bit lane (R146): the value and whether it saturated. -/
def saturate (v : Int) : DWord × Bool :=
  if v < -(2 ^ 95) then (BitVec.ofInt 96 (-(2 ^ 95)), true)
  else if 2 ^ 95 - 1 < v then (BitVec.ofInt 96 (2 ^ 95 - 1), true)
  else (BitVec.ofInt 96 v, false)

/-- Division by a positive number, rounded half away from zero (R183). -/
def divHalfAway (a : Int) (n : Nat) : Int :=
  let q := (a.natAbs + n / 2) / n
  if a < 0 then -(q : Int) else q

end Sys2Proof.Machine
end

