-- ==== Sys2Proof/Machine/Operands.lean ====
section
/-! DEFINITION. The fields of a Kumer-48 instruction word (R171, R172) and the register accessors (R136, R143). An instruction
command carries the 40 bits below its opcode. -/

namespace Sys2Proof.Machine

/-- The opcode and the 40 bits below it, as one instruction word (R170). -/
def instrWord (op : BitVec 8) (f : BitVec 40) : Word := op ++ f

/-- Bits [m:l] of an instruction are zero. -/
def zeros (f : BitVec 40) (m l : Nat) : Bool := f.extractLsb' l (m - l + 1) == 0

/-- Register fields whose least significant bit is l. -/
def fA (f : BitVec 40) (l : Nat) : Fin 16 := ⟨(f.extractLsb' l 4).toNat, (f.extractLsb' l 4).isLt⟩
def fD (f : BitVec 40) (l : Nat) : Fin 32 := ⟨(f.extractLsb' l 5).toNat, (f.extractLsb' l 5).isLt⟩
def fX (f : BitVec 40) (l : Nat) : Fin 8 := ⟨(f.extractLsb' l 3).toNat, (f.extractLsb' l 3).isLt⟩
def fK (f : BitVec 40) (l : Nat) : Fin 4 := ⟨(f.extractLsb' l 2).toNat, (f.extractLsb' l 2).isLt⟩

/-- A signed immediate of n bits at l, extended to a word (R171). -/
def fImm (f : BitVec 40) (l n : Nat) : Word := (f.extractLsb' l n).signExtend 48

/-- An unsigned immediate. -/
def fNat (f : BitVec 40) (l n : Nat) : Nat := (f.extractLsb' l n).toNat

/-- A branch target (R171). -/
def fTarget (f : BitVec 40) : BitVec 14 := f.extractLsb' 0 14

namespace Ctx

def getA (c : Ctx) (n : Fin 16) : Word := c.a[n]
def setA (c : Ctx) (n : Fin 16) (v : Word) : Ctx := { c with a := c.a.set n v }
def getD (c : Ctx) (n : Fin 32) : Quad := c.d[n]
def setD (c : Ctx) (n : Fin 32) (v : Quad) : Ctx := { c with d := c.d.set n v }
def getX (c : Ctx) (n : Fin 8) : XQuad := c.x[n]
def setX (c : Ctx) (n : Fin 8) (v : XQuad) : Ctx := { c with x := c.x.set n v }

/-- A mask register; K0 always reads 0b1111 (R143). -/
def getK (c : Ctx) (n : Fin 4) : BitVec 4 :=
  match n with
  | 0 => 15
  | 1 => c.k[0]
  | 2 => c.k[1]
  | 3 => c.k[2]

/-- A mask register is written; naming K0 is refused before (R143). -/
def setK (c : Ctx) (n : Fin 4) (v : BitVec 4) : Ctx :=
  match n with
  | 0 => c
  | 1 => { c with k := c.k.set 0 v }
  | 2 => { c with k := c.k.set 1 v }
  | 3 => { c with k := c.k.set 2 v }

/-- Lane n is enabled by mask register Kn (R143). -/
def enabled (c : Ctx) (kn : Fin 4) (n : Fin 4) : Bool := (c.getK kn).getLsbD n.val

/-- The carry flag of a lane. -/
def carry (c : Ctx) (n : Fin 4) : Bool := (laneFlags c.fl n).getLsbD 1

end Ctx

/-- A quad from a function on lanes. -/
def quad (g : Fin 4 → Word) : Quad := Vector.ofFn g

/-- The same word in every lane. -/
def quadOf (w : Word) : Quad := Vector.ofFn fun _ => w

/-- A write to a sorted sparse store: strictly rising keys, no entry for a zero value. -/
def sparseWrite {w : Nat} (m : Sparse w) (i : Nat) (v : BitVec w) : Sparse w :=
  match m with
  | [] => if v = 0 then [] else [(i, v)]
  | (j, x) :: r =>
    if j < i then (j, x) :: sparseWrite r i v
    else if j = i then (if v = 0 then r else (i, v) :: r)
    else if v = 0 then (j, x) :: r else (i, v) :: (j, x) :: r

/-- A read of a sparse store: an unlisted key reads as zero. -/
def sparseRead {w : Nat} (m : Sparse w) (i : Nat) : BitVec w :=
  match m with
  | [] => 0
  | (j, x) :: r => if j = i then x else sparseRead r i

/-- The canonical form of a sparse store. -/
def sparseWf {w : Nat} : Sparse w → Bool
  | [] => true
  | [(_, v)] => v != 0
  | (j, v) :: (k, x) :: r => v != 0 && decide (j < k) && sparseWf ((k, x) :: r)

/-- Word i of the scratchpad. -/
def Ctx.spRead (c : Ctx) (i : Nat) : Word := sparseRead c.sp i

def Ctx.spWrite (c : Ctx) (i : Nat) (v : Word) : Ctx := { c with sp := sparseWrite c.sp i v }

/-- The words at an index and after it. -/
def Ctx.spWords (c : Ctx) (i n : Nat) : List Word := (List.range n).map fun j => sparseRead c.sp (i + j)

/-- Consecutive scratchpad words are written. -/
def Ctx.spPut (c : Ctx) (i : Nat) (ws : List Word) : Ctx :=
  (ws.zipIdx).foldl (fun c p => c.spWrite (i + p.2) p.1) c

/-- Two-column lookup and update used for keyed lists. -/
def lookupD {α : Type} (l : List (Nat × α)) (k : Nat) (d : α) : α :=
  match l with
  | [] => d
  | (j, x) :: r => if j = k then x else lookupD r k d

def insertK {α : Type} (l : List (Nat × α)) (k : Nat) (v : α) : List (Nat × α) :=
  match l with
  | [] => [(k, v)]
  | (j, x) :: r => if j < k then (j, x) :: insertK r k v else if j = k then (k, v) :: r else (k, v) :: (j, x) :: r

def eraseK {α : Type} (l : List (Nat × α)) (k : Nat) : List (Nat × α) := l.filter fun p => p.1 != k

end Sys2Proof.Machine
end

