-- ==== Sys2Proof/Machine/Ops.lean ====
section
/-! DEFINITION. The named operations over memory, the column cache, the DRAM channels, the work table and the event logs that
the meanings share. -/

namespace Sys2Proof.Machine

/-- Little-endian number of a byte list (R6). -/
def leNat : List Byte → Nat
  | [] => 0
  | b :: r => b.toNat + 256 * leNat r

/-- The n bytes of a number, least significant first. -/
def leBytes : Nat → Nat → List Byte
  | 0, _ => []
  | n + 1, v => BitVec.ofNat 8 v :: leBytes n (v / 256)

/-- Bytes i to i + n - 1 of a list, zero past its end. -/
def sliceBytes (l : List Byte) (i n : Nat) : List Byte :=
  (List.range n).map fun j => l.getD (i + j) 0

/-- A little-endian field of a byte list. -/
def fieldNat (l : List Byte) (i n : Nat) : Nat := leNat (sliceBytes l i n)

/-- Bytes overwritten at an offset. -/
def overlay (l : List Byte) (i : Nat) (bs : List Byte) : List Byte := l.take i ++ bs ++ l.drop (i + bs.length)

/-! ### Geography of module memory (R53, R54, R225, R248) -/

def slotBytes : Nat := 1048576

def lineArea : Nat := 0xFFFC0

/-- Slots open to descriptors: 0 to SLOT_COUNT - 257 (R53). -/
def openSlots (e384 : Bool) : Nat := slotCount e384 - 256

/-- First module address of the line or header that holds a byte (R54). -/
def lineOf (ma : Nat) : Nat :=
  let so := ma % slotBytes
  if so < lineArea then ma - so % 192 else ma - so + lineArea

def isHeader (ma : Nat) : Bool := decide (lineArea ≤ ma % slotBytes)

/-- sel of R225. -/
def homeSel (n g i b : Nat) : Nat :=
  let h := ((g * 65536 + i * 256 + b) * 0xC2B2AE3D27D5) % 2 ^ 48
  (bitsOf h 47 32 * n) >>> 16

/-- Home channel of a line or header (R225), by its module address. -/
def homeChannel (e384 : Bool) (ma : Nat) : Nat :=
  let n := if e384 then 48 else 24
  let s := ma / slotBytes
  let ln := (ma % slotBytes) / 192
  let rem := 5461 % n
  let full := 5461 - rem
  let g := s / n
  let i := s % n
  let hg := homeSel n g 0 255
  let p := if isHeader ma then (rem * (i + 1) + hg) % n
    else if ln < full then (ln % n + homeSel n g i (ln / n)) % n
    else (ln % n + rem * i + hg) % n
  if e384 ∨ p < 12 then p else p + 12

/-- Slice and set of a data line (R248): slice, then set. -/
def homeSlice (e384 : Bool) (ma : Nat) : Nat × Nat :=
  let l := ma / slotBytes * 5461 + (ma % slotBytes) / 192
  let h := (l * 0xA54FF53A5F1D) % 2 ^ 48
  let d := if homeChannel e384 ma < 24 then 0 else 1
  (8 * d + bitsOf h 47 45, (bitsOf h 44 32 * 768) >>> 13)

/-- A free value. -/
def State.fresh (s : State) : Nat × State := (Config.freeNat s.free, { s with free := s.free + 1 })

/-- TIME_BASE takes a value in mid-frame (R52): the part of the frame that has passed is a free value. -/
def State.setTimeBase (s : State) (v : Word) : State :=
  { s.fresh.2 with frame := { s.frame with timeBase := v, timeFraction := 0, timeWritten := some s.fresh.1 } }

/-- TIME_BASE as a read finds it: what it was at the last tick, and the part of the frame that has passed, a free value (R52; DESIGN
CHOICE, assumption 51). -/
def State.timeNow (s : State) : Word := s.frame.timeBase + BitVec.ofNat 48 ((s.frame.timeFraction + s.fresh.1) / 1000)

/-! ### Residency (R69, R70) -/

def State.resident (s : State) (slot : Nat) : Bool := s.mem.allResident != s.mem.flipped.contains slot

/-- Every slot open to descriptors is resident. -/
def State.allHere (s : State) : Bool :=
  if s.mem.allResident then s.mem.flipped.isEmpty else decide (slotCount s.e384 ≤ s.mem.flipped.length)

def State.setResident (s : State) (slot : Nat) (on : Bool) : State :=
  if s.resident slot = on then s
  else
    let f := if s.mem.flipped.contains slot then s.mem.flipped.filter (· != slot) else slot :: s.mem.flipped
    { s with mem := { s.mem with flipped := f } }

/-- A slot that an access waits for joins the slots asked for (R162, R378). -/
def State.askSlot (s : State) (slot : Nat) : State :=
  if s.persist.demand.contains slot then s else { s with persist := { s.persist with demand := s.persist.demand ++ [slot] } }

/-! ### Host writes and messages (R266, R267, R289, R290, R325) -/

/-- The engine has stopped: it is fenced (R413), or a power failure or a trip stands (R375, R437). -/
def State.frozen (s : State) : Bool := s.mirror.state == 5 || decide (4 ≤ s.moth.state)

/-- The engine serves (R379, R475): bring-up has reached STAGE 6 and it is neither stopped nor in doze. -/
def State.serving (s : State) : Bool := s.boot.stage == 6 && !s.frozen && decide (s.moth.state ≤ 1)

/-- The function of an instance is not in D0 with Bus Master Enable set (R266). -/
def State.hostHeld (s : State) (inst : Nat) : Bool :=
  if h : inst < 64 then s.host.fns[inst].d3hot || !s.host.fns[inst].busMaster else false

/-- An instance is being reset (R306). -/
def State.resetting (s : State) (inst : Nat) : Bool :=
  if h : inst < 64 then s.host.insts[inst].hostReset else false

/-- Host accesses of an instance are stopped by its reset, or because the engine does not serve: it is fenced, frozen or
replaying (R306, R325, R375, R377, R413). -/
def State.hostStopped (s : State) (inst : Nat) : Bool := s.resetting inst || !s.serving

/-- The function's Enable Relaxed Ordering bit lets a write carry the attribute (R264, R313). -/
def State.relaxes (s : State) (inst : Nat) : Bool := if h : inst < 64 then s.host.fns[inst].relaxed else false

/-- A host write leaves the engine. -/
def State.emitHost (s : State) (w : HostWrite) : State := { s with host := { s.host with sent := s.host.sent ++ [w] } }

/-- A host write waits for its function, behind those that wait already (R266). -/
def State.holdWrite (s : State) (w : HeldWrite) : State :=
  { s with host := { s.host with heldWrites := s.host.heldWrites ++ [.inl w] } }

/-- A host write leaves the engine; it is discarded when the host accesses of its instance are stopped, and waits while its function
cannot take it (R266, R306). Messages are stopped only by a reset. -/
def State.sendHost (s : State) (inst : Nat) (w : HostWrite) : State :=
  match w with
  | .data i a bs ro =>
    if s.hostStopped inst then s
    else if s.hostHeld inst then s.holdWrite { inst := inst, addr := a, bytes := bs, relaxed := ro, mover := none, last := false }
    else s.emitHost (.data i a bs (ro && s.relaxes inst))
  | w => if s.resetting inst then s else s.emitHost w

/-- Messages can leave: the link is in L0, or in L1 under ASPM, which the engine exits at once (R290). -/
def linkOpen (l : LinkState) : Bool := l == .l0 || l == .l1aspm

/-- An interrupt of an instance has to wait (R290). -/
def State.irqBlocked (s : State) (inst : Nat) : Bool := s.hostHeld inst || !linkOpen s.host.link

/-- A vector of the function cannot send: it or the function is masked, or MSI-X is not enabled (R288; assumption 149). -/
def Function.masked (f : Function) (vec : Nat) : Bool := !f.msixEnable || f.functionMask || f.vectorMask.getLsbD vec

/-- The message of a vector is sent, or its PBA bit is set when the vector or the function is masked (R289). -/
def State.signalVector (s : State) (inst vec : Nat) : State :=
  if h : inst < 64 then
    let f := s.host.fns[inst]
    if f.masked vec then
      { s with host := { s.host with fns := s.host.fns.set inst { f with pba := f.pba ||| ((1 : BitVec 64) <<< vec) } } }
    else
      let s1 := s.sendHost inst (.msix inst vec (sparseRead f.msixTable vec))
      { s1 with host := { s1.host with link := if s1.host.link = .l1aspm then .l0 else s1.host.link } }
  else s

/-- A message of a vector that an object or a mailbox names; one that must wait is held (R290, R303). -/
def State.raiseVector (s : State) (inst vec : Nat) : State :=
  if s.irqBlocked inst then
    { s with host := { s.host with
        heldMsgs := if s.host.heldMsgs.contains (inst, vec) then s.host.heldMsgs else s.host.heldMsgs ++ [(inst, vec)]
        irqHeldCount := s.host.irqHeldCount + 1 } }
  else s.signalVector inst vec

/-! ### Events (R464, R512) -/

/-- A location code (R13). -/
def location (level kind unit : Nat) : Nat := level * 8192 + kind * 512 + unit

/-- The location of an event that names none (R464). -/
def packageLocation : Nat := 0xC000

/-- An event becomes a record in both logs and is queued as an event frame; a full queue counts it unsent, and EVENT_VECTOR is
raised (R464). The last 256 records are kept; the window log is not written while Moth answers BDP (R465). -/
def State.raiseAt (s : State) (code severity loc detail arg : Nat) : State :=
  let e : Event :=
    { seq := s.events.seq, code := code, severity := severity, frame := s.frame.frameNo,
      time := s.frame.timeBase, location := loc, detail := detail, arg := arg }
  let ev := s.events
  let full := decide (64 ≤ ev.queue.length)
  let s1 := { s with events := { ev with
      seq := (ev.seq + 1) % 2 ^ 32
      log := (e :: ev.log).take 256
      windowLog := if s.moth.state = 0 then (e :: ev.windowLog).take 256 else ev.windowLog
      queue := if full then ev.queue else ev.queue ++ [e]
      unsent := if full then (ev.unsent + 1) % 2 ^ 48 else ev.unsent } }
  if s.od 0x1021 3 < 64 then s1.raiseVector 0 (s.od 0x1021 3) else s1

def State.raise (s : State) (code severity arg : Nat) : State := s.raiseAt code severity packageLocation 0 arg

/-! ### The work table -/

def State.entry? (s : State) (slot : Nat) : Option WorkEntry := s.work.find? fun e => e.slot == slot

/-- Changes the entry that holds a work-table slot. -/
def State.updEntry (s : State) (slot : Nat) (f : WorkEntry → WorkEntry) : State :=
  { s with work := s.work.map fun e => if e.slot == slot then f e else e }

def State.setTile (s : State) (t : Fin 64) (x : Tile) : State := { s with tiles := s.tiles.set t x }

/-- The failure of least position decides, ties to the lower tile (R507). -/
def worseFailure (old : Option Failure) (f : Failure) : Failure :=
  match old with
  | none => f
  | some g => if f.pos < g.pos ∨ (f.pos = g.pos ∧ f.tile < g.tile) then f else g

def State.failEntry (s : State) (slot : Nat) (f : Failure) : State :=
  s.updEntry slot fun e => { e with fail := some (worseFailure e.fail f) }

/-- WRITE of a submission entry (R280). -/
def WorkEntry.writes (e : WorkEntry) : Bool := e.entry.getLsbD 8

/-- A store of a modifying entry enters the frame's sums (R411). -/
def State.sumStore (s : State) (ma : Nat) (bs : List Byte) : State :=
  let u := s.frame.sums
  let x := crc64 (leBytes 6 ma ++ bs)
  { s with frame := { s.frame with sums := { u with wsum := (u.wsum + x) % 2 ^ 64, wcount := (u.wcount + 1) % 2 ^ 48 } } }

/-- A merge effect enters the frame's sums. -/
def State.sumMerge (s : State) (bs : List Byte) : State :=
  let u := s.frame.sums
  { s with frame := { s.frame with sums := { u with msum := (u.msum + crc64 bs) % 2 ^ 64, mcount := (u.mcount + 1) % 2 ^ 48 } } }

/-- An output enters the frame's sums. -/
def State.sumOutput (s : State) (crc : Nat) : State :=
  let u := s.frame.sums
  { s with frame := { s.frame with sums := { u with osum := (u.osum + crc) % 2 ^ 64, ocount := (u.ocount + 1) % 2 ^ 48 } } }

/-! ### Column cache (R249 to R255) -/

/-- Way mask of a requester: an instance, or 64 Mover, 65 persist controller, 66 bulk codec (R253, R254). -/
def State.wayMask (s : State) (who : Nat) : Nat :=
  if who < 64 then s.od 0x3101 (who + 1) else s.od 0x3102 (who - 63)

/-- Ways that may receive a fill of a requester: its mask, less the ways locked to another owner (R253, R254). -/
def State.fillWays (s : State) (who : Nat) : List Nat :=
  (List.range 16).filter fun w =>
    (s.wayMask who).testBit w && (s.od 0x3103 (w + 1) == 0xFF || s.od 0x3103 (w + 1) == who)

/-- The least recently used line among some. -/
def oldestLine (l : List CacheLine) : Option CacheLine :=
  l.foldl (fun m x => match m with
    | none => some x
    | some y => if x.used < y.used then some x else some y) none

/-- A line enters its set for a requester (R253, R255): the state, and whether a way was found. `recalled` is the place of the
line in the victim cache when it is recalled; a displaced line then takes that place. -/
def Cache.fill (c : Cache) (slice set ma : Nat) (ways lockedWays : List Nat) (recalled : Bool) : Cache × Bool :=
  let key := 768 * slice + set
  let lines := lookupD c.sets key []
  let victims := lookupD c.victims slice []
  let put (w : Nat) (ls : List CacheLine) : Cache :=
    { c with sets := insertK c.sets key ({ way := w, ma := ma, used := c.clock } :: ls), clock := c.clock + 1,
             errors := c.errors.filter (·.ma != ma) }
  match ways.find? fun w => !lines.any (·.way == w) with
  | some w => ((fun d : Cache => if recalled then { d with victims := insertK d.victims slice (victims.filter (· != ma)) } else d) (put w lines), true)
  | none =>
    match oldestLine (lines.filter fun l => ways.contains l.way && !lockedWays.contains l.way) with
    | none => (c, false)
    | some l =>
      let d := put l.way (lines.filter (·.way != l.way))
      let v := if recalled then victims.map fun m => if m = ma then l.ma else m
        else (if 32 ≤ victims.length then victims.drop 1 else victims) ++ [l.ma]
      ({ d with victims := insertK d.victims slice v }, true)

/-- A line leaves the cache. -/
def State.cacheDrop (s : State) (ma : Nat) : State :=
  let (slice, set) := homeSlice s.e384 ma
  let key := 768 * slice + set
  let lines := lookupD s.cache.sets key []
  let victims := lookupD s.cache.victims slice []
  { s with cache := { s.cache with
      sets := if lines.any (·.ma == ma) then insertK s.cache.sets key (lines.filter (·.ma != ma)) else s.cache.sets
      victims := if victims.contains ma then insertK s.cache.victims slice (victims.filter (· != ma)) else s.cache.victims
      errors := s.cache.errors.filter (·.ma != ma) } }

/-- Way and index of a cached line: its way and set, or 16 and its place in the victim cache (R261). -/
def State.cachePlace (s : State) (ma : Nat) : Nat × Nat :=
  let (slice, set) := homeSlice s.e384 ma
  match (lookupD s.cache.sets (768 * slice + set) []).find? fun l => l.ma == ma with
  | some l => (l.way, set)
  | none => (16, ((lookupD s.cache.victims slice []).findIdx? fun m => m == ma).getD 0)

/-- The FAULT record of an SRAM error of the cache (R261): data at cell level, tags at macro level. -/
def State.cacheFault (s : State) (x : CacheError) : State :=
  let (way, index) := s.cachePlace x.ma
  s.raiseAt 0x0030 2 (location (if x.kind = 2 then 1 else 0) 4 (homeSlice s.e384 x.ma).1)
    (x.kind * 2 ^ 45 + way * 2 ^ 40 + index * 2 ^ 30 + (if x.kind = 2 then 0 else x.word) * 2 ^ 25) 0

/-- One SRAM error that a lookup of its line meets: a corrected word is fixed in place, anything else invalidates the line (R261). -/
def State.meetCacheError (s : State) (x : CacheError) : State :=
  let s1 := s.cacheFault x
  if x.kind = 0 then
    { s1 with cache := { s1.cache with sramCorrected := (s1.cache.sramCorrected + 1) % 2 ^ 48, errors := s1.cache.errors.filter (· != x) } }
  else
    let s2 := s1.cacheDrop x.ma
    { s2 with cache := { s2.cache with sramInvalidated := (s2.cache.sramInvalidated + 1) % 2 ^ 48 }
              health := { s2.health with cacheUes := s2.frame.frameNo :: s2.health.cacheUes } }

/-- The SRAM errors that a lookup of a line meets (R261): those of its words that can be corrected, then the first that cannot. -/
def State.meetCacheErrors (s : State) (ma : Nat) : State :=
  let mine := s.cache.errors.filter (·.ma == ma)
  let s1 := (mine.filter (·.kind == 0)).foldl State.meetCacheError s
  match mine.find? (·.kind != 0) with
  | some x => s1.meetCacheError x
  | none => s1

/-- Lines the cache may hold (R249), while it is not bypassed (R259). -/
def State.cacheable (s : State) (ma : Nat) : Bool :=
  !isHeader ma && s.cache.state != 2 && decide (ma < openSlots s.e384 * slotBytes)

/-- Ways locked to an owner (R254). -/
def State.lockedWays (s : State) : List Nat := (List.range 16).filter fun w => s.od 0x3103 (w + 1) != 0xFF

/-- A line comes into its set for a requester, or finds no way (R253, R255). -/
def State.cacheFill (s : State) (ma who : Nat) (recalled : Bool) : State :=
  let (slice, set) := homeSlice s.e384 ma
  let (d, ok) := s.cache.fill slice set ma (s.fillWays who) s.lockedWays recalled
  { s with cache := if ok then { d with fills := d.fills + 1 } else { d with noWay := d.noWay + 1 } }

/-- A lookup of a data line by a requester (R249, R255): counters, and a recall, which moves the line when the requester may fill.
The second part says whether the line was served from the cache. -/
def State.cacheLookup (s0 : State) (ma : Nat) (who : Nat) (mayFill : Bool) : State × Bool :=
  if !s0.cacheable ma then (s0, false)
  else
    let s := s0.meetCacheErrors ma
    let c := s.cache
    let (slice, set) := homeSlice s.e384 ma
    let key := 768 * slice + set
    let lines := lookupD c.sets key []
    if lines.any (·.ma == ma) then
      let now := lines.map fun l => if l.ma = ma then { l with used := c.clock } else l
      ({ s with cache := { c with hits := c.hits + 1, clock := c.clock + 1, sets := insertK c.sets key now } }, true)
    else if c.state == 0 && (lookupD c.victims slice []).contains ma then
      let s1 := { s with cache := { c with recalls := c.recalls + 1 } }
      (if mayFill then s1.cacheFill ma who true else s1, true)
    else ({ s with cache := { c with misses := c.misses + 1 } }, false)

/-! ### Channels (R224 to R235) and memory bytes -/

def State.updChannel (s : State) (c : Nat) (f : Channel → Channel) : State :=
  if h : c < 48 then { s with dram := { s.dram with channels := s.dram.channels.set c (f s.dram.channels[c]) } } else s

/-- The populated channels. -/
def channelsOf (e384 : Bool) : Nat := if e384 then 48 else 24

/-- Index of a channel among the populated ones. -/
def channelIndex (e384 : Bool) (c : Nat) : Nat := if e384 || decide (c < 12) then c else c - 12

/-- Channel line of a data line on its home channel: the lines of a group in ascending order of slot and line (R226). -/
def channelLineOf (e384 : Bool) (ma : Nat) : Nat :=
  let n := channelsOf e384
  let slot := ma / slotBytes
  let ln := (ma % slotBytes) / 192
  let rem := 5461 % n
  let full := 5461 - rem
  let g := slot / n
  let i := slot % n
  let q := (channelIndex e384 (homeChannel e384 ma) + n - homeSel n g 0 255 % n) % n
  5461 * g + full / n * i + (rem * i + n - 1 - q) / n + (if ln < full then ln / n else full / n)

/-- Check line and offset in it of the check field of a line or header (R227); header fields lie after those of all lines. -/
def checkPlace (e384 : Bool) (ma : Nat) : Nat × Nat :=
  let g := ma / slotBytes / channelsOf e384
  if isHeader ma then (7936 * 5461 / 32 + g / 96, 2 * (g % 96))
  else (channelLineOf e384 ma / 32, 6 * (channelLineOf e384 ma % 32))

/-- The bank, rank included, of a channel line: consecutive lines fall in different banks (R226). -/
def bankOf : Nat → Nat
  | 0 => Config.bankStep 0 % 32
  | u + 1 => (bankOf u + 1 + Config.bankStep (u + 1) % 31) % 32

/-- RANK and BANK of a line or header, as fault reports show them: rank × 16 + bank (R226, R237). The map is the chip's own
(DESIGN CHOICE, assumption 61). -/
def rankBank (e384 : Bool) (ma : Nat) : Nat :=
  if isHeader ma then Config.headerBank (ma / slotBytes / channelsOf e384) % 32 else bankOf (channelLineOf e384 ma)

/-- Bytes of a line or header (R54). -/
def unitBytes (ma : Nat) : Nat := if isHeader ma then 64 else 192

/-- A check line is read when it is not in the check buffer, which holds 32; the oldest leaves (R229). -/
def Channel.readCheck (x : Channel) (line : Nat) : Channel :=
  if x.checkLines.contains line then x
  else { x with checkLines := (if 32 ≤ x.checkLines.length then x.checkLines.drop 1 else x.checkLines) ++ [line] }

/-- A drain of the write queue ends at 8 lines (R232). -/
def Channel.settle (x : Channel) : Channel := { x with draining := x.draining && decide (8 < x.queue.length) }

/-- A write enters its channel's queue; a full queue first lets its oldest line leave, and at 24 lines a drain begins (R232). -/
def State.queueWrite (s : State) (ma : Nat) : State :=
  s.updChannel (homeChannel s.e384 ma) fun x =>
    let q := (if 32 ≤ x.queue.length then x.queue.drop 1 else x.queue) ++ [ma]
    { x with queue := q, draining := x.draining || decide (24 ≤ q.length) }

/-- The n oldest writes of a slice's write buffer enter their channels' queues, in order (R250). -/
def State.bufferLeave (s : State) (slice n : Nat) : State :=
  let b := lookupD s.cache.wbuf slice []
  let s1 := if b.isEmpty then s else { s with cache := { s.cache with wbuf := insertK s.cache.wbuf slice (b.drop n) } }
  (b.take n).foldl State.queueWrite s1

/-- Every write buffer empties (R251, R259). -/
def State.emptyBuffers (s : State) : State :=
  (List.range 16).foldl (fun (s : State) k => s.bufferLeave k 32) s

/-- A write of a line: into the write buffer of its home slice, whose oldest write first leaves when it is full; a header, and
every line while the cache is bypassed, goes straight to its channel (R249, R250, R259). When a buffered write leaves of itself is
open: it leaves when its place, a matching read, a tick or a drain needs it (DESIGN CHOICE, assumption 139). -/
def State.dramWrite (s : State) (ma : Nat) : State :=
  if isHeader ma || s.cache.state == 2 then s.queueWrite ma
  else
    let k := (homeSlice s.e384 ma).1
    let s1 := if 32 ≤ (lookupD s.cache.wbuf k []).length then s.bufferLeave k 1 else s
    { s1 with cache := { s1.cache with wbuf := insertK s1.cache.wbuf k (lookupD s1.cache.wbuf k [] ++ [ma]) } }

/-- A read that matches a buffered write is held until that write has left (R250). -/
def State.bufferMatch (s : State) (ma : Nat) : State :=
  if isHeader ma then s
  else
    let k := (homeSlice s.e384 ma).1
    let b := lookupD s.cache.wbuf k []
    if b.contains ma then s.bufferLeave k (b.length - (b.reverse.takeWhile (· != ma)).length) else s

/-- A read at its channel: it waits for buffered and queued writes of its line (R233, R250), and its check line comes into the check
buffer (R229). -/
def State.dramRead (s0 : State) (ma : Nat) : State :=
  let s := s0.bufferMatch ma
  let c := homeChannel s.e384 ma
  let line := (checkPlace s.e384 ma).1
  if h : c < 48 then
    let q := s.dram.channels[c].queue
    if q.contains ma then
      let keep := (q.reverse.takeWhile (· != ma)).reverse
      ({ s with dram := { s.dram with rawHolds := s.dram.rawHolds + 1 } }).updChannel c fun x =>
        ({ x with queue := keep }).settle.readCheck line
    else s.updChannel c fun x => x.readCheck line
  else s

/-- The canonical form of module memory: addresses strictly rising, and no entry equal to what an unlisted address reads as. -/
def Memory.wf (m : Memory) : Bool := sparseWf m.bytes

/-- One byte of module memory; a byte nothing has written reads as zero. -/
def State.byteAt (s : State) (ma : Nat) : Byte := sparseRead s.mem.bytes ma

def State.bytesAt (s : State) (ma n : Nat) : List Byte := (List.range n).map fun i => s.byteAt (ma + i)

def State.wordAt (s : State) (ma : Nat) : Word := BitVec.ofNat 48 (leNat (s.bytesAt ma 6))

/-- Bytes are written at an address. -/
def putBytes (m : Sparse 8) (ma : Nat) : List Byte → Sparse 8
  | [] => m
  | b :: r => putBytes (sparseWrite m ma b) (ma + 1) r

/-- A slot joins those a donor has to copy again (R417). -/
def Mirror.markCopy (m : Mirror) (slot : Nat) : Mirror :=
  match m.join with
  | some j => if j.donor && !j.dirty.contains slot then { m with join := some { j with dirty := j.dirty ++ [slot] } } else m
  | none => m

/-- The slot is stored to: it is dirty for the next chrysalis (R362) and for a join (R417). -/
def State.markDirty (s : State) (slot : Nat) : State :=
  { s with mem := { s.mem with dirty := if s.mem.dirty.contains slot then s.mem.dirty else slot :: s.mem.dirty }
           mirror := s.mirror.markCopy slot }

/-- DETAIL of a memory fault (R237). -/
def memDetail (e384 : Bool) (event burst ma : Nat) : Nat :=
  event * 2 ^ 45 + burst * 2 ^ 43 + (if event < 4 then rankBank e384 ma * 2 ^ 38 + bitsOf ma 38 6 else 0)

/-- A FAULT record of a channel (R237): line errors at cell level, others at bank level. -/
def State.channelFault (s : State) (c event burst ma : Nat) : State :=
  s.raiseAt 0x0030 2 (location (if event < 4 then 0 else 2) 5 c) (memDetail s.e384 event burst ma) 0

/-- BURST of a report: 3 for a header (R237). -/
def burstField (l b : Nat) : Nat := if isHeader l then 3 else b

/-- What the check of a burst finds. -/
inductive BurstCheck where
  | clean | corrected | uncorrectable | miscorrected | missed
deriving DecidableEq, Repr

/-- The outcome of a burst by its symbols in error; for three or more the spec leaves it open, and a free value decides
(R235; DESIGN CHOICE, assumption 62). -/
def State.checkBurst (s : State) (symbols : Nat) : BurstCheck × State :=
  match symbols with
  | 0 => (.clean, s)
  | 1 => (.corrected, s)
  | 2 => (.uncorrectable, s)
  | _ => (match s.fresh.1 % 3 with
      | 0 => .uncorrectable
      | 1 => .miscorrected
      | _ => .missed, s.fresh.2)

/-- Checks the bursts of a unit, by the symbols in error that they hold. -/
def State.checkBursts (s : State) (l : Nat) : List (BurstCheck × Nat) × State :=
  (List.range (unitBytes l / 64)).foldl (fun (r : List (BurstCheck × Nat) × State) b =>
    let (o, s1) := r.2.checkBurst (lookupD r.2.dram.errors (l + 64 * b) 0)
    (r.1 ++ [(o, b)], s1)) ([], s)

/-- The first burst with one of some outcomes. -/
def firstCheck (l : List (BurstCheck × Nat)) (cs : List BurstCheck) : Option Nat := (l.find? fun p => cs.contains p.1).map fun p => p.2

/-- The check fields of a unit take the values of its bytes (R227, R229). -/
def State.writeCheck (s : State) (l : Nat) : State :=
  let (line, off) := checkPlace s.e384 l
  let field := (List.range (unitBytes l / 64)).flatMap fun b => leBytes 2 (Config.eccField (s.bytesAt (l + 64 * b) 64)).toNat
  { s with dram := { s.dram with check := putBytes s.dram.check (homeChannel s.e384 l * 2 ^ 28 + 192 * line + off) field } }

/-- A unit is written whole, check fields included: none of its symbols is in error. -/
def State.cleanUnit (s : State) (l : Nat) : State :=
  let s1 := s.writeCheck l
  { s1 with dram := { s1.dram with errors := s1.dram.errors.filter fun p => lineOf p.1 != l } }

/-- The lines of a slot, and its header. -/
def slotUnits (slot : Nat) : List Nat := ((List.range 5461).map fun i => slot * slotBytes + 192 * i) ++ [slot * slotBytes + lineArea]

/-- A slot is written whole, line by line and its header with it, check fields included (R227, R229). -/
def State.writeSlot (s : State) (slot : Nat) (bytes : List Byte) : State :=
  let s1 := { s with
    mem := { s.mem with bytes := putBytes s.mem.bytes (slot * slotBytes) bytes, poisoned := s.mem.poisoned.filter fun l => l / slotBytes != slot }
    dram := { s.dram with errors := s.dram.errors.filter fun p => p.1 / slotBytes != slot } }
  (slotUnits slot).foldl State.writeCheck s1

/-- One burst now holds some other 64 bytes, which the spec leaves open (DESIGN CHOICE, assumption 62). -/
def State.alterBurst (s : State) (ma : Nat) : State :=
  { s.fresh.2 with mem := { s.mem with bytes := putBytes s.mem.bytes ma (leBytes 64 s.fresh.1) } }

/-- Bursts that a code word too far away was taken for, or whose errors passed, hold free values from now on. -/
def State.alterBursts (s : State) (ma : Nat) (l : List (BurstCheck × Nat)) : State :=
  (l.filter fun p => p.1 == BurstCheck.miscorrected || p.1 == BurstCheck.missed).foldl
    (fun (s : State) p => s.alterBurst (ma + 64 * p.2)) s

/-- A corrected unit is counted and reported, and rewritten at once on port 13, in one sequence with its read (R234). -/
def State.correctUnit (s : State) (ma event burst : Nat) : State :=
  let s1 := { s with
    dram := { s.dram with corrected := (s.dram.corrected + 1) % 2 ^ 48 }
    health := { s.health with corrections := s.frame.frameNo :: s.health.corrections } }
  (s1.channelFault (homeChannel s.e384 ma) event burst ma).cleanUnit ma

/-- A unit is found uncorrectable: counted, recorded and reported (R236, R237). -/
def State.poisonUnit (s : State) (ma event burst : Nat) : State :=
  let s1 := if s.mem.poisoned.contains ma then s else { s with mem := { s.mem with poisoned := ma :: s.mem.poisoned } }
  ({ s1 with dram := { s1.dram with uncorrectable := (s1.dram.uncorrectable + 1) % 2 ^ 48, lastUeAddr := ma } }).channelFault
    (homeChannel s.e384 ma) event burst ma

/-- The first burst that made a unit uncorrectable. -/
def State.badBurst (s : State) (l : Nat) : Nat :=
  ((List.range (unitBytes l / 64)).find? fun b => decide (2 ≤ lookupD s.dram.errors (l + 64 * b) 0)).getD 0

/-- A unit is read and checked (R234 to R237): whether its data is good. A unit that was found uncorrectable stays so until it is
written whole. -/
def State.readUnit (s : State) (l : Nat) (scrub : Bool) : State × Bool :=
  if s.mem.poisoned.contains l then (s.poisonUnit l (if scrub then 3 else 2) (burstField l (s.badBurst l)), false)
  else if s.dram.errors.all fun p => lineOf p.1 != l then (s, true)
  else
    let (checks, s1) := s.checkBursts l
    match firstCheck checks [.uncorrectable] with
    | some b => (s1.poisonUnit l (if scrub then 3 else 2) (burstField l b), false)
    | none =>
      let s2 := s1.alterBursts l checks
      match firstCheck checks [.corrected, .miscorrected] with
      | some b => (s2.correctUnit l (if scrub then 1 else 0) (burstField l b), true)
      | none => (s2.cleanUnit l, true)

/-- Symbols of the bursts of a unit go wrong: each burst has at least so many in error. -/
def State.strikeUnit (s : State) (l : Nat) (symbols : List Nat) : State :=
  { s with dram := { s.dram with errors :=
      (symbols.take (unitBytes l / 64)).zipIdx.foldl (fun (m : List (Nat × Nat)) p =>
        let a := l + 64 * p.2
        if p.1 = 0 then m else insertK m a (max p.1 (lookupD m a 0))) s.dram.errors } }

/-- Runs of bytes are written into one line or header in one access. A write of the whole line replaces an uncorrectable
line; a partial write is counted and reads the old data with its check, and it writes nothing into an uncorrectable line, whose cached
copy it invalidates (R230, R236, R252). The second part says whether it was written. -/
def State.writeLine (s : State) (l : Nat) (whole : Bool) (ps : List (Nat × List Byte)) : State × Bool :=
  let (s1, ok) := if whole then ({ s with mem := { s.mem with poisoned := s.mem.poisoned.filter (· != l) } }, true)
    else ({ s with dram := { s.dram with partialWrites := s.dram.partialWrites + 1 } } : State).readUnit l false
  if !ok then (s1.cacheDrop l, false)
  else
    let s2 := { s1 with mem := { s1.mem with bytes := ps.foldl (fun m (p : Nat × List Byte) => putBytes m p.1 p.2) s1.mem.bytes } }
    (((s2.cleanUnit l).dramWrite l).markDirty (l / slotBytes), true)

/-- Cuts a run of bytes at line boundaries: address and bytes of each piece. -/
def linePieces : Nat → Nat → List Byte → List (Nat × List Byte)
  | 0, _, _ => []
  | fuel + 1, ma, bs =>
    if bs.isEmpty then []
    else
      let room := if isHeader ma then slotBytes - ma % slotBytes else 192 - (ma % slotBytes) % 192
      let room := if isHeader ma then room else min room (lineArea - ma % slotBytes)
      let n := max 1 (min room bs.length)
      (ma, bs.take n) :: linePieces fuel (ma + n) (bs.drop n)

/-- A write of a run of bytes, line by line. -/
def State.writeMem (s : State) (ma : Nat) (bs : List Byte) : State × Bool :=
  (linePieces bs.length ma bs).foldl (fun (p : State × Bool) x =>
    let (s1, ok) := p.1.writeLine (lineOf x.1) (decide (x.2.length = if isHeader x.1 then 64 else 192)) [x]
    (s1, p.2 && ok)) (s, true)

/-- A line is read for a requester: through the cache, then from its channel. The second part is false when the line is
uncorrectable (R236), and then no fill is made; a line fetched from DRAM by a tile counts toward the heat of its slot (R374). -/
def State.readLine (s : State) (ma : Nat) (who : Nat) (mayFill : Bool) : State × Bool :=
  let l := lineOf ma
  let (s1, hit) := s.cacheLookup l who mayFill
  if hit then (s1, true)
  else
    let (s2, ok) := (s1.dramRead l).readUnit l false
    if !ok then (s2, false)
    else
      let s3 := if mayFill && s2.cacheable l && s2.cache.state == 0 then s2.cacheFill l who false else s2
      let slot := l / slotBytes
      let heat := insertK s3.mem.heat slot (min (2 ^ 20) (lookupD s3.mem.heat slot 0 + 1))
      (if who < 64 then { s3 with mem := { s3.mem with heat := heat } } else s3, true)

/-- The lines that hold the bytes of a run. -/
def linesOf (ma n : Nat) : List Nat :=
  ((linePieces n ma (List.replicate n 0)).map fun p => lineOf p.1).foldr (fun x r => if r.contains x then r else x :: r) []

/-- The lines of a run are read one after another; the second part says whether all of them were good. -/
def State.readRange (s : State) (ma n who : Nat) (mayFill : Bool) : State × Bool :=
  (linesOf ma n).foldl (fun (p : State × Bool) l =>
    let (s1, ok) := p.1.readLine l who mayFill
    (s1, p.2 && ok)) (s, true)

end Sys2Proof.Machine
end

