-- ==== Sys2Proof/Machine/TileOps.lean ====
section
/-! DEFINITION. How a tile runs one instruction: fetch, the order of its checks (R185), traps (R164 to R167), failures (R507), and
access to memory (R149) and the scratchpad (R150). -/

namespace Sys2Proof.Machine

namespace Status
def ok : Nat := 0
def reservedField : Nat := 0x0001
def notPermitted : Nat := 0x0002
def writeFlag : Nat := 0x0003
def entryFetch : Nat := 0x0004
def squashed : Nat := 0x0005
def replayCut : Nat := 0x0006
def imageBad : Nat := 0x0101
def imageFetch : Nat := 0x0102
def imageWriteFlag : Nat := 0x0103
def quotaGap : Nat := 0x0104
def mergeOverdraw : Nat := 0x0105
def illegalInstruction : Nat := 0x0201
def segFault : Nat := 0x0202
def scratchRange : Nat := 0x0203
def pcRange : Nat := 0x0204
def breakpoint : Nat := 0x0205
def repeatState : Nat := 0x0207
def unitArgument : Nat := 0x0208
def arithOverflow : Nat := 0x0209
def divZero : Nat := 0x020A
def columnMismatch : Nat := 0x0301
def pccBadHeader : Nat := 0x0302
def pccBadGroup : Nat := 0x0303
def pccTruncated : Nat := 0x0304
def dictCollision : Nat := 0x0305
def dictFull : Nat := 0x0306
def stringTooLong : Nat := 0x0307
def spanFull : Nat := 0x0308
def carafeSpace : Nat := 0x0309
def resultSpace : Nat := 0x030A
def codecSpace : Nat := 0x0401
def stoppedSpace : Nat := 0x0402
def expansionLimit : Nat := 0x0403
def kmaFull : Nat := 0x0501
def kmaSpilled : Nat := 0x0502
def kmaEcc : Nat := 0x0503
def kmaNoTable : Nat := 0x0504
def kmaExists : Nat := 0x0505
def kmaArgument : Nat := 0x0506
def kmaOrder : Nat := 0x0507
def memUncorrectable : Nat := 0x0601
def segmentLost : Nat := 0x0602
def segRange : Nat := 0x0603
def segOverlap : Nat := 0x0604
def quotaExceeded : Nat := 0x0605
def manageArgument : Nat := 0x0606
def carafeLost : Nat := 0x0701
def moverReadError : Nat := 0x0702
def holdOverflow : Nat := 0x0703
def persistTooSmall : Nat := 0x0801
def restoreNoSet : Nat := 0x0802
def restoreSetMismatch : Nat := 0x0803
def restoreKey : Nat := 0x0804
def restoreMember : Nat := 0x0805
def restoreSegmentLost : Nat := 0x0806
def bootFwFail : Nat := 0x0901
def memTrainFail : Nat := 0x0902
def selftestFail : Nat := 0x0903
end Status

/-! ### Segment descriptors (R67, R69) -/

def descKind (d : BitVec 192) : Nat := (d.extractLsb' 108 4).toNat
def descPersist (d : BitVec 192) : Bool := d.getLsbD 98
def descWr (d : BitVec 192) : Bool := d.getLsbD 97
def descRd (d : BitVec 192) : Bool := d.getLsbD 96
def descLimit (d : BitVec 192) : Nat := (d.extractLsb' 48 36).toNat
def descBase (d : BitVec 192) : Nat := (d.extractLsb' 0 48).toNat
def descSpan (d : BitVec 192) : Nat := (d.extractLsb' 144 48).toNat

/-- Segments of a span (R299). -/
def descSegs (d : BitVec 192) : Nat := ceilDiv (descLimit d + 1) slotBytes

/-- The descriptor behind a selector of an instance; an unused one is all zero. -/
def State.desc (s : State) (inst sel : Nat) : BitVec 192 :=
  if sel = 0 then 0 else lookupD s.host.descs (4096 * inst + sel) 0

def selOf (a : Word) : Nat := (a.extractLsb' 36 12).toNat
def offOf (a : Word) : Nat := (a.extractLsb' 0 36).toNat

/-- The header of a new segment: its kind and its position in its span, everything else zero (R56). -/
def newHeader (kind seq : Nat) : List Byte := leBytes 2 0x7353 ++ leBytes 1 1 ++ leBytes 1 kind ++ List.replicate 12 0 ++ leBytes 6 seq ++ List.replicate 42 0

/-- The header of segment k of a span; a segment that holds none of the span's kind is a new one. -/
def State.segmentHeader (s : State) (d : BitVec 192) (k : Nat) : List Byte :=
  let h := s.bytesAt (descBase d + k * slotBytes + lineArea) 64
  if fieldNat h 0 2 = 0x7353 ∧ fieldNat h 3 1 = descKind d then h else newHeader (descKind d) k

/-- The merge has changed n bytes at an offset of a span (R56): USED_LINES covers them, and WRITE_FRAME is the frame. -/
def State.noteWrite (s : State) (d : BitVec 192) (off n : Nat) : State :=
  if n = 0 then s
  else
    let k := off / slotBytes
    let h := s.segmentHeader d k
    let used := max (fieldNat h 34 2) (ceilDiv (off % slotBytes + n) 192)
    (s.writeMem (descBase d + k * slotBytes + lineArea) (overlay (overlay h 34 (leBytes 2 used)) 54 (leBytes 6 s.frame.frameNo))).1

/-! ### What an instruction does to its tile -/

/-- The outcome of an instruction's own effect. -/
inductive Effect where
  /-- it completes, or stays on its place with changed registers -/
  | done (s : State) (c : Ctx)
  /-- a trap (R164): cause, status, TADDR and TINFO; `c` holds what completed iterations of a repeat did -/
  | trap (cause status : Nat) (addr info : Word) (s : State) (c : Ctx)
  /-- a demand-restore wait for a slot (R162) -/
  | wait (slot : Nat) (s : State) (c : Ctx)
  /-- the entry ends with a status and no trap -/
  | fail (status : Nat) (s : State) (c : Ctx)
  /-- it waits for a pending result (R152), so it does not complete yet -/
  | stall

/-- Where an instruction may run (R174, R182). -/
inductive Where where
  | anywhere | program | handler
deriving DecidableEq, Repr

/-- TINFO (R166). -/
def tinfo (check lane : Nat) (store : Bool) : Word :=
  BitVec.ofNat 48 (check + 8 * lane + if store then 32 else 0)

def segTrap (check lane : Nat) (store : Bool) (addr : Word) (s : State) (c : Ctx) : Effect :=
  .trap 2 Status.segFault addr (tinfo check lane store) s c

def scratchTrap (index lane : Nat) (store : Bool) (s : State) (c : Ctx) : Effect :=
  .trap 3 Status.scratchRange (BitVec.ofNat 48 index) (tinfo 0 lane store) s c

/-- The next instruction; running past index 0x3FFF in trap mode ends the entry (R176). -/
def stepOn (s : State) (c : Ctx) : Effect :=
  if c.trap.isSome ∧ c.pc = 0x3FFF then .trap 4 Status.pcRange 0x4000 0 s c else .done s { c with pc := c.pc + 1 }

/-- A taken branch (R176). -/
def branchTo (target : BitVec 14) (s : State) (c : Ctx) (before : Ctx) : Effect :=
  if c.trap.isNone ∧ 0x3C00 ≤ target.toNat then .trap 4 Status.pcRange (target.setWidth 48) 0 s before
  else .done s { c with pc := target }

/-- The head context of a tile. -/
def State.head? (s : State) (t : Fin 64) : Option Ctx := s.tiles[t].ctxs.head?

def State.setHead (s : State) (t : Fin 64) (c : Ctx) : State :=
  s.setTile t { s.tiles[t] with ctxs := c :: s.tiles[t].ctxs.drop 1 }

def State.yieldTile (s : State) (t : Fin 64) : State := s.setTile t { s.tiles[t] with yielded := true }

/-- A failure of the entry a tile runs: the tile stops and yields (R117, R507). -/
def State.tileFail (s : State) (t : Fin 64) (c : Ctx) (status detail : Nat) : State :=
  ((s.setHead t c).failEntry c.slot { pos := c.qpos, tile := t.val, status := status, detail := detail }).yieldTile t

/-- Trap entry (R166), or the end of the entry when a trap is raised in trap mode (R167). -/
def State.takeTrap (s : State) (t : Fin 64) (c : Ctx) (w : Word) (cause status : Nat) (addr info : Word) : State :=
  match c.trap with
  | some r => s.tileFail t c status r.tpc.toNat
  | none =>
    let r : TrapRegs :=
      { status := status, tpc := c.pc, tcause := BitVec.ofNat 8 cause, tinst := w, taddr := addr, tinfo := info,
        ta := Vector.replicate 8 0, td := Vector.replicate 4 (quadOf 0) }
    s.setHead t { c with trap := some r, pc := BitVec.ofNat 14 (0x3C00 + 16 * cause) }

/-- A SQUASH entry that has begun and has still to act (R305, R307). -/
def WorkEntry.squashes (e : WorkEntry) : Bool :=
  e.entry.extractLsb' 0 8 == 4 && e.desc.extractLsb' 0 8 == 2 && e.begun && !e.active && e.finished.isNone && e.refuse == 0

/-- Replay executes frames (R377). -/
def State.replaying (s : State) : Bool := s.boot.stage == 4 && s.persist.state == 3 && !s.frozen

/-- Restore fails with a status, and the engine does not serve (R380, R476). -/
def State.failRestore (s : State) (status : Nat) : State :=
  { s with boot := { s.boot with stage := 7, code := status }, persist := { s.persist with restoreStatus := status, restoreRead := none } }

/-- A slot that is lost, when no replay waits on it (R378). -/
def State.gone (s : State) (slot : Nat) : Bool := s.mem.lost.contains slot && !s.replaying

/-- An access waits for a slot; a replay that waits on a lost slot ends the restore (R378). -/
def State.awaitSlot (s : State) (slot : Nat) : State :=
  if s.replaying && s.mem.lost.contains slot then s.failRestore Status.restoreSegmentLost else s.askSlot slot

/-- The slots an access of an engine needs: one that has to be waited for, the status when one is lost, or none (R162, R378). -/
def State.spanWait (s : State) (slots : List Nat) : Option (Nat ⊕ Nat) :=
  match slots.find? fun x => !s.resident x with
  | none => none
  | some x => some (if slots.any fun y => s.gone y then .inr Status.segmentLost else .inl x)

/-- The engine reads and lists entries of its own rings: it is solo or the sequencer (R391, R419). -/
def State.listsOwn (s : State) : Bool := s.mirror.state == 0 || s.mirror.state == 4

/-- The engine is in a chain and is not its tail, so the tail's OUT_FRAME governs its PRODUCERs (R392). -/
def State.chained (s : State) : Bool :=
  s.od 0x5000 1 == 2 && (s.mirror.state == 3 || s.mirror.state == 4) && s.mirror.portB.peer != 0xFFFF
    && !(match s.mirror.join with
      | some j => j.donor
      | none => false)

/-- The engine executes frames: it serves or replays, the frame's merge has not begun, and no SQUASH has still to act. -/
def State.executing (s : State) : Bool :=
  (s.serving || s.replaying) && !s.frame.mergeDone && !s.frame.merging && !s.work.any WorkEntry.squashes

/-- A tile other than t has passed, or cannot pass, the counter q in entry `slot` (R117). -/
def otherPast (s : State) (t : Fin 64) (slot : Nat) : Bool :=
  (List.finRange 64).all fun u =>
    u == t || s.tiles[u].yielded || !s.tiles[u].ctxs.any (fun c => c.slot == slot) || decide (s.tiles[t].beats ≤ s.tiles[u].beats)

/-- Before it runs another entry, a tile waits for the entries whose part it finished in the frame (R117). -/
def State.mayRun (s : State) (t : Fin 64) (slot : Nat) : Bool :=
  s.tiles[t].ran.all fun p => p.1 == slot || otherPast s t p.1

/-- An entry the tile ran in this frame has failed at or below one of its quota points (R117). -/
def State.overtaken (s : State) (t : Fin 64) : Bool :=
  s.tiles[t].ran.any fun p => match s.entry? p.1 with
    | some e => match e.fail with
      | some f => decide (f.pos ≤ p.2)
      | none => false
    | none => false

/-- n from -18 to 18, of RSCL and RSCLX (R183). -/
def scaleOf (b : BitVec 6) : Int := b.toInt

def scaleOk (b : BitVec 6) : Bool := decide (-18 ≤ scaleOf b) && decide (scaleOf b ≤ 18)

/-- The opcode and fields of a word. -/
def opcodeOf (w : Word) : Nat := (w.extractLsb' 40 8).toNat

/-- Words that the emulation library carries out: the opcodes of R183 with no reserved field value. -/
def emulatedWord (w : Word) : Bool :=
  let f := w.extractLsb' 0 40
  match opcodeOf w with
  | 0xC0 => zeros f 28 24 && zeros f 21 0
  | 0xC1 => zeros f 28 24 && zeros f 21 0
  | 0xC2 => zeros f 27 6 && scaleOk (f.extractLsb' 0 6)
  | 0xC3 => zeros f 33 24 && zeros f 15 0 && scaleOk (f.extractLsb' 16 6)
  | _ => false

/-- TEND. -/
def tendWord : Word := instrWord 0xB5 0

/-- The instruction at the PC: outside trap mode the image's code, and zero words up to 0x3BFF (R136). In trap mode it is the trap
region's (R165), whose vectors of causes other than EMULATE end the entry at once, and whose EMULATE vector returns to the program
only from a word that the library emulates (R167). -/
def State.fetch (s : State) (c : Ctx) : Word :=
  match c.trap with
  | none => c.code.getD c.pc.toNat 0
  | some r =>
    if r.tcause ≠ 1 then tendWord
    else
      let w := if c.pc.toNat < 0x3C00 then c.code.getD c.pc.toNat 0 else s.boot.library.getD (c.pc.toNat - 0x3C00) 0
      if (opcodeOf w == 0xB3 || opcodeOf w == 0xB4) && !emulatedWord r.tinst then tendWord else w

/-- What a tile needs to run: its head context, the entry and its image. -/
def State.runner (s : State) (t : Fin 64) : Option (Ctx × WorkEntry × Image) :=
  match s.head? t with
  | none => none
  | some c =>
    match s.entry? c.slot with
    | none => none
    | some e =>
      match e.image with
      | none => none
      | some img =>
        if s.executing && !s.tiles[t].yielded && c.waiting.isNone && s.mayRun t c.slot then some (c, e, img) else none

/-- The engine holds a reset record of an instance in the list of the next frame (R308). -/
def State.resetNext (s : State) (inst : Nat) : Bool :=
  (s.frame.next.records.any fun r => r.reset && r.inst == inst) || s.mirror.listedResets.contains (s.frame.frameNo + 1, inst)

/-- A demand-restore wait of a context is over for good: its entry is read-only and its instance is reset at the next tick (R308). -/
def State.waitOver (s : State) (c : Ctx) : Bool := match s.entry? c.slot with
  | some e => !e.writes && s.resetNext e.inst
  | none => false

/-- A tile waits for a slot (R162, R163), or counts as yielded where R308 ends the wait. -/
def State.tileWaits (s : State) (t : Fin 64) (c : Ctx) (slot : Nat) : State :=
  if s.waitOver c then (s.setHead t c).yieldTile t else (s.awaitSlot slot).setHead t { c with waiting := some slot }

/-- The waits that R308 ends, now that the engine holds the list of the next frame. -/
def State.endResetWaits (s : State) : State :=
  let isOver (x : Tile) : Bool := x.ctxs.any fun c => c.waiting.isSome && s.waitOver c
  { s with tiles := s.tiles.map fun (x : Tile) =>
      if isOver x then { x with yielded := true, ctxs := x.ctxs.map fun c => if s.waitOver c then { c with waiting := none } else c } else x }

/-- The effect of an instruction is put into the state of its tile. -/
def State.conclude (s : State) (t : Fin 64) (w : Word) : Effect → State
  | .done s' c => s'.setHead t c
  | .trap cause status addr info s' c => s'.takeTrap t c w cause status addr info
  | .wait slot s' c => s'.tileWaits t c slot
  | .fail status s' c => s'.tileFail t c status 0
  | .stall => s

/-- A tile runs the instruction word w, in the order of R185: PC trap at fetch, then EMULATE for a reserved value, then the
instruction's own effect. A command whose word is not the one at the PC cannot occur. -/
def runInstr (t : Fin 64) (w : Word) (wh : Where) (reserved : Image → Bool)
    (sem : State → Ctx → WorkEntry → Image → Effect) (s : State) : State :=
  match s.runner t with
  | none => s
  | some (c, e, img) =>
    if s.overtaken t then s.yieldTile t
    else if c.trap.isNone ∧ 0x3C00 ≤ c.pc.toNat then s.takeTrap t c w 4 Status.pcRange (c.pc.setWidth 48) 0
    else if s.fetch c ≠ w then s
    else if reserved img || (c.trap.isSome && wh == .program) || (c.trap.isNone && wh == .handler) then
      s.takeTrap t c w 1 Status.illegalInstruction 0 0
    else s.conclude t w (sem s c e img)

/-! ### The scratchpad (R150, R152) -/

def spWordsTotal : Nat := 98304

/-- A pending result will write one of n words from i on (R152). -/
def Ctx.spBusy (c : Ctx) (i n : Nat) : Bool :=
  c.pending.any fun p => decide (i < p.first + p.len) && decide (p.first < i + n)

/-- The index an A register gives: its bits [16:0] (R150). -/
def spPtr (a : Word) : Nat := a.toNat % 2 ^ 17

/-- First index of a run that is not a scratchpad word. -/
def spFail (i n : Nat) : Option Nat := if i + n ≤ spWordsTotal ∨ n = 0 then none else some (max i spWordsTotal)

/-! ### Memory access of a tile (R149) -/

/-- Test 1 of R149 and checks 1 and 2 of R69; the number is TINFO.CHECK. -/
def segOpen (s : State) (e : WorkEntry) (img : Image) (store : Bool) (addr : Word) : Except Nat (BitVec 192) :=
  let sel := selOf addr
  if !img.sets.any (fun p => p.1 == sel && (p.2 || !store)) then .error 5
  else
    let d := s.desc e.inst sel
    if descKind d = 0 ∨ sel = 0 then .error 1
    else if !(if store then descWr d else descRd d) then .error 2
    else .ok d

/-- A well-formed word or line access (R55), by segment offset. -/
def wellFormedAt (line : Bool) (so : Nat) : Bool :=
  if line then so % 192 == 0 && decide (so < lineArea) else so % 6 == 0 && decide (so ≤ lineArea + 54)

/-- A store lies in the rank part of the tile (R114), by offset in the span. -/
def inRankPart (c : Ctx) (d : BitVec 192) (off : Nat) : Bool :=
  let part := descSegs d / c.tiles
  decide (c.rank * part * slotBytes ≤ off) && decide (off < (c.rank + 1) * part * slotBytes)

/-- Check 4 of R69 and tests 3 and 4 of R149 for one word or line: its module address. -/
def segPlace (c : Ctx) (d : BitVec 192) (store line : Bool) (off : Nat) : Except Nat Nat :=
  let ma := descBase d + off
  if !wellFormedAt line (ma % slotBytes) then .error 4
  else if store && isHeader ma then .error 7
  else if store && !inRankPart c d off then .error 6
  else .ok ma

/-- One word or line, all of tests 1 to 4. -/
def segOne (s : State) (c : Ctx) (e : WorkEntry) (img : Image) (store line : Bool) (addr : Word) : Except Nat Nat :=
  match segOpen s e img store addr with
  | .error n => .error n
  | .ok d =>
    if descLimit d < offOf addr + (if line then 192 else 6) - 1 then .error 3 else segPlace c d store line (offOf addr)

/-- Test 5: the first slot, among those of the words, that is not resident; a lost slot ends the entry (R378). -/
def awaitSlots (s : State) (mas : List Nat) : Option Nat := (mas.map (· / slotBytes)).find? fun x => !s.resident x

/-- Runs the access once tests 1 to 4 have passed: residency, lost slots, then the lines of the words are read; a line that
is uncorrectable ends the entry (R236). -/
def withLines (s : State) (c : Ctx) (e : WorkEntry) (mas : List Nat) (k : State → Effect) : Effect :=
  match awaitSlots s mas with
  | some slot => if s.gone slot then .fail Status.segmentLost s c else .wait slot s c
  | none =>
    let lines := (mas.map lineOf).foldr (fun x r => if r.contains x then r else x :: r) []
    let (s1, ok) := lines.foldl (fun (p : State × Bool) l => let (s', b) := p.1.readLine l e.inst true; (s', p.2 && b)) (s, true)
    if ok then k s1 else .fail Status.memUncorrectable s1 c

/-- The same for stores: residency, then the words are written in order. -/
def withStores (s : State) (c : Ctx) (ws : List (Nat × List Byte)) (k : State → Effect) : Effect :=
  match awaitSlots s (ws.map (·.1)) with
  | some slot => if s.gone slot then .fail Status.segmentLost s c else .wait slot s c
  | none =>
    let lines := (ws.map fun w => lineOf w.1).foldr (fun x r => if r.contains x then r else x :: r) []
    let put (p : State × Bool) (l : Nat) : State × Bool :=
      let ps := ws.filter fun w => lineOf w.1 == l
      let (s', b) := p.1.writeLine l (ps.any fun w => w.2.length == 192) ps
      (s', p.2 && b)
    let (s1, ok) := lines.foldl put (s, true)
    let modifying := match s.entry? c.slot with
      | some e => e.writes
      | none => false
    let s2 := if modifying then ws.foldl (fun (x : State) (w : Nat × List Byte) => x.sumStore w.1 w.2) s1 else s1
    if ok then k s2 else .fail Status.memUncorrectable s1 c

/-- Enabled lanes of a mask register, ascending. -/
def Ctx.lanes (c : Ctx) (kn : Fin 4) : List (Fin 4) := (List.finRange 4).filter fun n => c.enabled kn n

/-- The words of a quad access (R149): check and lane of a failure, or lane and module address of each enabled word. -/
def segQuad (s : State) (c : Ctx) (e : WorkEntry) (img : Image) (store : Bool) (ea : Word) (lanes : List (Fin 4)) :
    Except (Nat × Nat) (List (Fin 4 × Nat)) :=
  match segOpen s e img store ea with
  | .error n => .error (n, (lanes.head?.map fun l => l.val).getD 0)
  | .ok d =>
    match lanes.find? fun n => decide (descLimit d < offOf ea + 6 * n.val + 5) with
    | some n => .error (3, n.val)
    | none => lanes.mapM fun n => match segPlace c d store false (offOf ea + 6 * n.val) with
      | .error k => .error (k, n.val)
      | .ok ma => .ok (n, ma)

/-- The words of a gather (R149). -/
def segGather (s : State) (c : Ctx) (e : WorkEntry) (img : Image) (addr : Fin 4 → Word) (lanes : List (Fin 4)) :
    Except (Nat × Nat) (List (Fin 4 × Nat)) :=
  lanes.mapM fun n => match segOne s c e img false false (addr n) with
    | .error k => .error (k, n.val)
    | .ok ma => .ok (n, ma)

/-- The value a lane list gives for a lane. -/
def laneAddr (l : List (Fin 4 × Nat)) (n : Fin 4) : Option Nat := (l.find? fun p => p.1 == n).map (·.2)

/-! ### Data class plumbing (R142, R143, R147) -/

/-- A data-class instruction: each enabled lane takes the lane result, its flags, and sets LX.OV with V and LX.DZ with a zero
divisor; disabled lanes keep everything. -/
def dataLanes (c : Ctx) (kn : Fin 4) (dst : Option (Fin 32)) (g : Fin 4 → LaneOut) : Ctx :=
  let on := fun n => c.enabled kn n
  let c1 := match dst with
    | some d => c.setD d (quad fun n => if on n then (g n).r else (c.getD d)[n])
    | none => c
  { c1 with
    fl := packFlags fun n => if on n then flagNibble (laneFlags c.fl n) (g n) else laneFlags c.fl n
    lx := c.lx ||| (packMask (fun n => on n && (g n).v) ++ packMask fun n => on n && (g n).dz) }

/-- An accumulator-class instruction: each enabled lane takes the saturated result and sets its bit of XS (R146). -/
def accLanes (c : Ctx) (kn : Fin 4) (xd : Fin 8) (g : Fin 4 → Int) : Ctx :=
  let on := fun n => c.enabled kn n
  let c1 := c.setX xd (Vector.ofFn fun n => if on n then (saturate (g n)).1 else (c.getX xd)[n])
  { c1 with xs := c.xs ||| packMask fun n => on n && (saturate (g n)).2 }

end Sys2Proof.Machine
end

