-- ==== Sys2Proof/Machine/Address.lean ====
section
/-! DEFINITION. The address-class instructions (R176), which set no flag and carry no mask (R138). -/

namespace Sys2Proof.Machine

/-- An instruction whose effect is on its tile's registers alone. -/
def simple (t : Fin 64) (op : BitVec 8) (f : BitVec 40) (wellFormed : Bool) (sem : Ctx → Ctx) (s : State) : State :=
  runInstr t (instrWord op f) .anywhere (fun _ => !wellFormed) (fun s c _ _ => stepOn s (sem c)) s

/-- A branch: taken to its target, or to the next instruction (R140, R176). -/
def branch (t : Fin 64) (op : BitVec 8) (f : BitVec 40) (wellFormed : Bool) (taken : Ctx → Bool) (s : State) : State :=
  runInstr t (instrWord op f) .anywhere (fun _ => !wellFormed)
    (fun s c _ _ => if taken c then branchTo (fTarget f) s c c else stepOn s c) s

/-- Ad := Aa (R176). -/
def execMova (t : Fin 64) (f : BitVec 40) (s : State) : Host.Outcome State Fault Refusal :=
  .next (simple t 0x01 f (zeros f 31 0) (fun c => c.setA (fA f 36) (c.getA (fA f 32))) s)

/-- Ad := imm (R176). -/
def execMovi (t : Fin 64) (f : BitVec 40) (s : State) : Host.Outcome State Fault Refusal :=
  .next (simple t 0x02 f (zeros f 35 32) (fun c => c.setA (fA f 36) (fImm f 0 32)) s)

/-- Ad[47:32] := imm[15:0], the rest unchanged (R176). -/
def execMovh (t : Fin 64) (f : BitVec 40) (s : State) : Host.Outcome State Fault Refusal :=
  .next (simple t 0x03 f (zeros f 35 16) (fun c => c.setA (fA f 36) (f.extractLsb' 0 16 ++ (c.getA (fA f 36)).extractLsb' 0 32)) s)

/-- Ad := Aa + Ab modulo 2^48 (R176). -/
def execAdda (t : Fin 64) (f : BitVec 40) (s : State) : Host.Outcome State Fault Refusal :=
  .next (simple t 0x04 f (zeros f 27 0) (fun c => c.setA (fA f 36) ((c.getA (fA f 32)) + (c.getA (fA f 28)))) s)

/-- Ad := Aa + imm modulo 2^48 (R176). -/
def execAddai (t : Fin 64) (f : BitVec 40) (s : State) : Host.Outcome State Fault Refusal :=
  .next (simple t 0x05 f (true) (fun c => c.setA (fA f 36) ((c.getA (fA f 32)) + fImm f 0 32)) s)

/-- Ad := Aa - Ab modulo 2^48 (R176). -/
def execSuba (t : Fin 64) (f : BitVec 40) (s : State) : Host.Outcome State Fault Refusal :=
  .next (simple t 0x06 f (zeros f 27 0) (fun c => c.setA (fA f 36) ((c.getA (fA f 32)) - (c.getA (fA f 28)))) s)

/-- Ad := 0 - Aa modulo 2^48 (R176). -/
def execNega (t : Fin 64) (f : BitVec 40) (s : State) : Host.Outcome State Fault Refusal :=
  .next (simple t 0x07 f (zeros f 31 0) (fun c => c.setA (fA f 36) (0 - (c.getA (fA f 32)))) s)

/-- Address-class shift by Ab[7:0] (R176). -/
def execShla (t : Fin 64) (f : BitVec 40) (s : State) : Host.Outcome State Fault Refusal :=
  .next (simple t 0x08 f (zeros f 27 0) (fun c => c.setA (fA f 36) (shl (c.getA (fA f 32)) (countOf (c.getA (fA f 28))))) s)

/-- Address-class shift by an immediate count (R176). -/
def execShlai (t : Fin 64) (f : BitVec 40) (s : State) : Host.Outcome State Fault Refusal :=
  .next (simple t 0x0B f (zeros f 31 8) (fun c => c.setA (fA f 36) (shl (c.getA (fA f 32)) (fNat f 0 8))) s)

/-- Address-class shift by Ab[7:0] (R176). -/
def execShra (t : Fin 64) (f : BitVec 40) (s : State) : Host.Outcome State Fault Refusal :=
  .next (simple t 0x09 f (zeros f 27 0) (fun c => c.setA (fA f 36) (shr (c.getA (fA f 32)) (countOf (c.getA (fA f 28))))) s)

/-- Address-class shift by an immediate count (R176). -/
def execShrai (t : Fin 64) (f : BitVec 40) (s : State) : Host.Outcome State Fault Refusal :=
  .next (simple t 0x0C f (zeros f 31 8) (fun c => c.setA (fA f 36) (shr (c.getA (fA f 32)) (fNat f 0 8))) s)

/-- Address-class shift by Ab[7:0] (R176). -/
def execSara (t : Fin 64) (f : BitVec 40) (s : State) : Host.Outcome State Fault Refusal :=
  .next (simple t 0x0A f (zeros f 27 0) (fun c => c.setA (fA f 36) (sar (c.getA (fA f 32)) (countOf (c.getA (fA f 28))))) s)

/-- Address-class shift by an immediate count (R176). -/
def execSarai (t : Fin 64) (f : BitVec 40) (s : State) : Host.Outcome State Fault Refusal :=
  .next (simple t 0x0D f (zeros f 31 8) (fun c => c.setA (fA f 36) (sar (c.getA (fA f 32)) (fNat f 0 8))) s)

/-- Branches when the condition holds between two A registers (R140). -/
def execBra (t : Fin 64) (f : BitVec 40) (s : State) : Host.Outcome State Fault Refusal :=
  .next (branch t 0x10 f (zeros f 28 14 && decide (fNat f 37 3 < 6))
    (fun c => addrCond (f.extractLsb' 37 3) (c.getA (fA f 33)) (c.getA (fA f 29))) s)

/-- Branches when the condition holds between an A register and an immediate, sign-extended for every condition (R184). -/
def execBrai (t : Fin 64) (f : BitVec 40) (s : State) : Host.Outcome State Fault Refusal :=
  .next (branch t 0x11 f (decide (fNat f 37 3 < 6))
    (fun c => addrCond (f.extractLsb' 37 3) (c.getA (fA f 33)) (fImm f 14 19)) s)

/-- Unconditional branch (R176). -/
def execJmp (t : Fin 64) (f : BitVec 40) (s : State) : Host.Outcome State Fault Refusal :=
  .next (branch t 0x12 f (zeros f 39 14) (fun _ => true) s)

/-- A15 := PC + 1, then branch; a branch that traps writes nothing (R140, R164). -/
def execCall (t : Fin 64) (f : BitVec 40) (s : State) : Host.Outcome State Fault Refusal :=
  .next (runInstr t (instrWord 0x13 f) .anywhere (fun _ => !zeros f 39 14)
    (fun s c _ _ => branchTo (fTarget f) s (c.setA 15 (BitVec.ofNat 48 (c.pc.toNat + 1))) c) s)

/-- Branches to Aa[13:0]; PC trap when a bit above is set (R140). -/
def execJmpr (t : Fin 64) (f : BitVec 40) (s : State) : Host.Outcome State Fault Refusal :=
  .next (runInstr t (instrWord 0x14 f) .anywhere (fun _ => !zeros f 35 0)
    (fun s c _ _ =>
      let a := c.getA (fA f 36)
      if 2 ^ 14 ≤ a.toNat then .trap 4 Status.pcRange a 0 s c else branchTo (a.setWidth 14) s c c) s)

/-- Ad := the frame time stamp (R43). -/
def execFtime (t : Fin 64) (f : BitVec 40) (s : State) : Host.Outcome State Fault Refusal :=
  .next (runInstr t (instrWord 0x15 f) .anywhere (fun _ => !zeros f 35 0)
    (fun s c _ _ => stepOn s (c.setA (fA f 36) s.frame.header.tstamp)) s)

end Sys2Proof.Machine
end

