-- ==== Sys2Proof/Machine/Accumulator.lean ====
section
/-! DEFINITION. The accumulator-class instructions (R178), which saturate and set XS (R146), and the emulated instructions
(R183). -/

namespace Sys2Proof.Machine

/-- The second register of a D pair. -/
def odd (d : Fin 32) : Fin 32 := d + 1

/-- Xa + sign-extended Da (R178). -/
def execXadd (t : Fin 64) (f : BitVec 40) (s : State) : Host.Outcome State Fault Refusal :=
  .next (simple t 0x60 f (zeros f 28 24 && zeros f 21 0) (fun c => accLanes c (fK f 22) (fX f 37) fun n => ((c.getX (fX f 34))[n]).toInt + ((c.getD (fD f 29))[n]).toInt) s)

/-- Xa + zero-extended Da (R178). -/
def execXaddu (t : Fin 64) (f : BitVec 40) (s : State) : Host.Outcome State Fault Refusal :=
  .next (simple t 0x61 f (zeros f 28 24 && zeros f 21 0) (fun c => accLanes c (fK f 22) (fX f 37) fun n => ((c.getX (fX f 34))[n]).toInt + (((c.getD (fD f 29))[n]).toNat : Int)) s)

/-- Xa + Da × Db, signed (R178). -/
def execXmac (t : Fin 64) (f : BitVec 40) (s : State) : Host.Outcome State Fault Refusal :=
  .next (simple t 0x62 f (zeros f 21 0) (fun c => accLanes c (fK f 22) (fX f 37) fun n => ((c.getX (fX f 34))[n]).toInt + ((c.getD (fD f 29))[n]).toInt * ((c.getD (fD f 24))[n]).toInt) s)

/-- Xa + Da × Db, unsigned (R178). -/
def execXmacu (t : Fin 64) (f : BitVec 40) (s : State) : Host.Outcome State Fault Refusal :=
  .next (simple t 0x63 f (zeros f 21 0) (fun c => accLanes c (fK f 22) (fX f 37) fun n => ((c.getX (fX f 34))[n]).toInt + ((((c.getD (fD f 29))[n]).toNat * ((c.getD (fD f 24))[n]).toNat : Nat) : Int)) s)

/-- Signed minimum of Xa and sign-extended Da (R178). -/
def execXmin (t : Fin 64) (f : BitVec 40) (s : State) : Host.Outcome State Fault Refusal :=
  .next (simple t 0x64 f (zeros f 28 24 && zeros f 21 0) (fun c => accLanes c (fK f 22) (fX f 37) fun n => min ((c.getX (fX f 34))[n]).toInt ((c.getD (fD f 29))[n]).toInt) s)

/-- Signed maximum of Xa and sign-extended Da (R178). -/
def execXmax (t : Fin 64) (f : BitVec 40) (s : State) : Host.Outcome State Fault Refusal :=
  .next (simple t 0x65 f (zeros f 28 24 && zeros f 21 0) (fun c => accLanes c (fK f 22) (fX f 37) fun n => max ((c.getX (fX f 34))[n]).toInt ((c.getD (fD f 29))[n]).toInt) s)

/-- Xa + 1 (R178). -/
def execXcnt (t : Fin 64) (f : BitVec 40) (s : State) : Host.Outcome State Fault Refusal :=
  .next (simple t 0x66 f (zeros f 33 24 && zeros f 21 0) (fun c => accLanes c (fK f 22) (fX f 37) fun n => ((c.getX (fX f 34))[n]).toInt + 1) s)

/-- Xd := the D pair, the even register in bits [47:0]; no saturation (R146) (R178). -/
def execXfromd (t : Fin 64) (f : BitVec 40) (s : State) : Host.Outcome State Fault Refusal :=
  .next (simple t 0x67 f (zeros f 36 34 && zeros f 29 29 && zeros f 28 24 && zeros f 21 0) (fun c => c.setX (fX f 37) (Vector.ofFn fun n => if c.enabled (fK f 22) n then (c.getD (odd (fD f 29)))[n] ++ (c.getD (fD f 29))[n] else (c.getX (fX f 37))[n])) s)

/-- The D pair := Xa (R146) (R178). -/
def execXtod (t : Fin 64) (f : BitVec 40) (s : State) : Host.Outcome State Fault Refusal :=
  .next (simple t 0x68 f (zeros f 39 37 && zeros f 29 29 && zeros f 28 24 && zeros f 21 0) (fun c => (c.setD (fD f 29) (quad fun n => if c.enabled (fK f 22) n then ((c.getX (fX f 34))[n]).extractLsb' 0 48 else (c.getD (fD f 29))[n])).setD (odd (fD f 29)) (quad fun n => if c.enabled (fK f 22) n then ((c.getX (fX f 34))[n]).extractLsb' 48 48 else (c.getD (odd (fD f 29)))[n])) s)

/-- An emulated instruction (R183): outside trap mode the library carries it out, honouring Kn, and continues at the next
instruction; a reserved field value, and the opcode in trap mode, end the entry with ILLEGAL_INSTRUCTION. -/
def emulated (t : Fin 64) (op : BitVec 8) (f : BitVec 40) (wellFormed : Bool) (sem : Ctx → Ctx) (s : State) : State :=
  match s.runner t with
  | none => s
  | some (c, _, _) =>
    if s.overtaken t then s.yieldTile t
    else if c.trap.isNone ∧ 0x3C00 ≤ c.pc.toNat then
      s.takeTrap t c (instrWord op f) 4 Status.pcRange (c.pc.setWidth 48) 0
    else match c.trap with
      | some r => if s.fetch c ≠ instrWord op f then s else s.tileFail t c Status.illegalInstruction r.tpc.toNat
      | none =>
        if s.fetch c ≠ instrWord op f then s
        else if !wellFormed then s.tileFail t c Status.illegalInstruction c.pc.toNat
        else s.setHead t { sem c with pc := c.pc + 1 }

/-- Division of an accumulator lane: a zero divisor gives 0 and sets LX.DZ (R183). -/
def divAcc (c : Ctx) (f : BitVec 40) (d : Fin 4 → Int) : Ctx :=
  let c1 := accLanes c (fK f 22) (fX f 37) fun n =>
    if d n = 0 then 0 else ((c.getX (fX f 34))[n]).toInt.tdiv (d n)
  { c1 with lx := c.lx ||| ((0 : BitVec 4) ++ packMask fun n => c.enabled (fK f 22) n && decide (d n = 0)) }

/-- Xd := Xa ÷ sign-extended Da (R183). -/
def execDivx (t : Fin 64) (f : BitVec 40) (s : State) : Host.Outcome State Fault Refusal :=
  .next (emulated t 0xC0 f (zeros f 28 24 && zeros f 21 0) (fun c => divAcc c f fun n => ((c.getD (fD f 29))[n]).toInt) s)

/-- Xd := Xa ÷ zero-extended Da (R183). -/
def execDivxu (t : Fin 64) (f : BitVec 40) (s : State) : Host.Outcome State Fault Refusal :=
  .next (emulated t 0xC1 f (zeros f 28 24 && zeros f 21 0)
    (fun c => divAcc c f fun n => (((c.getD (fD f 29))[n]).toNat : Int)) s)

/-- A lane of RSCL (R183): for n ≥ 0 the low 48 bits of Da × 10^n with flags MS, otherwise Da ÷ 10^-n rounded half away from
zero with flags L. -/
def laneRescale (a : Word) (n : Int) : LaneOut :=
  if 0 ≤ n then
    let p := a.toInt * 10 ^ n.toNat
    { r := BitVec.ofInt 48 p, c := none, v := decide (p < minWord ∨ maxWord < p), dz := false }
  else laneLogic (BitVec.ofInt 48 (divHalfAway a.toInt (10 ^ (-n).toNat)))

/-- Decimal rescale of a D register (R183). -/
def execRscl (t : Fin 64) (f : BitVec 40) (s : State) : Host.Outcome State Fault Refusal :=
  .next (emulated t 0xC2 f (zeros f 27 6 && scaleOk (f.extractLsb' 0 6))
    (fun c => dataLanes c (fK f 28) (some (fD f 35)) fun n => laneRescale ((c.getD (fD f 30))[n]) (scaleOf (f.extractLsb' 0 6))) s)

/-- Decimal rescale of an accumulator, saturating (R183). -/
def execRsclx (t : Fin 64) (f : BitVec 40) (s : State) : Host.Outcome State Fault Refusal :=
  .next (emulated t 0xC3 f (zeros f 33 24 && zeros f 15 0 && scaleOk (f.extractLsb' 16 6))
    (fun c => accLanes c (fK f 22) (fX f 37) fun n =>
      let n10 := scaleOf (f.extractLsb' 16 6)
      let a := ((c.getX (fX f 34))[n]).toInt
      if 0 ≤ n10 then a * 10 ^ n10.toNat else divHalfAway a (10 ^ (-n10).toNat)) s)

end Sys2Proof.Machine
end

