-- ==== Sys2Proof/Machine/DigestOps.lean ====
section
/-! DEFINITION. The digest engine and the key store (R333 to R346): handles, contexts and the commands of the instance port. -/

namespace Sys2Proof.Machine

/-- A handle at its reset value (R336). -/
def freeHandle : Handle :=
  { destSlot := 0, keyLen := 0, toKey := false, keySlot := 0, hmac := false, alg := 0, lastCnt := 0, err := 0, matched := false,
    cmpDone := false, state := 0, ctx := 0, ctxAlg := 0, ctxKey := none, request := none, message := [], count := 0, result := [], digest := [],
    resultToKey := false, expected := [], comparing := false, waiting := [] }

def State.handle (s : State) (n : Nat) : Handle := lookupD s.digest.handles n freeHandle

def State.setHandle (s : State) (n : Nat) (x : Handle) : State :=
  { s with digest := { s.digest with handles := insertK s.digest.handles n x } }

/-- ERR keeps the first error (R343). -/
def Handle.note (x : Handle) (code : Nat) : Handle := if x.err = 0 then { x with err := code } else x

/-- A handle holds a context. -/
def Handle.holds (x : Handle) : Bool := decide (2 ≤ x.state)

/-- Contexts an instance holds (R348). -/
def State.contextsHeld (s : State) (inst : Nat) : Nat :=
  (s.digest.handles.filter fun p => p.1 / 16 == inst && p.2.holds).length

/-- A context of 0 to 12 no handle holds, lowest first (R334, R338). -/
def State.freeContext (s : State) : Option Nat :=
  (List.range 13).find? fun c => !(s.digest.handles.any fun p => p.2.holds && p.2.ctx == c)

/-- DIGEST_CONTEXTS of an instance; above 13 it acts as 13 (R334). -/
def State.contextQuota (s : State) (inst : Nat) : Nat := min 13 (s.od (0x2100 + inst) 8)

/-- A slot lies in the key range of an instance (R300). -/
def State.ownsKey (s : State) (inst slot : Nat) : Bool :=
  let f := s.od (0x2100 + inst) 6
  decide (f ≤ slot) && decide (slot < f + s.od (0x2100 + inst) 7)

def State.keyAt (s : State) (slot : Nat) : List Byte := lookupD s.digest.keys slot []

def State.putKey (s : State) (slot : Nat) (k : List Byte) : State :=
  { s with digest := { s.digest with keys := if k.isEmpty then s.digest.keys.filter fun p => p.1 != slot else insertK s.digest.keys slot k } }

/-- Bytes of a digest, and of a block, by ALG (R336, FIPS 180-4). -/
def digestLen (alg : Nat) : Nat := if alg = 1 then 32 else if alg = 2 then 48 else 64
def blockLen (alg : Nat) : Nat := if alg = 1 then 64 else 128

def hashOf (alg : Nat) (m : List Byte) : List Byte := if alg = 1 then sha256 m else if alg = 2 then sha384 m else sha512 m

/-- HMAC of RFC 2104 with a key of at most a block. -/
def hmacOf (alg : Nat) (key m : List Byte) : List Byte :=
  let k := key ++ List.replicate (blockLen alg - key.length) 0
  hashOf alg ((k.map fun b => b ^^^ 0x5C) ++ hashOf alg ((k.map fun b => b ^^^ 0x36) ++ m))

/-- A message of the engine's own is hashed on context 13, 14 or 15, numbered from 0 here, and counts as finished (R333, R334, R348). -/
def State.hashOn (s : State) (n : Fin 3) (alg : Nat) (key : Option (List Byte)) (m : List Byte) : State :=
  let r := match key with
    | some k => hmacOf alg k m
    | none => hashOf alg m
  { s with digest := { s.digest with own := s.digest.own.set n { alg := alg, key := key, message := m, result := r }
                                     messages := (s.digest.messages + 1) % 2 ^ 48 } }

/-- Chunk digests of a cocoon's records are made on the persist lanes, chunk i on lane i mod 8 (R333; DESIGN CHOICE, assumption 156). -/
def State.hashLanes (s : State) (digests : List (List Byte)) : State :=
  let put (v : Vector (List Byte) 8) (p : List Byte × Nat) : Vector (List Byte) 8 := v.set (p.2 % 8) p.1 (Nat.mod_lt _ (by decide))
  { s with digest := { s.digest with lanes := digests.zipIdx.foldl put s.digest.lanes } }

/-- A message begins: result, compare and expected digest are cleared (R341). -/
def Handle.fresh (x : Handle) : Handle :=
  { x with message := [], count := 0, result := [], digest := [], matched := false, cmpDone := false, comparing := false, expected := [], state := 2 }

/-- The settings of an OPEN are latched and the handle is OPEN (R337, R339). -/
def Handle.latch (x : Handle) (alg : Nat) (key : Option (List Byte)) : Handle := { x.fresh with ctxAlg := alg, ctxKey := key, request := none }

/-- KEY_SLOT of a handle when HMAC is 1. -/
def Handle.wanted (x : Handle) : Option Nat := if x.hmac then some x.keySlot else none

/-- The check of an OPEN with HMAC: the key, or the error (R339). -/
def State.openKey (s : State) (inst : Nat) (slot : Option Nat) : Except Nat (Option (List Byte)) :=
  match slot with
  | none => .ok none
  | some k =>
    if !s.ownsKey inst k then .error 3
    else if (s.keyAt k).isEmpty then .error 2
    else .ok (some (s.keyAt k))

/-- A context goes to the earliest waiting request whose instance is below its quota; one whose key has gone returns to FREE, and the
next is looked at (R338, R339). -/
def State.grantFirst : Nat → State → State
  | 0, s => s
  | k + 1, s =>
    match s.freeContext, s.digest.queue.find? fun n => decide (s.contextsHeld (n / 16) < s.contextQuota (n / 16)) with
    | some c, some n =>
      let x := s.handle n
      let s1 := { s with digest := { s.digest with queue := s.digest.queue.filter fun m => m != n } }
      match s1.openKey (n / 16) x.request with
      | .error e => grantFirst k (s1.setHandle n ({ x with state := 0 }.note e))
      | .ok key => s1.setHandle n { x.latch x.ctxAlg key with ctx := c }
    | _, _ => s

def State.grantContext (s : State) : State := State.grantFirst s.digest.queue.length s

/-- A context is cleared and released; the registers stay (R337). -/
def Handle.release (x : Handle) : Handle :=
  { x with state := 0, ctx := 0, ctxAlg := 0, ctxKey := none, request := none, message := [], count := 0, result := [], digest := [],
           matched := false, cmpDone := false, expected := [], comparing := false, waiting := [] }

/-- OPEN (R337 to R339). -/
def State.digestOpen (s : State) (n : Nat) : State :=
  let x := s.handle n
  let y := { x with err := 0 }
  match x.state with
  | 1 => s
  | 0 =>
    match s.openKey (n / 16) y.wanted with
    | .error e => s.setHandle n (y.note e)
    | .ok key => match s.freeContext with
      | some c =>
        if s.contextsHeld (n / 16) < s.contextQuota (n / 16) then s.setHandle n { y.latch y.alg key with ctx := c }
        else
          let s1 := s.setHandle n { y with state := 1, ctxAlg := y.alg, request := y.wanted }
          { s1 with digest := { s1.digest with queue := s1.digest.queue ++ [n], busyWaits := (s1.digest.busyWaits + 1) % 2 ^ 48 } }
      | none =>
        let s1 := s.setHandle n { y with state := 1, ctxAlg := y.alg, request := y.wanted }
        { s1 with digest := { s1.digest with queue := s1.digest.queue ++ [n], busyWaits := (s1.digest.busyWaits + 1) % 2 ^ 48 } }
  | _ => match s.openKey (n / 16) y.wanted with
    | .error e => s.setHandle n ({ y.fresh with ctxKey := y.ctxKey }.note e)
    | .ok key => s.setHandle n (y.latch y.alg key)

/-- CLOSE (R337): a release lets a waiting request in. -/
def State.digestClose (s : State) (n : Nat) : State :=
  let x := s.handle n
  match x.state with
  | 0 => s
  | 1 => ({ s with digest := { s.digest with queue := s.digest.queue.filter fun m => m != n } }).setHandle n { x with state := 0 }
  | _ => (s.setHandle n x.release).grantContext

/-- ABORT (R337). -/
def State.digestAbort (s : State) (n : Nat) : State :=
  let x := s.handle n
  if x.state < 2 then s.setHandle n (x.note 1) else s.setHandle n { x.fresh with err := 0 }

/-- COMPARE (R342): the comparison runs for 64 cycles. -/
def State.digestCompare (s : State) (n : Nat) : State :=
  let x := s.handle n
  if x.state ≠ 4 then s.setHandle n (x.note 1) else s.setHandle n { x with comparing := true }

/-- A write that a handle in FREE or BUSY does not accept (R338). -/
def Handle.refuses (x : Handle) : Bool := decide (x.state < 2)

/-- Bytes join the message; a message beyond 2^48 - 1 bytes is abandoned (R340, R341). -/
def Handle.append (x : Handle) (bs : List Byte) : Handle :=
  let y := if x.state = 4 then x.fresh else x
  if 2 ^ 48 ≤ y.count + bs.length then { y.fresh with state := 2 }.note 4
  else { y with message := y.message ++ bs, count := y.count + bs.length }

/-- The bytes held in a slot join the message (R340). -/
def State.digestKeymsg (s : State) (n slot : Nat) : State :=
  let x := s.handle n
  let y := if x.state = 4 then x.fresh else x
  if !s.ownsKey (n / 16) slot then s.setHandle n (y.note 3)
  else if (s.keyAt slot).isEmpty then s.setHandle n (y.note 2)
  else s.setHandle n (y.append (s.keyAt slot))

/-- DG_LAST (R341): the last bytes, and the finish begins. -/
def State.digestLast (s : State) (n : Nat) (v : Word) (valid : Nat) : State :=
  let x := s.handle n
  if valid = 7 then s.setHandle n (x.note 5)
  else
    let y := x.append ((leBytes 6 v.toNat).take valid)
    if 2 ^ 48 ≤ (if x.state = 4 then 0 else x.count) + valid then s.setHandle n y
    else s.setHandle n { y with state := 3 }

/-- DG_EXPECT (R342). -/
def Handle.expect (x : Handle) (v : Word) : Handle :=
  if 66 < x.expected.length + 6 then x.note 1 else { x with expected := x.expected ++ leBytes 6 v.toNat }

/-- One command or write at a handle that is not in FINISHING. -/
def State.digestDo (s : State) (n : Nat) (op : DigestOp) : State :=
  let x := s.handle n
  match op with
  | .openCtx => s.digestOpen n
  | .abort => s.digestAbort n
  | .close => s.digestClose n
  | .compare => s.digestCompare n
  | .data v => s.setHandle n (if x.refuses then x.note 1 else x.append (leBytes 6 v.toNat))
  | .keymsg slot => if x.refuses then s.setHandle n (x.note 1) else s.digestKeymsg n slot
  | .last v valid => if x.refuses then s.setHandle n (x.note 1) else s.digestLast n v valid
  | .expect v => s.setHandle n (if x.refuses then x.note 1 else x.expect v)

/-- Registers of an instance that is being reset ignore every write (R346). -/
def State.portClosed (s : State) (fn : Fin 64) : Bool := s.host.insts[fn].hostReset

/-- A command or write reaches a handle; in FINISHING it waits for the finish (R337, R341). -/
def State.digestAt (s : State) (fn : Fin 64) (h : Fin 16) (op : DigestOp) : State :=
  let n := 16 * fn.val + h.val
  let x := s.handle n
  if s.portClosed fn then s
  else if x.state = 3 then
    match op with
    | .expect v => if x.waiting.isEmpty then s.setHandle n (x.expect v) else s.setHandle n { x with waiting := x.waiting ++ [op] }
    | _ => s.setHandle n { x with waiting := x.waiting ++ [op] }
  else s.digestDo n op

/-- The operations that waited for the finish follow it, in order, up to the next finish. -/
def State.digestDrain (n : Nat) : List DigestOp → State → State
  | [], s => s
  | op :: r, s =>
    if (s.handle n).state = 3 then s.setHandle n { s.handle n with waiting := op :: r } else digestDrain n r (s.digestDo n op)

/-! ### The commands -/

/-- DG_CTRL stores its RW fields (R337). -/
def Handle.ctrl (x : Handle) (v : Word) : Handle :=
  { x with destSlot := (v.extractLsb' 40 8).toNat, keyLen := (v.extractLsb' 33 7).toNat, toKey := v.getLsbD 32,
           keySlot := (v.extractLsb' 16 8).toNat, hmac := v.getLsbD 7, alg := (v.extractLsb' 4 3).toNat }

/-- A write to DG_CTRL: fields, then the one command it carries. -/
def State.digestCtrl (s : State) (fn : Fin 64) (h : Fin 16) (v : Word) (op : DigestOp) : State :=
  let n := 16 * fn.val + h.val
  let x := (s.handle n).ctrl v
  let bits := (v.extractLsb' 0 4)
  if s.portClosed fn then s
  else if bits ≠ 1 ∧ bits ≠ 2 ∧ bits ≠ 4 ∧ bits ≠ 8 then s.setHandle n (if bits = 0 then x else x.note 1)
  else if op = .openCtx ∧ (x.alg = 0 ∨ 4 ≤ x.alg) then s.setHandle n (x.note 5)
  else (s.setHandle n x).digestAt fn h op

/-- DG_OPEN (R337 to R339). The operand is the value written to DG_CTRL, whose OPEN bit is set. -/
def execDgOpen (fn : Fin 64) (h : Fin 16) (v : Word) (s : State) : Host.Outcome State Fault Refusal :=
  .next (if v.getLsbD 0 then s.digestCtrl fn h v .openCtx else s)

/-- DG_CLOSE (R337). -/
def execDgClose (fn : Fin 64) (h : Fin 16) (v : Word) (s : State) : Host.Outcome State Fault Refusal :=
  .next (if v.getLsbD 1 then s.digestCtrl fn h v .close else s)

/-- DG_ABORT (R337). -/
def execDgAbort (fn : Fin 64) (h : Fin 16) (v : Word) (s : State) : Host.Outcome State Fault Refusal :=
  .next (if v.getLsbD 2 then s.digestCtrl fn h v .abort else s)

/-- DG_COMPARE (R337, R342). -/
def execDgCompare (fn : Fin 64) (h : Fin 16) (v : Word) (s : State) : Host.Outcome State Fault Refusal :=
  .next (if v.getLsbD 3 then s.digestCtrl fn h v .compare else s)

/-- COMPARE_DONE (R342): the 64 cycles are over. -/
def execCompareDone (fn : Fin 64) (h : Fin 16) (s : State) : Host.Outcome State Fault Refusal :=
  let n := 16 * fn.val + h.val
  let x := s.handle n
  .next (if !x.comparing || x.state != 4 then s
    else
      let short := x.resultToKey || decide (x.expected.length < x.digest.length)
      let y := { x with comparing := false, cmpDone := true, expected := [],
                        matched := !short && x.expected.take x.digest.length == x.digest }
      let s1 := s.setHandle n (if short then y.note 1 else y)
      { s1 with digest := { s1.digest with compares := (s1.digest.compares + 1) % 2 ^ 48 } })

/-- DG_DATA (R340). -/
def execDgData (fn : Fin 64) (h : Fin 16) (v : Word) (s : State) : Host.Outcome State Fault Refusal :=
  .next (s.digestAt fn h (.data v))

/-- DG_KEYMSG (R340). -/
def execDgKeymsg (fn : Fin 64) (h : Fin 16) (v : Word) (s : State) : Host.Outcome State Fault Refusal :=
  .next (s.digestAt fn h (.keymsg (v.extractLsb' 0 8).toNat))

/-- DG_LAST (R341): VALID of DG_LAST_CNT says how many of its bytes count. -/
def execDgLast (fn : Fin 64) (h : Fin 16) (v : Word) (s : State) : Host.Outcome State Fault Refusal :=
  .next (s.digestAt fn h (.last v (s.handle (16 * fn.val + h.val)).lastCnt))

/-- DG_EXPECT (R342). -/
def execDgExpect (fn : Fin 64) (h : Fin 16) (v : Word) (s : State) : Host.Outcome State Fault Refusal :=
  .next (s.digestAt fn h (.expect v))

/-- The finish of a message (R341). -/
def State.digestFinish (s : State) (n : Nat) : State :=
  let x := s.handle n
  let d := match x.ctxKey with
    | some k => hmacOf x.ctxAlg k x.message
    | none => hashOf x.ctxAlg x.message
  let y := { x with state := 4, message := [], cmpDone := false, expected := [], digest := d, resultToKey := x.toKey, waiting := [],
                    result := if x.toKey then [] else d }
  let s1 := { s with digest := { s.digest with messages := (s.digest.messages + 1) % 2 ^ 48 } }
  if !x.toKey then s1.setHandle n y
  else if !s.ownsKey (n / 16) x.destSlot then s1.setHandle n ({ y with digest := [] }.note 3)
  else if d.length < x.keyLen then s1.setHandle n ({ y with digest := [] }.note 5)
  else (s1.putKey x.destSlot (if x.keyLen = 0 then d else d.take x.keyLen)).setHandle n y

/-- DIGEST_FINISH_COMPLETE (R341): the finish completes, and what waited for it follows. -/
def execDigestFinishComplete (fn : Fin 64) (h : Fin 16) (s : State) : Host.Outcome State Fault Refusal :=
  let n := 16 * fn.val + h.val
  let x := s.handle n
  .next (if x.state ≠ 3 then s else (s.digestFinish n).digestDrain n x.waiting)

/-! ### The key-load port (R345) -/

def State.keyPort (s : State) (fn : Fin 64) : KeyPort := lookupD s.digest.ports fn.val { slot := 0, buffer := [], err := 0 }

def State.setKeyPort (s : State) (fn : Fin 64) (p : KeyPort) : State :=
  { s with digest := { s.digest with ports := insertK s.digest.ports fn.val p } }

/-- KS_DATA. -/
def execKsData (fn : Fin 64) (v : Word) (s : State) : Host.Outcome State Fault Refusal :=
  let p := s.keyPort fn
  .next (if s.portClosed fn then s
    else if 66 < p.buffer.length + 6 then s.setKeyPort fn { p with err := 1 }
    else s.setKeyPort fn { p with buffer := p.buffer ++ leBytes 6 v.toNat })

/-- KS_COMMIT: every commit clears the buffer. -/
def execKsCommit (fn : Fin 64) (v : Word) (s : State) : Host.Outcome State Fault Refusal :=
  let p := s.keyPort fn
  let len := (v.extractLsb' 0 7).toNat
  let done (err : Nat) : KeyPort := { p with buffer := [], err := err }
  .next (if s.portClosed fn then s
    else if 64 < len then s.setKeyPort fn (done 5)
    else if !s.ownsKey fn.val p.slot then s.setKeyPort fn (done 3)
    else if p.buffer.length < len then s.setKeyPort fn (done 1)
    else (s.putKey p.slot (p.buffer.take len)).setKeyPort fn (done 0))

/-! ### Reset of an instance (R307, R346) -/

/-- Every handle of an instance returns to FREE; after a function-level reset its registers hold their reset values. -/
def State.releaseHandles (s : State) (inst : Nat) (reset : Bool) : State :=
  let hs := s.digest.handles.filterMap fun p =>
    if p.1 / 16 ≠ inst then some p else if reset then none else some (p.1, p.2.release)
  let s1 := { s with digest := { s.digest with
    handles := hs, queue := s.digest.queue.filter fun n => n / 16 != inst
    ports := if reset then s.digest.ports.filter fun p => p.1 != inst else s.digest.ports } }
  (List.range 13).foldl (fun (s : State) _ => s.grantContext) s1

end Sys2Proof.Machine
end

