-- ==== Sys2Proof/Machine/MemoryInstr.lean ====
section
/-! DEFINITION. The memory and scratchpad instructions (R179), checked as R149 and R150 lay down. -/

namespace Sys2Proof.Machine

/-- EA of format M: (Ab + disp) mod 2^48. -/
def effAddr (c : Ctx) (f : BitVec 40) : Word := c.getA (fA f 31) + fImm f 0 29

/-- A failed test of a quad access as its effect. Test 1 and checks 1 and 2 are made once for the instruction (R149): they fail at
EA, and the lowest enabled lane is the one reported. DEDUCED, assumption 30. -/
def segFail (k : Nat × Nat) (store : Bool) (ea : Word) (s : State) (c : Ctx) : Effect :=
  let once := k.1 = 1 ∨ k.1 = 2 ∨ k.1 = 5
  segTrap k.1 k.2 store (if once then ea else ea + BitVec.ofNat 48 (6 * k.2)) s c

/-- At := the word at EA (R179). -/
def loadWord (f : BitVec 40) (s : State) (c : Ctx) (e : WorkEntry) (img : Image) : Effect :=
  let ea := effAddr c f
  match segOne s c e img false false ea with
  | .error k => segTrap k 0 false ea s c
  | .ok ma => withLines s c e [ma] fun s' => stepOn s' (c.setA (fA f 35) (s'.wordAt ma))

def execLdw (t : Fin 64) (f : BitVec 40) (s : State) : Host.Outcome State Fault Refusal :=
  .next (runInstr t (instrWord 0x70 f) .anywhere (fun _ => !(zeros f 39 39 && zeros f 30 29)) (loadWord f) s)

/-- The word at EA := At (R179). -/
def storeWord (f : BitVec 40) (s : State) (c : Ctx) (e : WorkEntry) (img : Image) : Effect :=
  let ea := effAddr c f
  match segOne s c e img true false ea with
  | .error k => segTrap k 0 true ea s c
  | .ok ma => withStores s c [(ma, leBytes 6 (c.getA (fA f 35)).toNat)] fun s' => stepOn s' c

def execStw (t : Fin 64) (f : BitVec 40) (s : State) : Host.Outcome State Fault Refusal :=
  .next (runInstr t (instrWord 0x71 f) .anywhere (fun _ => !(zeros f 39 39 && zeros f 30 29)) (storeWord f) s)

/-- Enabled lanes of a D register take the words found for them. -/
def loadLanes (s : State) (c : Ctx) (d : Fin 32) (ws : List (Fin 4 × Nat)) : Ctx :=
  c.setD d (quad fun n => match laneAddr ws n with
    | some ma => s.wordAt ma
    | none => (c.getD d)[n])

/-- Lane n := the word at EA + 6n (R179). -/
def loadQuad (f : BitVec 40) (s : State) (c : Ctx) (e : WorkEntry) (img : Image) : Effect :=
  let ea := effAddr c f
  match c.lanes (fK f 29) with
  | [] => stepOn s c
  | lanes => match segQuad s c e img false ea lanes with
    | .error k => segFail k false ea s c
    | .ok ws => withLines s c e (ws.map (·.2)) fun s' => stepOn s' (loadLanes s' c (fD f 35) ws)

def execLdq (t : Fin 64) (f : BitVec 40) (s : State) : Host.Outcome State Fault Refusal :=
  .next (runInstr t (instrWord 0x72 f) .anywhere (fun _ => false) (loadQuad f) s)

/-- The word at EA + 6n := lane n (R179). -/
def storeQuad (f : BitVec 40) (s : State) (c : Ctx) (e : WorkEntry) (img : Image) : Effect :=
  let ea := effAddr c f
  match c.lanes (fK f 29) with
  | [] => stepOn s c
  | lanes => match segQuad s c e img true ea lanes with
    | .error k => segFail k true ea s c
    | .ok ws => withStores s c (ws.map fun p => (p.2, leBytes 6 ((c.getD (fD f 35))[p.1]).toNat)) fun s' => stepOn s' c

def execStq (t : Fin 64) (f : BitVec 40) (s : State) : Host.Outcome State Fault Refusal :=
  .next (runInstr t (instrWord 0x73 f) .anywhere (fun _ => false) (storeQuad f) s)

/-- Lane n := the word at (Ab + 6 × lane n of Di) mod 2^48 (R179, R184). -/
def gather (f : BitVec 40) (s : State) (c : Ctx) (e : WorkEntry) (img : Image) : Effect :=
  let addr (n : Fin 4) : Word := c.getA (fA f 31) + 6 * (c.getD (fD f 26))[n]
  match c.lanes (fK f 24) with
  | [] => stepOn s c
  | lanes => match segGather s c e img addr lanes with
    | .error k => segTrap k.1 k.2 false (if h : k.2 < 4 then addr ⟨k.2, h⟩ else 0) s c
    | .ok ws => withLines s c e (ws.map (·.2)) fun s' => stepOn s' (loadLanes s' c (fD f 35) ws)

def execGath (t : Fin 64) (f : BitVec 40) (s : State) : Host.Outcome State Fault Refusal :=
  .next (runInstr t (instrWord 0x74 f) .anywhere (fun _ => !zeros f 23 0) (gather f) s)

/-- An A register that can index the scratchpad has no bit above [16:0] set (R150). -/
def spRegOk (a : Word) : Bool := decide (a.toNat < 2 ^ 17)

/-- The scratchpad index of format P: Ab[16:0] + imm, exactly. -/
def spBase (c : Ctx) (f : BitVec 40) : Nat := spPtr (c.getA (fA f 31)) + fNat f 12 17

/-- The lowest of some indices, with its lane. -/
def lowestIndex (l : List (Nat × Nat)) : Option (Nat × Nat) :=
  l.foldl (fun m x => match m with
    | none => some x
    | some y => if x.1 < y.1 then some x else some y) none

/-- Runs a scratchpad access over the words of some indices and lanes: all are checked first, and TADDR and TINFO.LANE report the
lowest that fails (R150, R166); then none of them may await a result (R152). -/
def withScratch (s : State) (c : Ctx) (store : Bool) (a : Word) (ix : List (Nat × Nat)) (k : Effect) : Effect :=
  match lowestIndex (ix.filter fun p => !spRegOk a || decide (spWordsTotal ≤ p.1)) with
  | some p => scratchTrap p.1 p.2 store s c
  | none => if ix.any fun p => c.spBusy p.1 1 then .stall else k

/-- At := scratchpad word i (R179). -/
def execLdp (t : Fin 64) (f : BitVec 40) (s : State) : Host.Outcome State Fault Refusal :=
  .next (runInstr t (instrWord 0x75 f) .anywhere (fun _ => !(zeros f 39 39 && zeros f 30 29 && zeros f 11 0))
    (fun s c _ _ =>
      let i := spBase c f
      withScratch s c false (c.getA (fA f 31)) [(i, 0)] (stepOn s (c.setA (fA f 35) (c.spRead i)))) s)

/-- Scratchpad word i := At (R179). -/
def execStp (t : Fin 64) (f : BitVec 40) (s : State) : Host.Outcome State Fault Refusal :=
  .next (runInstr t (instrWord 0x76 f) .anywhere (fun _ => !(zeros f 39 39 && zeros f 30 29 && zeros f 11 0))
    (fun s c _ _ =>
      let i := spBase c f
      withScratch s c true (c.getA (fA f 31)) [(i, 0)] (stepOn s (c.spWrite i (c.getA (fA f 35))))) s)

/-- Lane n := scratchpad word i + n (R179). -/
def execLdpq (t : Fin 64) (f : BitVec 40) (s : State) : Host.Outcome State Fault Refusal :=
  .next (runInstr t (instrWord 0x77 f) .anywhere (fun _ => !zeros f 11 0)
    (fun s c _ _ => match c.lanes (fK f 29) with
      | [] => stepOn s c
      | lanes =>
        let i := spBase c f
        withScratch s c false (c.getA (fA f 31)) (lanes.map fun n => (i + n.val, n.val))
            (stepOn s (c.setD (fD f 35) (quad fun n =>
              if c.enabled (fK f 29) n then c.spRead (i + n.val) else (c.getD (fD f 35))[n])))) s)

/-- Scratchpad word i + n := lane n (R179). -/
def execStpq (t : Fin 64) (f : BitVec 40) (s : State) : Host.Outcome State Fault Refusal :=
  .next (runInstr t (instrWord 0x78 f) .anywhere (fun _ => !zeros f 11 0)
    (fun s c _ _ => match c.lanes (fK f 29) with
      | [] => stepOn s c
      | lanes =>
        let i := spBase c f
        withScratch s c true (c.getA (fA f 31)) (lanes.map fun n => (i + n.val, n.val))
            (stepOn s (lanes.foldl (fun c' n => c'.spWrite (i + n.val) (c.getD (fD f 35))[n]) c))) s)

/-- Lane n := scratchpad word Ab[16:0] + lane n of Di, summed exactly (R179). -/
def execGathp (t : Fin 64) (f : BitVec 40) (s : State) : Host.Outcome State Fault Refusal :=
  .next (runInstr t (instrWord 0x79 f) .anywhere (fun _ => !zeros f 23 0)
    (fun s c _ _ => match c.lanes (fK f 24) with
      | [] => stepOn s c
      | lanes =>
        let a := spPtr (c.getA (fA f 31))
        let ix (n : Fin 4) : Nat := a + ((c.getD (fD f 26))[n]).toNat
        withScratch s c false (c.getA (fA f 31)) (lanes.map fun n => (ix n, n.val))
          (stepOn s (c.setD (fD f 35) (quad fun n =>
            if c.enabled (fK f 24) n then c.spRead (ix n) else (c.getD (fD f 35))[n])))) s)

end Sys2Proof.Machine
end

