-- ==== Sys2Proof/Machine/Pcc.lean ====
section
/-! DEFINITION. Predictive Column Code: block headers and groups (R77 to R82), predictors (R84 to R86), the engine's encoder
(R87), and interval tests (R92, R93). -/

namespace Sys2Proof.Machine

/-- A block header (R78). -/
structure PccHeader where
  magic : Nat
  n : Nat
  ty : Nat
  pred : Nat
  encLen : Nat
  rawM1 : Nat
  base : Word
deriving DecidableEq, Repr

def parsePcc (bs : List Byte) : PccHeader :=
  let w := fieldNat bs 0 6
  { magic := bitsOf w 3 0, n := bitsOf w 15 4 + 1, ty := bitsOf w 18 16, pred := bitsOf w 20 19, encLen := bitsOf w 35 21,
    rawM1 := bitsOf w 47 36, base := BitVec.ofNat 48 (fieldNat bs 6 6) }

def PccHeader.bytes (h : PccHeader) : List Byte :=
  leBytes 6 (h.magic + 16 * (h.n - 1) + 2 ^ 16 * h.ty + 2 ^ 19 * h.pred + 2 ^ 21 * h.encLen + 2 ^ 36 * h.rawM1)
    ++ leBytes 6 h.base.toNat

/-- The header checks of R80. -/
def PccHeader.ok (h : PccHeader) : Bool :=
  h.magic == 0xB && h.ty != 0 && h.rawM1 == h.n - 1 && decide (ceilDiv h.n 64 ≤ h.encLen) &&
    decide (h.encLen ≤ ceilDiv h.n 64 + 6 * h.n) && (h.pred != 0 || h.base == 0)

/-- Block types whose order is signed (R79). -/
def pccSigned (ty : Nat) : Bool := ty == 1 || ty == 3 || ty == 5 || ty == 7

/-- A value in the order of its block type (R79). -/
def ordVal (ty : Nat) (v : Word) : Int := if pccSigned ty then v.toInt else (v.toNat : Int)

/-- Zigzag and its inverse (R85). -/
def zigzag (d : Word) : Word := (d <<< 1) ^^^ (if d.msb then BitVec.allOnes 48 else 0)
def unzigzag (u : Word) : Word := (u >>> 1) ^^^ (if u.getLsbD 0 then BitVec.allOnes 48 else 0)

/-- The prediction e_i from the two values before (R84). -/
def predict (pred : Nat) (base a b : Word) : Word :=
  match pred with
  | 0 => 0
  | 1 => a
  | 2 => 2 * a - b
  | _ => base

/-- Least significant bit first (R82). -/
def bitsOfBytes (bs : List Byte) : List Bool := bs.flatMap fun b => (List.range 8).map fun i => b.getLsbD i

/-- One Rice code word (R82): the residue and the bits after it, or `none` when the bits end first. -/
def riceOne (k : Nat) (bits : List Bool) : Option (Nat × List Bool) :=
  let q := (bits.takeWhile id).length
  let rest := bits.drop (q + 1)
  if bits.length ≤ q ∨ rest.length < k then none
  else
    let r := (rest.take k).foldr (fun b v => 2 * v + if b then 1 else 0) 0
    some (q * 2 ^ k + r, rest.drop k)

/-- Up to m Rice code words, as far as the bits reach; false when a residue is 2^48 or more. -/
def riceMany (k : Nat) : Nat → List Bool → List Nat × List Bool × Bool
  | 0, bits => ([], bits, true)
  | m + 1, bits =>
    match riceOne k bits with
    | none => ([], bits, true)
    | some (u, rest) =>
      if 2 ^ 48 ≤ u then ([], bits, false)
      else
        let (us, r, ok) := riceMany k m rest
        (u :: us, r, ok)

/-- Values from residues with the running history (R84, R86): the values so far, and false at a value a FOR block forbids. -/
def fromResidues (h : PccHeader) : List Nat → Word → Word → List Word × Bool
  | [], _, _ => ([], true)
  | u :: us, a, b =>
    let v := if h.pred = 3 then h.base + BitVec.ofNat 48 u
      else predict h.pred h.base a b + unzigzag (BitVec.ofNat 48 u)
    let bad := h.pred = 3 ∧
      (if pccSigned h.ty then (2 ^ 47 : Int) ≤ h.base.toInt + u else (2 ^ 48 : Int) ≤ (h.base.toNat : Int) + u)
    if bad then ([], false)
    else
      let (vs, ok) := fromResidues h us v a
      (v :: vs, ok)

/-- What one group gives: its values as far as they are delivered, its bytes, and whether it is well formed. -/
structure GroupOut where
  values : List Word
  len : Nat
  ok : Bool
deriving DecidableEq, Repr

/-- A group of m values from its header byte on (R81, R82, R86). `bs` holds the bytes of the block from there. -/
def decodeGroup (h : PccHeader) (m : Nat) (bs : List Byte) (a b : Word) : GroupOut :=
  match bs with
  | [] => { values := [], len := 0, ok := false }
  | hd :: rest =>
    if hd = 0xFF then
      let n := min m (rest.length / 6)
      let vs := (List.range n).map fun i => BitVec.ofNat 48 (fieldNat rest (6 * i) 6)
      let bad := h.pred = 3 ∧ vs.any fun v => decide (ordVal h.ty v < ordVal h.ty h.base)
      { values := vs, len := 1 + min rest.length (6 * m), ok := decide (n = m) && !decide bad }
    else if hd = 0x40 then
      let (vs, ok) := fromResidues h (List.replicate m 0) a b
      { values := vs, len := 1, ok := ok }
    else if 0x2F < hd.toNat then { values := [], len := 1, ok := false }
    else
      let avail := rest.take (6 * m - 1)
      let bits := bitsOfBytes avail
      let (us, left, ok1) := riceMany hd.toNat m bits
      let (vs, ok2) := fromResidues h us a b
      let used := bits.length - left.length
      let bytes := ceilDiv used 8
      let pad := (left.take (8 * bytes - used)).all (!·)
      let whole := decide (us.length = m)
      { values := vs, len := if whole then 1 + bytes else 1 + avail.length, ok := ok1 && ok2 && whole && pad }

/-- The last two values of a history after some more values (R84). -/
def history (a b : Word) (vs : List Word) : Word × Word :=
  vs.foldl (fun p v => (v, p.1)) (a, b)

/-- Values of the whole block's groups (R86): the values, the bytes of the groups, and whether all were well formed; with a
malformed or cut group the values of the groups before it, and of it those whose code words lie within the bytes. -/
def decodeGroups (h : PccHeader) : Nat → Nat → List Byte → Word → Word → List Word × Nat × Bool
  | 0, _, _, _, _ => ([], 0, true)
  | g + 1, left, bs, a, b =>
    let o := decodeGroup h (min 64 left) bs a b
    if !o.ok then (o.values, o.len, false)
    else
      let (a', b') := history a b o.values
      let (vs, len, ok) := decodeGroups h g (left - 64) (bs.drop o.len) a' b'
      (o.values ++ vs, o.len + len, ok)

/-- A block's values from the bytes after its header. -/
def decodeBlock (h : PccHeader) (bs : List Byte) : List Word × Nat × Bool :=
  decodeGroups h (ceilDiv h.n 64) h.n (bs.take h.encLen) h.base h.base

/-! ### The engine's encoder (R87) -/

/-- BASE of a predictor: the least value for FOR, v_0 for PREV and LINEAR, 0 for ZERO. -/
def encBase (ty pred : Nat) (vs : List Word) : Word :=
  match pred with
  | 0 => 0
  | 3 => vs.foldl (fun m v => if ordVal ty v < ordVal ty m then v else m) (vs.headD 0)
  | _ => vs.headD 0

/-- Residues of a block under a predictor (R84). -/
def residues (pred : Nat) (base : Word) : List Word → Word → Word → List Nat
  | [], _, _ => []
  | v :: vs, a, b =>
    (if pred = 3 then (v - base).toNat else (zigzag (v - predict pred base a b)).toNat) :: residues pred base vs v a

/-- Cuts a list into runs of 64. -/
def groups64 {α : Type} : Nat → List α → List (List α)
  | 0, _ => []
  | g + 1, l => if l.isEmpty then [] else l.take 64 :: groups64 g (l.drop 64)

/-- Bits of a group under Rice parameter k. -/
def riceBits (k : Nat) (us : List Nat) : Nat := us.length * (k + 1) + (us.map (· / 2 ^ k)).sum

/-- The k from 0 to 47 with the fewest bits, the lowest on a tie. -/
def bestK (us : List Nat) : Nat :=
  (List.range 48).foldl (fun m k => if riceBits k us < riceBits m us then k else m) 0

/-- Bits packed into bytes, least significant first. -/
def packBits (fuel : Nat) (bits : List Bool) : List Byte :=
  match fuel with
  | 0 => []
  | n + 1 =>
    if bits.isEmpty then []
    else BitVec.ofNat 8 ((bits.take 8).foldr (fun b v => 2 * v + if b then 1 else 0) 0) :: packBits n (bits.drop 8)

def riceEncode (k u : Nat) : List Bool :=
  List.replicate (u / 2 ^ k) true ++ [false] ++ (List.range k).map fun i => u.testBit i

/-- One group: zero run, Rice or raw (R87 step 2). -/
def encodeGroup (us : List Nat) (vs : List Word) : List Byte :=
  if us.all (· == 0) then [0x40]
  else
    let k := bestK us
    if ceilDiv (riceBits k us) 8 < 6 * us.length then
      let bits := us.flatMap (riceEncode k)
      BitVec.ofNat 8 k :: packBits bits.length bits
    else 0xFF :: vs.flatMap fun v => leBytes 6 v.toNat

/-- The groups of a block under a predictor. -/
def encodeGroups (ty pred : Nat) (vs : List Word) : List (List Byte) :=
  let base := encBase ty pred vs
  let us := residues pred base vs base base
  ((groups64 us.length us).zip (groups64 vs.length vs)).map fun p => encodeGroup p.1 p.2

/-- The predictor of least ENC_LEN, ties in the order FOR, PREV, LINEAR, ZERO (R87 step 3). -/
def choosePred (ty : Nat) (vs : List Word) : Nat :=
  let len (p : Nat) : Nat := ((encodeGroups ty p vs).map List.length).sum
  [1, 2, 0].foldl (fun m p => if len p < len m then p else m) 3

/-- The header and the groups of a block. -/
def encodeBlock (ty : Nat) (force : Option Nat) (vs : List Word) : PccHeader × List (List Byte) :=
  let pred := force.getD (choosePred ty vs)
  let gs := encodeGroups ty pred vs
  ({ magic := 0xB, n := vs.length, ty := ty, pred := pred, encLen := (gs.map List.length).sum, rawM1 := vs.length - 1,
     base := encBase ty pred vs }, gs)

/-! ### Intervals (R92, R93) and the block directory (R89) -/

/-- A value lies in one of some closed intervals in the type order. -/
def inIntervals (ty : Nat) (ivs : List (Word × Word)) (v : Word) : Bool :=
  ivs.any fun p => decide (ordVal ty p.1 ≤ ordVal ty v) && decide (ordVal ty v ≤ ordVal ty p.2)

/-- A directory entry (R89). -/
structure DirEntry where
  offset : Nat
  vcount : Nat
  allNull : Bool
  min : Word
  max : Word
deriving DecidableEq, Repr

/-- Directory entry e of the segment in a slot. -/
def State.dirEntry (s : State) (slot e : Nat) : DirEntry :=
  let bs := s.bytesAt (slot * slotBytes + 18 * e) 18
  let w := fieldNat bs 0 6
  { offset := bitsOf w 19 0, vcount := bitsOf w 32 20, allNull := bitOf w 33,
    min := BitVec.ofNat 48 (fieldNat bs 6 6), max := BitVec.ofNat 48 (fieldNat bs 12 6) }

/-- A field of a segment header (R56). -/
def State.segHeader (s : State) (slot i n : Nat) : Nat := leNat (s.bytesAt (slot * slotBytes + lineArea + i) n)

/-- The header of a segment names a reserved type code, or a SCALE that its type may not have (R58, R60). -/
def State.typeReserved (s : State) (slot : Nat) : Bool :=
  let ty := s.segHeader slot 4 1
  let scale := s.segHeader slot 5 1
  ty == 0 || decide (8 ≤ ty) || decide (18 < scale) || (scale != 0 && ty != 3 && ty != 4)

/-- BLOCK_COUNT of the segment in a slot. -/
def State.blockCount (s : State) (slot : Nat) : Nat := s.segHeader slot 32 2

end Sys2Proof.Machine
end

