-- ==== Sys2Proof/Machine/BlockRepeat.lean ====
section
/-! DEFINITION. The block repeats (R153 to R157, R180). A command runs the repeat until it completes, traps, or waits. -/

namespace Sys2Proof.Machine

/-- The memory pointer of LGET and LPUT after a line (R154). -/
def lineAdvance (a : Word) : Word := a + if offOf a % slotBytes = 0x0FFF00 then 256 else 192

/-- The end of a repeat's execution; a demand-restore wait keeps the iterations it has run. -/
def endRepeat : Effect → Effect
  | .done s c => .done s { c with ran := 0 }
  | .trap cause status addr info s c => .trap cause status addr info s { c with ran := 0 }
  | x => x

/-- Iterations of a repeat (R153): `one` runs an iteration for the count left, or stops; at most `fuel`. -/
def repeatLoop (one : State → Ctx → Sum (State × Ctx) Effect) : Nat → State → Ctx → Effect
  | 0, s, c => stepOn s c
  | n + 1, s, c =>
    match one s c with
    | .inl (s', c') => repeatLoop one n s' { c' with ran := c'.ran + 1 }
    | .inr e => e

/-- A repeat of at most `limit` iterations in this execution, those before a wait included (DEDUCED, assumption 142). -/
def repeatRun (one : State → Ctx → Sum (State × Ctx) Effect) (limit : Nat) (s : State) (c : Ctx) : Effect :=
  endRepeat (repeatLoop one (limit - c.ran) s c)

/-- Iterations allowed by IMAX, where 0 means no limit (R153); the scratchpad ends a longer run with a trap. -/
def imaxOf (f : BitVec 40) : Nat := if fNat f 7 8 = 0 then spWordsTotal + 1 else fNat f 7 8

/-- LGET: one line into the scratchpad. -/
def lgetOne (f : BitVec 40) (e : WorkEntry) (img : Image) (s : State) (c : Ctx) : Sum (State × Ctx) Effect :=
  let a := c.getA (fA f 36)
  let d := c.getA (fA f 32)
  let n := c.getA (fA f 28)
  if n = 0 then .inr (stepOn s c)
  else
    let ix := (List.range 32).map (spPtr d + ·)
    match (ix.filter fun i => !spRegOk d || decide (spWordsTotal ≤ i)).min? with
    | some i => .inr (scratchTrap i 0 true s c)
    | none =>
      if c.spBusy d.toNat 32 then .inr .stall
      else match segOne s c e img false true a with
        | .error k => .inr (segTrap k 0 false a s c)
        | .ok ma =>
          match withLines s c e [ma] (fun s' => .done s' c) with
          | .done s' _ =>
            let c1 := c.spPut d.toNat ((List.range 32).map fun i => s'.wordAt (ma + 6 * i))
            .inl (s', ((c1.setA (fA f 36) (lineAdvance a)).setA (fA f 32) (d + 32)).setA (fA f 28) (n - 1))
          | x => .inr x

/-- Registers of a block repeat that R180 requires to be distinct. -/
def distinct3 (f : BitVec 40) : Bool :=
  fA f 36 != fA f 32 && fA f 36 != fA f 28 && fA f 32 != fA f 28

def execLget (t : Fin 64) (f : BitVec 40) (s : State) : Host.Outcome State Fault Refusal :=
  .next (runInstr t (instrWord 0x80 f) .program (fun _ => !(zeros f 27 15 && zeros f 6 0 && distinct3 f))
    (fun s c e img => repeatRun (lgetOne f e img) (imaxOf f) s c) s)

/-- LPUT: one line out of the scratchpad, written whole. -/
def lputOne (f : BitVec 40) (e : WorkEntry) (img : Image) (s : State) (c : Ctx) : Sum (State × Ctx) Effect :=
  let p := c.getA (fA f 36)
  let a := c.getA (fA f 32)
  let n := c.getA (fA f 28)
  if n = 0 then .inr (stepOn s c)
  else
    let ix := (List.range 32).map (spPtr p + ·)
    match (ix.filter fun i => !spRegOk p || decide (spWordsTotal ≤ i)).min? with
    | some i => .inr (scratchTrap i 0 false s c)
    | none =>
      if c.spBusy p.toNat 32 then .inr .stall
      else match segOne s c e img true true a with
        | .error k => .inr (segTrap k 0 true a s c)
        | .ok ma =>
          match withStores s c [(ma, (c.spWords p.toNat 32).flatMap fun w => leBytes 6 w.toNat)] (fun s' => .done s' c) with
          | .done s' _ =>
            .inl (s', ((c.setA (fA f 36) (p + 32)).setA (fA f 32) (lineAdvance a)).setA (fA f 28) (n - 1))
          | x => .inr x

def execLput (t : Fin 64) (f : BitVec 40) (s : State) : Host.Outcome State Fault Refusal :=
  .next (runInstr t (instrWord 0x81 f) .program (fun _ => !(zeros f 27 15 && zeros f 6 0 && distinct3 f))
    (fun s c e img => repeatRun (lputOne f e img) (imaxOf f) s c) s)

/-- PFILL: up to four words of the pattern. -/
def pfillOne (f : BitVec 40) (s : State) (c : Ctx) : Sum (State × Ctx) Effect :=
  let d := c.getA (fA f 32)
  let n := c.getA (fA f 28)
  if n = 0 then .inr (stepOn s c)
  else
    let w := min 4 n.toNat
    let ix := (List.range w).map (spPtr d + ·)
    match (ix.filter fun i => !spRegOk d || decide (spWordsTotal ≤ i)).min? with
    | some i => .inr (scratchTrap i 0 true s c)
    | none =>
      if c.spBusy d.toNat w then .inr .stall
      else
        let c1 := c.spPut d.toNat ((c.getD (fD f 23)).toList.take w)
        .inl (s, (c1.setA (fA f 32) (d + BitVec.ofNat 48 w)).setA (fA f 28) (n - BitVec.ofNat 48 w))

def execPfill (t : Fin 64) (f : BitVec 40) (s : State) : Host.Outcome State Fault Refusal :=
  .next (runInstr t (instrWord 0x82 f) .program
    (fun _ => !(zeros f 39 36 && zeros f 22 15 && zeros f 6 0 && fA f 32 != fA f 28))
    (fun s c _ _ => repeatRun (pfillOne f) (imaxOf f) s c) s)

/-- FL with the flags of lane 0 replaced (R157). -/
def setLane0 (fl : BitVec 16) (nib : BitVec 4) : BitVec 16 := fl.extractLsb' 4 12 ++ nib

/-- WCMP: up to four word pairs in order; it stops at the first that differs (R157). -/
def wcmpOne (f : BitVec 40) (s : State) (c : Ctx) : Sum (State × Ctx) Effect :=
  let a := c.getA (fA f 36)
  let b := c.getA (fA f 32)
  let n := c.getA (fA f 28)
  let w := min 4 n.toNat
  let bad (r : Word) : List Nat :=
    ((List.range w).map (spPtr r + ·)).filter fun i => !spRegOk r || decide (spWordsTotal ≤ i)
  match (bad a ++ bad b).min? with
  | some i => .inr (scratchTrap i 0 false s c)
  | none =>
    if c.spBusy a.toNat w || c.spBusy b.toNat w then .inr .stall
    else
      let put (k : Nat) : Ctx :=
        ((c.setA (fA f 36) (a + BitVec.ofNat 48 k)).setA (fA f 32) (b + BitVec.ofNat 48 k)).setA (fA f 28) (n - BitVec.ofNat 48 k)
      match (List.range w).find? fun i => c.spRead (a.toNat + i) != c.spRead (b.toNat + i) with
      | some i =>
        let nib := flagNibble 0 (laneSub (c.spRead (a.toNat + i)) (c.spRead (b.toNat + i)))
        .inr (stepOn s { put i with fl := setLane0 c.fl nib })
      | none =>
        if n.toNat ≤ 4 then .inr (stepOn s { put w with fl := setLane0 c.fl 6 }) else .inl (s, put w)

def execWcmp (t : Fin 64) (f : BitVec 40) (s : State) : Host.Outcome State Fault Refusal :=
  .next (runInstr t (instrWord 0x83 f) .program (fun _ => !(zeros f 27 0 && distinct3 f))
    (fun s c _ _ => if c.getA (fA f 28) = 0 then stepOn s c else repeatRun (wcmpOne f) (spWordsTotal + 1) s c) s)

/-! ### DSCAN, DSCANF and DSCANN (R155, R156) -/

/-- The three forms: writes vectors, filters. -/
structure ScanForm where
  vec : Bool
  filter : Bool
deriving DecidableEq, Repr

/-- Line-aligned tile addresses of the lines that hold some bytes of a segment, from a tile address on. -/
def lineAddrs (a : Word) (so n : Nat) : List Word :=
  let first := so / 192
  (List.range ((so + n + 191) / 192 - first)).map fun i => a - BitVec.ofNat 48 (so % 192) + BitVec.ofNat 48 (192 * i)

/-- Each of some lines is checked under R149 and read. -/
def scanLines (e : WorkEntry) (img : Image) (lines : List Word) (s : State) (c : Ctx) (k : State → Effect) : Effect :=
  match lines.mapM fun a => match segOne s c e img false true a with
      | .error n => Except.error (n, a)
      | .ok ma => Except.ok ma with
  | .error (n, a) => segTrap n 0 false a s c
  | .ok mas => withLines s c e mas k

/-- End of the block that a directory entry names, as its header gives it. -/
def State.blockEnd (s : State) (slot i : Nat) : Nat :=
  let o := (s.dirEntry slot i).offset
  o + 12 + (parsePcc (s.bytesAt (slot * slotBytes + o) 12)).encLen

/-- The block at a segment offset against the directory of its segment (R91): the entry that names it, whose VCOUNT must equal n, an
earlier block that reaches into it, and the next block's OFFSET. A block that no entry names, or before which the entries do not rise,
fails as an overlap does (DEDUCED, assumption 143). -/
def directoryCheck (s : State) (slot so : Nat) (h : PccHeader) : Option Nat :=
  let n := min 1024 (s.blockCount slot)
  match (List.range n).find? fun i => (s.dirEntry slot i).offset == so with
  | none => some Status.pccBadHeader
  | some i =>
    if (s.dirEntry slot i).vcount ≠ h.n then some Status.pccBadHeader
    else if (List.range i).any fun j => decide (so < s.blockEnd slot j) then some Status.pccBadHeader
    else if i + 1 < n ∧ (s.dirEntry slot (i + 1)).offset < so + 12 + h.encLen then some Status.pccTruncated
    else none

/-- A decode trap (R164). -/
def decodeTrap (status : Nat) (addr : Word) (s : State) (c : Ctx) : Effect := .trap 6 status addr 0 s c

/-- The intervals of the list at a scratchpad index (R109, R156). -/
def scratchIntervals (c : Ctx) (aq : Nat) : List (Word × Word) :=
  (List.range (bitsOf (c.spRead aq).toNat 9 5)).map fun i => (c.spRead (aq + 1 + 2 * i), c.spRead (aq + 2 + 2 * i))

/-- Clears the mask bits of the values that fail (R156). -/
def clearMask (c : Ctx) (am first : Nat) (ok : Word → Bool) (vs : List Word) : Ctx :=
  vs.zipIdx.foldl (fun c p =>
    let i := first + p.2
    if ok p.1 then c
    else c.spWrite (am + i / 48) (c.spRead (am + i / 48) &&& ~~~((1 : Word) <<< (i % 48)))) c

/-- The values of a group go out four at a time (R155 step 4): Ad and, for the vector forms, Dd and the scratchpad. -/
def deliver (form : ScanForm) (ad : Fin 16) (dd : Fin 32) (vs : List Word) (c : Ctx) : Ctx :=
  let quads := ceilDiv vs.length 4
  let last := vs.drop (4 * (quads - 1))
  let c1 := if form.vec then
      (c.spPut (c.getA ad).toNat vs).setD dd (quad fun n => last.getD n.val 0)
    else c
  c1.setA ad (c.getA ad + BitVec.ofNat 48 (4 * quads))

/-- The groups of a block from DONE and NEXT_OFF on, with the history of the predictors. -/
def scanGroups (form : ScanForm) (f : BitVec 40) (e : WorkEntry) (img : Image) (ab : Word) (so slotMa : Nat) (h : PccHeader) :
    Nat → Nat → Nat → Word → Word → State → Ctx → Effect
  | 0, _, _, _, _, s, c => stepOn s c
  | fuel + 1, done, off, a, b, s, c =>
    if h.n ≤ done then stepOn s c
    else
      let m := min 64 (h.n - done)
      let ad := c.getA (fA f 32)
      let aq := c.getA (fA f 19)
      let am := c.getA (fA f 15)
      let bad (r : Word) (from_ n : Nat) : List Nat :=
        ((List.range n).map (spPtr r + from_ + ·)).filter fun i => !spRegOk r || decide (spWordsTotal ≤ i)
      let cnt := bitsOf (c.spRead aq.toNat).toNat 9 5
      let maskLen := (done + m - 1) / 48 - done / 48 + 1
      let listAway := form.filter && (bad aq 0 1).isEmpty && c.spBusy aq.toNat 1
      let stored := (if form.vec then bad ad 0 m else []) ++ if form.filter then bad am (done / 48) maskLen else []
      let readOnly := if form.filter then bad aq 0 (if listAway then 1 else 1 + 2 * cnt) else []
      match (stored ++ readOnly).min? with
      | some i => scratchTrap i 0 (stored.contains i) s c
      | none =>
        if listAway || (form.vec && c.spBusy ad.toNat m) || (form.filter && (c.spBusy aq.toNat (1 + 2 * cnt) ||
            c.spBusy (am.toNat + done / 48) maskLen)) then .stall
        else
          let bs := s.bytesAt (slotMa + so + off) (12 + h.encLen - off)
          let o := decodeGroup h m bs a b
          let addr := ab + BitVec.ofNat 48 off
          match scanLines e img (lineAddrs addr (so + off) (max 1 o.len)) s c (fun s' => .done s' c) with
          | .done s' _ =>
            if !o.ok then decodeTrap Status.pccBadGroup addr s' c
            else
              let c1 := deliver form (fA f 32) (fD f 23) o.values c
              let c2 := if form.filter then
                  clearMask c1 am.toNat done (inIntervals h.ty (scratchIntervals c aq.toNat)) o.values
                else c1
              let c3 := c2.setA (fA f 28) (BitVec.ofNat 48 ((off + o.len) * 65536 + (done + m)))
              let (a', b') := history a b o.values
              scanGroups form f e img ab so slotMa h fuel (done + m) (off + o.len) a' b' s' c3
          | x => x

/-- The history after the earlier groups of a block, decoded again (R180), or the offset of one that is malformed. -/
def earlierGroups (h : PccHeader) : Nat → Nat → List Byte → Nat → Word → Word → Except Nat (Word × Word)
  | 0, _, _, _, a, b => .ok (a, b)
  | g + 1, left, bs, off, a, b =>
    let o := decodeGroup h (min 64 left) bs a b
    if !o.ok then .error off
    else
      let (a', b') := history a b o.values
      earlierGroups h g (left - 64) (bs.drop o.len) (off + o.len) a' b'

/-- The history a scan starts with: BASE, the lanes of Dd, or for DSCANN what the earlier groups of a PREV or LINEAR block leave. -/
def scanHistory (form : ScanForm) (f : BitVec 40) (c : Ctx) (h : PccHeader) (bs : List Byte) (off done : Nat) : Except Nat (Word × Word) :=
  if off = 0 then .ok (h.base, h.base)
  else if form.vec then .ok ((c.getD (fD f 23))[3], (c.getD (fD f 23))[2])
  else if h.pred = 1 ∨ h.pred = 2 then earlierGroups h (done / 64) h.n bs 12 h.base h.base
  else .ok (h.base, h.base)

/-- DSCAN in its three forms: the reserved bits of Ac, the header phase, then the groups (R155). The span is opened, and one of another
KIND fails as check 1 of R69; then every line that holds a byte of the header is checked and read. DEDUCED, assumption 31. -/
def scanBlock (form : ScanForm) (f : BitVec 40) (s : State) (c : Ctx) (e : WorkEntry) (img : Image) : Effect :=
  let ab := c.getA (fA f 36)
  let ac := (c.getA (fA f 28)).toNat
  let d := s.desc e.inst (selOf ab)
  let so := (descBase d + offOf ab) % slotBytes
  let slotMa := descBase d + offOf ab - so
  if 2 ^ 31 ≤ ac then .trap 7 Status.repeatState 0 0 s c
  else match segOpen s e img false ab with
  | .error k => segTrap k 0 false ab s c
  | .ok _ =>
    if descKind d ≠ 1 then segTrap 1 0 false ab s c
    else match scanLines e img (if lineArea ≤ so then [] else lineAddrs ab so (min 12 (lineArea - so))) s c (fun s' => .done s' c) with
    | .done s' _ =>
      if lineArea < so + 12 then decodeTrap Status.pccTruncated ab s' c
      else
        let h := parsePcc (s'.bytesAt (slotMa + so) 12)
        if !h.ok then decodeTrap Status.pccBadHeader ab s' c
        else match directoryCheck s' (slotMa / slotBytes) so h with
          | some st => decodeTrap st ab s' c
          | none =>
            if lineArea < so + 12 + h.encLen then decodeTrap Status.pccTruncated ab s' c
            else
              let off := ac / 65536
              let done := ac % 65536
              match scanHistory form f c h (s'.bytesAt (slotMa + so + 12) h.encLen) off done with
              | .error bad => decodeTrap Status.pccBadGroup (ab + BitVec.ofNat 48 bad) s' c
              | .ok (a, b) =>
                scanGroups form f e img ab so slotMa h 65 (if off = 0 then 0 else done) (if off = 0 then 12 else off) a b s' c
    | x => x

def execDscan (t : Fin 64) (f : BitVec 40) (s : State) : Host.Outcome State Fault Refusal :=
  .next (runInstr t (instrWord 0x84 f) .program (fun _ => !(zeros f 22 0 && distinct3 f))
    (scanBlock { vec := true, filter := false } f) s)

/-- Aq and Am distinct from each other and from the other registers (R180). -/
def distinct5 (f : BitVec 40) : Bool :=
  distinct3 f && fA f 19 != fA f 15 && [fA f 36, fA f 32, fA f 28].all fun r => r != fA f 19 && r != fA f 15

def execDscanf (t : Fin 64) (f : BitVec 40) (s : State) : Host.Outcome State Fault Refusal :=
  .next (runInstr t (instrWord 0x85 f) .program (fun _ => !(zeros f 14 0 && distinct5 f))
    (scanBlock { vec := true, filter := true } f) s)

def execDscann (t : Fin 64) (f : BitVec 40) (s : State) : Host.Outcome State Fault Refusal :=
  .next (runInstr t (instrWord 0x86 f) .program (fun _ => !(zeros f 27 23 && zeros f 14 0 && distinct5 f))
    (scanBlock { vec := false, filter := true } f) s)

end Sys2Proof.Machine
end

