-- ==== Sys2Proof/Machine/Kma.lean ====
section
/-! DEFINITION. The Key Match Array: hashing and placement (R193, R195), searches (R197 to R200, R207), and the serial effect of
a merge record (R201 to R208, R214, R215). -/

namespace Sys2Proof.Machine

/-! ### Small sorting -/

/-- Inserts into a list sorted by a strict order, after its equals. -/
def insertBy {α : Type} (lt : α → α → Bool) (x : α) : List α → List α
  | [] => [x]
  | y :: r => if lt x y then x :: y :: r else y :: insertBy lt x r

def sortBy {α : Type} (lt : α → α → Bool) (l : List α) : List α := l.foldl (fun s x => insertBy lt x s) []

/-! ### Hash and placement -/

/-- The two-word key, word 1 high (R191). -/
def keyOf (k0 k1 : Word) : DWord := k1 ++ k0

def kmaHash (key : DWord) : Nat :=
  let k := key.toNat
  let h := ((k % 2 ^ 48) * 0xB5C362A91D47) % 2 ^ 48
  let h := h ^^^ (((k / 2 ^ 48) * 0xD2F18E5B3A93) % 2 ^ 48)
  h ^^^ (h >>> 21)

def kmaBank (nb : Nat) (key : DWord) : Nat := (bitsOf (kmaHash key) 47 32 * nb) >>> 16
def kmaPart (key : DWord) : Nat := bitsOf (kmaHash key) 31 26

def KmaTable.is (t : KmaTable) (inst tag : Nat) : Bool := t.inst == inst && t.tag == tag

def State.table? (s : State) (inst tag : Nat) : Option KmaTable := s.kma.tables.find? fun t => t.is inst tag

def State.updTable (s : State) (inst tag : Nat) (f : KmaTable → KmaTable) : State :=
  { s with kma := { s.kma with tables := s.kma.tables.map fun t => if t.is inst tag then f t else t } }

/-- Entries of a table, POSITION ascending. -/
def State.tableEntries (s : State) (inst tag : Nat) : List (Nat × KmaEntry) :=
  s.kma.entries.filter fun p => p.2.inst == inst && p.2.tag == tag

/-- Object of a quota, 0x2100 plus the instance, by subindex (R299). -/
def State.quota (s : State) (inst sub : Nat) : Nat := s.od (0x2100 + inst) sub

/-- The unreserved KMA quota of an instance (R193). -/
def State.kmaFree (s : State) (inst : Nat) : Nat :=
  s.quota inst 5 - ((s.kma.tables.filter fun t => t.inst == inst).map KmaTable.charge).sum

/-- Free extents of a bank in a pool, ascending (R190). -/
def State.freeExtents (s : State) (persistent : Bool) (bank : Nat) : List Nat :=
  let pb := s.kma.persistBase
  ((List.range 128).filter fun x => if persistent then decide (pb ≤ x) else decide (x < pb)).filter fun x =>
    !s.kma.tables.any fun t => t.extents.contains (bank, x)

/-- The placement loop: the greatest extent count from e down that enough banks can give, with those banks. -/
def placeLoop (free : List (Nat × Nat)) (nb : Nat) : Nat → Nat × List (Nat × Nat)
  | 0 => (0, [])
  | e + 1 =>
    let cand := free.filter fun p => decide (e + 1 ≤ p.2)
    if nb ≤ cand.length then (e + 1, cand) else placeLoop free nb e

/-- What a table is created with. -/
structure TableSpec where
  inst : Nat
  tag : Nat
  ordered : Bool
  unique : Bool
  dictId : Nat
  bankset : Nat
  capacity : Nat
  spillSel : Nat
  spillListed : Bool
  owner : Nat × Nat
deriving DecidableEq, Repr

/-- Places a table (R193). -/
def State.placeTable (s : State) (p : TableSpec) : State :=
  let free := s.kmaFree p.inst
  let want := min p.capacity free
  let nb := min (if p.ordered then 8 else 24) (max p.bankset ((want + 1023) / 1024))
  let e0 := (want + 64 * nb - 1) / (64 * nb)
  let e1 := if free < nb * e0 * 64 then free / (64 * nb) else e0
  let pool := (List.range 24).map fun b => (b, (s.freeExtents (decide (p.tag < 0x4000)) b).length)
  let (e, cand) := placeLoop pool nb e1
  let span := sortBy (fun a b => decide (a < b))
    (((sortBy (fun (a b : Nat × Nat) => decide (b.2 < a.2)) cand).take nb).map (·.1))
  let t : KmaTable :=
    { inst := p.inst, tag := p.tag, ordered := p.ordered, unique := p.unique || p.ordered || p.dictId != 0,
      dict := p.dictId != 0, dictId := p.dictId, bankset := if p.ordered then nb else p.bankset, nb := nb, perBank := e,
      span := span, extents := span.flatMap fun b => ((s.freeExtents (decide (p.tag < 0x4000)) b).take e).map fun x => (b, x),
      limit := min want (nb * e * 64), charge := nb * e * 64, spillSel := p.spillSel,
      spillListed := p.spillListed, owner := p.owner, spilled := [], taken := [], inRound := [],
      ended := false, rebalances := 0 }
  { s with kma := { s.kma with tables := s.kma.tables ++ [t] } }

/-! ### The cells of the array (R191, R210 to R213) -/

/-- The CAM part of an entry, [117:0] of R191; a position that is not occupied holds zero (DESIGN CHOICE, assumption 140). -/
def camImage : Option KmaEntry → BitVec 118
  | some e => BitVec.ofNat 118 (e.key.toNat + e.tag * 2 ^ 96 + e.inst * 2 ^ 111 + 2 ^ 117)
  | none => 0

/-- What the ECC-protected SRAM holds for a position. -/
def Kma.shadow (k : Kma) (pos : Nat) : Option KmaEntry := (k.entries.find? fun p => p.1 == pos).map (·.2)

/-- A row of CAM cells is written with an image; stuck cells keep what they hold. -/
def CamRow.write (r : CamRow) (img : BitVec 118) : CamRow :=
  { r with cell := (img &&& ~~~r.stuckCell) ||| (r.cell &&& r.stuckCell)
           pair := (~~~img &&& ~~~r.stuckPair) ||| (r.pair &&& r.stuckPair) }

/-- The cells of a row as written, none of them stuck. -/
def camClean (img : BitVec 118) : CamRow := { cell := img, pair := ~~~img, stuckCell := 0, stuckPair := 0 }

def Kma.row (k : Kma) (pos : Nat) : CamRow :=
  match k.cam.find? fun p => p.1 == pos with
  | some p => p.2
  | none => camClean (camImage (k.shadow pos))

/-- A pair of equal cells matches both values (R210). -/
def CamRow.sees (r : CamRow) (want : BitVec 118) : Bool := (r.cell ^^^ r.pair) &&& (r.cell ^^^ want) == 0

/-- The CAM rows that some positions have are written from the shadow copy. -/
def Kma.writeRows (k : Kma) (at? : Nat → Bool) : Kma :=
  { k with cam := k.cam.filterMap fun p =>
      if at? p.1 then
        let img := camImage (k.shadow p.1)
        let r := p.2.write img
        if r = camClean img then none else some (p.1, r)
      else some p }

/-- A FAULT record of a bank of the array (R213). -/
def State.kmaFault (s : State) (event pos : Nat) : State :=
  s.raiseAt 0x0030 2 (location 1 3 (pos / 8192)) (event * 2 ^ 16 + pos % 8192) 0

/-- A row is rewritten from its shadow copy; the sixteenth rewrite since reset reports a hard row (R211). -/
def State.rewriteRow (s : State) (pos : Nat) : State :=
  let n := lookupD s.kma.rewrites pos 0 + 1
  let s1 := { s with kma := { s.kma.writeRows (· == pos) with rewrites := insertK s.kma.rewrites pos n } }
  if n = 16 then ({ s1 with health := { s1.health with hardRow := true } }).kmaFault 5 pos else s1

/-- A match that the shadow copy does not bear out is discarded, counted and reported, and its row rewritten (R211). -/
def State.discardMatch (s : State) (pos : Nat) : State :=
  (({ s with kma := { s.kma with verifyDiscards := (s.kma.verifyDiscards + 1) % 2 ^ 48 } } : State).kmaFault 0 pos).rewriteRow pos

/-- One SRAM word of an entry is read: one bit in error is corrected, more poison the entry (R212). Words 0 to 2 hold the shadow copy
and PRIO, words 3 to 6 the payload. -/
def State.readSramWord (s : State) (x : Nat × Nat × Nat) : State :=
  if x.2.2 = 0 then s
  else if x.2.2 = 1 then
    ({ s with kma := { s.kma with
        eccCorrected := (s.kma.eccCorrected + 1) % 2 ^ 48
        sram := s.kma.sram.filter (· != x) } } : State).kmaFault (if x.2.1 < 3 then 2 else 3) x.1
  else if s.kma.poisoned.contains x.1 then s
  else ({ s with kma := { s.kma with poisoned := x.1 :: s.kma.poisoned } } : State).kmaFault 4 x.1

/-- Some words of the SRAM of a position are read. -/
def State.readSram (s : State) (words : Nat) (pos : Nat) : State :=
  (s.kma.sram.filter fun x => x.1 == pos && decide (x.2.1 < words)).foldl State.readSramWord s

/-- An entry is read whole. -/
def State.readEntry (s : State) (pos : Nat) : State := s.readSram 7 pos

/-- The entries of some positions are gone or written anew: their SRAM words are sound, they are not poisoned, and their CAM cells are
written. -/
def Kma.renew (k : Kma) (at? : Nat → Bool) : Kma :=
  { k with sram := k.sram.filter (fun x => !at? x.1), poisoned := k.poisoned.filter (fun p => !at? p) }.writeRows at?

/-- The banks a key of a hash table is searched in (R195). -/
def KmaTable.banksOf (t : KmaTable) (key : DWord) : List Nat :=
  (List.range t.bankset).map fun i => t.span.getD ((kmaBank t.nb key + i) % t.nb) 0

/-- CAM fields a search asks for. -/
def KmaTable.wanted (t : KmaTable) (key : DWord) : BitVec 118 :=
  camImage (some { inst := t.inst, tag := t.tag, key := key, prio := 0, payload := quadOf 0 })

/-- A position holds an entry that cannot be read (R212). -/
def Kma.unreadable (k : Kma) (pos : Nat) : Bool := k.poisoned.contains pos || k.sram.any fun x => x.1 == pos && decide (2 ≤ x.2.2)

/-- Invalidates the entries of a table; a poisoned one is cleared with it (R212). -/
def State.clearTable (s : State) (inst tag : Nat) : State :=
  let gone := (s.tableEntries inst tag).map (·.1)
  { s with kma := ({ s.kma with entries := s.kma.entries.filter fun p => !(p.2.inst == inst && p.2.tag == tag) } : Kma).renew gone.contains }

/-- Releases a table: entries invalid, extents and charge free (R194). -/
def State.dropTable (s : State) (inst tag : Nat) : State :=
  let s1 := s.clearTable inst tag
  { s1 with kma := { s1.kma with tables := s1.kma.tables.filter fun t => !t.is inst tag } }

/-- POSITION of the p-th position of a table (R193). -/
def KmaTable.position (t : KmaTable) (p : Nat) : Nat :=
  match t.extents[p / 64]? with
  | some (b, x) => 8192 * b + 64 * x + p % 64
  | none => 8192 * 24

/-- The place of a POSITION in a table. -/
def KmaTable.ordinal (t : KmaTable) (pos : Nat) : Nat :=
  64 * ((t.extents.findIdx? fun q => q.1 == pos / 8192 && q.2 == (pos % 8192) / 64).getD t.extents.length) + pos % 64

/-! ### Aggregate words (R124, R125) -/

/-- The OPS code of payload word i. -/
def opsCode (ops i : Nat) : Nat := (ops >>> (4 * i)) % 16

/-- The value of a new group. -/
def newGroup (ops : Nat) : Quad :=
  quad fun i => match opsCode ops i.val with
    | 2 => 0xFFFFFFFFFFFF
    | 7 => 0x7FFFFFFFFFFF
    | 8 => 0x800000000000
    | _ => 0

/-- Adds to the 96-bit sum of words i and i + 1. -/
def add96 (w : Quad) (i : Fin 4) (x : DWord) : Quad :=
  let j : Fin 4 := i + 1
  let r : DWord := (w[j] ++ w[i]) + x
  (w.set i (r.setWidth 48)).set j ((r >>> 48).setWidth 48)

/-- Folds the source of word i into a group (R124); a null source changes nothing. -/
def foldWord (ops : Nat) (src : Quad) (valid : BitVec 4) (w : Quad) (i : Fin 4) : Quad :=
  if !valid.getLsbD i.val then w
  else match opsCode ops i.val with
    | 1 => w.set i (w[i] + src[i])
    | 2 => w.set i (uMin w[i] src[i])
    | 3 => w.set i (uMax w[i] src[i])
    | 4 => w.set i (w[i] + 1)
    | 5 => w.set i src[i]
    | 6 => add96 w i (src[i].setWidth 96)
    | 7 => w.set i (sMin w[i] src[i])
    | 8 => w.set i (sMax w[i] src[i])
    | 9 => add96 w i (src[i].signExtend 96)
    | 10 => add96 w i (src[i + 1] ++ src[i])
    | _ => w

def foldSource (ops : Nat) (src : Quad) (valid : BitVec 4) (w : Quad) : Quad :=
  (List.finRange 4).foldl (foldWord ops src valid) w

/-- A group takes one row. -/
def Group.fold (g : Group) (src : Quad) (valid : BitVec 4) : Group := { g with rows := g.rows ++ [(src, valid)] }

/-- The rows of a local group act on a group one after another (R203). -/
def mergeGroup (ops : Nat) (g : Group) (w : Quad) : Quad := g.rows.foldl (fun w r => foldSource ops r.1 r.2 w) w

/-! ### The view of a search (R199) -/

/-- A match: its POSITION, or `none` for a record of the issuing tile that is not merged. -/
structure Match where
  pos : Option Nat
  key : DWord
  prio : Nat
  payload : Quad
deriving DecidableEq, Repr

/-- The array's matches of a hash table, in the order of R197: the entries of the key whose cells match it (R210). -/
def State.arrayMatches (s : State) (inst tag : Nat) (key : DWord) : List Match :=
  sortBy (fun a b => decide (b.prio < a.prio))
    (((s.tableEntries inst tag).filter fun p => p.2.key == key && (s.kma.row p.1).sees (camImage (some p.2))).map fun p =>
      { pos := some p.1, key := p.2.key, prio := p.2.prio, payload := p.2.payload })

/-- The winner's payload is changed, or a group is added. -/
def updateFirst (ms : List Match) (key : DWord) (ops : Nat) (f : Quad → Quad) : List Match :=
  match ms with
  | [] => [{ pos := none, key := key, prio := 0, payload := f (newGroup ops) }]
  | m :: r => { m with payload := f m.payload } :: r

/-- One of the issuing tile's own records acts on the view of a key. -/
def viewRecord (t : KmaTable) (ops : Nat) (key : DWord) (ms : List Match) : RecordKind → List Match
  | .insert k prio payload =>
    if k ≠ key ∨ (t.unique ∧ ms ≠ []) then ms
    else ms ++ [{ pos := none, key := k, prio := prio, payload := if t.dict then quadOf 0 else payload }]
  | .update k src valid => if k ≠ key then ms else updateFirst ms key ops (foldSource ops src valid)
  | .group g => if g.key ≠ key then ms else updateFirst ms key ops (mergeGroup ops g)
  | .header .. => ms

/-- Rank of the operator among the image's operators with HANDLE 0 (R192). -/
def tempRank (img : Image) (op : Nat) : Nat :=
  ((img.ops.take op).filter fun o => (o.kind == 5 || o.kind == 7) && bitsOf o.arg4 47 34 == 0).length

/-- Instance and TAG of the table of an operator of an entry. -/
def tableTag (e : WorkEntry) (img : Image) (op : Nat) : Nat :=
  match img.ops[op]? with
  | some o => if bitsOf o.arg4 47 34 = 0 then 0x4000 + 64 * e.slot + tempRank img op else bitsOf o.arg4 47 34
  | none => 0

/-- OPS of an operator; 0 for a BUILD. -/
def opsOf (img : Image) (op : Nat) : Nat :=
  match img.ops[op]? with
  | some o => if o.kind = 7 then bitsOf o.arg3 15 0 else 0
  | none => 0

/-- A tile's own records of the frame for a table, with the OPS each was issued under. -/
def State.ownRecords (s : State) (t : Fin 64) (inst tag : Nat) : List (Nat × RecordKind) :=
  s.tiles[t].merge.filterMap fun r =>
    match s.entry? r.slot with
    | some e => match e.image with
      | some img => if e.inst = inst ∧ tableTag e img r.op = tag then some (opsOf img r.op, r.kind) else none
      | none => none
    | none => none

/-- The matches of a key as a tile sees them. -/
def State.viewHash (s : State) (t : Fin 64) (tb : KmaTable) (key : DWord) : List Match :=
  (s.ownRecords t tb.inst tb.tag).foldl (fun ms r => viewRecord tb r.1 key ms r.2) (s.arrayMatches tb.inst tb.tag key)

/-- The match of greatest key at most `key`. -/
def floorOf (ms : List Match) (key : DWord) : Option Match :=
  ms.foldl (fun best m =>
    if key.toNat < m.key.toNat then best
    else match best with
      | none => some m
      | some b => if b.key.toNat < m.key.toNat then some m else best) none

/-- One of the tile's own records acts on the view of an ordered table: an update changes the payload of its key or adds a group. -/
def viewOrderedRecord (ops : Nat) (ms : List Match) : RecordKind → List Match
  | .insert k prio payload => if ms.any (·.key == k) then ms else ms ++ [{ pos := none, key := k, prio := prio, payload := payload }]
  | .update k src valid => ms.filter (·.key != k) ++ updateFirst (ms.filter (·.key == k)) k ops (foldSource ops src valid)
  | .group g => ms.filter (·.key != g.key) ++ updateFirst (ms.filter (·.key == g.key)) g.key ops (mergeGroup ops g)
  | .header .. => ms

/-- The keys of an ordered table as a tile sees them (R199, R207). -/
def State.viewOrdered (s : State) (t : Fin 64) (tb : KmaTable) : List Match :=
  (s.ownRecords t tb.inst tb.tag).foldl (fun ms r => viewOrderedRecord r.1 ms r.2)
    ((s.tableEntries tb.inst tb.tag).map fun p =>
      ({ pos := some p.1, key := p.2.key, prio := p.2.prio, payload := p.2.payload } : Match))

/-- Before a match is reported or used, it is compared with the shadow copy, and the entries it names are read (R211, R212). How cells
take part in the search for a floor the spec does not say: there only the floor is read (DESIGN CHOICE, assumption 140). -/
def State.verify (s : State) (t : KmaTable) (key : DWord) : State :=
  let wrong := s.kma.cam.filter fun p =>
    !t.ordered && (t.banksOf key).contains (p.1 / 8192) && p.2.sees (t.wanted key) && camImage (s.kma.shadow p.1) != t.wanted key
  let s1 := wrong.foldl (fun (s : State) p => s.discardMatch p.1) s
  let all := (s1.tableEntries t.inst t.tag).map fun p =>
    ({ pos := some p.1, key := p.2.key, prio := p.2.prio, payload := p.2.payload } : Match)
  let read := if t.ordered then (floorOf all key).toList else all.filter fun m => m.key == key
  (read.filterMap fun m => m.pos).foldl State.readEntry s1

/-- What a search finds. -/
inductive Found where
  | spill
  | poisoned
  | matched (ms : List Match) (exact : Bool)
deriving DecidableEq, Repr

/-- A search of a table by a tile (R197, R207, R212, R216, R217). -/
def State.search (s : State) (t : Fin 64) (tb : KmaTable) (key : DWord) : Found :=
  let part := kmaPart key
  if !tb.ordered && (if tb.inRound.isEmpty then tb.spilled.contains part else !tb.inRound.contains part) then .spill
  else
    let (ms, exact) :=
      if tb.ordered then
        match floorOf (s.viewOrdered t tb) key with
        | some m => ([m], m.key == key)
        | none => ([], false)
      else (s.viewHash t tb key, false)
    if ms.any fun m => match m.pos with
        | some p => s.kma.unreadable p
        | none => false then .poisoned
    else .matched ms exact

/-- The result record of the match of ordinal `ord` (R198); `none` past the last match. -/
def resultRecord (key : DWord) (ms : List Match) (exact : Bool) (ord : Nat) : List Word :=
  let m? := if ord = 0 then none else ms[ord - 1]?
  let top := (ms.headD { pos := none, key := 0, prio := 0, payload := quadOf 0 }).prio
  let multi := 1 < (ms.filter fun m => m.prio == top).length
  let w0 (hit last : Bool) (o prio : Nat) (pending : Bool) : Nat :=
    min 255 ms.length + (if hit then 256 else 0) + (if multi then 512 else 0) + (if pending then 1024 else 0)
      + (if last then 4096 else 0) + (if exact then 8192 else 0) + (o / 65536) * 2 ^ 14 + prio * 2 ^ 16 + (o % 65536) * 2 ^ 32
  let tail : List Word := [key.setWidth 48, (key >>> 48).setWidth 48]
  match m? with
  | none => BitVec.ofNat 48 (w0 false true 0 0 false) :: BitVec.allOnes 48 :: [0, 0, 0, 0] ++ tail
  | some m =>
    BitVec.ofNat 48 (w0 true (decide (ms.length ≤ ord)) ord m.prio m.pos.isNone)
      :: (match m.pos with
        | some p => BitVec.ofNat 48 p
        | none => BitVec.allOnes 48)
      :: m.payload.toList ++ tail

/-- The record of a key whose partition is spilled (R216). -/
def spillRecord (key : DWord) : List Word :=
  BitVec.ofNat 48 2048 :: [0, 0, 0, 0, 0, key.setWidth 48, (key >>> 48).setWidth 48]

/-! ### Spill (R214, R215) -/

/-- Module address of line n of a spill span. -/
def spillLine (d : BitVec 192) (n : Nat) : Nat := descBase d + (n / 5461) * slotBytes + (n % 5461) * 192

/-- Lines of one partition. -/
def spillPL (d : BitVec 192) : Nat := (descSegs d * 5461 - 2) / 64

/-- Module address of directory word p. -/
def spillDir (d : BitVec 192) (p : Nat) : Nat := spillLine d (p / 32) + 6 * (p % 32)

/-- COUNT of a partition. -/
def State.spillCount (s : State) (d : BitVec 192) (p : Nat) : Nat := bitsOf (s.wordAt (spillDir d p)).toNat 31 0

/-- Goes on with a state, unless a status has ended the record. -/
def andThen (r : Except Nat State) (k : State → Except Nat State) : Except Nat State :=
  match r with
  | .error st => .error st
  | .ok s => k s

/-- A read of the merge: through the cache with no fill, counted for no requester (R249); an uncorrectable line ends the entry
(R236). -/
def State.mergeRead (s : State) (ma n : Nat) : Except Nat State :=
  let (s1, ok) := s.readRange ma n 67 false
  if ok then .ok s1 else .error Status.memUncorrectable

/-- A write of the merge into a span, with the header of its segment (R56, R236). -/
def State.mergeWrite (s : State) (d : BitVec 192) (off : Nat) (bs : List Byte) : Except Nat State :=
  let (s1, ok) := s.writeMem (descBase d + off) bs
  if ok then .ok (s1.noteWrite d off bs.length) else .error Status.memUncorrectable

/-- Writes one spill record of eight words, and the directory word of its partition. -/
def State.spillWrite (s : State) (d : BitVec 192) (p : Nat) (key : DWord) (payload : Quad) (prio valid kind : Nat) :
    Except Nat State :=
  let q := s.spillCount d p
  if spillPL d ≤ q / 4 then .error Status.spanFull
  else
    let w6 := prio + valid * 2 ^ 16 + kind * 2 ^ 20
    let words : List Nat := [key.toNat % 2 ^ 48, key.toNat / 2 ^ 48] ++ payload.toList.map BitVec.toNat ++ [w6, 0]
    andThen (s.mergeWrite d (spillLine d (2 + p * spillPL d + q / 4) - descBase d + 48 * (q % 4)) (words.flatMap (leBytes 6))) fun s1 =>
      s1.mergeWrite d (spillDir d p - descBase d) (leBytes 6 (q + 1 + 2 ^ 47))

/-- Writes spill records one after another, up to the first that finds no space. -/
def State.spillAll (s : State) (d : BitVec 192) (p kind : Nat) (l : List KmaEntry) : Except Nat State :=
  l.foldl (fun (r : Except Nat State) (e : KmaEntry) => andThen r fun s1 => s1.spillWrite d p e.key e.payload e.prio 0 kind) (.ok s)

/-- A table can spill: its span has KIND 0x4, RD and WR, and stands in the write set (R214); else an access to it is a segment fault
(R105). -/
def State.spillOpen (s : State) (tb : KmaTable) : Bool :=
  let d := s.desc tb.inst tb.spillSel
  tb.spillListed && descKind d == 4 && descRd d && descWr d

/-- The first full record of a partition spills the whole partition (R215). An entry that cannot be read ends it (R212). -/
def State.spillPartition (s : State) (tb : KmaTable) (agg : Bool) (p : Nat) : Except Nat State :=
  let d := s.desc tb.inst tb.spillSel
  let mine := (s.tableEntries tb.inst tb.tag).filter fun x => kmaPart x.2.key == p
  if !s.spillOpen tb then .error Status.segFault
  else if mine.any fun x => s.kma.unreadable x.1 then .error Status.kmaEcc
  else
    let s0 := mine.foldl (fun (s : State) x => s.readEntry x.1) s
    let cleared := if tb.spilled.isEmpty then
        andThen (s0.mergeWrite d 0 (List.replicate 192 0)) fun s => s.mergeWrite d 192 (List.replicate 192 0)
      else .ok s0
    andThen cleared fun s1 => andThen (s1.spillAll d p (if agg then 2 else 1) (mine.map (·.2))) fun s2 =>
      let s3 := s2.updTable tb.inst tb.tag fun t => { t with spilled := insertBy (fun a b => decide (a < b)) p t.spilled }
      .ok { s3 with kma := ({ s3.kma with
          entries := s3.kma.entries.filter fun x => !mine.any fun y => y.1 == x.1
          spills := s3.kma.spills + 1 } : Kma).renew fun q => mine.any fun y => y.1 == q }

/-! ### One serial insert (R201, R208) -/

/-- An entry is written at a POSITION. -/
def State.kmaPut (s : State) (pos : Nat) (e : KmaEntry) : State :=
  { s with kma := ({ s.kma with entries := insertK s.kma.entries pos e } : Kma).renew (· == pos) }

/-- The place of a hash-table insert (R201); `none` when full. -/
def State.hashPlace (s : State) (tb : KmaTable) (key : DWord) : Option Nat :=
  let mine := s.tableEntries tb.inst tb.tag
  if tb.limit ≤ mine.length ∨ tb.span = [] then none
  else
    let set := tb.banksOf key
    let held (b : Nat) : Nat := (mine.filter fun p => p.1 / 8192 == b).length
    let b := set.foldl (fun m b => if held b < held m then b else m) (set.headD 0)
    let spots := (tb.extents.filter fun q => q.1 == b).flatMap fun q => (List.range 64).map fun i => 8192 * b + 64 * q.2 + i
    spots.find? fun p => !mine.any fun x => x.1 == p

/-- Entries of group g of an ordered table, ascending. -/
def State.groupEntries (s : State) (tb : KmaTable) (g : Nat) : List (Nat × KmaEntry) :=
  (s.tableEntries tb.inst tb.tag).filter fun p => tb.ordinal p.1 / 16 == g

/-- Keys of group g of an ordered table, ascending. -/
def State.groupOf (s : State) (tb : KmaTable) (g : Nat) : List KmaEntry := (s.groupEntries tb g).map (·.2)

/-- Rewrites group g from its lowest position. -/
def State.setGroup (s : State) (tb : KmaTable) (g : Nat) (es : List KmaEntry) : State :=
  let old := (s.groupEntries tb g).map (·.1)
  let s1 := { s with kma := ({ s.kma with entries := s.kma.entries.filter fun p => !old.contains p.1 } : Kma).renew old.contains }
  es.zipIdx.foldl (fun s p => s.kmaPut (tb.position (16 * g + p.2)) p.1) s1

/-- The greatest key of each group from g to the one before h goes to the next group. -/
def shiftUp (s : State) (tb : KmaTable) : Nat → Nat → State
  | 0, _ => s
  | n + 1, g =>
    let es := s.groupOf tb g
    let s1 := s.setGroup tb g (es.take (es.length - 1))
    shiftUp (s1.setGroup tb (g + 1) ((es.drop (es.length - 1)) ++ s1.groupOf tb (g + 1))) tb n (g + 1)

/-- The least key of each group from g down to the one after h goes to the group below. -/
def shiftDown (s : State) (tb : KmaTable) : Nat → Nat → State
  | 0, _ => s
  | n + 1, g =>
    let es := s.groupOf tb g
    let s1 := s.setGroup tb g (es.drop 1)
    shiftDown (s1.setGroup tb (g - 1) (s1.groupOf tb (g - 1) ++ es.take 1)) tb n (g - 1)

def countRebalance (s : State) (tb : KmaTable) (n : Nat) : State :=
  let s1 := s.updTable tb.inst tb.tag fun t => { t with rebalances := t.rebalances + n }
  { s1 with kma := { s1.kma with rebalances := s1.kma.rebalances + n } }

/-- Entries that move are read first: one that cannot be read ends the insert (R212). -/
def State.moveEntries (s : State) (moved : List (Nat × KmaEntry)) (k : State → State) : Except Nat State :=
  if moved.any fun p => s.kma.unreadable p.1 then .error Status.kmaEcc
  else .ok (k (moved.foldl (fun (s : State) p => s.readEntry p.1) s))

/-- An insert into an ordered table (R208); KMA_FULL when it is full. A group of 16 keys exists only inside this one serial step. -/
def State.orderedPut (s : State) (tb : KmaTable) (e : KmaEntry) : Except Nat State :=
  let mine := s.tableEntries tb.inst tb.tag
  let groups := tb.charge / 16
  if 15 * tb.limit / 16 ≤ mine.length ∨ groups = 0 then .error Status.kmaFull
  else
    let below := mine.filter fun p => decide (p.2.key.toNat < e.key.toNat)
    let g := match below.reverse.head? with
      | some p => tb.ordinal p.1 / 16
      | none => 0
    let es := insertBy (fun (a b : KmaEntry) => decide (a.key.toNat < b.key.toNat)) e (s.groupOf tb g)
    let above := (s.groupEntries tb g).filter fun p => decide (e.key.toNat < p.2.key.toNat)
    let between (lo hi : Nat) : List (Nat × KmaEntry) := mine.filter fun p => decide (lo ≤ tb.ordinal p.1 / 16 ∧ tb.ordinal p.1 / 16 ≤ hi)
    let size (h : Nat) : Nat := (mine.filter fun p => tb.ordinal p.1 / 16 == h).length
    if es.length ≤ 15 then s.moveEntries above fun s => s.setGroup tb g es
    else match ((List.range groups).filter fun h => decide (g < h)).find? fun h => decide (size h ≤ 14) with
      | some h => s.moveEntries (above ++ between (g + 1) h) fun s => countRebalance (shiftUp (s.setGroup tb g es) tb (h - g) g) tb (h - g)
      | none => match ((List.range groups).reverse.filter fun h => decide (h < g)).find? fun h => decide (size h ≤ 14) with
        | some h => s.moveEntries (between h g) fun s => countRebalance (shiftDown (s.setGroup tb g es) tb (g - h) g) tb (g - h)
        | none => .error Status.kmaFull

/-- Places an entry; KMA_FULL when it is full. -/
def State.tablePut (s : State) (tb : KmaTable) (e : KmaEntry) : Except Nat State :=
  if tb.ordered then s.orderedPut tb e
  else match s.hashPlace tb e.key with
    | some p => .ok (s.kmaPut p e)
    | none => .error Status.kmaFull

/-! ### Dictionary spans (R72 to R76, R204) -/

/-- The dictionary spans of an instance, in selector order. -/
def State.dictDescs (s : State) (inst : Nat) : List (BitVec 192) :=
  (s.host.descs.filter fun p => p.1 / 4096 == inst && descKind p.2 == 3).map (·.2)

/-- The descriptor of an instance that maps a dictionary. R72 makes DICT_ID unique; should two spans carry one, the lowest selector is
taken (DESIGN CHOICE, assumption 141). -/
def State.dictSpan (s : State) (inst dictId : Nat) : Option (BitVec 192) :=
  (s.dictDescs inst).find? fun d => leNat (s.bytesAt (descBase d) 4) == dictId

/-- A slot that holds the header of a dictionary of the instance and is not resident. -/
def State.dictHeaderAway (s : State) (inst : Nat) : Option Nat :=
  ((s.dictDescs inst).map fun d => descBase d / slotBytes).find? fun x => !s.resident x

def dictSealed (s : State) (d : BitVec 192) : Bool := bitOf (s.byteAt (descBase d + 4)).toNat 1
def dictCodes (s : State) (d : BitVec 192) : Nat := leNat (s.bytesAt (descBase d + 8) 6)
def dictHeapNext (s : State) (d : BitVec 192) : Nat := leNat (s.bytesAt (descBase d + 14) 6)

/-- Module address of the directory entry of a code (R73). -/
def dictDirAddr (d : BitVec 192) (code : Nat) : Nat :=
  descBase d + ((code + 15) / 87376) * slotBytes + ((code + 15) % 87376) * 12

/-- The string of a code. -/
def State.dictString (s : State) (d : BitVec 192) (code : Nat) : List Byte :=
  let off := bitsOf (s.wordAt (dictDirAddr d code)).toNat 35 0
  let len := bitsOf (s.wordAt (dictDirAddr d code + 6)).toNat 12 0
  s.bytesAt (descBase d + off) len

/-- Where a string of some length goes: the free heap byte, or line 0 of the next segment (R73). -/
def heapPlace (next len : Nat) : Nat :=
  if lineArea < next % slotBytes + len then (next / slotBytes + 1) * slotBytes else next

/-- A string that is new takes the next code: its index entry, its bytes in the heap, its directory entry, and the header of the
dictionary (R73, R76, R204). -/
def State.dictAdd (s : State) (tb : KmaTable) (d : BitVec 192) (key : DWord) (str : List Byte) : Except Nat State :=
  let len := str.length
  let code := dictCodes s d + 1
  let off := if len = 0 then dictHeapNext s d else heapPlace (dictHeapNext s d) len
  let dir := dictDirAddr d code - descBase d
  if descLimit d + 1 < off + len ∨ leNat (s.bytesAt (descBase d + 6) 2) ≤ dir / slotBytes then .error Status.spanFull
  else
    andThen (s.tablePut tb { inst := tb.inst, tag := tb.tag, key := key, prio := 0,
                             payload := quad fun i => if i = 0 then BitVec.ofNat 48 code else 0 }) fun s1 =>
    andThen (s1.mergeWrite d off str) fun s2 =>
    andThen (s2.mergeWrite d dir (leBytes 6 off ++ leBytes 6 len)) fun s3 =>
      s3.mergeWrite d 8 (leBytes 6 code ++ leBytes 6 (off + len))

/-- A dictionary insert in the merge (R76, R204). When no span carries the DICT_ID any more the insert is dropped, and a directory
with no room left ends the entry with SPAN_FULL, as the heap does (DESIGN CHOICE, assumption 141). -/
def State.dictInsert (s : State) (tb : KmaTable) (key : DWord) (payload : Quad) : Except Nat State :=
  match s.dictSpan tb.inst tb.dictId with
  | none => .ok s
  | some d =>
    let len := bitsOf payload[2].toNat 12 0
    let ma := descBase (s.desc tb.inst (selOf payload[1])) + offOf payload[1]
    match s.arrayMatches tb.inst tb.tag key with
    | m :: _ =>
      if s.kma.unreadable (m.pos.getD 0) then .error Status.kmaEcc
      else if len < 12 then .ok s
      else andThen (s.mergeRead ma len) fun s1 => andThen (s1.mergeRead (dictDirAddr d (m.payload[0]).toNat) 12) fun s2 =>
        andThen (s2.mergeRead (descBase d + bitsOf (s2.wordAt (dictDirAddr d (m.payload[0]).toNat)).toNat 35 0) len) fun s3 =>
          if s3.dictString d (m.payload[0]).toNat ≠ s3.bytesAt ma len then .error Status.dictCollision else .ok s3
    | [] =>
      if dictSealed s d then .ok s
      else if dictCodes s d = 16777215 then .error Status.dictFull
      else andThen (s.mergeRead ma len) fun s1 => s1.dictAdd tb d key (s1.bytesAt ma len)

/-! ### One merge record -/

/-- An insert that is full goes to its partition, when its table can spill, or ends the entry (R205, R215). -/
def State.spillInstead (s : State) (tb : KmaTable) (round agg : Bool) (st : Nat) (key : DWord) (payload : Quad) (prio valid kind : Nat) :
    Except Nat State :=
  if st = Status.kmaFull ∧ 0x4000 ≤ tb.tag ∧ tb.spillSel ≠ 0 ∧ !round then
    andThen (s.spillPartition tb agg (kmaPart key)) fun s1 => s1.spillWrite (s1.desc tb.inst tb.spillSel) (kmaPart key) key payload prio valid kind
  else .error st

/-- An insert of an entry (R201, R202, R205, R215). `round` is set while a round reloads the table. -/
def State.entryInsert (s : State) (tb : KmaTable) (round : Bool) (key : DWord) (prio : Nat) (payload : Quad) : Except Nat State :=
  let spilledNow := !round && tb.spilled.contains (kmaPart key)
  let dups := if tb.ordered then ((s.tableEntries tb.inst tb.tag).filter fun p => p.2.key == key).map (·.1)
    else (s.arrayMatches tb.inst tb.tag key).filterMap fun m => m.pos
  if spilledNow then s.spillWrite (s.desc tb.inst tb.spillSel) (kmaPart key) key payload prio 0 1
  else if tb.unique && !dups.isEmpty then
    if dups.any s.kma.unreadable then .error Status.kmaEcc else .ok s
  else match s.tablePut tb { inst := tb.inst, tag := tb.tag, key := key, prio := prio, payload := payload } with
    | .ok s1 => .ok s1
    | .error st => s.spillInstead tb round false st key payload prio 0 1

/-- An insert record: into an index table it is a dictionary insert (R204). -/
def State.mergeInsert (s : State) (tb : KmaTable) (round : Bool) (key : DWord) (prio : Nat) (payload : Quad) : Except Nat State :=
  if tb.dict then s.dictInsert tb key payload else s.entryInsert tb round key prio payload

/-- An aggregate record (R203): `f` acts on the group of the key; `src` and `valid` are what an UPDATE record would carry. -/
def State.mergeUpdate (s : State) (tb : KmaTable) (round : Bool) (ops : Nat) (key : DWord) (f : Quad → Quad)
    (src : Quad) (valid kind : Nat) : Except Nat State :=
  if !round && tb.spilled.contains (kmaPart key) then s.spillWrite (s.desc tb.inst tb.spillSel) (kmaPart key) key src 0 valid kind
  else match s.arrayMatches tb.inst tb.tag key with
    | m :: _ =>
      let p := m.pos.getD 0
      if s.kma.unreadable p then .error Status.kmaEcc
      else .ok (s.kmaPut p { inst := tb.inst, tag := tb.tag, key := key, prio := m.prio, payload := f m.payload })
    | [] =>
      match s.tablePut tb { inst := tb.inst, tag := tb.tag, key := key, prio := 0, payload := f (newGroup ops) } with
      | .ok s1 => .ok s1
      | .error st => s.spillInstead tb round true st key src 0 valid kind

/-- One row of an aggregate; after an earlier row of its group has spilled the partition, this one goes there too. -/
def State.updateRow (ops : Nat) (round : Bool) (inst tag : Nat) (key : DWord) (r : Except Nat State) (row : Quad × BitVec 4) :
    Except Nat State :=
  andThen r fun s => match s.table? inst tag with
    | none => .ok s
    | some tb => s.mergeUpdate tb round ops key (foldSource ops row.1 row.2) row.1 row.2.toNat 3

/-- The serial effect of one record on a table; a local group acts as the sequence of its updates (R203), so that where its partition
is spilled it is written as UPDATE records (R215). -/
def State.mergeRecord (s : State) (tb : KmaTable) (round : Bool) (ops : Nat) : RecordKind → Except Nat State
  | .insert key prio payload => s.mergeInsert tb round key prio payload
  | .update key src valid => State.updateRow ops round tb.inst tb.tag key (.ok s) (src, valid)
  | .group g => g.rows.foldl (State.updateRow ops round tb.inst tb.tag g.key) (.ok s)
  | .header .. => .ok s

end Sys2Proof.Machine
end

