-- ==== Sys2Proof/Machine/EngineArea.lean ====
section
/-! DEFINITION. The engine area (R53): what the Mover reads and writes there. The segment tables, the residency map, the hold store
and the retained firmware are State fields, of which the area shows the bytes; the rest of it is plain module memory. -/

namespace Sys2Proof.Machine

/-- First byte of the engine area (R53). -/
def engineBase (e384 : Bool) : Nat := openSlots e384 * slotBytes

/-- A byte of the segment tables: 4,096 descriptors of 24 bytes for each instance. -/
def State.tableByte (s : State) (o : Nat) : Byte :=
  BitVec.ofNat 8 ((lookupD s.host.descs (4096 * (o / 98304) + o % 98304 / 24) 0).toNat >>> (8 * (o % 24)))

/-- A byte of the residency map: bit s mod 8 of byte s div 8 is 1 while slot s is resident. -/
def State.residencyByte (s : State) (o : Nat) : Byte :=
  if slotCount s.e384 ≤ 8 * o then 0
  else BitVec.ofNat 8 (((List.range 8).map fun i => if s.resident (8 * o + i) then 2 ^ i else 0).sum)

/-- Bytes in the hold store, oldest first; its layout is the engine's own (DESIGN CHOICE, assumption 151). -/
def State.holdStore (s : State) : List Byte :=
  s.host.heldWrites.flatMap fun w => match w with
    | .inl h => if h.mover.isSome then h.bytes else []
    | .inr _ => []

/-- Bank header and body of the running firmware. -/
def State.firmwareBytes (s : State) : List Byte := match s.boot.firmware with
  | some f => f.header ++ f.body
  | none => []

/-- A byte of module memory as the Mover reads it, the engine area included. -/
def State.moduleByte (s : State) (ma : Nat) : Byte :=
  let b := engineBase s.e384
  if ma < b then s.byteAt ma
  else
    let o := ma - b
    let k := o / slotBytes
    if k < 6 then s.tableByte o
    else if k = 6 then s.residencyByte (o - 6 * slotBytes)
    else if k < 11 then s.holdStore.getD (o - 7 * slotBytes) 0
    else if k < 16 then s.firmwareBytes.getD (o - 11 * slotBytes) 0
    else s.byteAt ma

def State.moduleBytes (s : State) (ma n : Nat) : List Byte := (List.range n).map fun i => s.moduleByte (ma + i)

/-- A byte of the segment tables takes a value; a descriptor whose KIND is 0 is none. -/
def State.writeTable (s : State) (o : Nat) (v : Byte) : State :=
  let key := 4096 * (o / 98304) + o % 98304 / 24
  let old := lookupD s.host.descs key 0
  let sh := 8 * (o % 24)
  let d := (old &&& ~~~((0xFF : BitVec 192) <<< sh)) ||| ((v.setWidth 192) <<< sh)
  { s with host := { s.host with descs := if d = 0 then s.host.descs.filter fun p => p.1 != key else insertK s.host.descs key d } }

/-- A byte of the residency map takes a value. -/
def State.writeResidency (s : State) (o : Nat) (v : Byte) : State :=
  (List.range 8).foldl (fun (s : State) i => if 8 * o + i < slotCount s.e384 then s.setResident (8 * o + i) (v.getLsbD i) else s) s

/-- A byte of the retained firmware takes a value. -/
def State.writeFirmware (s : State) (o : Nat) (v : Byte) : State :=
  match s.boot.firmware with
  | none => s
  | some f =>
    if o < 512 then { s with boot := { s.boot with firmware := some { f with header := f.header.set o v } } }
    else { s with boot := { s.boot with firmware := some { f with body := f.body.set (o - 512) v } } }

/-- A byte that a module write carries to the State fields of the engine area. -/
def State.writeEngine (s : State) (o : Nat) (v : Byte) : State :=
  let k := o / slotBytes
  if k < 6 then s.writeTable o v
  else if k = 6 then s.writeResidency (o - 6 * slotBytes) v
  else if 11 ≤ k ∧ k < 16 then s.writeFirmware (o - 11 * slotBytes) v
  else s

/-- A module write of the Mover: into memory, and into the fields behind the engine area. -/
def State.moduleWrite (s : State) (ma : Nat) (bs : List Byte) : State :=
  let b := engineBase s.e384
  let s1 := (s.writeMem ma bs).1
  if ma + bs.length ≤ b then s1
  else bs.zipIdx.foldl (fun (s : State) p => if b ≤ ma + p.2 then s.writeEngine (ma + p.2 - b) p.1 else s) s1

end Sys2Proof.Machine
end

