-- ==== Sys2Proof/Machine/Mover.lean ====
section
/-! DEFINITION. The Mover (R312 to R331): descriptors, bursts, arbitration, held functions, and its commands. -/

namespace Sys2Proof.Machine

/-! ### Pulses (R320, R321, R329) -/

def State.setChannel (s : State) (ch : Fin 32) (x : MvChannel) : State :=
  { s with mover := { s.mover with channels := s.mover.channels.set ch x } }

/-- The first Carafe that waits at a scratchpad index is released. -/
def dropCarafe (first : Nat) : List Pending → List Pending
  | [] => []
  | p :: r => if p.carafe && p.first == first then r else p :: dropCarafe first r

/-- RD on lines 0 to 7 releases the tile's pending hand-off (R152, R320). -/
def State.releaseCarafe (s : State) (d : MoverDesc) : State :=
  match d.entry with
  | none => s
  | some slot =>
    if h : d.src / 2 ^ 17 < 64 then
      let t : Fin 64 := ⟨d.src / 2 ^ 17, h⟩
      let x := s.tiles[t]
      s.setTile t { x with ctxs := x.ctxs.map fun c =>
        if c.slot = slot then { c with pending := dropCarafe (d.src % 2 ^ 17) c.pending } else c }
    else s

/-- WR on lines 0 to 7: the Carafe counts as signalled (R116). -/
def State.carafeSignalled (s : State) (d : MoverDesc) : State :=
  match d.entry with
  | none => s
  | some slot => s.updEntry slot fun e => { e with carafes := e.carafes - 1 }

/-- A status that replaces OK; CARAFE_LOST outranks HOLD_OVERFLOW (R508). -/
def State.lateStatus (s : State) (entry : Option Nat) (st : Nat) : State :=
  match entry with
  | none => s
  | some slot => s.updEntry slot fun e =>
      { e with late := if e.late = Status.carafeLost then e.late else st }

/-- A pulse goes out on a line of the Event Matrix: the completion line of its channel, or for ERR its error line (R320). -/
def State.pulse (s : State) (ch : Nat) (k : PulseKind) (d : MoverDesc) : State :=
  { s with mover := { s.mover with pulses := s.mover.pulses ++ [{ line := if k = .err then 32 + ch else ch, kind := k, tag := d.tag }] } }

/-- RD: the source may be reused; on lines 0 to 7 the tile's hand-off is released (R320, R321). -/
def State.rdPulse (s : State) (ch : Nat) (d : MoverDesc) : State := if d.evtRd then (s.pulse ch .rd d).releaseCarafe d else s

/-- WR: the last write has left; on lines 0 to 7 the Carafe counts as signalled (R320, R321). -/
def State.wrPulse (s : State) (ch : Nat) (d : MoverDesc) : State := if d.evtWr then (s.pulse ch .wr d).carafeSignalled d else s

/-- ERR: counted by Moth; a Carafe is lost, counts as signalled, and its tile is released (R320, R329). -/
def State.errPulse (s : State) (ch : Nat) (d : MoverDesc) : State :=
  let s0 := s.pulse ch .err d
  let s1 := { s0 with mover := { s0.mover with errPulses := s0.mover.errPulses + 1 } }
  ((s1.lateStatus d.entry Status.carafeLost).carafeSignalled d).releaseCarafe d

/-- CH_ERROR takes a failure (R330). -/
def MvChannel.noteError (x : MvChannel) (d : MoverDesc) (cause : Nat) : MvChannel :=
  let y := { x with errCount := min 65535 (x.errCount + 1) }
  if x.errValid then y else { y with errValid := true, errTag := d.tag, errCause := cause, errDesc := d.ma }

/-! ### Drains of a reset (R307, R309) -/

/-- A chain head carries a Carafe of an instance. -/
def ChainHead.serves (h : ChainHead) (inst : Nat) : Bool := match h with
  | .own d => d.inst == inst && d.entry.isSome
  | .ma _ => false

/-- The Mover still carries a Carafe of an instance (R307). -/
def State.moverBusy (s : State) (inst : Nat) : Bool :=
  s.mover.channels.toList.any fun x => (x.cur.any fun d => d.inst == inst && d.entry.isSome)
    || (x.next.any fun h => h.serves inst) || x.queue.any fun h => h.serves inst

/-- A SQUASH entry of an instance whose drains are done finishes (R298). -/
def State.finishSquash (s : State) (n f : Nat) : State :=
  { s with work := s.work.map fun e =>
      if e.entry.extractLsb' 0 8 = 4 ∧ e.desc.extractLsb' 0 8 = 2 ∧ e.active ∧ e.finished.isNone ∧ (e.desc.extractLsb' 8 8).toNat = n then
        { e with finished := some (f, 0, 0) }
      else e }

/-- One squash of an instance is complete: RESETS advances and INSTANCE_RESET is raised (R309). -/
def State.resetDone (s : State) (n f : Nat) : State :=
  if h : n < 64 then
    let x := s.host.insts[n]
    let more := s.frame.squashing.any fun p => p.1 == n
    let y : Instance := { x with resetState := if more then x.resetState else 0, hostReset := x.hostReset && more,
                                 resets := (x.resets + 1) % 2 ^ 48 }
    (({ s with host := { s.host with insts := s.host.insts.set n y } }).finishSquash n f).raise 0x0022 0 n
  else s

/-- The resets whose slots are freed and whose drains are done complete (R309); a SQUASH entry finishes in frame f, the one in which
they are. -/
def State.completeDrained (s : State) (f : Nat) : State :=
  let isOver (p : Nat × Bool) : Bool := p.2 && !s.moverBusy p.1
  let s1 := { s with frame := { s.frame with squashing := s.frame.squashing.filter fun p => !isOver p } }
  (s.frame.squashing.filter isOver).foldl (fun (s : State) p => s.resetDone p.1 f) s1

/-- A drain may have ended in mid-frame. -/
def State.drainedResets (s : State) : State := s.completeDrained s.frame.frameNo

/-! ### What a channel goes on with -/

/-- What the channel goes on with after a descriptor has been fetched: its NEXT, or with NEXT 0 the head that waits longest (R316). -/
def MvChannel.follow (x : MvChannel) (next : Nat) : MvChannel :=
  if next ≠ 0 then { x with next := some (.ma next) } else { x with next := x.queue.head?, queue := x.queue.drop 1 }

/-- The descriptor in progress ends. -/
def MvChannel.endDesc (x : MvChannel) : MvChannel :=
  { x with cur := none, inflight := [], remain := 0, curReg := 0, mode := .leave }

/-! ### The hold store (R324, R331) -/

/-- The 4 MiB hold store. -/
def holdSize : Nat := 4194304

/-- Bytes in the hold store. -/
def State.holdBytes (s : State) : Nat := s.holdStore.length

/-- Bytes of the descriptor in progress that have still to be written. -/
def MvChannel.unwritten (x : MvChannel) : Nat := x.remain + (x.inflight.map fun b => b.len).sum

/-- Room of the hold store that descriptors being held have still to fill. -/
def State.holdReserved (s : State) : Nat :=
  (s.mover.channels.toList.map fun x => if x.mode = .hold then x.unwritten else 0).sum

/-- A held write that belongs to a channel. -/
def HeldWrite.on (w : HeldWrite) (ch : Nat) : Bool := match w.mover with
  | some (c, _) => c == ch
  | none => false

/-- The newest held write of a channel is the last of its descriptor; `d` is the descriptor as the pulse will see it. The list is newest
first. -/
def markLast (ch : Nat) (d : MoverDesc) : List (HeldWrite ⊕ Nat) → List (HeldWrite ⊕ Nat)
  | [] => []
  | .inl w :: r =>
    if !w.on ch then .inl w :: markLast ch d r
    else if w.last then .inl w :: r
    else .inl { w with mover := some (ch, d), last := true } :: r
  | .inr x :: r => .inr x :: markLast ch d r

/-- Without the held writes of a channel's unfinished descriptor. The list is newest first. -/
def dropUnfinished (ch : Nat) : List (HeldWrite ⊕ Nat) → List (HeldWrite ⊕ Nat)
  | [] => []
  | .inl w :: r =>
    if !w.on ch then .inl w :: dropUnfinished ch r
    else if w.last then .inl w :: r
    else dropUnfinished ch r
  | .inr x :: r => .inr x :: dropUnfinished ch r

/-- The hold store has writes of the descriptor that a channel is on. -/
def State.holdsUnfinished (s : State) (ch : Nat) : Bool :=
  decide ((dropUnfinished ch s.host.heldWrites.reverse).length < s.host.heldWrites.length)

/-- The held writes of a channel's descriptor are whole; `d` decides what is pulsed when they have left. -/
def State.closeHeld (s : State) (ch : Nat) (d : MoverDesc) : State :=
  { s with host := { s.host with heldWrites := (markLast ch d s.host.heldWrites.reverse).reverse } }

/-- Descriptors with held writes (R331). -/
def State.heldDescs (s : State) : Nat :=
  (s.host.heldWrites.filter fun w => match w with
    | .inl h => h.mover.isSome && h.last
    | .inr _ => false).length + ((List.range 32).filter fun ch => s.holdsUnfinished ch).length

/-- Bytes that have left a channel, a discarded write counting as having left (R324, R325, R330; DEDUCED, assumption 152). -/
def Mover.countBytes (m : Mover) (ch n : Nat) : Mover :=
  if h : ch < 32 then { m with channels := m.channels.set ch { m.channels[ch] with bytes := (m.channels[ch].bytes + n) % 2 ^ 48 } } else m

def State.countBytes (s : State) (ch n : Nat) : State := { s with mover := s.mover.countBytes ch n }

/-- The descriptor in progress is abandoned with ERR; what it has in the hold store still leaves, without a pulse (R328). -/
def State.abandon (s : State) (ch : Fin 32) (d : MoverDesc) (cause : Nat) : State :=
  ((s.closeHeld ch.val { d with evtWr := false }).setChannel ch ((s.mover.channels[ch].noteError d cause).endDesc)).errPulse ch.val d

/-- A descriptor that fails its checks moves nothing and pulses ERR (R315): after a range failure the channel goes on at NEXT, after a bad
descriptor with its next queued chain. -/
def State.refuseDesc (s : State) (ch : Fin 32) (d : MoverDesc) (cause : Nat) : State :=
  let x := s.mover.channels[ch].noteError d cause
  (s.setChannel ch (if cause = 5 then x.follow d.next else x)).errPulse ch.val d

/-! ### Descriptors (R313 to R315) -/

/-- A descriptor from its 32 bytes. -/
def parseMover (ma : Nat) (bs : List Byte) : MoverDesc :=
  let sp := fieldNat bs 6 1
  let fl := fieldNat bs 7 1
  { ma := ma, next := fieldNat bs 0 6, srcSpace := sp % 4, dstSpace := sp / 4 % 4, evtRd := bitOf fl 0, evtWr := bitOf fl 1,
    ro := bitOf fl 2, src := fieldNat bs 8 8, dst := fieldNat bs 16 8, len := fieldNat bs 24 4, inst := fieldNat bs 28 1 % 64,
    tag := fieldNat bs 30 2, entry := none }

/-- A port that R314 defines for a channel. -/
def portOk (ch port : Nat) (dst : Bool) : Bool := decide (port ≤ 9) || (dst && decide (24 ≤ ch) && decide (0x40 ≤ port ∧ port ≤ 0x7F))

/-- Source and destination spaces that R312 gives a channel. -/
def spacesOk (ch src dst : Nat) : Bool :=
  if ch < 8 then src == 2 && (dst == 0 || dst == 1)
  else if ch < 16 then (src == 0 && dst == 3) || (src == 3 && dst == 0)
  else if ch = 16 then src == 3 && dst == 0
  else if ch < 20 then src == 0 && (dst == 3 || dst == 1)
  else if ch < 24 then (src == 0 || src == 1) && dst == 3
  else dst != 2

/-- Bad descriptor (CAUSE 4). -/
def badDesc (ch : Nat) (bs : List Byte) (d : MoverDesc) : Bool :=
  16 ≤ fieldNat bs 6 1 || 8 ≤ fieldNat bs 7 1 || 64 ≤ fieldNat bs 28 1 || fieldNat bs 29 1 != 0 || !spacesOk ch d.srcSpace d.dstSpace
    || d.len == 0 || decide (16777216 < d.len) || d.next % 32 != 0
    || (d.srcSpace == 3 && !portOk ch (d.src % 256) false) || (d.dstSpace == 3 && !portOk ch (d.dst % 256) true)

/-- A module range lies in memory and touches no header of a slot open to descriptors (R314). -/
def moduleRangeOk (e384 : Bool) (a n : Nat) : Bool :=
  decide (a + n ≤ slotCount e384 * slotBytes) &&
    (decide (openSlots e384 * slotBytes ≤ a) ||
      (decide (a % slotBytes + n ≤ lineArea)) ||
      decide (n = 0))

/-- A range that R314 allows. -/
def rangeOk (e384 : Bool) (space a n : Nat) : Bool :=
  match space with
  | 0 => true
  | 1 => moduleRangeOk e384 a n
  | 2 => decide (a < 2 ^ 23) && decide (a % 2 ^ 17 + ceilDiv n 6 ≤ 98304)
  | _ => decide (a < 256)

/-- A place where a descriptor can lie (R313). -/
def descPlaceOk (e384 : Bool) (a : Nat) : Bool :=
  a % 32 == 0 && decide (a + 32 ≤ slotCount e384 * slotBytes) &&
    (decide (openSlots e384 * slotBytes ≤ a) || decide (a % slotBytes + 32 ≤ lineArea))

/-- Slots of a range of module memory. -/
def rangeSlots (a n : Nat) : List Nat := (List.range ((a + n - 1) / slotBytes + 1 - a / slotBytes)).map fun i => a / slotBytes + i

/-- Slots of module memory that a run of a descriptor reads or writes. -/
def MoverDesc.slots (d : MoverDesc) (off n : Nat) : List Nat :=
  (if d.srcSpace = 1 then rangeSlots (d.src + off) n else []) ++ (if d.dstSpace = 1 then rangeSlots (d.dst + off) n else [])

/-- The channel may take up a descriptor. -/
def MvChannel.canFetch (x : MvChannel) : Bool :=
  x.cur.isNone && !x.pause && !x.disable && (x.next.isSome || !x.queue.isEmpty)

/-- A descriptor is taken into progress. -/
def MvChannel.load (x : MvChannel) (d : MoverDesc) : MvChannel :=
  ({ x with cur := some d, curReg := d.ma, remain := d.len, inflight := [], mode := .leave }).follow d.next

/-- The descriptor at a module address is fetched and checked (R315). -/
def State.fetchAt (s : State) (ch : Fin 32) (a : Nat) : State :=
  let (s1, ok) := if descPlaceOk s.e384 a then s.readRange a 32 64 true else (s, false)
  let bs := s1.moduleBytes a 32
  let d := parseMover a bs
  let x := s1.mover.channels[ch]
  if !ok || badDesc ch.val bs d then s1.refuseDesc ch d 4
  else if !(rangeOk s.e384 d.srcSpace d.src d.len && rangeOk s.e384 d.dstSpace d.dst d.len) then s1.refuseDesc ch d 5
  else (((d.slots 0 d.len).filter fun y => !s1.resident y && !s1.gone y).foldl (fun (s : State) y => s.awaitSlot y) s1).setChannel ch (x.load d)

/-- DESCRIPTOR_FETCH (R315, R316): the channel goes on at NEXT, or with its next queued chain. -/
def execDescriptorFetch (ch : Fin 32) (s : State) : Host.Outcome State Fault Refusal :=
  let x := s.mover.channels[ch]
  let (head, y) : Option ChainHead × MvChannel := match x.next with
    | some h => (some h, { x with next := none })
    | none => (x.queue.head?, { x with queue := x.queue.drop 1 })
  .next (if !x.canFetch then s
    else match head with
      | none => s
      | some (.ma a) => (s.setChannel ch y).fetchAt ch a
      | some (.own d) => s.setChannel ch (y.load d))

/-- A descriptor dropped by a disable pulses ERR with CAUSE 6 when it asked for a pulse (R327). -/
def State.dropDesc (s : State) (ch : Fin 32) (d : MoverDesc) : State :=
  if d.evtRd || d.evtWr then (s.setChannel ch (s.mover.channels[ch].noteError d 6)).errPulse ch.val d else s

/-- The rest of a chain in module memory is dropped, in chain order, each of its descriptors once. -/
def State.dropChain (s : State) (ch : Fin 32) : Nat → List Nat → Nat → State
  | 0, _, _ => s
  | n + 1, seen, a =>
    if a = 0 ∨ seen.contains a ∨ !descPlaceOk s.e384 a then s
    else
      let d := parseMover a (s.moduleBytes a 32)
      (s.dropDesc ch d).dropChain ch n (a :: seen) d.next

/-- Descriptors that module memory has room for. -/
def chainFuel (e384 : Bool) : Nat := slotCount e384 * slotBytes / 32

def State.dropHead (s : State) (ch : Fin 32) (h : ChainHead) : State :=
  match h with
  | .own d => s.dropDesc ch d
  | .ma a => s.dropChain ch (chainFuel s.e384) [] a

/-- A chain head joins the append queue; a disabled channel drops it (R316, R327). -/
def State.appendHead (s : State) (ch : Fin 32) (h : ChainHead) : State :=
  let x := s.mover.channels[ch]
  if x.disable then s.dropHead ch h
  else if 8 ≤ x.queue.length then s
  else s.setChannel ch { x with queue := x.queue ++ [h] }

/-- CH_APPEND (R316, R330): channels 24 to 31 only. -/
def execChAppend (ch : Fin 32) (acc : RegAccess) (v : BitVec 64) (s : State) : Host.Outcome State Fault Refusal :=
  .next (if ch.val < 24 ∨ acc ≠ .qword then s else s.appendHead ch (.ma (v.setWidth 48).toNat))

/-! ### Bursts (R317 to R319) -/

/-- Bytes to the next multiple of m at or above one past a. -/
def toBoundary (a m : Nat) : Nat := m - a % m

/-- Length of the next burst (R317). -/
def nextBurst (x : MvChannel) (d : MoverDesc) : Nat :=
  let off := d.len - x.remain
  let b := 64 * 2 ^ x.burst
  let n := min x.remain b
  let n := if d.dstSpace = 3 then n else min n (toBoundary (d.dst + off) b)
  let n := if d.dstSpace = 0 then min n (toBoundary (d.dst + off) 4096) else n
  if d.srcSpace = 0 then min n (toBoundary (d.src + off) 4096) else n

/-- The next burst of a channel waits for a slot (R162, R378). -/
def State.moverWaits (s : State) (x : MvChannel) (d : MoverDesc) : Bool :=
  (d.slots (d.len - x.remain) (nextBurst x d)).any fun y => !s.resident y && !s.gone y

/-- The channel can start a burst (R318, R324). -/
def State.eligible (s : State) (ch : Fin 32) : Bool :=
  let x := s.mover.channels[ch]
  match x.cur with
  | none => false
  | some d => decide (0 < x.remain) && decide (x.inflight.length < 4) && x.paced && x.share != 0 && !x.disable
      && !(d.srcSpace == 0 && s.hostHeld d.inst && !s.resetting d.inst) && !s.moverWaits x d

/-- The channel arbitration grants: highest PRIO, then the first after the last that started at that priority (R318). -/
def State.grant (s : State) : Option (Fin 32) :=
  let el := (List.finRange 32).filter fun c => s.eligible c
  match (el.map fun c => s.mover.channels[c].prio).max? with
  | none => none
  | some p =>
    let at_ := el.filter fun c => s.mover.channels[c].prio == p
    let last := if h : p < 8 then s.mover.lastAt[p] else 0
    match at_.find? fun c => decide (last < c.val) with
    | some c => some c
    | none => at_.head?

/-- BURST_START (R317 to R319). -/
def execBurstStart (s : State) : Host.Outcome State Fault Refusal :=
  .next (match s.grant with
    | none => s
    | some ch =>
      let x := s.mover.channels[ch]
      match x.cur with
      | none => s
      | some d =>
        let n := nextBurst x d
        let b : Burst := { off := d.len - x.remain, len := n }
        let s1 := s.setChannel ch { x with inflight := x.inflight ++ [b], remain := x.remain - n, paced := false }
        if h : x.prio < 8 then { s1 with mover := { s1.mover with lastAt := s1.mover.lastAt.set x.prio ch.val } } else s1)

/-- PACING_INTERVAL_EXPIRY (R319). -/
def execPacingIntervalExpiry (ch : Fin 32) (s : State) : Host.Outcome State Fault Refusal :=
  .next (s.setChannel ch { s.mover.channels[ch] with paced := true })

/-- How the host writes of a burst of n bytes are treated: decided at the first burst that meets a held function (R324). The writes of an
instance whose host accesses are stopped are discarded when they would leave (R325). -/
def State.writeMode (s : State) (ch : Fin 32) (d : MoverDesc) (n : Nat) : WriteMode :=
  let x := s.mover.channels[ch]
  match x.mode with
  | .hold => .hold
  | .lose => .lose
  | .leave =>
    if ch.val = 16 ∨ !s.hostHeld d.inst ∨ s.hostStopped d.inst then .leave
    else if s.holdBytes + s.holdReserved + n + x.unwritten ≤ holdSize then .hold else .lose

/-- Host bytes go to the hold store. -/
def State.holdBurst (s : State) (ch : Fin 32) (d : MoverDesc) (off : Nat) (bs : List Byte) : State :=
  if s.hostStopped d.inst then s.countBytes ch.val bs.length
  else s.holdWrite { inst := d.inst, addr := d.dst + off, bytes := bs, relaxed := d.ro, mover := some (ch.val, d), last := false }

/-- The host writes of a descriptor are discarded for want of room in the hold store, against the entry or job they serve (R324). -/
def State.loseHost (s : State) (entry : Option Nat) : State :=
  ({ s with mover := { s.mover with holdLost := (s.mover.holdLost + 1) % 2 ^ 48 } }).lateStatus entry Status.holdOverflow

/-- The first host write of a descriptor that the hold store has no room for (R324). -/
def State.loseDesc (s : State) (ch : Fin 32) (d : MoverDesc) : State :=
  (s.setChannel ch { s.mover.channels[ch] with mode := .lose }).loseHost d.entry

/-- The write of a burst (R317, R321, R324). -/
def State.writeBurst (s : State) (ch : Fin 32) (d : MoverDesc) (off : Nat) (bs : List Byte) : State :=
  let x := s.mover.channels[ch]
  match d.dstSpace with
  | 0 =>
    match s.writeMode ch d bs.length with
    | .leave => (s.countBytes ch.val bs.length).sendHost d.inst (.data d.inst (d.dst + off) bs d.ro)
    | .hold => (s.setChannel ch { x with mode := .hold }).holdBurst ch d off bs
    | .lose => (if x.mode = .lose then s else s.loseDesc ch d).countBytes ch.val bs.length
  | 1 =>
    let s1 := (s.countBytes ch.val bs.length).moduleWrite (d.dst + off) bs
    match d.entry with
    | some slot => match s.entry? slot with
      | some e => if e.writes then s1.sumStore (d.dst + off) bs else s1
      | none => s1
    | none => s1
  | _ =>
    let s1 := s.countBytes ch.val bs.length
    { s1 with mover := { s1.mover with ports := s1.mover.ports ++ [(d.dst, bs)] } }

/-- The bytes of a burst as its read finds them, or the CAUSE of its failure (R328). A scratchpad is that of the entry the
descriptor serves, or of the first entry on the tile. -/
def State.readBurst (s : State) (d : MoverDesc) (b : Burst) (res : BurstResult) : State × Except Nat (List Byte) :=
  match d.srcSpace with
  | 1 =>
    let (s1, ok) := s.readRange (d.src + b.off) b.len 64 true
    (s1, if ok && !(rangeSlots (d.src + b.off) b.len).any fun y => s.gone y then .ok (s1.moduleBytes (d.src + b.off) b.len) else .error 2)
  | 2 =>
    if res.lastBeatError then (s, .error 3)
    else
      let t := d.src / 2 ^ 17
      let ctxs := if h : t < 64 then s.tiles[t].ctxs else []
      let c? := match d.entry with
        | some slot => ctxs.find? fun (c : Ctx) => c.slot == slot
        | none => ctxs.head?
      let word (i : Nat) : List Byte := leBytes 6 (match c? with
        | some c => (c.spRead i).toNat
        | none => 0)
      let first := b.off / 6
      let all := (List.range (ceilDiv (b.off % 6 + b.len) 6)).flatMap fun i => word (d.src % 2 ^ 17 + first + i)
      (s, .ok ((all.drop (b.off % 6)).take b.len))
  | k =>
    match res.data with
    | none => (s, .error (if k = 0 then 1 else 3))
    | some bs =>
      if res.lastBeatError || (k == 0 && s.resetting d.inst) then (s, .error (if k = 0 then 1 else 3))
      else (s, .ok (sliceBytes bs 0 b.len))

/-- The last burst of a descriptor is written: RD, then WR unless its writes are held (R321, R324). -/
def State.finishDesc (s : State) (ch : Fin 32) (d : MoverDesc) : State :=
  let x := s.mover.channels[ch]
  let held := x.mode == .hold && s.holdsUnfinished ch.val
  let s1 := (s.setChannel ch x.endDesc).rdPulse ch.val d
  if held then s1.closeHeld ch.val d else s1.wrPulse ch.val d

/-- BURST_READ_COMPLETE (R317, R321, R324, R328): the oldest burst in flight. -/
def execBurstReadComplete (ch : Fin 32) (res : BurstResult) (s : State) : Host.Outcome State Fault Refusal :=
  let x := s.mover.channels[ch]
  .next (match x.cur, x.inflight with
    | some d, b :: r =>
      match s.readBurst d b res with
      | (s1, .error cause) => (s1.abandon ch d cause).drainedResets
      | (s1, .ok bs) =>
        let s2 := s1.setChannel ch { s1.mover.channels[ch] with inflight := r }
        let s3 := s2.writeBurst ch d b.off bs
        if r.isEmpty && x.remain == 0 then (s3.finishDesc ch d).drainedResets else s3
    | _, _ => s)

/-- HOST_READ_TIMEOUT (R328). -/
def execHostReadTimeout (ch : Fin 32) (s : State) : Host.Outcome State Fault Refusal :=
  let x := s.mover.channels[ch]
  .next (match x.cur with
    | some d => if d.srcSpace = 0 ∧ x.inflight ≠ [] then (s.abandon ch d 1).drainedResets else s
    | none => s)

/-! ### Transfers of the engine's own units (R312, R316, R329) -/

/-- A descriptor that a unit of the engine gives its channel, with both pulses set. It lies in the working areas (R53), where, the
spec leaves open: a free value; its TAG is the work-table slot it serves (DESIGN CHOICE, assumption 154). -/
def State.ownDesc (s : State) (inst tag src dst len : Nat) (spaces : Nat × Nat) (ro : Bool) (entry : Option Nat) : MoverDesc :=
  { ma := engineBase s.e384 + 160 * slotBytes + 32 * (s.fresh.1 % 3145728), next := 0, srcSpace := spaces.1, dstSpace := spaces.2,
    evtRd := true, evtWr := true, ro := ro, src := src, dst := dst, len := len, inst := inst, tag := tag, entry := entry }

/-- n bytes have gone over a unit's channel: they are counted, and RD and WR reach the unit (R320, R330). -/
def State.carried (s : State) (ch : Fin 32) (d : MoverDesc) (n : Nat) : State :=
  ((s.countBytes ch.val n).pulse ch.val .rd d).pulse ch.val .wr d

/-- A unit's descriptor fails after n bytes: ERR reaches the unit and Moth (R328, R329). -/
def State.carryFails (s : State) (ch : Fin 32) (d : MoverDesc) (n cause : Nat) : State :=
  let s1 := s.countBytes ch.val n
  (s1.setChannel ch (s1.mover.channels[ch].noteError d cause)).errPulse ch.val d

/-- The channel moves nothing, and its descriptors wait (R319, R326). -/
def State.channelWaits (s : State) (ch : Fin 32) : Bool := s.mover.channels[ch].pause || s.mover.channels[ch].share == 0

/-- Host bytes of a job leave through its unit's channel; those of a held function go to the hold store, or are discarded against the
job (R312, R324). -/
def State.unitWrite (s : State) (ch : Fin 32) (inst slot addr : Nat) (bs : List Byte) (ro : Bool) : State :=
  let d := s.ownDesc inst slot 5 addr bs.length (3, 0) ro none
  let s0 := s.fresh.2
  if s.hostHeld inst && !s.hostStopped inst then
    if s.holdBytes + s.holdReserved + bs.length ≤ holdSize then
      (s0.pulse ch.val .rd d).holdWrite { inst := inst, addr := addr, bytes := bs, relaxed := ro, mover := some (ch.val, d), last := true }
    else (s0.carried ch d bs.length).loseHost (some slot)
  else if s.hostStopped inst && !s.resetting inst then s
  else (s0.carried ch d bs.length).sendHost inst (.data inst addr bs ro)

/-- The front end writes host bytes over channel 16 (R312), which never uses the hold store (R324). -/
def State.frontWrite (s : State) (inst addr : Nat) (bs : List Byte) : State :=
  let s1 := s.sendHost inst (.data inst addr bs false)
  if (s.hostHeld inst || s.hostStopped inst) && !s.resetting inst then s1
  else s1.fresh.2.carried 16 (s1.ownDesc inst 0 0 addr bs.length (3, 0) false none) bs.length

/-- The front end reads n host bytes over one of channels 17 to 19, or the read fails (R312, R329); which one is a free value (DESIGN
CHOICE, assumption 154). -/
def State.frontRead (s : State) (inst n : Nat) (good : Bool) : State :=
  let ch : Fin 32 := ⟨17 + s.fresh.1 % 3, by omega⟩
  let d := s.fresh.2.ownDesc inst 0 0 0 n (0, 3) false none
  if good then s.fresh.2.fresh.2.carried ch d n else s.fresh.2.fresh.2.carryFails ch d 0 1

/-- The persist controller reads n bytes of module memory over one of channels 20 to 23 (R312); which one is a free value (DESIGN CHOICE,
assumption 154). -/
def State.persistRead (s : State) (ma n : Nat) : State :=
  let ch : Fin 32 := ⟨20 + s.fresh.1 % 4, by omega⟩
  s.fresh.2.fresh.2.carried ch (s.fresh.2.ownDesc 0 0 ma 0 n (1, 3) false none) n

/-- A held write leaves, or with `discard` counts as having left; WR follows the last one of a descriptor (R324, R325). -/
def State.releaseWrite (s : State) (w : HeldWrite) (discard : Bool) : State :=
  let s1 := if discard then s else s.sendHost w.inst (.data w.inst w.addr w.bytes w.relaxed)
  match w.mover with
  | none => s1.fresh.2.carried 16 (s1.ownDesc w.inst 0 0 w.addr w.bytes.length (3, 0) false none) w.bytes.length
  | some (ch, d) =>
    let s2 := s1.countBytes ch w.bytes.length
    if w.last then s2.wrPulse ch d else s2

/-- Descriptors of an instance that are held so far go on without the hold store. -/
def State.endHold (s : State) (inst : Nat) : State :=
  { s with mover := { s.mover with channels := s.mover.channels.map fun (x : MvChannel) =>
      if x.mode = .hold && (x.cur.map fun d => d.inst) == some inst then { x with mode := .leave } else x } }

/-! ### Channel control (R326, R327, R330) -/

/-- PAUSE takes a value (R326). -/
def State.chPause (s : State) (ch : Fin 32) (on : Bool) : State := s.setChannel ch { s.mover.channels[ch] with pause := on }

/-- CH_PAUSE (R326). -/
def execChPause (ch : Fin 32) (on : Bool) (s : State) : Host.Outcome State Fault Refusal := .next (s.chPause ch on)

/-- DISABLE takes a value (R327): not on channels 16 to 23. -/
def State.chDisable (s : State) (ch : Fin 32) (on : Bool) : State :=
  let x := s.mover.channels[ch]
  if 16 ≤ ch.val ∧ ch.val ≤ 23 then s
    else if !on then s.setChannel ch { x with disable := false }
    else if x.disable then s
    else
      let s0 := s.setChannel ch { x with disable := true, queue := [], next := none, cur := none, inflight := [], mode := .leave }
      let s1 := { s0 with host := { s0.host with heldWrites := (dropUnfinished ch.val s0.host.heldWrites.reverse).reverse } }
      let s2 := match x.cur with
        | some d => s1.dropDesc ch d
        | none => s1
      let s3 := match x.next with
        | some h => s2.dropHead ch h
        | none => s2
      (x.queue.foldl (fun (s : State) h => s.dropHead ch h) s3).drainedResets

/-- CH_DISABLE (R327). -/
def execChDisable (ch : Fin 32) (on : Bool) (s : State) : Host.Outcome State Fault Refusal := .next (s.chDisable ch on)

/-- CH_ERROR_CLEAR (R330). -/
def execChErrorClear (ch : Fin 32) (s : State) : Host.Outcome State Fault Refusal :=
  .next (s.setChannel ch { s.mover.channels[ch] with errValid := false, errTag := 0, errCause := 0 })

end Sys2Proof.Machine
end

