-- ==== Sys2Proof/Machine/UnitInstr.lean ====
section
/-! DEFINITION. The unit instructions (R181): KMA searches and records (R122, R125, R198, R200), drains (R118), sorting (R126, R127)
and Carafe hand-offs (R128 to R132). -/

namespace Sys2Proof.Machine

/-! ### Fields of format U -/

def uDa (f : BitVec 40) : Fin 32 := fD f 35
def uDb (f : BitVec 40) : Fin 32 := fD f 30
def uAp (f : BitVec 40) : Fin 16 := fA f 26
def uAc (f : BitVec 40) : Fin 16 := fA f 22
def uAr (f : BitVec 40) : Fin 16 := fA f 18
def uKn (f : BitVec 40) : Fin 4 := fK f 16
def uOp (f : BitVec 40) : Nat := fNat f 8 8

/-- The operator a unit instruction or a quota point names, if it is one of some kinds (R172). -/
def operator (img : Image) (op : Nat) (kinds : List Nat) : Option ImageOp :=
  match img.ops[op]? with
  | some o => if op < 254 ∧ kinds.contains o.kind then some o else none
  | none => none

/-- Reserved values of a unit instruction (R173): unused fields zero, and an operator of an accepted kind. -/
def unitReserved (f : BitVec 40) (unusedZero : Bool) (kinds : List Nat) (img : Image) : Bool :=
  !(unusedZero && zeros f 7 0) || (operator img (uOp f) kinds).isNone

/-- First failing index of a region checked at issue (R181), in the order given. -/
def regionFail (a : Word) (parts : List (Nat × Nat)) : Option Nat :=
  if spRegOk a then parts.findSome? fun p => spFail (a.toNat + p.1) p.2
  else (parts.find? fun p => p.2 != 0).map fun p => spPtr a + p.1

/-- Runs a unit instruction once its regions are checked and none of them awaits a result (R152, R181). -/
def withRegion (s : State) (c : Ctx) (a : Word) (parts : List (Nat × Nat)) (k : Effect) : Effect :=
  match regionFail a parts with
  | some i => scratchTrap i 0 false s c
  | none => if parts.any fun p => c.spBusy (a.toNat + p.1) p.2 then .stall else k

/-- A result that will land in a region (R152). -/
def Ctx.await (c : Ctx) (first len : Nat) (words : List (Nat × Word)) : Ctx :=
  { c with pending := c.pending ++ [{ first := first, len := len, words := words, carafe := false }] }

/-- Words at consecutive indices. -/
def wordsAt (first : Nat) (ws : List Word) : List (Nat × Word) := ws.zipIdx.map fun p => (first + p.2, p.1)

/-! ### Second-pass rounds (R217) -/

/-- The operator, or one it takes its batches from, is a PROBE or a SOURCE 1 SCAN whose table is in a round. -/
def downstream (s : State) (e : WorkEntry) (img : Image) : Nat → Nat → Bool
  | 0, _ => false
  | fuel + 1, op =>
    match img.ops[op]? with
    | none => false
    | some o =>
      let from? := if o.kind = 6 then some o.inB else if o.kind = 1 ∧ o.flags % 4 = 1 then some o.inA else none
      let here := match from? with
        | some b => match s.table? e.inst (tableTag e img b) with
          | some tb => !tb.inRound.isEmpty
          | none => false
        | none => false
      here || (o.kind != 1 && downstream s e img fuel o.inA)

/-- In a round only the operators fed by the reloaded table act. -/
def acts (s : State) (e : WorkEntry) (img : Image) (op : Nat) : Bool :=
  e.round == 0 || downstream s e img (img.ops.length + 1) op

/-- The table of an operator, for a search or a drain: absent, ended (R218), or present. -/
def useTable (s : State) (c : Ctx) (e : WorkEntry) (img : Image) (op : Nat) (k : KmaTable → Effect) : Effect :=
  match s.table? e.inst (tableTag e img op) with
  | none => .fail Status.kmaNoTable s c
  | some tb => if tb.ended then .fail Status.kmaSpilled s c else k tb

/-! ### KSRCH and KCONT -/

/-- The 8-word regions of the enabled lanes. -/
def laneParts (lanes : List (Fin 4)) (stride len : Nat) : List (Nat × Nat) := lanes.map fun n => (stride * n.val, len)

/-- A search of one lane (R197, R211): the matches are verified, then its record lands, or it reads a poisoned entry (R212). -/
def searchOne (t : Fin 64) (tb : KmaTable) (key : DWord) (base : Nat) (record : List Match → Bool → List Word) (s : State) (c : Ctx) : Effect :=
  let s1 := s.verify tb key
  match s1.search t tb key with
  | .spill => .done s1 (c.await base 8 (wordsAt base (spillRecord key)))
  | .poisoned => .fail Status.kmaEcc s1 c
  | .matched ms exact => .done s1 (c.await base 8 (wordsAt base (record ms exact)))

/-- Runs an effect for each of some lanes, up to the first that does not complete. -/
def eachLane (lanes : List (Fin 4)) (one : Fin 4 → State → Ctx → Effect) (s : State) (c : Ctx) : Effect :=
  lanes.foldl (fun p n => match p with
    | .done s c => one n s c
    | x => x) (.done s c)

/-- Moves on once every lane is done. -/
def finishLanes (p : Effect) : Effect :=
  match p with
  | .done s c => stepOn s c
  | x => x

/-- Runs a search in the enabled lanes; with none enabled, nothing is issued (R143, R181). -/
def searchWith (lanes : List (Fin 4)) (op : Nat) (s : State) (c : Ctx) (e : WorkEntry) (img : Image)
    (one : KmaTable → Fin 4 → State → Ctx → Effect) : Effect :=
  if lanes = [] then stepOn s c else useTable s c e img op fun tb => finishLanes (eachLane lanes (one tb) s c)

def searchLanes (t : Fin 64) (f : BitVec 40) (s : State) (c : Ctx) (e : WorkEntry) (img : Image) : Effect :=
  let a := c.getA (uAp f)
  let lanes := c.lanes (uKn f)
  withRegion s c a (laneParts lanes 8 8) (searchWith lanes (uOp f) s c e img fun tb n s c' =>
    let key := keyOf (c.getD (uDa f))[n] (c.getD (uDb f))[n]
    searchOne t tb key (a.toNat + 8 * n.val) (fun ms exact => resultRecord key ms exact (if ms = [] then 0 else 1)) s c')

def execKsrch (t : Fin 64) (f : BitVec 40) (s : State) : Host.Outcome State Fault Refusal :=
  .next (runInstr t (instrWord 0x90 f) .program (unitReserved f (zeros f 25 18) [5, 7]) (searchLanes t f) s)

def continueLanes (t : Fin 64) (f : BitVec 40) (s : State) (c : Ctx) (e : WorkEntry) (img : Image) : Effect :=
  let a := c.getA (uAp f)
  let lanes := c.lanes (uKn f)
  withRegion s c a (laneParts lanes 8 8) (searchWith lanes (uOp f) s c e img fun tb n s c' =>
    let base := a.toNat + 8 * n.val
    let w0 := (c.spRead base).toNat
    let key := keyOf (c.spRead (base + 6)) (c.spRead (base + 7))
    let ord := bitsOf w0 15 14 * 65536 + bitsOf w0 47 32
    if bitOf w0 12 then .done s (c'.await base 8 [])
    else searchOne t tb key base (fun ms exact => resultRecord key ms exact (if ord + 1 ≤ ms.length then ord + 1 else 0)) s c')

def execKcont (t : Fin 64) (f : BitVec 40) (s : State) : Host.Outcome State Fault Refusal :=
  .next (runInstr t (instrWord 0x91 f) .program (unitReserved f (zeros f 39 30 && zeros f 25 18) [5, 7]) (continueLanes t f) s)

/-! ### Merge records of a tile -/

/-- A merge record is issued; past the number its quota point declared, the entry ends (R159). -/
def issueRecord (t : Fin 64) (op : Nat) (k : RecordKind) (p : Option (State × Ctx)) : Option (State × Ctx) :=
  match p with
  | none => none
  | some (s, c) =>
    if c.allowed = 0 then none
    else
      let x := s.tiles[t]
      some (s.setTile t { x with merge := x.merge ++ [{ slot := c.slot, op := op, kind := k }] }, { c with allowed := c.allowed - 1 })

/-- Dictionary checks made when an insert is issued (R76, R204): a status, a SEGMENT check, a wait for the header's slot, or whether it
is issued. -/
inductive DictIssue where
  | issue | drop
  | fail (status : Nat)
  | seg (check : Nat)
  | wait (slot : Nat)
deriving DecidableEq, Repr

/-- R76 at issue. With no KIND 3 span of the DICT_ID the insert is dropped without a status (DESIGN CHOICE, assumption 141); which span
that is cannot be said while the header of a dictionary is not resident. -/
def dictIssue (s : State) (e : WorkEntry) (img : Image) (tb : KmaTable) (payload : Quad) : DictIssue :=
  let len := bitsOf payload[2].toNat 12 0
  if payload[0] ≠ 0 ∨ 2 ^ 13 ≤ payload[2].toNat then .fail Status.reservedField
  else if 4096 < len then .fail Status.stringTooLong
  else match s.dictHeaderAway tb.inst, s.dictSpan tb.inst tb.dictId with
    | some slot, _ => if s.gone slot then .fail Status.segmentLost else .wait slot
    | none, none => .drop
    | none, some d =>
      if dictSealed s d then .drop
      else if len = 0 then .issue
      else match segOpen s e img false payload[1] with
        | .error k => .seg k
        | .ok r => if descLimit r < offOf payload[1] + len - 1 then .seg 3 else .issue

/-- One lane of KINS. -/
def insertLane (t : Fin 64) (f : BitVec 40) (e : WorkEntry) (img : Image) (npay : Nat) (n : Fin 4) (s : State) (c : Ctx) : Effect :=
  let base := (c.getA (uAp f)).toNat + 4 * n.val
  let key := keyOf (c.getD (uDa f))[n] (c.getD (uDb f))[n]
  let payload := quad fun i => if i.val < npay then c.spRead (base + i.val) else 0
  let put : Effect := match issueRecord t (uOp f) (.insert key 0 payload) (some (s, c)) with
    | some (s', c') => .done s' c'
    | none => .fail Status.mergeOverdraw s c
  match s.table? e.inst (tableTag e img (uOp f)) with
  | none => .fail Status.kmaNoTable s c
  | some tb =>
    if tb.dict then match dictIssue s e img tb payload with
      | .issue => put
      | .drop => .done s c
      | .fail st => .fail st s c
      | .seg k => segTrap k 0 false payload[1] s c
      | .wait slot => .wait slot s c
    else put

/-- A trap or a wait of a lane leaves the instruction with nothing done (R162, R164). -/
def wholeOrNothing (s : State) (c : Ctx) (p : Effect) : Effect :=
  match p with
  | .trap cause st a i _ _ => .trap cause st a i s c
  | .wait slot _ _ => .wait slot s c
  | x => x

def insertLanes (t : Fin 64) (f : BitVec 40) (s : State) (c : Ctx) (e : WorkEntry) (img : Image) : Effect :=
  let lanes := c.lanes (uKn f)
  withRegion s c (c.getA (uAp f)) (laneParts lanes 4 4)
    (if !acts s e img (uOp f) then stepOn s c
     else
      let npay := match img.ops[uOp f]? with
        | some o => bitsOf o.arg2 19 17
        | none => 0
      wholeOrNothing s c (finishLanes (eachLane lanes (insertLane t f e img npay) s c)))

def execKins (t : Fin 64) (f : BitVec 40) (s : State) : Host.Outcome State Fault Refusal :=
  .next (runInstr t (instrWord 0x92 f) .program (unitReserved f (zeros f 25 18) [5]) (insertLanes t f) s)

/-! ### KAGG and the local tables (R125) -/

def Ctx.localGroups (c : Ctx) (op : Nat) : List Group :=
  match c.locals.find? fun l => l.op == op with
  | some l => l.groups
  | none => []

def Ctx.setLocal (c : Ctx) (op : Nat) (gs : List Group) : Ctx :=
  if c.locals.any fun l => l.op == op then
    { c with locals := c.locals.map fun l => if l.op == op then { l with groups := gs } else l }
  else { c with locals := c.locals ++ [{ op := op, groups := gs }] }

/-- One lane of KAGG: fold into the local table, evicting the earliest group when it is full, or issue a record. -/
def aggregateLane (t : Fin 64) (f : BitVec 40) (slots : Nat) (n : Fin 4) (s : State) (c : Ctx) : Effect :=
  let op := uOp f
  let base := (c.getA (uAp f)).toNat + 5 * n.val
  let key := keyOf (c.getD (uDa f))[n] (c.getD (uDb f))[n]
  let src := quad fun i => c.spRead (base + i.val)
  let valid : BitVec 4 := (c.spRead (base + 4)).setWidth 4
  let out (k : RecordKind) (c : Ctx) : Effect := match issueRecord t op k (some (s, c)) with
    | some (s', c') => .done s' c'
    | none => .fail Status.mergeOverdraw s c
  if slots = 0 then out (.update key src valid) c
  else
    let gs := c.localGroups op
    let fresh : Group := { key := key, rows := [(src, valid)] }
    if gs.any fun g => g.key == key then
      .done s (c.setLocal op (gs.map fun g => if g.key == key then g.fold src valid else g))
    else if gs.length < slots then .done s (c.setLocal op (gs ++ [fresh]))
    else match gs with
      | [] => .done s c
      | g :: r => out (.group g) (c.setLocal op (r ++ [fresh]))

def aggregateLanes (t : Fin 64) (f : BitVec 40) (s : State) (c : Ctx) (e : WorkEntry) (img : Image) : Effect :=
  let lanes := c.lanes (uKn f)
  withRegion s c (c.getA (uAp f)) (laneParts lanes 5 5)
    (if !acts s e img (uOp f) then stepOn s c
     else
      let slots := match img.ops[uOp f]? with
        | some o => bitsOf o.arg3 28 16
        | none => 0
      finishLanes (eachLane lanes (aggregateLane t f slots) s c))

def execKagg (t : Fin 64) (f : BitVec 40) (s : State) : Host.Outcome State Fault Refusal :=
  .next (runInstr t (instrWord 0x93 f) .program (unitReserved f (zeros f 25 18) [7]) (aggregateLanes t f) s)

/-! ### KDRN -/

/-- The six vectors of some entries from a base (R118), and the count after them. -/
def drainWords (base : Nat) (es : List KmaEntry) : List (Nat × Word) :=
  (es.zipIdx.flatMap fun (p : KmaEntry × Nat) =>
    [(base + p.2, p.1.key.setWidth 48), (base + 4096 + p.2, (p.1.key >>> 48).setWidth 48)]
      ++ (List.finRange 4).map fun i => (base + 8192 + 4096 * i.val + p.2, p.1.payload[i]))
  ++ [(base + 24576, BitVec.ofNat 48 es.length)]

def drainStep (f : BitVec 40) (s : State) (c : Ctx) (e : WorkEntry) (img : Image) : Effect :=
  let a := c.getA (uAp f)
  withRegion s c a [(0, 24577)] (useTable s c e img (uOp f) fun tb =>
    let step := (c.getA (uAr f)).toNat
    let mine := (s.tableEntries tb.inst tb.tag).filter fun p => tb.ordinal p.1 / 512 == step
    let s1 := mine.foldl (fun (s : State) p => s.readEntry p.1) s
    if mine.any fun p => s1.kma.poisoned.contains p.1 then .fail Status.kmaEcc s1 c
    else stepOn s1 (c.await a.toNat 24577 (drainWords a.toNat (mine.map (·.2)))))

def execKdrn (t : Fin 64) (f : BitVec 40) (s : State) : Host.Outcome State Fault Refusal :=
  .next (runInstr t (instrWord 0x94 f) .program
    (unitReserved f (zeros f 39 30 && zeros f 25 22 && zeros f 17 16) [5, 7]) (drainStep f) s)

/-! ### SRUN, SMRG and SDLV (R126, R127) -/

/-- Order of two elements: key word 1, key word 0, ORIGIN, unsigned. -/
def elemLt (a b : List Word) : Bool :=
  let v (x : List Word) : Nat := ((x.getD 1 0).toNat * 2 ^ 48 + (x.getD 0 0).toNat) * 2 ^ 48 + (x.getD 2 0).toNat
  decide (v a < v b)

/-- Words of an element, and the LIMIT of a SORT; 0 is none. -/
def sortWidth (o : ImageOp) : Nat := 3 + bitsOf o.arg2 19 17
def limitTo {α : Type} (limit : Nat) (l : List α) : List α := if limit = 0 then l else l.take limit

/-- Bytes of the line areas of n segments. -/
def areaBytes (n : Nat) : Nat := n * lineArea

/-- The runs of a SORT in its RUN_SEL (R127): the descriptor, its selector, the segments of a half, and the words of an element. A run
lies in the line areas of its half, element after element; each of its runs takes the room of 64 elements in a rank part (DESIGN
CHOICE, assumption 144). -/
structure RunSpace where
  desc : BitVec 192
  sel : Nat
  half : Nat
  width : Nat
deriving DecidableEq, Repr

def runSpace (s : State) (e : WorkEntry) (o : ImageOp) : RunSpace :=
  let d := s.desc e.inst (bitsOf o.arg2 31 20)
  { desc := d, sel := bitsOf o.arg2 31 20, half := descSegs d / 2, width := sortWidth o }

/-- Module address of byte b of a half. -/
def RunSpace.at (r : RunSpace) (half b : Nat) : Nat :=
  descBase r.desc + (half * r.half + b / lineArea) * slotBytes + b % lineArea

/-- Bytes of n elements. -/
def RunSpace.bytes (r : RunSpace) (n : Nat) : Nat := n * r.width * 6

/-- n elements that lie in a half from byte b on. -/
def RunSpace.elems (r : RunSpace) (s : State) (half b n : Nat) : List (List Word) :=
  (List.range n).map fun k => (List.range r.width).map fun i => s.wordAt (r.at half (b + r.bytes k + 6 * i))

/-- Module addresses of the words of n elements. -/
def RunSpace.words (r : RunSpace) (half b n : Nat) : List Nat :=
  (List.range (n * r.width)).map fun i => r.at half (b + 6 * i)

/-- The pieces, each within a line, in which elements are written. -/
def RunSpace.pieces (r : RunSpace) (half b : Nat) (es : List (List Word)) : List (Nat × List Byte) :=
  let bs := es.flatMap fun x => x.flatMap fun w => leBytes 6 w.toNat
  let room := lineArea - b % lineArea
  linePieces bs.length (r.at half b) (bs.take room) ++ linePieces bs.length (r.at half (b + room)) (bs.drop room)

/-- The selector of a SORT or an EMIT is accessed by its tile: tests 1 and 2 of R149 (R105). -/
def openSel (s : State) (e : WorkEntry) (img : Image) (c : Ctx) (sel : Nat) (load store : Bool) (k : Effect) : Effect :=
  let addr := BitVec.ofNat 48 (sel * 2 ^ 36)
  match if load then segOpen s e img false addr else .ok 0, if store then segOpen s e img true addr else .ok 0 with
  | .error n, _ => segTrap n 0 false addr s c
  | _, .error n => segTrap n 0 true addr s c
  | .ok _, .ok _ => k

/-- ORIGIN of a row in a round (R217). -/
def roundOrigin (round : Nat) (w : Word) : Word := if round = 0 then w else w + BitVec.ofNat 48 (2 ^ 47 + round * 2 ^ 40)

/-- Runs of a SORT that earlier rounds left in a rank part; those of a further round follow them (DESIGN CHOICE, assumption 144). -/
def WorkEntry.earlierRuns (e : WorkEntry) (op rank : Nat) : Nat :=
  ((e.runs.filter fun x => x.op == op && x.rank == rank && decide (x.round < e.round)).map fun x => x.run + 1).foldl max 0

def formRun (f : BitVec 40) (s : State) (c : Ctx) (e : WorkEntry) (img : Image) : Effect :=
  match operator img (uOp f) [8] with
  | none => .stall
  | some o =>
    let a := c.getA (uAp f)
    let n := (c.getA (uAc f)).toNat
    let r := runSpace s e o
    withRegion s c a [(0, n * r.width)]
      (if n = 0 ∨ 64 < n then .fail Status.unitArgument s c
       else openSel s e img c r.sel false true
        (let run := e.earlierRuns (uOp f) c.rank + (c.getA (uAr f)).toNat
         if areaBytes (r.half / c.tiles) < r.bytes ((run + 1) * 64) then .fail Status.spanFull s c
         else if !acts s e img (uOp f) then stepOn s c
         else
          let es := (List.range n).map fun i =>
            (c.spWords (a.toNat + i * r.width) r.width).modify 2 (roundOrigin e.round)
          let kept := limitTo o.arg3 (sortBy elemLt es)
          let byte := c.rank * areaBytes (r.half / c.tiles) + r.bytes (run * 64)
          let x : SortRun := { op := uOp f, round := e.round, rank := c.rank, run := run, byte := byte, count := kept.length }
          withStores s c (r.pieces 0 byte kept) fun s1 =>
            stepOn (s1.updEntry c.slot fun e => { e with
              runs := e.runs.filter (fun y => !(y.op == x.op && y.rank == x.rank && y.run == x.run)) ++ [x] }) c))

def execSrun (t : Fin 64) (f : BitVec 40) (s : State) : Host.Outcome State Fault Refusal :=
  .next (runInstr t (instrWord 0x95 f) .program (unitReserved f (zeros f 39 30 && zeros f 17 16) [8]) (formRun f) s)

/-- The merge state of a SORT; before its first pass, the runs in the order of (rank, run). -/
def WorkEntry.sortState (e : WorkEntry) (op : Nat) : SortState :=
  match e.sorts.find? fun x => x.op == op with
  | some x => x
  | none =>
    let rs := sortBy (fun (a b : SortRun) => decide (a.rank < b.rank ∨ (a.rank = b.rank ∧ a.run < b.run)))
      (e.runs.filter fun r => r.op == op)
    { op := op, half := 0, src := rs.map fun r => (r.byte, r.count), written := 0, cur := 0, next := [], delivered := 0 }

def WorkEntry.setSort (e : WorkEntry) (x : SortState) : WorkEntry :=
  { e with sorts := e.sorts.filter (fun y => y.op != x.op) ++ [x] }

/-- Takes the least head of some runs, the earliest run on a tie. -/
def takeLeast (runs : List (List (List Word))) : Option (List Word × List (List (List Word))) :=
  let heads := runs.zipIdx.filterMap fun p => p.1.head?.map fun h => (h, p.2)
  match heads with
  | [] => none
  | x :: r =>
    let best := r.foldl (fun b y => if elemLt y.1 b.1 then y else b) x
    some (best.1, runs.zipIdx.map fun p => if p.2 = best.2 then p.1.drop 1 else p.1)

/-- Merges up to n elements of the runs of a group. -/
def mergeSome : Nat → List (List (List Word)) → List (List Word) × List (List (List Word))
  | 0, runs => ([], runs)
  | n + 1, runs =>
    match takeLeast runs with
    | none => ([], runs)
    | some (x, rest) =>
      let (xs, r) := mergeSome n rest
      (x :: xs, r)

/-- The next 64 elements of each of the first eight runs. -/
def SortState.heads (x : SortState) (r : RunSpace) (s : State) : List (List (List Word)) :=
  (x.src.take 8).map fun p => r.elems s x.half p.1 (min 64 p.2)

/-- One merge step of up to 64 elements over the first eight runs: the elements, and what follows. -/
def SortState.mergeStep (x : SortState) (r : RunSpace) (limit : Nat) (s : State) : List (List Word) × SortState :=
  let lists := x.heads r s
  let (es, rest) := mergeSome (if limit = 0 then 64 else min 64 (limit - x.cur)) lists
  let took := (lists.zip rest).map fun p => p.1.length - p.2.length
  let left := ((x.src.take 8).zip took).map fun p => (p.1.1 + r.bytes p.2, p.1.2 - p.2)
  let cur := x.cur + es.length
  let written := x.written + es.length
  let groupDone := decide (limit ≠ 0 ∧ limit ≤ cur) || left.all fun p => p.2 == 0
  let x1 : SortState :=
    if groupDone then
      { x with src := x.src.drop 8, written := written, cur := 0, next := x.next ++ [(r.bytes (written - cur), cur)] }
    else { x with src := left ++ x.src.drop 8, written := written, cur := cur }
  (es, if x1.src.isEmpty then { x1 with half := 1 - x1.half, src := x1.next, written := 0, next := [] } else x1)

/-- One run remains. -/
def SortState.ready (x : SortState) : Bool := decide (x.src.length ≤ 1) && x.next.isEmpty && x.cur == 0

def mergeRuns (f : BitVec 40) (s : State) (c : Ctx) (e : WorkEntry) (img : Image) : Effect :=
  match operator img (uOp f) [8] with
  | none => .stall
  | some o =>
    let x := e.sortState (uOp f)
    let r := runSpace s e o
    withRegion s c (c.getA (uAp f)) [(0, 16)]
      (openSel s e img c r.sel true true
       (if x.ready then stepOn s c
        else if areaBytes r.half < r.bytes (x.cur + ((x.src ++ x.next).map fun p => p.2).sum) then .fail Status.spanFull s c
        else withLines s c e ((x.src.take 8).flatMap fun p => r.words x.half p.1 (min 64 p.2)) fun s1 =>
          let (es, x1) := x.mergeStep r o.arg3 s1
          withStores s1 c (r.pieces (1 - x.half) (r.bytes x.written) es) fun s2 =>
            stepOn (s2.updEntry c.slot fun e => e.setSort x1) c))

def execSmrg (t : Fin 64) (f : BitVec 40) (s : State) : Host.Outcome State Fault Refusal :=
  .next (runInstr t (instrWord 0x96 f) .program (unitReserved f (zeros f 39 30 && zeros f 25 16) [8]) (mergeRuns f) s)

/-- The words SDLV writes: key words and payload words in six vectors, and the count in word 15 of the progress block. -/
def deliverWords (vec block npay : Nat) (es : List (List Word)) : List (Nat × Word) :=
  (es.zipIdx.flatMap fun p =>
    [(vec + p.2, p.1.getD 0 0), (vec + 4096 + p.2, p.1.getD 1 0)]
      ++ (List.range npay).map fun i => (vec + 8192 + 4096 * i + p.2, p.1.getD (3 + i) 0))
  ++ [(block + 15, BitVec.ofNat 48 es.length)]

/-- First failing index of the two regions of SDLV: the progress block, and the six vectors at VEC_SP. -/
def deliverFail (a : Word) (vec : Nat) : Option Nat := ((regionFail a [(0, 16)]).toList ++ (spFail vec 24576).toList).min?

def deliverRun (f : BitVec 40) (s : State) (c : Ctx) (e : WorkEntry) (img : Image) : Effect :=
  match operator img (uOp f) [1] with
  | none => .stall
  | some o =>
    let a := c.getA (uAp f)
    let n := (c.getA (uAc f)).toNat
    let vec := bitsOf o.arg4 16 0
    match deliverFail a vec, img.ops[o.inA]? with
    | some i, _ => scratchTrap i 0 false s c
    | none, none => .stall
    | none, some q =>
      if c.spBusy a.toNat 16 || c.spBusy vec 24576 then .stall
      else if n = 0 ∨ 4096 < n then .fail Status.unitArgument s c
      else
        let x := e.sortState o.inA
        let r := runSpace s e q
        openSel s e img c r.sel true false
          (let k := if x.ready then min n ((x.src.headD (0, 0)).2 - x.delivered) else 0
           let byte := (x.src.headD (0, 0)).1 + r.bytes x.delivered
           withLines s c e (r.words x.half byte k) fun s1 =>
            let es := r.elems s1 x.half byte k
            let c1 := (c.await vec 24576 (deliverWords vec a.toNat (bitsOf q.arg2 19 17) es)).await (a.toNat + 15) 1 []
            stepOn (s1.updEntry c.slot fun e => e.setSort { x with delivered := x.delivered + k }) c1)

/-- SDLV names a SCAN with SOURCE 2. -/
def execSdlv (t : Fin 64) (f : BitVec 40) (s : State) : Host.Outcome State Fault Refusal :=
  .next (runInstr t (instrWord 0x97 f) .program
    (fun img => unitReserved f (zeros f 39 30 && zeros f 21 16) [1] img ||
      (match img.ops[uOp f]? with
        | some o => o.flags % 4 != 2
        | none => true)) (deliverRun f) s)

/-! ### CHAND (R128 to R132) -/

/-- RESULT_ADDR, SLOT_BYTES and SLOT_COUNT of a submission entry (R280). -/
def entryField (e : BitVec 512) (byte n : Nat) : Nat := (e.toNat >>> (8 * byte)) % 2 ^ (8 * n)

/-- The cursor of a rank for an operator: Carafes written to the result area, or the next byte of its rank part. -/
def WorkEntry.cursor (e : WorkEntry) (op rank dflt : Nat) : Nat :=
  match e.cursors.find? fun x => x.1 == op && x.2.1 == rank with
  | some x => x.2.2
  | none => dflt

def WorkEntry.setCursor (e : WorkEntry) (op rank v : Nat) : WorkEntry :=
  { e with cursors := e.cursors.filter (fun x => !(x.1 == op && x.2.1 == rank)) ++ [(op, rank, v)] }

/-- FLAGS.PASS2 and ORDER of a Carafe of a round, which code cannot know of, are the engine's (R129, R217; DEDUCED, assumption 146). -/
def markRound (bs : List Byte) (round : Nat) : List Byte :=
  if round = 0 then bs
  else
    let order := BitVec.ofNat 48 (fieldNat bs 8 6)
    overlay (overlay bs 6 (leBytes 2 (fieldNat bs 6 2 ||| 2))) 8
      (leBytes 6 (if order = BitVec.allOnes 48 then order else roundOrigin round order).toNat)

/-- The header fields the engine fills in (R130, R181). -/
def fillHeader (bs : List Byte) (round frame seq tile rank len entrySeq : Nat) : List Byte :=
  overlay (overlay (overlay (markRound bs round) 0 (leBytes 2 0xCA4E ++ [1])) 14
    (leBytes 6 frame ++ leBytes 4 seq ++ leBytes 1 tile ++ leBytes 1 rank)) 28 (leBytes 4 len ++ leBytes 6 entrySeq)

/-- Words of some bytes, the last one padded with what the scratchpad held. -/
def wordsOfBytes (c : Ctx) (first : Nat) (bs : List Byte) : List Word :=
  (List.range (ceilDiv bs.length 6)).map fun i =>
    let old := leBytes 6 (c.spRead (first + i)).toNat
    BitVec.ofNat 48 (leNat (((bs.drop (6 * i)).take 6) ++ old.drop (bs.length - 6 * i)))

/-- A Carafe for a work span opens its selector (R105); one for the result area opens none. -/
def openSelTarget (s : State) (e : WorkEntry) (img : Image) (c : Ctx) (sel : Nat) (k : Effect) : Effect :=
  if sel = 0 then k else openSel s e img c sel false true k

/-- Where a Carafe of n bytes goes: destination space and address, with the cursor and header record that follow; or a status. -/
structure CarafePlace where
  space : Nat
  dst : Nat
  cursor : Nat
  header : Option RecordKind
deriving DecidableEq, Repr

def placeCarafe (s : State) (c : Ctx) (e : WorkEntry) (o : ImageOp) (op n rows : Nat) : Except Nat CarafePlace :=
  let target := bitsOf o.arg1 11 0
  if target = 0 then
    let k := e.cursor op c.rank 0
    let slotBytes' := entryField e.entry 32 4
    let idx := c.rank + c.tiles * k
    if slotBytes' < n then .error Status.carafeSpace
    else if entryField e.entry 36 4 ≤ idx then .error Status.resultSpace
    else .ok { space := 0, dst := entryField e.entry 24 8 + idx * slotBytes', cursor := k + 1, header := none }
  else
    let d := s.desc e.inst target
    let part := descSegs d / c.tiles
    let first := c.rank * part * slotBytes
    let cur := e.cursor op c.rank first
    let at192 := cur - cur % slotBytes + ceilDiv (cur % slotBytes) 192 * 192
    let off := if lineArea < at192 % slotBytes + n then (at192 / slotBytes + 1) * slotBytes else at192
    if lineArea < n ∨ (c.rank + 1) * part * slotBytes < off + n then .error Status.spanFull
    else .ok { space := 1, dst := descBase d + off, cursor := off + n,
               header := some (.header ((descBase d + off) / slotBytes) rows (ceilDiv (off % slotBytes + n) 192)) }

def handOff (t : Fin 64) (f : BitVec 40) (s : State) (c : Ctx) (e : WorkEntry) (img : Image) : Effect :=
  match operator img (uOp f) [9] with
  | none => .stall
  | some o =>
    let a := c.getA (uAp f)
    let n := (c.getA (uAc f)).toNat
    let words := ceilDiv n 6
    withRegion s c a [(0, words)]
      (if n < 64 ∨ n % 64 ≠ 0 ∨ 6 * bitsOf o.arg3 33 17 < n then .fail Status.carafeSpace s c
       else if !acts s e img (uOp f) || (match e.fail with
          | some x => decide (x.pos ≤ c.qpos)
          | none => false) then stepOn s c
       else openSelTarget s e img c (bitsOf o.arg1 11 0)
        (let raw := ((c.spWords a.toNat words).flatMap fun w => leBytes 6 w.toNat).take n
         let seq := lookupD e.seqs t.val 0
         let bs := fillHeader raw e.round s.frame.frameNo seq t.val c.rank n (entryField e.entry 8 6)
         match placeCarafe s c e o (uOp f) n (fieldNat raw 4 2) with
         | .error st => .fail st s c
         | .ok p =>
           let ch : Fin 32 := ⟨t.val / 8, by omega⟩
           let x := s.mover.channels[ch]
           if 8 ≤ x.queue.length then .stall
           else
             let d := s.ownDesc e.inst e.slot (t.val * 2 ^ 17 + a.toNat) p.dst n (2, p.space) true (some e.slot)
             let s2 := s.fresh.2.updEntry c.slot fun e => { (e.setCursor (uOp f) c.rank p.cursor) with
               carafes := e.carafes + 1
               seqs := insertK e.seqs t.val (seq + 1)
               out := e.out ++ [(c.qpos, t.val, crc64 bs)] }
             let tl := s2.tiles[t]
             let s3 := match p.header with
               | some k => s2.setTile t { tl with merge := tl.merge ++ [({ slot := c.slot, op := uOp f, kind := k } : MergeRecord)] }
               | none => s2
             let c1 := c.spPut a.toNat (wordsOfBytes c a.toNat bs)
             let c2 := if x.disable then c1
               else { c1 with pending := c1.pending ++ [({ first := a.toNat, len := words, words := [], carafe := true } : Pending)] }
             stepOn (s3.appendHead ch (.own d)) c2))

def execChand (t : Fin 64) (f : BitVec 40) (s : State) : Host.Outcome State Fault Refusal :=
  .next (runInstr t (instrWord 0x98 f) .program (unitReserved f (zeros f 39 30 && zeros f 21 16) [9]) (handOff t f) s)

end Sys2Proof.Machine
end

