-- ==== Sys2Proof/Machine/Control.lean ====
section
/-! DEFINITION. Quota points and their charges (R30, R134, R158, R159), the end of a stage (R161), traps and their returns (R167,
R169, R182), undefined opcodes (R174), and the arrival of unit results (R152). -/

namespace Sys2Proof.Machine

/-! ### Blocks of a column (R64, R89, R90) -/

/-- Where block j of a span lies: the slots looked at, and its slot, its entry in the segment, and the first row of the
segment's earlier blocks. -/
structure BlockAt where
  slots : List Nat
  found : Option (Nat × Nat)
deriving DecidableEq, Repr

/-- Walks the segments of a column span (R90). -/
def walkSegments (s : State) (slot j : Nat) : Nat → BlockAt
  | 0 => { slots := [], found := none }
  | n + 1 =>
    let k := s.blockCount slot
    if j < k then { slots := [slot], found := some (slot, j) }
    else
      let r := walkSegments s (slot + 1) (j - k) n
      { r with slots := slot :: r.slots }

/-- Block j of a span, if the span has one: a packed unit lies at its place within LIMIT (R64), a column block is found through the
segment headers (R90). -/
def locateBlock (s : State) (d : BitVec 192) (j : Nat) : BlockAt :=
  let first := descBase d / slotBytes
  if descKind d = 2 then
    if descLimit d < j / 1820 * slotBytes + j % 1820 * 576 + 575 then { slots := [], found := none }
    else { slots := [first + j / 1820], found := some (first + j / 1820, j % 1820) }
  else if descKind d = 1 then walkSegments s first j (descSegs d)
  else { slots := [], found := none }

/-- First row and count of a block or packed unit, and the lines it touches (R64, R89). -/
def blockShape (s : State) (d : BitVec 192) (slot e : Nat) : Nat × Nat × Nat :=
  if descKind d = 2 then
    let ma := slot * slotBytes + 576 * e
    (leNat (s.bytesAt (ma + 512) 6), leNat (s.bytesAt (ma + 518) 2), 3)
  else
    let x := s.dirEntry slot e
    let rows := s.segHeader slot 22 6 + ((List.range e).map fun i => (s.dirEntry slot i).vcount).sum
    let h := parsePcc (s.bytesAt (slot * slotBytes + x.offset) 12)
    (rows, x.vcount, (x.offset + 12 + h.encLen - 1) / 192 - x.offset / 192 + 1)

/-- The selectors a SCAN fetches for one of its columns: data, high component, validity (R109). -/
def columnSels (w : Word) : List Nat :=
  let x := w.toNat
  [bitsOf x 11 0] ++ (if bitsOf x 35 24 = 0 then [] else [bitsOf x 35 24]) ++ (if bitsOf x 23 12 = 0 then [] else [bitsOf x 23 12])

/-- Words of the constant block. -/
def constWords (img : Image) (i n : Nat) : List Word := (List.range n).map fun k => img.consts.getD (i + k) 0

/-! ### Charges (R134) -/

/-- The size of a step: a charge and a largest record count; a status; a SEGMENT check and its tile address; or a wait for a slot. -/
inductive Charge where
  | cost (beats records : Nat)
  | fail (status : Nat)
  | seg (check : Nat) (addr : Word)
  | wait (slot : Nat)
deriving DecidableEq, Repr

/-- k of R134. -/
def stepK (o : ImageOp) (c : Nat) : Nat := ceilDiv (o.cycles * ceilDiv c 4) 16

/-- Words per row of an EMIT: two for a DEC96 column, one for any other. -/
def emitWidth (img : Image) (o : ImageOp) : Nat :=
  ((constWords img (bitsOf o.arg2 13 0) (bitsOf o.arg2 19 14)).map fun w => if bitsOf w.toNat 3 0 = 4 then 2 else 1).sum

/-- One block of a SOURCE 0 SCAN: lines, rows, decoded groups (R134), and the agreement of its columns (R66, R90). A block number
that some column does not have is a count out of range (R158; DEDUCED, assumption 46). -/
def scanCharge (s : State) (e : WorkEntry) (img : Image) (op j : Nat) (o : ImageOp) : Charge :=
  let cols := constWords img (bitsOf o.arg3 13 0) (bitsOf o.arg3 18 14)
  let sels := cols.flatMap columnSels
  let places := sels.map fun x => (s.desc e.inst x, locateBlock s (s.desc e.inst x) j)
  match sels.findSome? fun x => match segOpen s e img false (BitVec.ofNat 48 (x * 2 ^ 36)) with
      | .error k => some (k, x)
      | .ok _ => none, (places.flatMap fun p => p.2.slots).find? fun x => !s.resident x with
  | some (k, x), _ => .seg k (BitVec.ofNat 48 (x * 2 ^ 36))
  | none, some slot => if s.gone slot then .fail Status.segmentLost else .wait slot
  | none, none =>
    let shapes := places.filterMap fun p => p.2.found.map fun q => blockShape s p.1 q.1 q.2
    let rows := shapes.map fun y => (y.1, y.2.1)
    if places.any fun p => p.2.found.isNone then .fail Status.quotaGap
    else if places.any fun p => descKind p.1 == 1 && p.2.found.any fun q => s.typeReserved q.1 then .fail Status.reservedField
    else if rows.any fun x => x != rows.headD (0, 0) then .fail Status.columnMismatch
    else
      let lines := (shapes.map fun y => y.2.2).sum
      let r := (rows.headD (0, 0)).2
      let groups := (img.ops.map fun q =>
        if q.kind = 2 ∧ q.inA = op then
          let w := (cols.getD (bitsOf q.arg1 4 0) 0).toNat
          ceilDiv r 64 * (if bitsOf w 35 24 = 0 then 1 else 2)
        else 0).sum
      .cost (8 + max (ceilDiv (192 * lines) 125) groups) 0

/-- The searched banks of the table a PROBE uses: BANKSET, or the whole span of an ordered table (R195). -/
def probeBanks (s : State) (e : WorkEntry) (img : Image) (o : ImageOp) : Nat :=
  match s.table? e.inst (tableTag e img o.inB) with
  | some tb => tb.bankset
  | none => match img.ops[o.inB]? with
    | some b => bitsOf b.arg4 21 18
    | none => 1

/-- The SCAN that an operator's batches come from (R513). -/
def scanOf (img : Image) : Nat → Nat → Option ImageOp
  | 0, _ => none
  | fuel + 1, op => match img.ops[op]? with
    | none => none
    | some o => if o.kind = 1 then some o else scanOf img fuel o.inA

/-- The rows of the next chunk of a PROBE: the first n selected rows after those of its earlier chunks. -/
def chunkRows (c : Ctx) (img : Image) (op n : Nat) : List Nat :=
  let mask := match scanOf img (img.ops.length + 1) op with
    | some o => bitsOf o.arg3 35 19
    | none => 0x1FFFF
  ((List.range 4096).filter fun i => decide (lookupD c.probed op 0 ≤ i) &&
    (mask == 0x1FFFF || (c.spRead (mask + i / 48)).getLsbD (i % 48))).take n

/-- The key of a row of a PROBE (R108). -/
def probeKey (c : Ctx) (o : ImageOp) (i : Nat) : DWord :=
  let part (sp : Nat) : Word := if sp = 0x1FFFF then 0 else c.spRead (sp + i)
  keyOf (part (bitsOf o.arg1 16 0)) (part (bitsOf o.arg1 33 17))

/-- Rows of a PROBE's chunk that count s beats each: all of them, or in a round those whose partition lies in it (R134, R217; DEDUCED,
assumption 145). -/
def probeRows (s : State) (c : Ctx) (e : WorkEntry) (img : Image) (op n : Nat) (o : ImageOp) : Nat :=
  match s.table? e.inst (tableTag e img o.inB) with
  | some tb => if tb.inRound.isEmpty then n
    else ((chunkRows c img op n).filter fun i => tb.inRound.contains (kmaPart (probeKey c o i))).length
  | none => n

/-- The charge of a step (R134, R158). -/
def chargeOf (s : State) (c : Ctx) (e : WorkEntry) (img : Image) (op step n : Nat) (o : ImageOp) : Charge :=
  let within (lo hi : Nat) (k : Charge) : Charge := if lo ≤ n ∧ n ≤ hi then k else .fail Status.quotaGap
  match step with
  | 0 => .cost 2 0
  | 1 => scanCharge s e img op n o
  | 2 => within 1 512 (.cost (4 + ceilDiv n 8) 0)
  | 3 =>
    let w := match img.ops[o.inA]? with
      | some q => sortWidth q
      | none => 3
    .cost (ceilDiv n 2 + ceilDiv (6 * w * n) 125) 0
  | 4 => .cost (32 + ceilDiv (768 * sortWidth o) 125) 0
  | 5 => within 0 4096 (.cost (1 + stepK o n) 0)
  | 6 => within 0 (bitsOf o.arg3 7 0) (.cost (4 + probeBanks s e img o * probeRows s c e img op n o + stepK o n) 0)
  | 7 => .cost (probeBanks s e img o + 1) 0
  | 8 => within 0 4 (.cost (max 1 (ceilDiv o.cycles 16)) n)
  | 9 =>
    let slots := bitsOf o.arg3 28 16
    within 0 4 (.cost (max 1 (ceilDiv o.cycles 16)) (if slots = 0 then n else n - (slots - (c.localGroups op).length)))
  | 10 => .cost 1 (if (c.localGroups op).isEmpty then 0 else 1)
  | 11 => within 1 64 (.cost (ceilDiv n 2 + ceilDiv (12 * sortWidth o * n) 125) 0)
  | _ => within 0 4096 (.cost (4 + ceilDiv (n * emitWidth img o) 64) 0)

/-- The operator a QPT names is of the kind its STEP needs (R158). -/
def qptKind (img : Image) (op step : Nat) : Bool :=
  match img.ops[op]? with
  | none => false
  | some o => decide (op < 254) && match step with
    | 0 => o.kind == 1 && o.flags % 4 == 0
    | 1 => o.kind == 1 && o.flags % 4 == 0
    | 2 => o.kind == 1 && o.flags % 4 == 1
    | 3 => o.kind == 1 && o.flags % 4 == 2
    | 4 => o.kind == 8
    | 5 => o.kind == 3 || o.kind == 4
    | 6 => o.kind == 6
    | 7 => o.kind == 6
    | 8 => o.kind == 5
    | 9 => o.kind == 7
    | 10 => o.kind == 7
    | 11 => o.kind == 8
    | 12 => o.kind == 9
    | _ => false

/-! ### Quota points -/

/-- The test of a CHECKED PROJECT at the end of its batch (R121): DIV_ZERO before ARITH_OVERFLOW (R508). -/
def checkedFailure (c : Ctx) : Option Nat :=
  if !c.checked then none
  else if c.lx.extractLsb' 0 4 ≠ 0 then some Status.divZero
  else if c.lx.extractLsb' 4 4 ≠ 0 ∨ c.xs ≠ 0 then some Status.arithOverflow
  else none

/-- The entry has failed at or below the tile's counter (R117, R507). -/
def stopsHere (e : WorkEntry) (beats : Nat) : Bool :=
  match e.fail with
  | some f => decide (f.pos ≤ beats)
  | none => false

/-- What a quota point does: the tile yields, or both counters take the step (R30, R159). -/
def quotaPoint (s : State) (t : Fin 64) (c : Ctx) (e : WorkEntry) (beats records : Nat) : Option (State × Ctx) :=
  let x := s.tiles[t]
  if stopsHere e x.beats || decide (s.frame.header.quota < x.beats + beats)
      || decide (s.frame.header.mergeAllow < x.records + records) then none
  else some (s.setTile t { x with beats := x.beats + beats, records := x.records + records },
    { c with qpos := x.beats, allowed := records })

/-- A flush step issues the group created earliest, if the local table holds one (R125). -/
def flushGroup (t : Fin 64) (op : Nat) (s : State) (c : Ctx) : State × Ctx :=
  match c.localGroups op with
  | [] => (s, c)
  | g :: r => (issueRecord t op (.group g) (some (s, c.setLocal op r))).getD (s, c)

/-- The chunks taken of the batch, after a step: a SCAN step begins a new batch (R111). -/
def probedAfter (c : Ctx) (img : Image) (op step n : Nat) : List (Nat × Nat) :=
  match step with
  | 1 => []
  | 2 => []
  | 3 => []
  | 6 => insertK c.probed op ((chunkRows c img op n).foldl (fun m i => max m (i + 1)) (lookupD c.probed op 0))
  | _ => c.probed

/-- QPT (R158, R159). -/
def quotaInstr (t : Fin 64) (f : BitVec 40) (s : State) (c : Ctx) (e : WorkEntry) (img : Image) : State :=
  let op := fNat f 32 8
  let step := fNat f 28 4
  let n := (c.getA (fA f 24)).toNat
  let x := s.tiles[t]
  let atNow := { c with qpos := x.beats }
  if c.pending ≠ [] then s
  else match checkedFailure c with
    | some st => s.tileFail t c st 0
    | none => match img.ops[op]? with
      | none => s
      | some o =>
        if stopsHere e x.beats then s.yieldTile t
        else match chargeOf s c e img op step n o with
          | .fail st => s.tileFail t atNow st 0
          | .seg k addr => s.takeTrap t c (instrWord 0xA0 f) 2 Status.segFault addr (tinfo k 0 false)
          | .wait slot => s.tileWaits t c slot
          | .cost beats records =>
            if 256 < beats then s.tileFail t atNow Status.quotaGap 0
            else match quotaPoint s t c e beats records with
              | none => s.yieldTile t
              | some (s1, c1) =>
                let (s2, c2) := if step = 10 then flushGroup t op s1 c1 else (s1, c1)
                s2.setHead t { c2 with pc := c2.pc + 1, checked := step == 5 && o.kind == 4 && bitOf o.flags 0,
                                       probed := probedAfter c img op step n }

/-- Runs an instruction that decides about the whole tile, after the checks of R185. -/
def runControl (t : Fin 64) (w : Word) (reserved : Image → Bool) (sem : State → Ctx → WorkEntry → Image → State) (s : State) : State :=
  match s.runner t with
  | none => s
  | some (c, e, img) =>
    if s.overtaken t then s.yieldTile t
    else if c.trap.isNone ∧ 0x3C00 ≤ c.pc.toNat then s.takeTrap t c w 4 Status.pcRange (c.pc.setWidth 48) 0
    else if s.fetch c ≠ w then s
    else if reserved img || c.trap.isSome then s.takeTrap t c w 1 Status.illegalInstruction 0 0
    else sem s c e img

def execQpt (t : Fin 64) (f : BitVec 40) (s : State) : Host.Outcome State Fault Refusal :=
  .next (runControl t (instrWord 0xA0 f) (fun img => !(zeros f 23 0 && qptKind img (fNat f 32 8) (fNat f 28 4))) (quotaInstr t f) s)

/-! ### END (R161) -/

/-- Flushes the remaining local groups, a quota point each; true when none remains. -/
def flushLocals (t : Fin 64) (e : WorkEntry) : Nat → State → Ctx → State × Ctx × Bool
  | 0, s, c => (s, c, true)
  | n + 1, s, c =>
    match (sortBy (fun (a b : LocalTable) => decide (a.op < b.op)) c.locals).find? fun l => !l.groups.isEmpty with
    | none => (s, c, true)
    | some l =>
      match quotaPoint s t c e 1 1 with
      | none => (s, c, false)
      | some (s1, c1) =>
        let (s2, c2) := flushGroup t l.op s1 c1
        flushLocals t e n s2 c2

/-- The tile's part of the stage ends: it goes on with its next entry, or yields when it has none (R30, R33, R113). -/
def finishPart (s : State) (t : Fin 64) (c : Ctx) : State :=
  let x := s.tiles[t]
  let rest := match x.ctxs.drop 1 with
    | [] => []
    | d :: r => { d with qpos := x.beats } :: r
  let s1 := s.updEntry c.slot fun e => { e with done := e.done ++ [t.val] }
  s1.setTile t { x with ctxs := rest, ran := x.ran ++ [(c.slot, c.qpos)], yielded := rest.isEmpty }

def endInstr (t : Fin 64) (s : State) (c : Ctx) (e : WorkEntry) (_ : Image) : State :=
  if c.pending ≠ [] then s
  else match checkedFailure c with
    | some st => s.tileFail t c st 0
    | none =>
      let total := (c.locals.map fun l => l.groups.length).sum
      match flushLocals t e (total + 1) s c with
      | (s1, c1, false) => (s1.setHead t c1).yieldTile t
      | (s1, c1, true) => finishPart s1 t c1

def execEndStage (t : Fin 64) (f : BitVec 40) (s : State) : Host.Outcome State Fault Refusal :=
  .next (runControl t (instrWord 0xA1 f) (fun _ => f != 0) (endInstr t) s)

/-! ### NOP, BRK and the trap-only instructions (R167, R169, R182) -/

def execNop (t : Fin 64) (f : BitVec 40) (s : State) : Host.Outcome State Fault Refusal :=
  .next (runInstr t (instrWord 0xA2 f) .anywhere (fun _ => f != 0) (fun s c _ _ => stepOn s c) s)

/-- BRK traps when the entry has DEBUG set (R169, R280). -/
def execBrk (t : Fin 64) (f : BitVec 40) (s : State) : Host.Outcome State Fault Refusal :=
  .next (runInstr t (instrWord 0xA3 f) .program (fun _ => f != 0)
    (fun s c e _ => if e.entry.getLsbD 12 then .trap 5 Status.breakpoint 0 0 s c else stepOn s c) s)

/-- A trap register by its number (R166). -/
def TrapRegs.read (r : TrapRegs) (n : Nat) : Word :=
  match n with
  | 0 => r.tpc.setWidth 48
  | 1 => r.tcause.setWidth 48
  | 2 => r.tinst
  | 3 => r.taddr
  | _ => r.tinfo

/-- Runs an effect on the trap registers; the instruction runs in trap mode only. -/
def withTrap (c : Ctx) (k : TrapRegs → Effect) : Effect :=
  match c.trap with
  | some r => k r
  | none => .stall

def execTget (t : Fin 64) (f : BitVec 40) (s : State) : Host.Outcome State Fault Refusal :=
  .next (runInstr t (instrWord 0xB0 f) .handler (fun _ => !(zeros f 35 31 && zeros f 25 0 && decide (fNat f 26 5 ≤ 4)))
    (fun s c _ _ => withTrap c fun r => stepOn s (c.setA (fA f 36) (r.read (fNat f 26 5)))) s)

def execTxa (t : Fin 64) (f : BitVec 40) (s : State) : Host.Outcome State Fault Refusal :=
  .next (runInstr t (instrWord 0xB1 f) .handler
    (fun _ => !(zeros f 35 31 && zeros f 25 0 && decide (8 ≤ fNat f 26 5 ∧ fNat f 26 5 ≤ 15)))
    (fun s c _ _ => withTrap c fun r =>
      let n : Fin 8 := ⟨fNat f 26 5 % 8, Nat.mod_lt _ (by decide)⟩
      stepOn s { (c.setA (fA f 36) r.ta[n]) with trap := some { r with ta := r.ta.set n (c.getA (fA f 36)) } }) s)

def execTxd (t : Fin 64) (f : BitVec 40) (s : State) : Host.Outcome State Fault Refusal :=
  .next (runInstr t (instrWord 0xB2 f) .handler
    (fun _ => !(zeros f 39 36 && zeros f 25 0 && decide (16 ≤ fNat f 26 5 ∧ fNat f 26 5 ≤ 19)))
    (fun s c _ _ => withTrap c fun r =>
      let n : Fin 4 := ⟨fNat f 26 5 % 4, Nat.mod_lt _ (by decide)⟩
      stepOn s { (c.setD (fD f 31) r.td[n]) with trap := some { r with td := r.td.set n (c.getD (fD f 31)) } }) s)

/-- TRETRY: trap mode ends at TPC. -/
def execTretry (t : Fin 64) (f : BitVec 40) (s : State) : Host.Outcome State Fault Refusal :=
  .next (runInstr t (instrWord 0xB3 f) .handler (fun _ => f != 0)
    (fun s c _ _ => withTrap c fun r => .done s { c with pc := r.tpc, trap := none }) s)

/-- TSKIP: trap mode ends at TPC + 1. -/
def execTskip (t : Fin 64) (f : BitVec 40) (s : State) : Host.Outcome State Fault Refusal :=
  .next (runInstr t (instrWord 0xB4 f) .handler (fun _ => f != 0)
    (fun s c _ _ => withTrap c fun r => .done s { c with pc := r.tpc + 1, trap := none }) s)

/-- TEND: the entry ends with the status of TCAUSE, DETAIL holding TPC (R167, R505). A trap in trap mode ends it so too. -/
def execTend (t : Fin 64) (f : BitVec 40) (s : State) : Host.Outcome State Fault Refusal :=
  .next (runInstr t (instrWord 0xB5 f) .handler (fun _ => f != 0)
    (fun s c _ _ => withTrap c fun r => .trap r.tcause.toNat r.status 0 0 s c) s)

/-! ### UNDEFINED_OPCODE and UNIT_RESULT_ARRIVAL -/

/-- Opcodes the hardware does not define (R174). -/
def undefinedOp (op : Nat) : Bool :=
  op == 0 || op == 0x0E || op == 0x0F || decide (0x16 ≤ op ∧ op ≤ 0x1F) || op == 0x51 || decide (0x5D ≤ op ∧ op ≤ 0x5F)
    || decide (0x69 ≤ op ∧ op ≤ 0x6F) || decide (0x7A ≤ op ∧ op ≤ 0x7F) || decide (0x87 ≤ op ∧ op ≤ 0x8F)
    || decide (0x99 ≤ op ∧ op ≤ 0x9F) || decide (0xA4 ≤ op ∧ op ≤ 0xAF) || decide (0xB6 ≤ op)

def execUndefinedOpcode (t : Fin 64) (w : Word) (s : State) : Host.Outcome State Fault Refusal :=
  .next (if undefinedOp (w.toNat / 2 ^ 40) then runInstr t w .anywhere (fun _ => true) (fun _ _ _ _ => .stall) s else s)

/-- The n-th result the head context awaits lands in its scratchpad words (R152); a hand-off is released by the Mover. -/
def execUnitResultArrival (t : Fin 64) (n : Nat) (s : State) : Host.Outcome State Fault Refusal :=
  .next (match s.head? t with
    | none => s
    | some c => match c.pending[n]? with
      | none => s
      | some p =>
        if p.carafe then s
        else
          let c1 := p.words.foldl (fun (c : Ctx) w => c.spWrite w.1 w.2) c
          s.setHead t { c1 with pending := c.pending.eraseIdx n })

end Sys2Proof.Machine
end

