-- ==== Sys2Proof/Machine/Image.lean ====
section
/-! DEFINITION. Pipeline images: their tables (R103 to R109), the checks that refuse them (R110, R513), and the sets, selectors
and handles an entry names (R34, R105). -/

namespace Sys2Proof.Machine

/-- The image header (R104). -/
structure ImageHeader where
  magic : Nat
  version : Nat
  flags : Nat
  maxGap : Nat
  stageCount : Nat
  opCount : Nat
  setCount : Nat
  len : Nat
  setOff : Nat
  stageOff : Nat
  opOff : Nat
  constOff : Nat
  constWords : Nat
  codeOff : Nat
  codeWords : Nat
  constSp : Nat
deriving DecidableEq, Repr

def imageHeader (bs : List Byte) : ImageHeader :=
  { magic := fieldNat bs 0 4, version := fieldNat bs 4 2, flags := fieldNat bs 6 2, maxGap := fieldNat bs 8 2,
    stageCount := fieldNat bs 10 1, opCount := fieldNat bs 11 1, setCount := fieldNat bs 12 2, len := fieldNat bs 16 4,
    setOff := fieldNat bs 20 4, stageOff := fieldNat bs 24 4, opOff := fieldNat bs 28 4, constOff := fieldNat bs 32 4,
    constWords := fieldNat bs 36 4, codeOff := fieldNat bs 40 4, codeWords := fieldNat bs 44 4, constSp := fieldNat bs 48 4 }

/-- An operator record from its 32 bytes (R107). -/
def imageOp (bs : List Byte) : ImageOp :=
  let w := fieldNat bs 0 6
  { kind := bitsOf w 7 0, flags := bitsOf w 15 8, inA := bitsOf w 23 16, inB := bitsOf w 31 24, stage := bitsOf w 35 32,
    cycles := bitsOf w 47 36, arg1 := fieldNat bs 6 6, arg2 := fieldNat bs 12 6, arg3 := fieldNat bs 18 6, arg4 := fieldNat bs 24 6 }

/-- n words from a byte offset. -/
def wordsFrom (bs : List Byte) (off n : Nat) : List Word := (List.range n).map fun i => BitVec.ofNat 48 (fieldNat bs (off + 6 * i) 6)

/-- The place of a table, offset and bytes, keeps the rules of R104. -/
def ImageHeader.placeOk (h : ImageHeader) (p : Nat × Nat) : Bool :=
  p.1 % 6 == 0 && decide (64 ≤ p.1) && decide (p.1 ≤ h.len) && (p.2 == 0 || decide (p.1 + p.2 ≤ h.len))

/-- Entries of a table that are read: none where its place breaks R104, and never more than its greatest legal number. -/
def ImageHeader.entriesOf (h : ImageHeader) (off count size most : Nat) : Nat :=
  if h.placeOk (off, size * count) then min most count else 0

/-- The tables of an image. One whose place breaks R104 is taken as empty: the image is refused with IMAGE_BAD, and nothing outside a
table is examined as an entry of it (DEDUCED, assumption 45). -/
def parseImage (bs : List Byte) : Image :=
  let h := imageHeader bs
  { bytes := bs, writes := bitOf h.flags 0, maxGap := h.maxGap,
    sets := (List.range (h.entriesOf h.setOff h.setCount 4 256)).map fun i =>
      let w := fieldNat bs (h.setOff + 4 * i) 4; (bitsOf w 11 0, bitOf w 12),
    stages := (List.range (h.entriesOf h.stageOff h.stageCount 16 16)).map fun i =>
      { mask := BitVec.ofNat 64 (fieldNat bs (h.stageOff + 16 * i) 8)
        entryPc := bitsOf (fieldNat bs (h.stageOff + 16 * i + 8) 2) 13 0 },
    ops := (List.range (h.entriesOf h.opOff h.opCount 32 254)).map fun i => imageOp (sliceBytes bs (h.opOff + 32 * i) 32),
    constSp := h.constSp % 2 ^ 17, consts := wordsFrom bs h.constOff (h.entriesOf h.constOff h.constWords 6 16384),
    code := wordsFrom bs h.codeOff (h.entriesOf h.codeOff h.codeWords 6 0x3C00) }

/-- Tiles of a stage, ascending (R112). -/
def ImageStage.tiles (st : ImageStage) : List (Fin 64) := (List.finRange 64).filter fun t => st.mask.getLsbD t.val

def Image.stageTiles (img : Image) (n : Nat) : List (Fin 64) :=
  match img.stages[n]? with
  | some st => st.tiles
  | none => []

/-! ### Reserved bits and values (first row of R110) -/

/-- Bits of x at and above n are zero. -/
def fits (x n : Nat) : Bool := decide (x < 2 ^ n)

/-- Reserved FLAGS bits, argument bits and codes of an operator (R107, R108, R124). -/
def opReserved (o : ImageOp) : Bool :=
  match o.kind with
  | 1 =>
    let source := o.flags % 4
    !(fits o.flags 2 && source != 3 && (source == 0 || (o.arg1 == 0 && o.arg2 == 0)) && fits o.arg3 36
      && (if source = 0 then o.arg4 == 0 else fits o.arg4 17))
  | 2 => !(fits o.flags 1 && fits o.arg1 5 && fits o.arg2 34 && o.arg3 == 0 && o.arg4 == 0)
  | 3 => !(o.flags == 0 && fits o.arg1 18 && fits o.arg2 14 && o.arg3 == 0 && o.arg4 == 0)
  | 4 => !(fits o.flags 1 && fits o.arg1 14 && o.arg2 == 0 && o.arg3 == 0 && o.arg4 == 0)
  | 5 => !(fits o.flags 1 && fits o.arg1 34 && fits o.arg2 37 && o.arg3 == 0)
  | 6 => !(fits o.flags 2 && fits o.arg1 34 && fits o.arg2 34 && fits o.arg3 25 && o.arg4 == 0)
  | 7 => !(o.flags == 0 && fits o.arg1 34 && fits o.arg2 34 && fits o.arg3 46
      && (List.range 4).all fun i => decide (opsCode (o.arg3 % 2 ^ 16) i ≤ 10))
  | 8 => !(o.flags == 0 && fits o.arg1 34 && fits o.arg2 32 && o.arg4 == 0)
  | 9 => !(o.flags == 0 && fits o.arg1 25 && fits o.arg2 20 && fits o.arg3 34 && o.arg4 == 0)
  | _ => true

/-- Words of a list, as far as the constant block holds them. -/
def listWords (img : Image) (i n : Nat) : List Word := (img.consts.drop i).take n

/-- Interval lists from a word index: (column, count) of each and whether all lie within the block (R109). -/
def intervalLists (img : Image) : Nat → Nat → List (Nat × Nat) × Bool
  | 0, _ => ([], true)
  | n + 1, i =>
    match img.consts[i]? with
    | none => ([], false)
    | some w =>
      let cnt := bitsOf w.toNat 9 5
      let (r, ok) := intervalLists img n (i + 1 + 2 * cnt)
      ((bitsOf w.toNat 4 0, cnt) :: r, ok && decide (i + 1 + 2 * cnt ≤ img.consts.length))

/-- Reserved bits and codes in the lists of an operator (R58, R60, R109). -/
def listReserved (img : Image) (o : ImageOp) : Bool :=
  match o.kind with
  | 1 => (listWords img (bitsOf o.arg3 13 0) (bitsOf o.arg3 18 14)).any fun w => !fits w.toNat 36
  | 9 => (listWords img (bitsOf o.arg2 13 0) (bitsOf o.arg2 19 14)).any fun w =>
      let ty := bitsOf w.toNat 3 0
      let scale := bitsOf w.toNat 8 4
      !fits w.toNat 44 || ty == 0 || decide (8 ≤ ty) || decide (18 < scale) || (scale != 0 && ty != 3 && ty != 4)
  | _ => false

def imageReserved (bs : List Byte) (img : Image) : Bool :=
  let h := imageHeader bs
  decide (2 ≤ h.flags) || fieldNat bs 14 2 != 0 || !fits h.constSp 17 || fieldNat bs 56 8 != 0
    || (List.range img.sets.length).any (fun i => !fits (fieldNat bs (h.setOff + 4 * i) 4) 13)
    || (List.range img.stages.length).any (fun i =>
      !fits (fieldNat bs (h.stageOff + 16 * i + 8) 2) 14 || fieldNat bs (h.stageOff + 16 * i + 10) 6 != 0)
    || (List.range img.ops.length).any (fun i => fieldNat bs (h.opOff + 32 * i + 30) 2 != 0)
    || img.ops.any opReserved || img.ops.any (listReserved img)

/-! ### Ranges, tables, links and regions (IMAGE_BAD) -/

/-- The tables of the image: offset and length in bytes. -/
def ImageHeader.tables (h : ImageHeader) : List (Nat × Nat) :=
  [(h.setOff, 4 * h.setCount), (h.stageOff, 16 * h.stageCount), (h.opOff, 32 * h.opCount), (h.constOff, 6 * h.constWords),
    (h.codeOff, 6 * h.codeWords)]

/-- Two ranges share a byte. -/
def overlap (a b : Nat × Nat) : Bool :=
  a.2 != 0 && b.2 != 0 && decide (a.1 < b.1 + b.2) && decide (b.1 < a.1 + a.2)

def headerBad (h : ImageHeader) (bytes : Nat) : Bool :=
  h.magic != 0x5A317E0C || h.version != 1 || h.len != bytes || h.maxGap == 0
    || !(decide (1 ≤ h.stageCount) && decide (h.stageCount ≤ 16)) || !(decide (1 ≤ h.opCount) && decide (h.opCount ≤ 254))
    || decide (256 < h.setCount) || decide (16384 < h.constWords) || decide (0x3C00 < h.codeWords)
    || h.tables.any (fun p => !h.placeOk p)
    || (h.tables.zipIdx.any fun p => h.tables.zipIdx.any fun q => decide (p.2 < q.2) && overlap p.1 q.1)
    || decide (spWordsTotal < h.constSp % 2 ^ 17 + h.constWords)

/-- An operator that yields batches (R513). -/
def yieldsBatches (k : Nat) : Bool := k == 1 || k == 2 || k == 3 || k == 4 || k == 6

/-- The IN fields of operator n (R513). -/
def linksOk (img : Image) (n : Nat) (o : ImageOp) : Bool :=
  let earlier (x : Nat) (p : ImageOp → Bool) : Bool := match img.ops[x]? with
    | some q => decide (x < n) && p q
    | none => false
  match o.kind with
  | 1 =>
    o.inB == 0xFF && (match o.flags % 4 with
      | 0 => o.inA == 0xFF
      | 1 => earlier o.inA fun q => (q.kind == 5 || q.kind == 7) && decide (q.stage < o.stage)
      | _ => earlier o.inA fun q => q.kind == 8 && decide (q.stage < o.stage))
  | 2 => o.inB == 0xFF && earlier o.inA fun q => q.kind == 1 && q.stage == o.stage
  | 3 => o.inB == 0xFF && earlier o.inA fun q => q.kind == 1 && q.stage == o.stage
  | 6 => (earlier o.inA fun q => yieldsBatches q.kind && q.stage == o.stage) &&
      earlier o.inB fun q => q.kind == 5 && decide (q.stage < o.stage)
  | _ => o.inB == 0xFF && earlier o.inA fun q => yieldsBatches q.kind && q.stage == o.stage

/-- Table field of a BUILD or AGGREGATE in range (R109). -/
def tableFieldOk (a : Nat) : Bool :=
  decide (1 ≤ bitsOf a 17 0) && decide (bitsOf a 17 0 ≤ 196608) && decide (1 ≤ bitsOf a 21 18) && decide (bitsOf a 21 18 ≤ 8)

/-- NCOL of the SCAN an operator takes its batches from. -/
def scanCols (img : Image) (x : Nat) : Nat :=
  match img.ops[x]? with
  | some q => bitsOf q.arg3 18 14
  | none => 0

/-- Field values in the ranges of R108, R109 and R124. -/
def rangesOk (img : Image) (o : ImageOp) : Bool :=
  match o.kind with
  | 1 => decide (1 ≤ bitsOf o.arg3 18 14) && decide (bitsOf o.arg3 18 14 ≤ 24)
      && decide (bitsOf o.arg3 13 0 + bitsOf o.arg3 18 14 ≤ img.consts.length)
  | 2 => decide (bitsOf o.arg1 4 0 < scanCols img o.inA)
  | 3 =>
    let (ls, ok) := intervalLists img (bitsOf o.arg1 17 14) (bitsOf o.arg1 13 0)
    decide (bitsOf o.arg1 17 14 ≤ 8) && ok &&
      ls.all fun p => decide (1 ≤ p.2) && decide (p.2 ≤ 16) && decide (p.1 < scanCols img o.inA)
  | 5 => decide (bitsOf o.arg2 19 17 ≤ 4) && tableFieldOk o.arg4
  | 6 => decide (1 ≤ bitsOf o.arg3 7 0)
  | 7 =>
    let ops := bitsOf o.arg3 15 0
    decide (bitsOf o.arg3 28 16 ≤ 4096) && tableFieldOk o.arg4 && (List.range 4).all fun i =>
      !(opsCode ops i == 6 || opsCode ops i == 9 || opsCode ops i == 10) || (decide (i ≤ 2) && opsCode ops (i + 1) == 0)
  | 8 => decide (bitsOf o.arg2 19 17 ≤ 4)
  | 9 => decide (1 ≤ bitsOf o.arg1 24 12) && decide (bitsOf o.arg1 24 12 ≤ 4096) && decide (1 ≤ bitsOf o.arg2 19 14)
      && decide (bitsOf o.arg2 19 14 ≤ 32) && decide (bitsOf o.arg2 13 0 + bitsOf o.arg2 19 14 ≤ img.consts.length)
  | _ => true

/-- Scratchpad regions an operator names: offset and words (R108, R111); 0x1_FFFF names none, and a DECODE with RESIDUE_ONLY writes no
vector (R119). -/
def opRegions (img : Image) (o : ImageOp) : List (Nat × Nat) :=
  let key := [(bitsOf o.arg1 16 0, 4096), (bitsOf o.arg1 33 17, 4096)]
  match o.kind with
  | 1 => [(bitsOf o.arg3 35 19, 86)] ++ (if o.flags % 4 = 0 then [] else [(bitsOf o.arg4 16 0, 24576)])
  | 2 =>
    let col := ((img.ops[o.inA]?).map fun q => (img.consts.getD (bitsOf q.arg3 13 0 + bitsOf o.arg1 4 0) 0).toNat).getD 0
    (if o.flags % 2 = 1 then [] else [(bitsOf o.arg2 16 0, if bitsOf col 35 24 = 0 then 4096 else 8192)]) ++ [(bitsOf o.arg2 33 17, 86)]
  | 5 => key ++ [(bitsOf o.arg2 16 0, 4096 * bitsOf o.arg2 19 17), (bitsOf o.arg2 36 20, 86)]
  | 6 => key ++ [(bitsOf o.arg2 16 0, 20480), (bitsOf o.arg2 33 17, 86), (bitsOf o.arg3 24 8, 86)]
  | 7 =>
    let ops := bitsOf o.arg3 15 0
    let used := (List.range 4).filter fun i => opsCode ops i != 0
    let vectors := (used.map fun i => if opsCode ops i = 10 then i + 2 else i + 1).foldl max 0
    let masks := (used.map (· + 1)).foldl max 0
    key ++ [(bitsOf o.arg2 16 0, 4096 * vectors), (bitsOf o.arg2 33 17, 86 * masks), (bitsOf o.arg3 45 29, 7 * bitsOf o.arg3 28 16)]
  | 8 => key ++ [(bitsOf o.arg2 16 0, 4096 * bitsOf o.arg2 19 17)]
  | 9 => (bitsOf o.arg3 16 0, bitsOf o.arg3 33 17) ::
      (listWords img (bitsOf o.arg2 13 0) (bitsOf o.arg2 19 14)).flatMap fun w =>
        let ty := bitsOf w.toNat 3 0
        [(bitsOf w.toNat 26 10, if ty = 7 then 86 else if ty = 4 then 8192 else 4096)]
          ++ (if bitOf w.toNat 9 then [(bitsOf w.toNat 43 27, 86)] else [])
  | _ => []

def regionsOk (img : Image) (o : ImageOp) : Bool :=
  (opRegions img o).all fun p => p.1 == 0x1FFFF || p.2 == 0 || decide (p.1 + p.2 ≤ spWordsTotal)

/-- EMITs to the host result area. -/
def hostEmits (img : Image) : List ImageOp := img.ops.filter fun o => o.kind == 9 && bitsOf o.arg1 11 0 == 0

/-- A selector appears twice. -/
def hasRepeat : List Nat → Bool
  | [] => false
  | x :: r => r.contains x || hasRepeat r

def imageBadShape (bs : List Byte) (img : Image) : Bool :=
  headerBad (imageHeader bs) bs.length || hasRepeat (img.sets.map (·.1)) || img.stages.any (fun st => st.mask == 0)
    || (img.ops.zipIdx.any fun p => decide (img.stages.length ≤ p.1.stage) || !linksOk img p.2 p.1)
    || !img.ops.all (rangesOk img) || !img.ops.all (regionsOk img) || decide (1 < (hostEmits img).length)
    || img.ops.any fun o => o.kind == 1 && o.flags % 4 == 2 && decide (1 < (img.stageTiles o.stage).length)

/-! ### The last rows of R110 -/

/-- FLAGS.WRITES must be 1 exactly in the cases of R105. -/
def mustWrite (s : State) (inst : Nat) (img : Image) : Bool :=
  img.sets.any (fun p => p.2 && descPersist (s.desc inst p.1)) ||
    img.ops.any fun o => (o.kind == 5 || o.kind == 7) && bitsOf o.arg4 47 34 != 0

/-- Rounds up to 64. -/
def up64 (n : Nat) : Nat := ceilDiv n 64 * 64

/-- The largest Carafe of an EMIT (R128, R130, R131). -/
def largestCarafe (img : Image) (o : ImageOp) : Nat :=
  let rows := bitsOf o.arg1 24 12
  up64 (64 + 8 * bitsOf o.arg2 19 14) + ((listWords img (bitsOf o.arg2 13 0) (bitsOf o.arg2 19 14)).map fun w =>
    let ty := bitsOf w.toNat 3 0
    (if bitOf w.toNat 9 then up64 (ceilDiv rows 8) else 0)
      + up64 (if ty = 7 then ceilDiv rows 8 else if ty = 4 then 12 * rows else 6 * rows)).sum

/-- A span an operator cuts into rank parts has a segment for every tile. -/
def partsFit (s : State) (inst : Nat) (img : Image) (o : ImageOp) : Bool :=
  let sel := if o.kind = 8 then bitsOf o.arg2 31 20 else if o.kind = 9 then bitsOf o.arg1 11 0 else 0
  let d := s.desc inst sel
  let segs := if descKind d = 0 then 0 else descSegs d
  !(o.kind == 8 || (o.kind == 9 && sel != 0)) || decide ((img.stageTiles o.stage).length ≤ segs)

/-- The checks of R110 in the order of its table (R506): 0, or the status that refuses the image. -/
def imageStatus (s : State) (inst : Nat) (entry : BitVec 512) (bs : List Byte) : Nat :=
  let img := parseImage bs
  let unusedResult := (hostEmits img).isEmpty &&
    (entryField entry 24 8 != 0 || entryField entry 32 4 != 0 || entryField entry 36 4 != 0)
  if imageReserved bs img || unusedResult then Status.reservedField
  else if 256 < (imageHeader bs).maxGap then Status.quotaGap
  else if img.writes != mustWrite s inst img || img.writes != entry.getLsbD 8 then Status.imageWriteFlag
  else if imageBadShape bs img then Status.imageBad
  else if !img.ops.all (partsFit s inst img) then Status.spanFull
  else if (hostEmits img).any fun o =>
      decide (entryField entry 36 4 < (img.stageTiles o.stage).length) || decide (entryField entry 32 4 < largestCarafe img o) then
    Status.carafeSpace
  else 0

end Sys2Proof.Machine
end

