-- ==== Sys2Proof/Machine/HostIf.lean ====
section
/-! DEFINITION. The host interface: rings and doorbells (R271 to R277), entries and images (R280 to R282, R298), interrupts (R289
to R291), functions and instances (R295, R301 to R306). -/

namespace Sys2Proof.Machine

/-! ### Ring contexts -/

def zeroWords : RingWords := { base := 0, idx := 0, hi := 0, config := 0 }

def zeroSq : SqRing :=
  { written := zeroWords, inEffect := zeroWords, pending := 0, state := 0, error := 0, listed := 0, producer := 0,
    consumer := 0, readPos := 0, reading := 0, enabling := false, entries := [], cur := 0, batchNo := 0, batchLen := 0 }

def zeroCq : CqRing :=
  { written := zeroWords, inEffect := zeroWords, pending := 0, unpublished := [], state := 0, error := 0, count := 0, producer := 0,
    consumer := 0, reading := 0, enabling := false, reserved := 0, irqCount := 0, irqHeld := false, timer := false, timedOut := false, kept := [] }

def State.sq (s : State) (r : Nat) : SqRing := lookupD s.host.sq r zeroSq
def State.cq (s : State) (r : Nat) : CqRing := lookupD s.host.cq r zeroCq
def State.setSq (s : State) (r : Nat) (x : SqRing) : State := { s with host := { s.host with sq := insertK s.host.sq r x } }
def State.setCq (s : State) (r : Nat) (x : CqRing) : State := { s with host := { s.host with cq := insertK s.host.cq r x } }

/-- Fields of SQ_CONFIG and CQ_CONFIG (R273, R274). -/
def RingWords.enable (w : RingWords) : Bool := w.config.getLsbD 0
def RingWords.log2 (w : RingWords) : Nat := bitsOf w.config.toNat 5 1
def RingWords.inst (w : RingWords) : Nat := bitsOf w.config.toNat 17 12
def RingWords.cq (w : RingWords) : Nat := bitsOf w.config.toNat 29 18
def RingWords.weight (w : RingWords) : Nat := bitsOf w.config.toNat 37 30
def RingWords.burst (w : RingWords) : Nat := bitsOf w.config.toNat 44 38
def RingWords.vector (w : RingWords) : Nat := bitsOf w.config.toNat 23 18
def RingWords.modTimer (w : RingWords) : Nat := bitsOf w.config.toNat 39 24
def RingWords.modCount (w : RingWords) : Nat := bitsOf w.config.toNat 47 40
def RingWords.baseAddr (w : RingWords) : Nat := w.base.toNat + bitsOf w.hi.toNat 15 0 * 2 ^ 48
def RingWords.idxAddr (w : RingWords) : Nat := w.idx.toNat + bitsOf w.hi.toNat 31 16 * 2 ^ 48

/-- (PRODUCER − CONSUMER) mod 2^32 (R272). -/
def ringDiff (p c : BitVec 32) : Nat := (p - c).toNat

/-- A register takes a write (R9): 8 bytes, its low half or its high half. -/
def regWrite (old : Word) (acc : RegAccess) (v : BitVec 64) : Word :=
  match acc with
  | .qword => v.setWidth 48
  | .low => (old.extractLsb' 32 16) ++ (v.setWidth 32)
  | .high => (v.setWidth 16) ++ (old.extractLsb' 0 32)
  | .other => old

/-- Writable bits of a context word (R273, R274). -/
def ringMask (cq : Bool) (word : Nat) : Word :=
  match word with
  | 0 => 0xFFFFFFFFFFC0
  | 1 => 0xFFFFFFFFFFC0
  | 2 => 0x0000FFFFFFFF
  | _ => if cq then 0xFFFFFFFFF03F else 0x1FFFFFFFF03F

def RingWords.put (w : RingWords) (cq : Bool) (word : Nat) (acc : RegAccess) (v : BitVec 64) : RingWords :=
  let new (old : Word) : Word := regWrite old acc v &&& ringMask cq word
  match word with
  | 0 => { w with base := new w.base }
  | 1 => { w with idx := new w.idx }
  | 2 => { w with hi := new w.hi }
  | 3 => { w with config := new w.config }
  | _ => w

/-- RING_CONTEXT_WRITE (R273, R274): the value waits for step 5 of a tick. -/
def execRingContextWrite (cq : Bool) (r : Fin 4096) (word : Fin 8) (acc : RegAccess) (v : BitVec 64) (s : State) :
    Host.Outcome State Fault Refusal :=
  .next (if acc = .other ∨ 4 ≤ word.val then s
    else if cq then
      let x := s.cq r.val
      s.setCq r.val { x with written := x.written.put true word.val acc v, pending := x.pending ||| (1 <<< word.val) }
    else
      let x := s.sq r.val
      s.setSq r.val { x with written := x.written.put false word.val acc v, pending := x.pending ||| (1 <<< word.val) })

/-! ### Messages (R288 to R291) -/

/-- PME for a function in D3hot (R291). With the link in L2/L3 Ready no message can go: WAKE_N calls for the link. -/
def State.sendPme (s : State) (inst : Nat) : State :=
  if h : inst < 64 then
    let f := s.host.fns[inst]
    if f.d3hot && f.pmeEn && !f.pmeStatus && s.od 0x2012 (inst + 1) == 1 then
      let s1 := { s with host := { s.host with fns := s.host.fns.set inst { f with pmeStatus := true } } }
      if s.host.link = .l2l3Ready then s1 else s1.sendHost inst (.pme inst)
    else s
  else s

/-- Completions that are not yet visible to the host: kept, or past OUT_FRAME in a chain. -/
def CqRing.unseen (x : CqRing) : Nat := (x.unpublished.filter fun p => p.2).length + (x.kept.filter fun c => c.counts).length

/-- Completions counted toward the next interrupt that the host can see: a message follows the PRODUCER that publishes what it
signals (R267). -/
def CqRing.counted (x : CqRing) : Nat := x.irqCount - x.unseen

/-- PRODUCER as the index block shows it: in a chain it covers only what OUT_FRAME reaches (R392). -/
def CqRing.shown (x : CqRing) : BitVec 32 := x.producer - BitVec.ofNat 32 x.unpublished.length

/-- The ring's interrupt is sent: what it counted stops counting. -/
def CqRing.signalled (x : CqRing) : CqRing :=
  let rest := x.irqCount - x.counted
  { x with irqCount := rest, irqHeld := false, timedOut := false, timer := rest != 0 && x.inEffect.modTimer != 0 }

/-- The interrupts of completion rings that fall due in one step (R289, R290): one that must wait is held; of the others each vector
has one message. -/
def State.irqsDue (s : State) (rs : List Nat) : State :=
  let one (p : State × List (Nat × Nat)) (r : Nat) : State × List (Nat × Nat) :=
    let (s, l) := p
    let x := s.cq r
    let inst := x.inEffect.inst
    if s.irqBlocked inst then
      if x.irqHeld then p
      else
        let s1 := s.setCq r { x with irqHeld := true, timer := false }
        (({ s1 with host := { s1.host with irqHeldCount := s1.host.irqHeldCount + 1 } }).sendPme inst, l)
    else if x.counted = 0 ∧ x.irqCount ≠ 0 then (s.setCq r { x with timedOut := true, timer := false }, l)
    else (s.setCq r x.signalled, if l.contains (inst, x.inEffect.vector) then l else l ++ [(inst, x.inEffect.vector)])
  let (s1, l) := rs.foldl one (s, [])
  l.foldl (fun (s : State) v => s.signalVector v.1 v.2) s1

/-- A completion counts toward the interrupt of its ring, and starts its timer (R289). -/
def State.countIrq (s : State) (r : Nat) (counts : Bool) : State :=
  let x := s.cq r
  if !counts then s
  else s.setCq r { x with irqCount := min 255 (x.irqCount + 1), timer := x.timer || (x.inEffect.modTimer != 0 && !x.irqHeld && !x.timedOut) }

/-- The interrupt is due by its count, at once with neither trigger set, or because its timer ran out earlier (R289): for a function that
cannot take it, of all that is counted, else of what the host can see. -/
def State.irqDue (s : State) (x : CqRing) : Bool :=
  let w := x.inEffect
  let n := if s.irqBlocked w.inst then x.irqCount else x.counted
  n != 0 && !x.irqHeld
    && (x.timedOut || (w.modCount != 0 && decide (w.modCount ≤ n)) || (w.modCount == 0 && w.modTimer == 0))

/-- Every interrupt that is due now. -/
def State.dueNow (s : State) : State := s.irqsDue ((s.host.cq.filter fun p => s.irqDue p.2).map fun p => p.1)

/-- MOD_TIMER_EXPIRY (R289). -/
def execModTimerExpiry (r : Fin 4096) (s : State) : Host.Outcome State Fault Refusal :=
  .next (if (s.cq r.val).timer then s.irqsDue [r.val] else s)

/-- A completion entry is written at PRODUCER (R271, R286), and gives its places back (R278). -/
def State.writeCompletion (s : State) (r : Nat) (c : Completion) : State :=
  let x := s.cq r
  let addr := x.inEffect.baseAddr + 32 * (x.producer.toNat % 2 ^ x.inEffect.log2)
  let waits := s.chained && (decide (s.mirror.outFrame < c.frame) || !x.unpublished.isEmpty)
  (s.setCq r { x with producer := x.producer + 1, count := (x.count + 1) % 2 ^ 48, reserved := x.reserved - c.places,
                      unpublished := if waits then x.unpublished ++ [(c.frame, c.counts)] else x.unpublished }).frontWrite c.inst
    addr (leBytes 32 c.bytes.toNat)

/-- PRODUCER goes to the index block with one 4-byte write (R271). -/
def State.writeProducer (s : State) (r : Nat) : State :=
  let x := s.cq r
  s.frontWrite x.inEffect.inst x.inEffect.idxAddr (leBytes 4 x.shown.toNat)

/-- Completions up to OUT_FRAME are published (R392); the interrupts that waited for it follow (R267). -/
def State.publish (s : State) : State :=
  (s.host.cq.foldl (fun (s : State) p =>
    let x := s.cq p.1
    let rest := if s.chained then x.unpublished.dropWhile fun f => decide (f.1 ≤ s.mirror.outFrame) else []
    if rest.length = x.unpublished.length then s else (s.setCq p.1 { x with unpublished := rest }).writeProducer p.1) s).dueNow

/-- The completion ring has a free place for one more entry (R272, R392). -/
def State.hasPlace (s : State) (r : Nat) : Bool :=
  let x := s.cq r
  decide (ringDiff x.producer x.consumer < 2 ^ x.inEffect.log2)

/-- The first kept completion of a ring is written if the ring has a place; a ring in STATE error discards it (R272). -/
def State.writeFirstKept (s : State) (r : Nat) : State :=
  let x := s.cq r
  match x.kept with
  | [] => s
  | c :: rest =>
    if x.state = 2 then s.setCq r { x with kept := rest, reserved := x.reserved - c.places }
    else if s.hasPlace r then (s.setCq r { x with kept := rest }).writeCompletion r c
    else s

/-- The kept completions of a ring are written as far as it has places, then PRODUCER (R290, R392). -/
def State.writeKept (s : State) (r : Nat) : State :=
  let x := s.cq r
  let s1 := x.kept.foldl (fun (s : State) _ => s.writeFirstKept r) s
  if (s1.cq r).shown = x.shown then s1 else s1.writeProducer r

/-- Completion rings of an instance, by number. -/
def State.cqsOf (s : State) (inst : Nat) : List Nat :=
  (s.host.cq.filter fun p => p.2.inEffect.inst == inst).map (·.1)

def State.sqsOf (s : State) (inst : Nat) : List Nat :=
  (s.host.sq.filter fun p => p.2.inEffect.inst == inst).map (·.1)

/-- A function takes new register values. -/
def State.setFn (s : State) (fn : Fin 64) (f : Function) : State := { s with host := { s.host with fns := s.host.fns.set fn f } }

/-- Messages in a function's PBA whose vector can send, now that the function can (R289). -/
def State.sendPending (s : State) (fn : Fin 64) : State :=
  let f := s.host.fns[fn]
  let ready := if s.irqBlocked fn.val then [] else (List.range 64).filter fun v => f.pba.getLsbD v && !f.masked v
  if ready.isEmpty then s
  else
    let g := { f with pba := ready.foldl (fun (p : BitVec 64) v => p &&& ~~~((1 : BitVec 64) <<< v)) f.pba }
    ready.foldl (fun (s : State) v => s.signalVector fn.val v) (s.setFn fn g)

/-- Held messages that can now be sent, once each (R290), those of vectors unmasked meanwhile among them. -/
def State.sendHeldMsgs (s : State) : State :=
  let ready := s.host.heldMsgs.filter fun p => !s.irqBlocked p.1
  let s1 := { s with host := { s.host with heldMsgs := s.host.heldMsgs.filter fun p => s.irqBlocked p.1 } }
  let s2 := ready.foldl (fun (s : State) p => s.signalVector p.1 p.2) s1
  let s3 := s2.irqsDue ((s2.host.cq.filter fun p => p.2.irqHeld && !s2.irqBlocked p.2.inEffect.inst).map fun p => p.1)
  (List.finRange 64).foldl (fun (s : State) i => s.sendPending i) s3

/-- A held write belongs to an instance. -/
def State.heldOf (s : State) (inst : Nat) (w : HeldWrite ⊕ Nat) : Bool := match w with
  | .inl h => h.inst == inst
  | .inr r => (s.cq r).inEffect.inst == inst

/-- The host writes of an instance that waited leave in their original order, each kept completion at its place; PRODUCER follows (R266,
R290, R324). -/
def State.releaseHeld (s : State) (inst : Nat) : State :=
  let mine := s.host.heldWrites.filter fun w => s.heldOf inst w
  let s0 := { s with host := { s.host with heldWrites := s.host.heldWrites.filter fun w => !s.heldOf inst w } }
  let s1 := mine.foldl (fun (s : State) w => match w with
    | .inl h => s.releaseWrite h false
    | .inr r => s.writeFirstKept r) (s0.endHold inst)
  (s.cqsOf inst).foldl (fun (t : State) r => if (t.cq r).shown = (s.cq r).shown then t else t.writeProducer r) s1

/-- What an instance has waiting is discarded, held writes counting as having left (R306, R325). -/
def State.discardHeld (s : State) (inst : Nat) : State :=
  let mine := s.host.heldWrites.filter fun w => s.heldOf inst w
  let s0 := { s with host := { s.host with heldWrites := s.host.heldWrites.filter fun w => !s.heldOf inst w } }
  mine.foldl (fun (s : State) w => match w with
    | .inl h => s.releaseWrite h true
    | .inr _ => s) (s0.endHold inst)

/-- Host access of an instance resumes: held writes and kept completions, then held messages (R266, R290, R324). -/
def State.resumeHost (s : State) (inst : Nat) : State :=
  if s.hostHeld inst then s else (s.releaseHeld inst).sendHeldMsgs

/-- FUNCTION_POWER_STATE_CHANGE (R266, R290). -/
def execFunctionPowerStateChange (fn : Fin 64) (d3hot : Bool) (s : State) : Host.Outcome State Fault Refusal :=
  .next (({ s with host := { s.host with fns := s.host.fns.set fn { s.host.fns[fn] with d3hot := d3hot } } }).resumeHost fn.val)

/-- BUS_MASTER_ENABLE_CHANGE (R266, R290). -/
def execBusMasterEnableChange (fn : Fin 64) (enable : Bool) (s : State) : Host.Outcome State Fault Refusal :=
  .next (({ s with host := { s.host with fns := s.host.fns.set fn { s.host.fns[fn] with busMaster := enable } } }).resumeHost fn.val)

/-- LINK_STATE_CHANGE (R265, R290): messages held for the link go out when it is in L0. -/
def execLinkStateChange (link : LinkState) (s : State) : Host.Outcome State Fault Refusal :=
  let h := s.host
  .next (({ s with host := { h with link := link, linkSpeed := if link = LinkState.down then 0 else h.linkSpeed
                                    linkWidth := if link = LinkState.down then 0 else h.linkWidth } }).sendHeldMsgs)

/-- PME_RESEND (R291). -/
def execPmeResend (fn : Fin 64) (s : State) : Host.Outcome State Fault Refusal :=
  .next (if s.host.fns[fn].pmeStatus then s.sendHost fn.val (.pme fn.val) else s)

/-- PME_STATUS_CLEAR (R291). -/
def execPmeStatusClear (fn : Fin 64) (s : State) : Host.Outcome State Fault Refusal :=
  .next { s with host := { s.host with fns := s.host.fns.set fn { s.host.fns[fn] with pmeStatus := false } } }

/-- MSIX_UNMASK (R289): the pending messages of the vectors now open are sent. -/
def execMsixUnmask (fn : Fin 64) (vec : Option (Fin 64)) (s : State) : Host.Outcome State Fault Refusal :=
  let f := s.host.fns[fn]
  .next ((s.setFn fn (match vec with
    | some v => { f with vectorMask := f.vectorMask &&& ~~~((1 : BitVec 64) <<< v.val) }
    | none => { f with functionMask := false })).sendPending fn)

/-! ### Doorbells and index blocks (R272, R276, R277) -/

/-- Completion places held by read-ahead are given back, and the read-ahead is discarded (R275). -/
def State.dropReadAhead (s : State) (r : Nat) : State :=
  let x := s.sq r
  let c := s.cq x.inEffect.cq
  let s1 := s.setSq r { x with entries := [], readPos := x.consumer }
  if x.entries.isEmpty then s1 else s1.setCq x.inEffect.cq { c with reserved := c.reserved - x.entries.length }

/-- A submission ring takes STATE error (R272). -/
def State.sqError (s : State) (r code : Nat) : State :=
  let s1 := s.dropReadAhead r
  let s2 := s1.setSq r { s1.sq r with state := 2, error := code, reading := 0, enabling := false }
  ({ s2 with host := { s2.host with ringErrors := s2.host.ringErrors + 1 } }).raise 0x0020 1 r

/-- A completion ring takes STATE error: what is kept for it is discarded (R272). -/
def State.cqError (s : State) (r code : Nat) : State :=
  let s1 := s.setCq r { s.cq r with state := 2, error := code, reading := 0, enabling := false }
  ({ s1 with host := { s1.host with ringErrors := s1.host.ringErrors + 1 } }).raise 0x0020 1 r

def State.ignoreDoorbell (s : State) : State :=
  { s with host := { s.host with doorbellsIgnored := s.host.doorbellsIgnored + 1 } }

/-- SQ_DOORBELL (R270, R276). -/
def execSqDoorbell (fn : Fin 64) (r : Fin 4096) (size : Nat) (s : State) : Host.Outcome State Fault Refusal :=
  let x := s.sq r.val
  .next (if (size ≠ 4 ∧ size ≠ 8) ∨ s.resetting fn.val then s
    else if !x.inEffect.enable || x.inEffect.inst != fn.val then s.ignoreDoorbell
    else if x.state ≠ 1 then s
    else s.setSq r.val { x with reading := x.reading + 1 })

/-- CQ_DOORBELL (R270, R276). -/
def execCqDoorbell (fn : Fin 64) (r : Fin 4096) (size : Nat) (s : State) : Host.Outcome State Fault Refusal :=
  let x := s.cq r.val
  .next (if (size ≠ 4 ∧ size ≠ 8) ∨ s.resetting fn.val then s
    else if !x.inEffect.enable || x.inEffect.inst != fn.val then s.ignoreDoorbell
    else if x.state ≠ 1 then s
    else s.setCq r.val { x with reading := x.reading + 1 })

/-! ### Entries (R280 to R282, R298) -/

/-- Row 2 of R282. -/
def entryReserved (e : BitVec 512) : Bool :=
  let kind := entryField e 0 1
  let pipe := kind == 1
  kind == 0 || decide (6 ≤ kind) || !fits (entryField e 1 1) 5 || entryField e 2 2 != 0 || entryField e 14 2 != 0
    || entryField e 40 24 != 0 || (kind == 5 && entryField e 16 8 != 0)
    || (!pipe && (entryField e 4 4 != 0 || entryField e 24 16 != 0))
    || entryField e 16 8 % 64 != 0 || entryField e 24 8 % 64 != 0 || entryField e 32 4 % 64 != 0

/-- Reserved fields and codes of a MANAGE descriptor (R297). -/
def manageReserved (d : BitVec 512) : Bool :=
  let op := entryField d 0 1
  (op != 1 && op != 2) || !fits (entryField d 2 2) 12 || entryField d 4 4 != 0 || entryField d 32 32 != 0
    || (op == 2 && (entryField d 2 2 != 0 || entryField d 8 24 != 0))

/-- The checks of a MANAGE descriptor (R298). -/
def manageStatus (d : BitVec 512) : Nat :=
  if manageReserved d then Status.reservedField
  else if (entryField d 0 1 = 1 ∧ entryField d 2 2 = 0) ∨ 63 < entryField d 1 1 ∨ (entryField d 0 1 = 2 ∧ entryField d 1 1 = 0) then
    Status.manageArgument
  else 0

/-- SPAN_OUT of an encode job descriptor (R94). -/
def spanOutJob (d : BitVec 512) : Bool := entryField d 0 1 == 1 && bitOf (entryField d 3 1) 1

/-- The checks of R282 and R298 before an image is read: 0, or the status the entry is refused with. -/
def entryStatus (inst : Nat) (entry desc : Option (BitVec 512)) : Nat :=
  match entry with
  | none => Status.entryFetch
  | some e =>
    let kind := entryField e 0 1
    let write := e.getLsbD 8
    if entryReserved e then Status.reservedField
    else if (kind = 3 ∨ kind = 4) ∧ inst ≠ 0 then Status.notPermitted
    else if ((kind = 3 ∨ kind = 4) ∧ !write) ∨ (kind = 5 ∧ write) then Status.writeFlag
    else if kind = 4 ∧ entryField e 16 8 = 0 then Status.manageArgument
    else if kind = 2 ∨ kind = 3 ∨ kind = 4 then
      match desc with
      | none => Status.entryFetch
      | some d =>
        if kind = 2 ∧ write ≠ spanOutJob d then Status.writeFlag
        else if kind = 4 then manageStatus d else 0
    else if kind = 1 ∧ (entryField e 4 4 < 64 ∨ 4194304 < entryField e 4 4) then Status.imageBad
    else 0

/-- The image store: bytes of its span, or `none` while no pipeline entry can be read (R279). -/
def State.imageStore (s : State) : Option Nat :=
  let sel := s.od 0x2010 1
  let d := s.desc 0 sel
  if sel = 0 ∨ descKind d ≠ 4 ∨ !descRd d ∨ !descWr d then none else some (descLimit d + 1)

/-- Bytes of the image store in use: images read or being read, and images of entries whose completions have not been released, those
that wait for commit or for their batch among them. -/
def State.imageBytes (s : State) : Nat :=
  ((s.host.sq.flatMap fun p => p.2.entries).map fun e =>
    if e.waitsImage || e.image.isSome then entryField e.entry 4 4 else 0).sum
  + (s.work.map fun e => if e.image.isSome then entryField e.entry 4 4 else 0).sum
  + (s.frame.next.records.map fun r => if r.image.isSome then entryField r.entry 4 4 else 0).sum
  + (s.held.map fun h => if h.entry.image.isSome then entryField h.entry.entry 4 4 else 0).sum
  + (s.host.batches.map fun b => (b.members.map fun m => m.imageLen).sum).sum

/-- A free completion place (R278). -/
def State.placeFree (s : State) (r : Nat) : Bool :=
  let c := s.cq (s.sq r).inEffect.cq
  c.state == 1 && !c.enabling && decide (ringDiff c.producer c.consumer + c.reserved < 2 ^ c.inEffect.log2)

/-- An instance-0 span of KIND 0x4 with RD and WR and enough slots (R351, R395). -/
def State.workSpan (s : State) (sel slots : Nat) : Bool :=
  let d := s.desc 0 sel
  sel != 0 && descKind d == 4 && descRd d && descWr d && decide (slots ≤ descSegs d)

/-- Entries with WRITE set can be read: the staging span is valid and no SSD is being initialised after a wake (R351, R441). -/
def State.canReadWrites (s : State) : Bool := s.workSpan (s.od 0x4004 1) 64 && !s.moth.wakeReinit

/-- The ring can read its next entry (R277, R278). -/
def State.canRead (s : State) (r : Nat) : Bool :=
  let x := s.sq r
  s.listsOwn && x.state == 1 && !x.enabling && x.readPos != x.producer && !s.hostHeld x.inEffect.inst && !s.hostStopped x.inEffect.inst
    && decide (x.entries.length < 2 * x.inEffect.burst)
    && decide ((s.host.sq.map fun p => p.2.entries.length).sum < 8192) && s.placeFree r

/-- The ring could read its next entry but for a place in its completion ring (R278). -/
def State.wantsPlace (s : State) (r : Nat) : Bool :=
  let x := s.sq r
  let c := s.cq x.inEffect.cq
  s.listsOwn && x.state == 1 && !x.enabling && x.readPos != x.producer && !s.hostHeld x.inEffect.inst && !s.hostStopped x.inEffect.inst
    && decide (x.entries.length < 2 * x.inEffect.burst) && c.state == 1 && !c.enabling && !s.placeFree r

/-- With no place free, the front end reads the completion ring's index block (R278). -/
def State.askPlace (s : State) (r : Nat) : State :=
  let q := (s.sq r).inEffect.cq
  if s.wantsPlace r then s.setCq q { s.cq q with reading := (s.cq q).reading + 1 } else s

/-- It does so again at every tick until a place frees (R278). -/
def State.askPlaces (s : State) : State := s.host.sq.foldl (fun (s : State) p => s.askPlace p.1) s

/-- An entry arrives (R277): it takes a place in its completion ring; an entry that names an image counts as read once the
image has arrived. -/
def State.entryArrives (s : State) (r : Nat) (entry desc : Option (BitVec 512)) : State :=
  let x := s.sq r
  let e := entry.getD 0
  let refuse := entryStatus x.inEffect.inst entry desc
  let pipe := refuse = 0 ∧ entryField e 0 1 = 1
  let fitsStore := match s.imageStore with
    | some n => decide (s.imageBytes + entryField e 4 4 ≤ n)
    | none => false
  if !s.canRead r || (decide pipe && !fitsStore) || (entryField e 0 1 == 1 && s.imageStore.isNone) || (e.getLsbD 8 && !s.canReadWrites) then s
  else
    let c := s.cq x.inEffect.cq
    let y : ReadEntry :=
      { index := x.readPos.toNat, entry := e, desc := desc.getD 0, image := none, refuse := refuse, waitsImage := decide pipe }
    (((s.frontRead x.inEffect.inst (64 + if desc.isSome then 64 else 0) (refuse != Status.entryFetch)).setSq r { x with entries := x.entries ++ [y], readPos := x.readPos + 1 }).setCq x.inEffect.cq { c with reserved := c.reserved + 1 }).askPlace r

/-- INDEX_BLOCK_READ_COMPLETE (R272, R275, R277, R278): PRODUCER and CONSUMER of a ring, or a failed read. -/
def execIndexBlockReadComplete (cq : Bool) (r : Fin 4096) (res : Option (BitVec 32 × BitVec 32)) (s : State) :
    Host.Outcome State Fault Refusal :=
  .next (if cq then
      let x := s.cq r.val
      if x.reading = 0 ∨ x.state ≠ 1 ∨ s.hostHeld x.inEffect.inst = true ∨ s.hostStopped x.inEffect.inst = true then s
      else match res with
        | none => (s.frontRead x.inEffect.inst 8 false).cqError r.val 2
        | some (_, c) =>
          let s := s.frontRead x.inEffect.inst 8 true
          let y := { x with reading := 0, enabling := false, consumer := c, producer := if x.enabling then c else x.producer }
          if 2 ^ x.inEffect.log2 < ringDiff y.producer c then s.cqError r.val 1 else ((s.setCq r.val y).writeKept r.val).dueNow
    else
      let x := s.sq r.val
      if x.reading = 0 ∨ x.state ≠ 1 ∨ s.hostHeld x.inEffect.inst = true ∨ s.hostStopped x.inEffect.inst = true then s
      else match res with
        | none => (s.frontRead x.inEffect.inst 8 false).sqError r.val 2
        | some (p, c) =>
          let s := s.frontRead x.inEffect.inst 8 true
          let y := { x with reading := 0, enabling := false, producer := p,
                            consumer := if x.enabling then c else x.consumer, readPos := if x.enabling then c else x.readPos }
          if 2 ^ x.inEffect.log2 < ringDiff p y.consumer then s.sqError r.val 1
          else (s.setSq r.val y).askPlace r.val)

/-- ENTRY_READ_COMPLETE (R277, R282). -/
def execEntryReadComplete (r : Fin 4096) (entry desc : Option (BitVec 512)) (s : State) : Host.Outcome State Fault Refusal :=
  .next (s.entryArrives r.val entry desc)

/-- PIPELINE_ENTRY (R281): the arrival of an entry of KIND 0x01. -/
def execPipelineEntry (r : Fin 4096) (entry : BitVec 512) (s : State) : Host.Outcome State Fault Refusal :=
  .next (if entryField entry 0 1 = 1 then s.entryArrives r.val (some entry) none else s)

/-- NOP_ENTRY (R281): the arrival of an entry of KIND 0x05. -/
def execNopEntry (r : Fin 4096) (entry : BitVec 512) (s : State) : Host.Outcome State Fault Refusal :=
  .next (if entryField entry 0 1 = 5 then s.entryArrives r.val (some entry) none else s)

/-- The status of an image that has arrived for an entry (last row of R282, then R110). -/
def arrivedStatus (s : State) (inst : Nat) (entry : BitVec 512) (image : Option (List Byte)) : Nat :=
  match image with
  | none => Status.imageFetch
  | some bs =>
    if bs.length ≠ entryField entry 4 4 ∨ (imageHeader bs).len ≠ entryField entry 4 4 then Status.imageBad
    else imageStatus s inst entry bs

/-- The first entry that waits for its image takes it. -/
def giveImage (s : State) (inst : Nat) (image : Option (List Byte)) : List ReadEntry → List ReadEntry
  | [] => []
  | e :: r =>
    if e.waitsImage then
      let st := arrivedStatus s inst e.entry image
      { e with waitsImage := false, refuse := st, image := if st = 0 then image.map parseImage else none } :: r
    else e :: giveImage s inst image r

/-- IMAGE_READ_COMPLETE (R103, R110). -/
def execImageReadComplete (r : Fin 4096) (image : Option (List Byte)) (s : State) : Host.Outcome State Fault Refusal :=
  let x := s.sq r.val
  .next (if x.state ≠ 1 ∨ s.hostHeld x.inEffect.inst = true ∨ s.hostStopped x.inEffect.inst = true then s
    else if x.entries.all fun e => !e.waitsImage then s
    else (s.frontRead x.inEffect.inst (image.getD []).length image.isSome).setSq r.val
      { x with entries := giveImage s x.inEffect.inst image x.entries })

/-! ### Mailboxes (R301 to R303) -/

def emptyMailbox : Mailbox :=
  { outMsg := 0, inMsg := 0, outFull := false, inFull := false, outReject := false, inIrqEn := false, inVector := 0 }

def State.setMailbox (s : State) (i : Fin 64) (m : Mailbox) : State :=
  { s with host := { s.host with insts := s.host.insts.set i { s.host.insts[i] with mailbox := m } } }

/-- OUT_DOORBELL_SEND: only an 8-byte write acts (R9). -/
def execOutDoorbellSend (fn : Fin 64) (acc : RegAccess) (v : BitVec 64) (s : State) : Host.Outcome State Fault Refusal :=
  let m := s.host.insts[fn].mailbox
  .next (if fn.val = 0 ∨ acc ≠ .qword ∨ !v.getLsbD 0 then s
    else if m.outFull then s.setMailbox fn { m with outReject := true }
    else (s.setMailbox fn { m with outFull := true }).raiseVector 0 (s.od 0x1240 1))

/-- IN_ACK. -/
def execInAck (fn : Fin 64) (acc : RegAccess) (v : BitVec 64) (s : State) : Host.Outcome State Fault Refusal :=
  .next (if fn.val = 0 ∨ acc ≠ .qword ∨ !v.getLsbD 0 then s
    else s.setMailbox fn { s.host.insts[fn].mailbox with inFull := false })

/-- TO_TENANT: refused while IN_FULL is 1. -/
def State.toTenant (s : State) (i : Fin 64) (msg : BitVec 512) : State :=
  let m := s.host.insts[i].mailbox
  if i.val = 0 ∨ m.inFull then s
  else
    let s1 := s.setMailbox i { m with inMsg := msg, inFull := true }
    if m.inIrqEn && decide (m.inVector.toNat < 32) then s1.raiseVector i.val m.inVector.toNat else s1

def execToTenant (i : Fin 64) (msg : BitVec 512) (s : State) : Host.Outcome State Fault Refusal := .next (s.toTenant i msg)

/-- FROM_ACK: 1 clears OUT_FULL. -/
def State.fromAck (s : State) (i : Fin 64) (ack : Bool) : State :=
  if i.val = 0 ∨ !ack then s else s.setMailbox i { s.host.insts[i].mailbox with outFull := false }

def execFromAck (i : Fin 64) (ack : Bool) (s : State) : Host.Outcome State Fault Refusal := .next (s.fromAck i ack)

/-! ### Resets of instances (R295, R305, R306, R311) -/

/-- The configuration of a function after a function-level reset, as PCI Express lays down: every vector masked, nothing pending (R306).
Its power state, Bus Master Enable and PME bits change by their own commands (DESIGN CHOICE, assumption 47). -/
def Function.reset (f : Function) : Function :=
  { resetFunction with d3hot := f.d3hot, busMaster := f.busMaster, pmeEn := f.pmeEn, pmeStatus := f.pmeStatus, maxPayload := f.maxPayload }

/-- The rings of an instance lose what was read ahead, and what is kept for them (R306). -/
def State.clearRings (s : State) (inst : Nat) : State :=
  let s1 := (s.sqsOf inst).foldl (fun (s : State) r => s.dropReadAhead r) s
  (s1.cqsOf inst).foldl (fun (s : State) r =>
    let x := s.cq r
    s.setCq r { x with kept := [], reserved := x.reserved - (x.kept.map fun c => c.places).sum, irqHeld := false, irqCount := 0
                       timer := false, timedOut := false }) s1

/-- The reset asks for its record, unless it joins one in progress; on a follower the sequencer is asked (R306, R311, R394). -/
def State.askReset (s : State) (i : Fin 64) : State :=
  let x := s.host.insts[i]
  let y : Instance := { x with hostReset := true, mailbox := emptyMailbox, resetState := if x.resetState = 0 then 1 else x.resetState }
  let s1 := { s with host := { s.host with insts := s.host.insts.set i y } }
  if s.mirror.state = 3 ∧ x.resetState = 0 then { s1 with mirror := { s1.mirror with resetReq := s1.mirror.resetReq ||| (1 <<< i.val) } }
  else s1

/-- The host-facing steps of an accepted reset (R306). -/
def State.acceptReset (s : State) (i : Fin 64) : State :=
  let s1 := (s.askReset i).setFn i (s.host.fns[i].reset)
  let s2 := { s1 with
    host := { s1.host with heldMsgs := s1.host.heldMsgs.filter fun p => p.1 != i.val }
    digest := { s1.digest with ports := s1.digest.ports.filter fun p => p.1 != i.val } }
  (s2.discardHeld i.val).clearRings i.val

/-- A reset of the physical function resets every instance and clears VF Enable (R311). -/
def State.resetPhysical (s : State) : State :=
  let s1 := (List.finRange 64).foldl (fun (s : State) i => s.acceptReset i) s
  { s1 with host := { s1.host with vfEnable := false } }

/-- Instance i exists (R295). -/
def State.exists? (s : State) (i : Fin 64) : Bool := i.val == 0 || (s.host.vfEnable && decide (i.val ≤ s.host.numVfs))

/-- FUNCTION_LEVEL_RESET (R306, R311). -/
def execFunctionLevelReset (fn : Fin 64) (s : State) : Host.Outcome State Fault Refusal :=
  .next (if fn.val = 0 then s.resetPhysical else if s.exists? fn then s.acceptReset fn else s)

/-- VF_ENABLE_CHANGE (R295): instances that stop existing are reset. NumVFs lies in 0 to 63 (R294). -/
def execVfEnableChange (enable : Bool) (numVfs : Nat) (s : State) : Host.Outcome State Fault Refusal :=
  let t := { s with host := { s.host with vfEnable := enable, numVfs := min 63 numVfs } }
  .next (((List.finRange 64).filter fun i => s.exists? i && !t.exists? i).foldl (fun (s : State) i => s.acceptReset i) t)

/-- HOT_RESET (R473): a reset of the physical function; a link-down also takes the link down. -/
def execHotReset (linkDown : Bool) (s : State) : Host.Outcome State Fault Refusal :=
  let r := s.resetPhysical
  let t := { r with host := { r.host with numVfs := 0 } }
  .next (if linkDown then { t with host := { t.host with link := .down, linkSpeed := 0, linkWidth := 0 } } else t)

/-- HOST_LINK_TRAINING (R265, R482), which needs PWRGOOD and PERST_N deasserted: the speed and width training ends at; less than x8 leaves the link down and raises
HOST_LINK_FAIL. -/
def execHostLinkTraining (speed width : Nat) (s : State) : Host.Outcome State Fault Refusal :=
  .next (if !s.pins.perstN || !s.moth.pwrgood then s
    else if width < 8 then
      ({ s with host := { s.host with link := .down, linkSpeed := 0, linkWidth := 0 } }).raise 0x0021 2 0
    else
      ({ s with host := { s.host with link := .l0, linkSpeed := min speed (s.od 0x1010 3)
                                      linkWidth := if width < 16 then 8 else 16 } }).sendHeldMsgs)

end Sys2Proof.Machine
end

