-- ==== Sys2Proof/Machine/Merge.lean ====
section
/-! DEFINITION. The merge of a frame (R39 to R41, R57), the second-pass rounds (R217, R218), and the table commands (R219 to
R221). -/

namespace Sys2Proof.Machine

/-! ### Finishing entries -/

/-- An entry finishes in the current frame with a status and DETAIL; a status other than OK stays (R508). -/
def State.finish (s : State) (slot pos st detail : Nat) : State :=
  { s with work := s.work.map fun e =>
      if e.slot = slot ∧ e.pos = pos ∧ e.finished = none then
        { e with finished := some (s.frame.frameNo, if st = 0 then e.late else st, detail) }
      else e }

/-- The contexts of an entry leave every tile; a tile left with no work has yielded (R30). -/
def State.dropContexts (s : State) (slot : Nat) : State :=
  { s with tiles := s.tiles.map fun (x : Tile) =>
      let cs := x.ctxs.filter fun c => c.slot != slot
      { x with ctxs := cs, yielded := x.yielded || cs.isEmpty } }

/-- All merge records of the frame, tile by tile. -/
def State.mergeRecords (s : State) : List MergeRecord := s.tiles.toList.flatMap fun x => x.merge

/-! ### Slots the merge needs (R69, R162, R378) -/

/-- Slots of the dictionary spans of an instance. -/
def State.dictSlots (s : State) (inst : Nat) : List Nat :=
  (s.host.descs.filter fun p => p.1 / 4096 == inst && descKind p.2 == 3).flatMap fun p =>
    (List.range (descSegs p.2)).map fun i => descBase p.2 / slotBytes + i

/-- Slots that work on a table reads and writes: its spill span, and the dictionaries of its instance. -/
def State.tableSlots (s : State) (tb : KmaTable) : List Nat :=
  let d := s.desc tb.inst tb.spillSel
  (if tb.spillSel = 0 then [] else (List.range (descSegs d)).map fun i => descBase d / slotBytes + i)
    ++ if tb.dict then s.dictSlots tb.inst else []

/-- Slots of the string that a dictionary insert reads (R204). -/
def State.stringSlots (s : State) (tb : KmaTable) : RecordKind → List Nat
  | .insert _ _ payload =>
    let ma := descBase (s.desc tb.inst (selOf payload[1])) + offOf payload[1]
    let n := bitsOf payload[2].toNat 12 0
    if tb.dict && n != 0 then (List.range ((ma + n - 1) / slotBytes - ma / slotBytes + 1)).map fun i => ma / slotBytes + i else []
  | _ => []

/-- Slots that a merge record needs. -/
def State.recordSlots (s : State) (r : MergeRecord) : List Nat :=
  match r.kind, s.entry? r.slot with
  | .header slot _ _, _ => [slot]
  | k, some e => match e.image with
    | some img => match s.table? e.inst (tableTag e img r.op) with
      | some tb => s.tableSlots tb ++ s.stringSlots tb k
      | none => []
    | none => []
  | _, none => []

/-- Slots that the merge of the frame needs: those of its records, and of the tables whose spilled partitions are read back. -/
def State.mergeSlots (s : State) : List Nat :=
  s.mergeRecords.flatMap s.recordSlots ++ (s.kma.tables.filter fun t => !t.spilled.isEmpty).flatMap s.tableSlots

/-- The merge waits for a slot. -/
def State.mergeWait (s : State) : Option Nat := s.mergeSlots.find? fun x => !s.resident x && !s.gone x

/-! ### Applying records (R40) -/

/-- The 42 bytes of an entry of the array (R191). -/
def kmaEntryBytes (e : KmaEntry) : List Byte :=
  leBytes 42 (e.key.toNat + e.tag * 2 ^ 96 + e.inst * 2 ^ 111 + 2 ^ 117 + e.prio * 2 ^ 128
    + (e.payload[0]).toNat * 2 ^ 144 + (e.payload[1]).toNat * 2 ^ 192 + (e.payload[2]).toNat * 2 ^ 240
    + (e.payload[3]).toNat * 2 ^ 288)

/-- The entry a record left: the one it wrote, or the match it found. -/
def recordLeft (before after : State) (tb : KmaTable) (key : DWord) : Option (Nat × KmaEntry) :=
  let mine (s : State) := (s.tableEntries tb.inst tb.tag).filter fun p => p.2.key == key
  match (mine after).find? fun p => !(mine before).contains p with
  | some p => some p
  | none => (mine after).head?

/-- A record enters the frame-state digest (R411). -/
def State.sumRecord (s : State) (before : State) (tb : KmaTable) (key : DWord) : State :=
  match recordLeft before s tb key with
  | some p => s.sumMerge (leBytes 6 p.1 ++ kmaEntryBytes p.2)
  | none => s

/-- The span of an instance that holds a slot: its descriptor and the position of the slot in it. -/
def State.spanOf (s : State) (inst slot : Nat) : BitVec 192 × Nat :=
  match s.host.descs.find? fun p => p.1 / 4096 == inst && descKind p.2 != 0 && decide (descBase p.2 / slotBytes ≤ slot)
      && decide (slot < descBase p.2 / slotBytes + descSegs p.2) with
  | some p => (p.2, slot - descBase p.2 / slotBytes)
  | none => (0, slot)

/-- A segment header change of an operator of an entry of an instance (R57, R128). -/
def State.applyHeader (s : State) (inst slot rows used : Nat) : State :=
  let ma := slot * slotBytes + lineArea
  let h := s.segmentHeader (s.spanOf inst slot).1 (s.spanOf inst slot).2
  let n := overlay (overlay (overlay h 28 (leBytes 4 (fieldNat h 28 4 + rows))) 34 (leBytes 2 (max used (fieldNat h 34 2))))
    54 (leBytes 6 s.frame.frameNo)
  (s.writeMem ma n).1.sumMerge (leBytes 6 ma ++ n)

def recordKey : RecordKind → DWord
  | .insert k _ _ => k
  | .update k _ _ => k
  | .group g => g.key
  | .header .. => 0

/-- One merge record: the state, or the status its entry fails with. A record of an entry that has failed does nothing. -/
def State.applyRecord (s : State) (r : MergeRecord) : Except Nat State :=
  match s.entry? r.slot with
  | none => .ok s
  | some e =>
    if e.fail.isSome then .ok s
    else if (s.recordSlots r).any fun x => s.gone x then .error Status.segmentLost
    else match r.kind with
      | .header slot rows used => .ok (s.applyHeader e.inst slot rows used)
      | k =>
        match e.image with
        | none => .ok s
        | some img => match s.table? e.inst (tableTag e img r.op) with
          | none => .error Status.kmaNoTable
          | some tb => match s.mergeRecord tb false (opsOf img r.op) k with
            | .error st => .error st
            | .ok s1 => .ok (s1.sumRecord s tb (recordKey k))

/-- Applies records in order up to the first that fails. -/
def State.applyRecords (s : State) : List MergeRecord → Except (MergeRecord × Nat) State
  | [] => .ok s
  | r :: rs => match s.applyRecord r with
    | .error st => .error (r, st)
    | .ok s1 => s1.applyRecords rs

/-- The table of a merge record. -/
def State.recordTable (s : State) (r : MergeRecord) : Option KmaTable :=
  match s.entry? r.slot with
  | some e => match e.image with
    | some img => s.table? e.inst (tableTag e img r.op)
    | none => none
  | none => none

/-- The match of a record is verified and read before it is used (R211, R212). -/
def State.verifyRecord (s : State) (r : MergeRecord) : State :=
  match s.recordTable r with
  | some tb => s.verify tb (recordKey r.kind)
  | none => s

/-- A unit of memory that reads uncorrectable. -/
def State.unsound (s : State) (l : Nat) : Bool :=
  s.mem.poisoned.contains l || s.dram.errors.any fun p => lineOf p.1 == l && decide (2 ≤ p.2)

/-- What a record found that it could not use is read, and so counted and reported: the first entry of its table, or the first line of
its slots, that cannot be read (R212, R236; DESIGN CHOICE, assumption 140). -/
def State.reportUnsound (s : State) (r : MergeRecord) (st : Nat) : State :=
  if st = Status.kmaEcc then
    match s.recordTable r with
    | some tb => match (s.tableEntries tb.inst tb.tag).find? fun p => s.kma.unreadable p.1 with
      | some p => s.readEntry p.1
      | none => s
    | none => s
  else if st = Status.memUncorrectable then
    match (s.mem.poisoned ++ s.dram.errors.map fun p => lineOf p.1).find? fun l => s.unsound l && (s.recordSlots r).contains (l / slotBytes) with
    | some l => (s.readUnit l false).1
    | none => s
  else s

/-- The merge. An entry whose record fails ends with that status and none of its records of the frame stand (R117, R508), so
the merge is taken again without them. -/
def mergeAll : Nat → State → State
  | 0, s => s
  | n + 1, s => match s.applyRecords s.mergeRecords with
    | .ok s1 => s1
    | .error (r, st) => mergeAll n ((s.reportUnsound r st).failEntry r.slot { pos := 2 ^ 48, tile := 64, status := st, detail := 0 })

/-! ### Rounds (R217, R218) -/

/-- Tags of the tables an entry's stage consumes: those its PROBEs search, then those its SCANs drain. -/
def consumed (e : WorkEntry) (img : Image) : List Nat × List Nat :=
  let here := img.ops.filter fun o => o.stage == e.stage
  ((here.filter fun o => o.kind == 6).map fun o => tableTag e img o.inB,
    (here.filter fun o => o.kind == 1 && o.flags % 4 == 1).map fun o => tableTag e img o.inA)

/-- Lowest spilled partitions not yet taken whose summed COUNT stays within the limit; always at least one (R217). -/
def takeParts (limit : Nat) : Nat → List (Nat × Nat) → List Nat
  | _, [] => []
  | sum, (p, cnt) :: r => if sum ≠ 0 ∧ limit < sum + cnt then [] else p :: takeParts limit (sum + max 1 cnt) r

/-- One spill record read back and applied (R217): a GROUP record creates its group with the state it carries. -/
def State.reloadRecord (s : State) (tb : KmaTable) (ops : Nat) (ma : Nat) : Except Nat State :=
  andThen (s.mergeRead ma 48) fun s =>
    let w (i : Nat) : Word := s.wordAt (ma + 6 * i)
    let key := keyOf (w 0) (w 1)
    let payload := quad fun i => w (2 + i.val)
    let w6 := (w 6).toNat
    let valid : BitVec 4 := BitVec.ofNat 4 (bitsOf w6 19 16)
    match bitsOf w6 23 20 with
    | 1 => s.mergeInsert tb true key (bitsOf w6 15 0) payload
    | 2 => s.mergeUpdate tb true ops key (fun _ => payload) payload 0 2
    | _ => s.mergeUpdate tb true ops key (foldSource ops payload valid) payload valid.toNat 3

/-- The records of the partitions of a round, in partition and record order. -/
def State.reloadParts (s : State) (tb : KmaTable) (ops : Nat) (ps : List Nat) : Except Nat State :=
  let d := s.desc tb.inst tb.spillSel
  let mas := ps.flatMap fun p => (List.range (s.spillCount d p)).map fun q =>
    spillLine d (2 + p * spillPL d + q / 4) + 48 * (q % 4)
  mas.foldl (fun (r : Except Nat State) ma => andThen r fun s1 => s1.reloadRecord tb ops ma) (.ok s)

/-- OPS of the operator whose table has a tag. -/
def opsOfTag (e : WorkEntry) (img : Image) (tag : Nat) : Nat :=
  match (List.range img.ops.length).find? fun i => tableTag e img i == tag &&
      (match img.ops[i]? with
        | some o => o.kind == 5 || o.kind == 7
        | none => false) with
  | some i => opsOf img i
  | none => 0

/-- The next round of a table: cleared, and reloaded from the partitions it takes. -/
def State.nextRound (s : State) (e : WorkEntry) (img : Image) (tb : KmaTable) : Except Nat State :=
  let d := s.desc tb.inst tb.spillSel
  if (s.tableSlots tb).any fun x => s.gone x then .error Status.segmentLost
  else
  andThen (s.mergeRead (spillLine d 0) 384) fun s =>
  let left := tb.spilled.filter fun p => !tb.taken.contains p
  let ps := takeParts tb.limit 0 (left.map fun p => (p, s.spillCount d p))
  let s1 := (s.clearTable tb.inst tb.tag).updTable tb.inst tb.tag fun t => { t with inRound := ps, taken := t.taken ++ ps }
  s1.reloadParts tb (opsOfTag e img tb.tag) ps

/-- What follows when every tile has finished its part of an entry's stage: a further round, or the next stage. -/
def State.stageOver (s : State) (e : WorkEntry) (img : Image) : State :=
  let (probes, drains) := consumed e img
  let spilled (tags : List Nat) : List KmaTable := (tags.filterMap fun t => s.table? e.inst t).filter fun t => !t.spilled.isEmpty
  let failed (st : Nat) : State := s.failEntry e.slot { pos := 2 ^ 48, tile := 64, status := st, detail := 0 }
  let restart (s : State) : State :=
    s.updEntry e.slot fun e => { e with round := e.round + 1, done := [], active := false }
  let goOn : State :=
    let s1 := (probes ++ drains).foldl (fun (s : State) tag =>
      s.updTable e.inst tag fun t => if t.spilled.isEmpty then t else { t with ended := true, inRound := [] }) s
    s1.updEntry e.slot fun e => { e with stage := e.stage + 1, round := 0, done := [], active := false }
  if e.round = 0 ∧ 1 < (spilled probes).length then failed Status.kmaFull
  else match (spilled (probes ++ drains)).find? fun t => !t.ended && t.spilled.any fun p => !t.taken.contains p with
    | none => goOn
    | some tb => match s.nextRound e img tb with
      | .error st => failed st
      | .ok s1 => restart s1

/-- Stages that are over, in work-table order (R113, R217). -/
def State.stagesOver (s : State) : State :=
  s.work.foldl (fun (s : State) e0 => match s.entry? e0.slot with
    | none => s
    | some e => match e.image with
      | none => s
      | some img =>
        if e.fail.isNone && e.finished.isNone && e.active &&
            (img.stageTiles e.stage).all (fun t => e.done.contains t.val) then s.stageOver e img else s) s

/-- Entries that failed end in this frame, and their contexts go (R117). -/
def State.endFailed (s : State) : State :=
  s.work.foldl (fun (s : State) e0 => match s.entry? e0.slot with
    | none => s
    | some e => match e.fail with
      | some f => if e.finished.isNone then (s.dropContexts e.slot).finish e.slot e.pos f.status f.detail else s
      | none => s) s

/-! ### The merge command -/

/-- Kind, and OP of the descriptor, of a work-table entry (R219, R281, R297). -/
def WorkEntry.kind (e : WorkEntry) : Nat := entryField e.entry 0 1
def WorkEntry.descOp (e : WorkEntry) : Nat := entryField e.desc 0 1

/-- A table command or SET_DESCRIPTOR that still has to act in this merge (R220, R298). -/
def State.outstanding (s : State) : Option WorkEntry :=
  s.work.find? fun e => e.begun && e.finished.isNone && e.refuse == 0 &&
    (e.kind == 3 || (e.kind == 4 && e.descOp == 1 && !s.host.changes.any fun c => c.slot == some e.slot))

def tcInst (d : BitVec 512) : Nat := entryField d 2 1
def tcHandle (d : BitVec 512) : Nat := entryField d 4 2
def tcFlag (d : BitVec 512) (i : Nat) : Bool := bitOf (entryField d 1 1) i

/-- Reserved fields and codes of a table command descriptor (R8, R219). A field that the command's OP does not use is not
reserved (DEDUCED, assumption 40). -/
def tableReserved (d : BitVec 512) : Bool :=
  let op := entryField d 0 1
  op == 0 || decide (5 ≤ op) || !fits (entryField d 1 1) 3 || entryField d 14 2 != 0 || entryField d 28 4 != 0
    || entryField d 40 24 != 0

/-- The persistent table that INSTANCE and HANDLE name, if there is one (R221). -/
def State.namedTable (s : State) (d : BitVec 512) : Option KmaTable :=
  if 63 < tcInst d ∨ tcHandle d = 0 ∨ 16383 < tcHandle d then none else s.table? (tcInst d) (tcHandle d)

/-- The 16-byte result of a table command goes to the host, and the entry finishes (R221). -/
def State.commandOver (s : State) (e : WorkEntry) (st : Nat) : State :=
  let d := e.desc
  let (limit, held) := match s.namedTable d with
    | some tb => (tb.limit, (s.tableEntries tb.inst tb.tag).length)
    | none => (0, 0)
  let bytes := leBytes 2 st ++ leBytes 4 limit ++ leBytes 4 held ++ List.replicate 6 0
  (s.frontWrite e.inst (entryField d 32 8) bytes).finish e.slot e.pos st 0

/-- The merge is complete once no command of the frame is outstanding; a table command no OP code fits ends refused. -/
def settleMerge : Nat → State → State
  | 0, s => s
  | n + 1, s => match s.outstanding with
    | none => { s with frame := { s.frame with merging := false, mergeDone := true } }
    | some e => if e.kind = 3 ∧ tableReserved e.desc then settleMerge n (s.commandOver e Status.reservedField) else s

/-- Every encode job with SPAN_OUT of the frame has finished (R101). -/
def State.spanJobsDone (s : State) : Bool :=
  s.work.all fun e => !(e.kind == 2 && spanOutJob e.desc && e.begun && e.finished.isNone) ||
    (match e.job with
      | some j => j.done
      | none => false)

/-- Segment headers of the codec jobs, in work-table order (R101). -/
def State.applyCodecHeaders (s : State) : State :=
  s.work.foldl (fun (s : State) e => match e.job with
    | none => s
    | some j =>
      let s1 := j.headers.foldl (fun (s : State) (h : Nat × List Byte) =>
        let ma := h.1 * slotBytes + lineArea
        (s.writeMem ma h.2).1.sumMerge (leBytes 6 ma ++ h.2)) s
      s1.updEntry e.slot fun x => { x with job := x.job.map fun j => { j with headers := [] } }) s

/-- FRAME_MERGE (R40, R217): after the last tile has yielded. -/
def execFrameMerge (s : State) : Host.Outcome State Fault Refusal :=
  .next (if !s.executing || !(s.tiles.all fun x => x.yielded) || !s.spanJobsDone then s
    else if let some x := s.mergeWait then s.awaitSlot x
    else
      let s0 := s.mergeRecords.foldl State.verifyRecord s
      let s1 := (mergeAll (s.work.length + 1) s0).applyCodecHeaders
      let s2 := { s1 with tiles := s1.tiles.map fun (x : Tile) => { x with merge := [] } }
      let s3 := s2.stagesOver.endFailed
      settleMerge (s3.work.length + 1) { s3 with frame := { s3.frame with merging := true } })

/-! ### Table commands (R219 to R221) -/

/-- A command of an OP is next in the merge. -/
def State.nextCommand (s : State) (slot : Nat) (kind op : Nat) : Option WorkEntry :=
  if !s.frame.merging then none
  else match s.outstanding with
    | some e => if e.slot = slot ∧ e.kind = kind ∧ e.descOp = op then some e else none
    | none => none

/-- A table command ends with its result, and the merge goes on (R221). -/
def State.tableResult (s : State) (e : WorkEntry) (st : Nat) : State :=
  let s1 := s.commandOver e st
  settleMerge (s1.work.length + 1) s1

/-- First row of R221. -/
def tcArgument (d : BitVec 512) : Bool :=
  decide (63 < tcInst d) || tcHandle d == 0 || decide (16383 < tcHandle d)
    || (entryField d 0 1 == 4 && (entryField d 24 4 == 0 || decide (196608 < entryField d 24 4)))

/-- STRKEY of a string (R74). -/
def strKey (str : List Byte) : DWord :=
  let bytes := if str.length ≤ 11 then sliceBytes str 0 11 ++ leBytes 1 str.length else (sha256 str).take 11 ++ [0xFF]
  BitVec.ofNat 96 (leNat bytes)

/-- STRKEY of a string of 12 bytes or more is hashed on context 13 (R74, R334). -/
def State.hashString (s : State) (str : List Byte) : State := if str.length ≤ 11 then s else s.hashOn 0 1 none str

/-- Runs steps one after another, up to the first that fails: the state so far, and the status. -/
def State.each {α : Type} (one : State → α → Except Nat State) (s : State) : List α → State × Nat
  | [] => (s, 0)
  | x :: r => match one s x with
    | .error st => (s, st)
    | .ok s1 => State.each one s1 r

/-- The entry of a code in a dictionary index, whose string is read from memory (R220). -/
def State.indexCode (inst tag : Nat) (d : BitVec 192) (s : State) (code : Nat) : Except Nat State :=
  match s.table? inst tag with
  | none => .ok s
  | some tb =>
    andThen (s.mergeRead (dictDirAddr d code) 12) fun s1 =>
    andThen (s1.mergeRead (descBase d + bitsOf (s1.wordAt (dictDirAddr d code)).toNat 35 0)
      (bitsOf (s1.wordAt (dictDirAddr d code + 6)).toNat 12 0)) fun s2 =>
      (s2.hashString (s2.dictString d code)).tablePut tb
        { inst := inst, tag := tag, key := strKey (s2.dictString d code), prio := 0, payload := quad fun i => if i = 0 then BitVec.ofNat 48 code else 0 }

/-- Runs a command on an existing table. -/
def State.onTable (s : State) (e : WorkEntry) (k : KmaTable → State) : State :=
  if tcArgument e.desc then s.tableResult e Status.kmaArgument
  else match s.table? (tcInst e.desc) (tcHandle e.desc) with
    | none => s.tableResult e Status.kmaNoTable
    | some tb => k tb

/-- TABLE_CLEAR (R220). -/
def execTableClear (slot : Fin 256) (s : State) : Host.Outcome State Fault Refusal :=
  .next (match s.nextCommand slot.val 3 2 with
    | none => s
    | some e => s.onTable e fun tb => (s.clearTable tb.inst tb.tag).tableResult e 0)

/-- TABLE_DESTROY (R220). -/
def execTableDestroy (slot : Fin 256) (s : State) : Host.Outcome State Fault Refusal :=
  .next (match s.nextCommand slot.val 3 3 with
    | none => s
    | some e => s.onTable e fun tb => (s.dropTable tb.inst tb.tag).tableResult e 0)

/-- A record of a LOAD (R219). -/
def loadRecord (inst tag : Nat) (bs : List Byte) : KmaEntry :=
  let w (i : Nat) : Word := BitVec.ofNat 48 (fieldNat bs (6 * i) 6)
  { inst := inst, tag := tag, key := keyOf (w 0) (w 1), prio := bitsOf (w 2).toNat 15 0, payload := quad fun i => w (3 + i.val) }

/-- Keys rise strictly. -/
def ascending : List KmaEntry → Bool
  | a :: b :: r => decide (a.key.toNat < b.key.toNat) && ascending (b :: r)
  | _ => true

/-- K keys spread over the groups of an empty ordered table (R220). -/
def State.spreadKeys (s : State) (tb : KmaTable) (es : List KmaEntry) : State :=
  let groups := tb.charge / 16
  let k := es.length
  (List.range groups).foldl (fun (s : State) g =>
    let lo := g * k / groups
    let hi := (g + 1) * k / groups
    s.setGroup tb g ((es.drop lo).take (hi - lo))) s

/-- A record of a LOAD is inserted (R201, R202, R220): into an index table too it is an entry as it stands. -/
def State.loadOne (inst tag : Nat) (s : State) (x : KmaEntry) : Except Nat State :=
  match s.table? inst tag with
  | none => .ok s
  | some tb =>
    let s0 := s.verify tb x.key
    andThen (s0.entryInsert tb false x.key x.prio x.payload) fun s1 => .ok (s1.sumRecord s0 tb x.key)

/-- SET_DESCRIPTOR (R297, R298): the write joins the frame-class shadow set at the merge. -/
def execSetDescriptor (slot : Fin 256) (s : State) : Host.Outcome State Fault Refusal :=
  .next (match s.nextCommand slot.val 4 1 with
    | none => s
    | some e =>
      let c : DescChange :=
        { slot := some e.slot, inst := entryField e.desc 1 1, selector := entryField e.desc 2 2
          descriptor := BitVec.ofNat 192 (entryField e.desc 8 24) }
      let s1 := { s with host := { s.host with changes := s.host.changes ++ [c] } }
      settleMerge (s1.work.length + 1) s1)

end Sys2Proof.Machine
end

