-- ==== Sys2Proof/Machine/Admission.lean ====
section
/-! DEFINITION. Admission (R34, R35, R283, R284), the release of completions (R285 to R287), and the squash of an instance (R305
to R309). -/

namespace Sys2Proof.Machine

/-! ### Sets, handles and the conditions of R34 -/

/-- What an entry names: read selectors, write selectors, and persistent table handles, each with its instance. -/
structure Named where
  reads : List (Nat × Nat)
  writes : List (Nat × Nat)
  handles : List (Nat × Nat)
  table : Bool
deriving DecidableEq, Repr

/-- Selector of a tile address held in 8 bytes of a job descriptor. -/
def addrSel (x : Nat) : Nat := bitsOf x 47 36

def namedBy (inst refuse : Nat) (entry desc : BitVec 512) (image : Option Image) : Named :=
  let none_ : Named := { reads := [], writes := [], handles := [], table := false }
  if refuse ≠ 0 then none_
  else match entryField entry 0 1 with
    | 1 => match image with
      | none => none_
      | some img =>
        { reads := (img.sets.filter fun p => !p.2).map fun p => (inst, p.1)
          writes := (img.sets.filter fun p => p.2).map fun p => (inst, p.1)
          handles := (img.ops.filter fun o => (o.kind == 5 || o.kind == 7) && bitsOf o.arg4 47 34 != 0).map fun o =>
            (inst, bitsOf o.arg4 47 34)
          table := false }
    | 2 =>
      let op := entryField desc 0 1
      let fl := entryField desc 3 1
      { reads := if op = 2 ∧ bitOf fl 0 then [(inst, addrSel (entryField desc 8 8))] else []
        writes := if op = 1 ∧ bitOf fl 1 then [(inst, addrSel (entryField desc 16 8))] else []
        handles := [], table := false }
    | 3 => { reads := [], writes := [], handles := [(tcInst desc, tcHandle desc)], table := true }
    | 4 => { reads := [], writes := if entryField desc 0 1 = 1 then [(entryField desc 1 1, entryField desc 2 2)] else []
             handles := [], table := false }
    | _ => none_

def WorkEntry.named (e : WorkEntry) : Named := namedBy e.inst e.refuse e.entry e.desc e.image
def ListRecord.named (r : ListRecord) : Named := namedBy r.inst r.refuse r.entry r.desc r.image
def ReadEntry.named (e : ReadEntry) (inst : Nat) : Named := namedBy inst e.refuse e.entry e.desc e.image

/-- Two lists share an element. -/
def meets (a b : List (Nat × Nat)) : Bool := a.any fun x => b.contains x

/-- Takes no slot: a refused entry, a NOP or a reset record (R283, R305). -/
def slotless (refuse : Nat) (entry : BitVec 512) : Bool := refuse != 0 || entryField entry 0 1 == 5

/-- Slots taken by entries in progress and by the list being built. -/
def State.takenSlots (s : State) (list : List ListRecord) : List Nat :=
  (s.work.map fun e => e.slot) ++ list.map fun r => r.slot

/-- The lowest free work-table slot (R284). -/
def State.freeSlot (s : State) (list : List ListRecord) : Option Nat :=
  (List.range 256).find? fun i => !(s.takenSlots list).contains i

/-- Entries in progress and those already in the list, as what they name. An entry is in progress up to step 4 of the tick that
follows the frame in which it finished (R34). -/
def State.namedNow (s : State) (list : List ListRecord) : List Named :=
  (s.work.map WorkEntry.named) ++ list.map ListRecord.named

/-- Encode jobs with SPAN_OUT in a list (R101). -/
def spanJobs (list : List ListRecord) : Nat :=
  (list.filter fun r => r.refuse == 0 && entryField r.entry 0 1 == 2 && spanOutJob r.desc).length

/-- The conditions of R34 for a head entry. The sets must not overlap whichever of the two entries is the modifying one: R42 and
point 5 of R45's argument rest on it (DEDUCED, assumption 42). -/
def State.admits (s : State) (list : List ListRecord) (inst : Nat) (e : ReadEntry) : Bool :=
  if slotless e.refuse e.entry then true
  else
    let n := e.named inst
    let others := s.namedNow list
    let kind := entryField e.entry 0 1
    (s.freeSlot list).isSome
      && !(others.any fun o => meets n.writes (o.reads ++ o.writes) || meets n.reads o.writes)
      && !(kind != 4 && s.host.changes.any fun c => (n.reads ++ n.writes).contains (c.inst, c.selector))
      && !(others.any fun o => (n.table || o.table) && meets n.handles o.handles)
      && !(kind == 2 && spanOutJob e.desc && decide (4 ≤ spanJobs list))

/-! ### Picking (R283) -/

/-- Entries of a ring that have been read: those before the first that still waits for its image. -/
def SqRing.ready (x : SqRing) : List ReadEntry := x.entries.takeWhile fun e => !e.waitsImage

/-- The list record of an entry (R284), with the batch it belongs to. -/
def makeRecord (s : State) (list : List ListRecord) (r inst : Nat) (e : ReadEntry) (batch : Option (Nat × Nat)) : ListRecord :=
  { ring := r, inst := inst, refuse := e.refuse,
    slot := if slotless e.refuse e.entry then 0xFFFF else (s.freeSlot list).getD 0xFFFF,
    sqIndex := e.index, entry := if e.refuse = Status.entryFetch ∧ entryField e.entry 0 1 = 0 then 0 else e.entry,
    desc := e.desc, image := e.image, input := [], reset := false, batch := batch,
    cq := (s.sq r).inEffect.cq }

/-- A listed entry, at a ring index, joins or ends a batch of its ring (R287): the batch it belongs to. -/
def State.batchStep (s : State) (r index : Nat) (entry : BitVec 512) : State × Option (Nat × Nat) :=
  let x := s.sq r
  let defer := entry.getLsbD 9
  let ends := entry.getLsbD 10 || !defer || x.batchLen + 1 == 4096
  if x.batchLen = 0 ∧ !defer ∧ !entry.getLsbD 10 then (s, none)
  else
    let id := (r, x.batchNo)
    let bs := if x.batchLen = 0 then s.host.batches ++ [{ ring := r, no := x.batchNo, inst := x.inEffect.inst, cq := x.inEffect.cq, size := 0, first := index, noIrq := false, members := [] }]
      else s.host.batches
    let bs := bs.map fun b => if b.ring = r ∧ b.no = x.batchNo then
        { b with size := if ends then x.batchLen + 1 else 0, noIrq := entry.getLsbD 11 } else b
    let y := if ends then { x with batchNo := x.batchNo + 1, batchLen := 0 } else { x with batchLen := x.batchLen + 1 }
    (({ s with host := { s.host with batches := bs } }).setSq r y, some id)

/-- A ring's head entry goes to the list. -/
def State.takeHead (s : State) (list : List ListRecord) (r : Nat) : State × List ListRecord :=
  let x := s.sq r
  match x.ready with
  | [] => (s, list)
  | e :: _ =>
    let (s1, b) := s.batchStep r e.index e.entry
    let rec' := makeRecord s list r x.inEffect.inst e b
    let y := s1.sq r
    (s1.setSq r { y with entries := y.entries.drop 1, consumer := y.consumer + 1, listed := (y.listed + 1) % 2 ^ 48 }, list ++ [rec'])

/-- The picking loop (R283): rings in `act` with what each has taken. -/
def pick : Nat → State → List ListRecord → List (Nat × Nat) → State × List ListRecord
  | 0, s, list, _ => (s, list)
  | fuel + 1, s, list, act =>
    let act := act.filter fun p =>
      let x := s.sq p.1
      decide (p.2 < x.inEffect.burst) && (match x.ready with
        | [] => false
        | e :: _ => s.admits list x.inEffect.inst e)
    if act.isEmpty ∨ 4096 ≤ list.length then (s, list)
    else
      let wsum : Int := (act.map fun p => ((s.sq p.1).inEffect.weight : Int)).sum
      let s1 := act.foldl (fun (s : State) p => s.setSq p.1 { s.sq p.1 with cur := (s.sq p.1).cur + (s.sq p.1).inEffect.weight }) s
      match act with
      | [] => (s, list)
      | a :: r =>
        let best := r.foldl (fun (b : Nat × Nat) p => if (s1.sq b.1).cur < (s1.sq p.1).cur then p else b) a
        let s2 := s1.setSq best.1 { s1.sq best.1 with cur := (s1.sq best.1).cur - wsum }
        let (s3, list3) := s2.takeHead list best.1
        pick fuel s3 list3 (act.map fun p => if p.1 = best.1 then (p.1, p.2 + 1) else p)

/-- A reset record (R305). -/
def resetRecord (i : Nat) : ListRecord :=
  { ring := 0, inst := i, refuse := 0, slot := 0xFFFF, sqIndex := 0, entry := 0x104, desc := 0, image := none, input := [],
    reset := true, batch := none, cq := 0 }

/-- OVERLOAD_FRAMES and OVERLOAD_AGE (R51): an instance still holds a read entry in a ring of non-zero weight. -/
def State.countOverload (s : State) : State :=
  let loaded (i : Nat) : Bool := s.host.sq.any fun p =>
    p.2.state == 1 && p.2.inEffect.inst == i && p.2.inEffect.weight != 0 && !p.2.ready.isEmpty
  let count (i : Fin 64) : Instance :=
    let x := s.host.insts[i]
    if loaded i.val then
      { x with overloadFrames := (x.overloadFrames + 1) % 2 ^ 48, overloadAge := min (2 ^ 32 - 1) (x.overloadAge + 1) }
    else { x with overloadAge := 0 }
  { s with host := { s.host with insts := Vector.ofFn count } }

/-- CONSUMER of each ring whose entries were listed goes to its index block (R271, R283). -/
def State.writeConsumers (s : State) (before : State) : State :=
  s.host.sq.foldl (fun (t : State) p =>
    if (before.sq p.1).consumer = p.2.consumer then t
    else t.frontWrite p.2.inEffect.inst (p.2.inEffect.idxAddr + 4) (leBytes 4 p.2.consumer.toNat)) s

/-- RESET_STATE of the targets of the SQUASH entries in a list (R305, R311). -/
def listedSquashes (l : List ListRecord) (v : Vector Instance 64) : Vector Instance 64 :=
  l.foldl (fun (v : Vector Instance 64) r =>
    if r.refuse = 0 ∧ !r.reset ∧ entryField r.entry 0 1 = 4 ∧ entryField r.desc 0 1 = 2 then
      let n := entryField r.desc 1 1
      if h : n < 64 then v.set n { v[n] with resetState := if v[n].resetState = 0 then 2 else v[n].resetState } else v
    else v) v

/-- Step 7 of a tick (R283, R305): reset records, then the picks. -/
def State.buildList (s : State) : State × List ListRecord :=
  let due := (List.finRange 64).filter fun i => s.host.insts[i].resetState == 1
  let resets := due.map fun i => resetRecord i.val
  let insts := due.foldl (fun (v : Vector Instance 64) (i : Fin 64) => v.set i { v[i] with resetState := 2 }) s.host.insts
  let sq := s.host.sq.map fun (p : Nat × SqRing) => if p.2.ready.isEmpty then (p.1, { p.2 with cur := 0 }) else p
  let s1 := { s with host := { s.host with insts := insts, sq := sq } }
  let act := (s1.host.sq.filter fun p => p.2.state == 1 && p.2.inEffect.weight != 0 && !p.2.ready.isEmpty).map fun p => (p.1, 0)
  let (s2, list) := pick 4097 s1 resets act
  let s3 := s2.writeConsumers s1
  ({ s3 with host := { s3.host with insts := listedSquashes list s3.host.insts, listed := (s3.host.listed + list.length) % 2 ^ 48
                                    refused := (s3.host.refused + (list.filter fun r => r.refuse != 0).length) % 2 ^ 48 } }, list)

/-! ### Release of completions (R285 to R287) -/

/-- The 32 bytes of a completion entry (R285). -/
def completionBytes (st flags ring detail seqFirst seqLast frame count failed : Nat) : BitVec 256 :=
  BitVec.ofNat 256 (leNat (leBytes 2 st ++ leBytes 2 flags ++ leBytes 2 ring ++ leBytes 2 detail ++ leBytes 6 seqFirst
    ++ leBytes 6 seqLast ++ leBytes 6 frame ++ leBytes 2 (count - 1) ++ leBytes 2 failed))

/-- Places of a completion ring are given back (R278). -/
def State.freePlaces (s : State) (r n : Nat) : State := s.setCq r { s.cq r with reserved := (s.cq r).reserved - n }

/-- A completion waits at its ring, and, while its function cannot take it, behind the host writes that wait (R266, R290). -/
def State.keepCompletion (s : State) (c : Completion) : State :=
  let y := s.cq c.cq
  let s1 := s.setCq c.cq { y with kept := y.kept ++ [c] }
  if s.hostHeld c.inst then { s1 with host := { s1.host with heldWrites := s1.host.heldWrites ++ [.inr c.cq] } } else s1

/-- A completion is written to its ring, kept while host access is held or the ring has no place, or discarded (R272, R290, R306,
R392). -/
def State.postCompletion (s : State) (ring : Nat) (c : Completion) : State :=
  if s.hostStopped c.inst || (s.cq c.cq).state == 2 || ring == 0xFFFFFFFF then s.freePlaces c.cq c.places
  else if s.hostHeld c.inst || !s.hasPlace c.cq then (s.keepCompletion c).countIrq c.cq c.counts
  else (s.writeCompletion c.cq c).countIrq c.cq c.counts

/-- SEQ of an entry; all ones when the entry could not be read (R282). -/
def entrySeq (refuse : Nat) (entry : BitVec 512) : BitVec 48 :=
  if refuse = Status.entryFetch ∧ entry = 0 then BitVec.allOnes 48 else BitVec.ofNat 48 (entryField entry 8 6)

/-- The completion of a batch whose members are all released (R285, R287). -/
def State.postBatch (s : State) (b : Batch) : State :=
  let ms := b.members
  let bad := ms.find? fun x => x.status != 0
  let st := (bad.map fun x => x.status).getD 0
  let firstBad := ((ms.zipIdx.find? fun p => p.1.status != 0).map fun p => p.2).getD 0xFFFF
  let flags := 1 + (if ms.any fun x => x.durable then 2 else 0) + (if (bad.map fun x => x.refused).getD false then 4 else 0)
  let frame := (ms.map fun x => x.frame).foldl max 0
  let bytes := completionBytes st flags b.ring firstBad ((ms.head?.map fun x => x.seq.toNat).getD 0)
    ((ms.getLast?.map fun x => x.seq.toNat).getD 0) frame ms.length (ms.filter fun x => x.status != 0).length
  let s1 := { s with host := { s.host with batches := s.host.batches.filter fun x => !(x.ring == b.ring && x.no == b.no) } }
  if ms.any fun x => x.silent then s1.freePlaces b.cq ms.length
  else s1.postCompletion b.ring { inst := b.inst, cq := b.cq, bytes := bytes, frame := frame, counts := !b.noIrq, places := ms.length }

/-- A batch has ended and every member of it is released. -/
def Batch.over (b : Batch) : Bool := b.size != 0 && decide (b.size ≤ b.members.length)

/-- Batches that a disable ended after the last of their members was released (R287). -/
def State.postEnded (s : State) : State :=
  (s.host.batches.filter Batch.over).foldl (fun (s : State) b => s.postBatch b) s

/-- Place of a member in its batch, by ring index (R287). -/
def Batch.place (b : Batch) (m : BatchMember) : Nat := (m.pos + 2 ^ 32 - b.first) % 2 ^ 32

/-- The member of a batch that is released, and the batch's completion when it is the last (R287). -/
def State.releaseMember (s : State) (b : Batch) (m : BatchMember) : State :=
  let c : Batch := { b with members := sortBy (fun (x y : BatchMember) => decide (b.place x < b.place y)) (b.members ++ [m]) }
  if c.over then s.postBatch c
  else { s with host := { s.host with batches := s.host.batches.map fun x => if x.ring = b.ring ∧ x.no = b.no then c else x } }

/-- The completion of a finished entry is released (R24, R286, R287); an entry squashed by a reset has none. -/
def State.releaseEntry (s : State) (e : WorkEntry) (durable : Bool) : State :=
  match e.ring, e.finished with
  | some r, some (frame, st, detail) =>
    let m : BatchMember := { pos := e.sqIndex, seq := entrySeq e.refuse e.entry, status := st, frame := frame,
                             refused := e.refuse != 0, durable := durable, silent := e.silent,
                             imageLen := if e.image.isSome then entryField e.entry 4 4 else 0 }
    match e.batch with
    | some (br, no) =>
      match s.host.batches.find? fun b => b.ring == br && b.no == no with
      | some b => s.releaseMember b m
      | none => s
    | none =>
      if e.silent then s.freePlaces e.cq 1 else
      let flags := (if durable then 2 else 0) + (if e.refuse ≠ 0 then 4 else 0)
      let bytes := completionBytes st flags r detail m.seq.toNat m.seq.toNat frame 1 (if st = 0 then 0 else 1)
      s.postCompletion r { inst := e.inst, cq := e.cq, bytes := bytes, frame := frame, counts := !e.entry.getLsbD 11, places := 1 }
  | _, _ => s

/-- Temporary tables of a work-table slot are released (R129, R194). -/
def State.dropTemporaries (s : State) (e : WorkEntry) : State :=
  if 256 ≤ e.slot then s
  else (s.kma.tables.filter fun t => t.inst == e.inst && decide (0x4000 + 64 * e.slot ≤ t.tag) && decide (t.tag < 0x4040 + 64 * e.slot)).foldl
    (fun (s : State) t => s.dropTable t.inst t.tag) s

/-! ### Squash (R305 to R309) -/

/-- A submission ring is disabled: its read-ahead is discarded, and an open batch ends (R275, R287). ERROR stands until the ring is
enabled again (R272; DEDUCED, assumption 48). -/
def State.disableSq (s : State) (r : Nat) : State :=
  let s1 := s.dropReadAhead r
  let x := s1.sq r
  let s2 := s1.setSq r { x with state := 0, reading := 0, enabling := false, batchLen := 0,
                                batchNo := if x.batchLen = 0 then x.batchNo else x.batchNo + 1 }
  { s2 with host := { s2.host with batches := s2.host.batches.map fun b =>
      if b.ring = r ∧ b.size = 0 then { b with size := x.batchLen } else b } }

/-- CONFIG with ENABLE clear. -/
def RingWords.off (w : RingWords) : RingWords := { w with config := w.config &&& ~~~(1 : Word) }

/-- The value written last loses ENABLE too, unless it still waits for its tick: then it is refused there (R300, R307). -/
def offWritten (w : RingWords) (pending : BitVec 4) : RingWords := if pending.getLsbD 3 then w else w.off

/-- ENABLE is cleared in every ring context of an instance (R307). -/
def State.disableRings (s : State) (inst : Nat) : State :=
  let sqs := (s.host.sq.filter fun p => p.2.inEffect.inst == inst && p.2.inEffect.enable).map fun p => p.1
  let cqs := (s.host.cq.filter fun p => p.2.inEffect.inst == inst && p.2.inEffect.enable).map fun p => p.1
  let s1 := sqs.foldl (fun (s : State) r =>
    let t := s.disableSq r
    let x := t.sq r
    t.setSq r { x with inEffect := x.inEffect.off, written := offWritten x.written x.pending }) s
  cqs.foldl (fun (s : State) r =>
    let x := s.cq r
    s.setCq r { x with inEffect := x.inEffect.off, written := offWritten x.written x.pending, state := 0 }) s1

/-- An entry ends with SQUASHED (R307): a descriptor change it has asked for stands without it, and after a reset record it has no
completion. -/
def State.squashEntry (s : State) (e : WorkEntry) (silent : Bool) : State :=
  let s1 := (s.dropContexts e.slot).finish e.slot e.pos Status.squashed 0
  let s2 := if silent then { s1 with work := s1.work.map fun x => if x.slot = e.slot ∧ x.pos = e.pos then { x with silent := true } else x } else s1
  { s2 with host := { s2.host with changes := s2.host.changes.map fun c => if c.slot = some e.slot then { c with slot := none } else c } }

/-- The squash of an instance at the tick that begins the current frame (R307): by a reset record, or by a SQUASH entry. -/
def State.squashInstance (s : State) (i : Fin 64) (reset : Bool) : State :=
  let s1 := (s.disableRings i.val).releaseHandles i.val s.host.insts[i].hostReset
  let mine := s1.work.filter fun e => e.inst == i.val && e.finished.isNone
  let s2 := mine.foldl (fun (s : State) e => s.squashEntry e reset) s1
  let temps := s2.kma.tables.filter fun t => t.inst == i.val && decide (0x4000 ≤ t.tag)
  let s3 := temps.foldl (fun (s : State) t => s.clearTable t.inst t.tag) s2
  let x := s3.host.insts[i]
  { s3 with
    host := { s3.host with insts := s3.host.insts.set i { x with resetState := 3, squashed := (x.squashed + mine.length) % 2 ^ 48 } }
    frame := { s3.frame with squashing := s3.frame.squashing ++ [(i.val, false)] } }

/-- SQUASH (R305, R307): the entry acts on its target instance before any tile runs in the frame. -/
def execSquash (slot : Fin 256) (s : State) : Host.Outcome State Fault Refusal :=
  .next (match s.work.find? fun e => e.slot == slot.val && e.squashes with
    | none => s
    | some e =>
      let n := entryField e.desc 1 1
      if h : n < 64 then
        (s.updEntry slot.val fun e => { e with active := true }).squashInstance ⟨n, h⟩ false
      else s)

end Sys2Proof.Machine
end

