-- ==== Sys2Proof/Machine/Latch.lean ====
section
/-! DEFINITION. Step 5 of a tick: the checks of the shadow set (R48, R258, R275, R300, R423, R452), its application (R47, R257,
R275), and the descriptor changes (R67 to R71, R453). -/

namespace Sys2Proof.Machine

/-! ### Values -/

/-- Bytes of a value of variable length, kept with a 1 above its last byte. -/
def varBytes (v : Nat) : List Byte := leBytes (v.log2 / 8) v

/-- The number that stands for a value of variable length. -/
def varNat (bs : List Byte) : Nat := leNat (bs ++ [1])

/-- BEATS_PER_US (R27). -/
def beatsPerUs (e384 : Bool) : Nat := if e384 then 100 else 50

/-- Q (R28). -/
def quotaOf (e384 : Bool) (period allow share : Nat) : Nat :=
  ((period * beatsPerUs e384 * 85 / 100 - allow) * share) / 100

/-! ### The checks (R452) -/

/-- R48. -/
def State.frameConfigBad (s : State) : Bool :=
  let p := s.odNext 0x2000 1
  let m := s.odNext 0x2000 2
  let share := s.odNext 0x2000 3
  decide (p * beatsPerUs s.e384 * 85 / 100 / 2 < m) || decide (share < 50) || decide (100 < share)
    || decide (quotaOf s.e384 p m share < 256)

/-- Context words that would be in effect. -/
def mergeWords (written inEffect : RingWords) (pending : BitVec 4) : RingWords :=
  { base := if pending.getLsbD 0 then written.base else inEffect.base
    idx := if pending.getLsbD 1 then written.idx else inEffect.idx
    hi := if pending.getLsbD 2 then written.hi else inEffect.hi
    config := if pending.getLsbD 3 then written.config else inEffect.config }

def SqRing.next (x : SqRing) : RingWords := mergeWords x.written x.inEffect x.pending
def CqRing.next (x : CqRing) : RingWords := mergeWords x.written x.inEffect x.pending

/-- MSI-X vectors of a function (R288). -/
def vectorCount (inst : Nat) : Nat := if inst = 0 then 64 else 32

/-- Address, size and owner of a ring are unchanged. -/
def sameRing (a b : RingWords) : Bool :=
  a.baseAddr == b.baseAddr && a.idxAddr == b.idxAddr && a.log2 == b.log2 && a.inst == b.inst

/-- R275. -/
def State.ringConfigBad (s : State) : Bool :=
  let size (w : RingWords) : Bool := decide (4 ≤ w.log2) && decide (w.log2 ≤ 16)
  let sqs := s.host.sq.map fun p => (p.2.inEffect, p.2.next)
  let cqs := s.host.cq.map fun p => (p.1, p.2.inEffect, p.2.next)
  let sqOk (o n : RingWords) : Bool :=
    !n.enable || (size n && decide (1 ≤ n.burst) && decide (n.burst ≤ 64)
      && (cqs.any fun c => c.1 == n.cq && c.2.2.enable && c.2.2.inst == n.inst)
      && (!o.enable || (sameRing o n && o.cq == n.cq)))
  let cqOk (o n : RingWords) : Bool :=
    !n.enable || (size n && decide (n.vector < vectorCount n.inst) && (!o.enable || sameRing o n))
  let blocks := ((sqs.filter fun p => p.2.enable).map fun p => p.2.idxAddr)
    ++ (cqs.filter fun p => p.2.2.enable).map fun p => p.2.2.idxAddr
  !(sqs.all fun p => sqOk p.1 p.2) || !(cqs.all fun p => cqOk p.2.1 p.2.2) || hasRepeat blocks

/-- Way mask a requester would have: 0 to 63 instances, then Mover, persist controller and codec. -/
def State.nextMask (s : State) (who : Nat) : Nat :=
  if who < 64 then s.odNext 0x3101 (who + 1) else s.odNext 0x3102 (who - 63)

/-- R258. -/
def State.cacheConfigBad (s : State) : Bool :=
  let locks := (List.range 16).map fun w => (w, s.odNext 0x3103 (w + 1))
  let len := s.odNext 0x3104 2
  (locks.any fun p => decide (0x42 < p.2) && p.2 != 0xFF)
    || (locks.any fun p => p.2 != 0xFF && (List.range 67).any fun who => who != p.2 && (s.nextMask who).testBit p.1)
    || (len != 0 && decide (openSlots s.e384 * slotBytes ≤ s.odNext 0x3104 1 + len - 1))

/-- R300. -/
def State.quotaConfigBad (s : State) : Bool :=
  let q (i sub : Nat) : Nat := s.odNext (0x2100 + i) sub
  let insts := List.range 64
  let keyed := insts.filter fun i => q i 7 != 0
  let count (i : Nat) (ws : List RingWords) : Nat := (ws.filter fun w => w.enable && w.inst == i).length
  let sqs := s.host.sq.map fun p => p.2.next
  let cqs := s.host.cq.map fun p => p.2.next
  let rises (o n : RingWords) : Bool := n.enable && !o.enable &&
    (if h : n.inst < 64 then s.host.insts[n.inst].resetState != 0 else true)
  decide (196608 < (insts.map fun i => q i 5).sum) || (insts.any fun i => decide (256 < q i 6 + q i 7))
    || (keyed.any fun i => keyed.any fun j => i != j && decide (q i 6 < q j 6 + q j 7) && decide (q j 6 < q i 6 + q i 7))
    || (insts.any fun i => decide (q i 1 < count i sqs) || decide (q i 2 < count i cqs))
    || (s.host.sq.any fun p => rises p.2.inEffect p.2.next) || s.host.cq.any fun p => rises p.2.inEffect p.2.next

/-- Roster records (R387): position, MAC of port A, MAC of port B. -/
def rosterOf (v : Nat) : List (Nat × Nat × Nat) :=
  let bs := varBytes v
  (List.range (bs.length / 16)).map fun i => (fieldNat bs (16 * i) 2, fieldNat bs (16 * i + 2) 6, fieldNat bs (16 * i + 8) 6)

/-- Positions rise strictly. -/
def rising : List Nat → Bool
  | a :: b :: r => decide (a < b) && rising (b :: r)
  | _ => true

/-- R423. -/
def State.mirrorConfigBad (s : State) : Bool :=
  let p := s.odNext 0x2000 1
  let lease := s.odNext 0x5001 1
  let roster := rosterOf (s.odNext 0x5010 1)
  s.od 0x5000 1 != 0 && (decide (lease < 4 * p) || decide (s.odNext 0x5001 2 < lease + 2 * p) || decide (s.odNext 0x5001 3 < 32 * p)
    || decide (s.odNext 0x5001 4 < 1) || decide (1000 < s.odNext 0x5001 4)
    || !rising (roster.map fun r => r.1) || !(roster.any fun r => r.1 == s.od 0x5000 3)
    || hasRepeat (roster.flatMap fun r => [r.2.1, r.2.2]))

/-- REFUSE_MASK of the set with the values in effect (R452). -/
def State.refuseMask (s : State) : Nat :=
  (if s.frameConfigBad then 1 else 0) + (if s.ringConfigBad then 2 else 0) + (if s.cacheConfigBad then 4 else 0)
    + (if s.quotaConfigBad then 8 else 0) + (if s.mirrorConfigBad then 16 else 0)

/-- The code of the first failing check. -/
def refuseCodeOf (mask : Nat) : Nat := (((List.range 5).find? fun i => mask.testBit i).map (· + 1)).getD 0

/-- The set is refused whole (R48, R452). -/
def State.refuseSet (s : State) (mask : Nat) : State :=
  let code := refuseCodeOf mask
  let d := s.dict
  let s1 := { s with
    dict := { d with shadow := [], refusals := (d.refusals + 1) % 2 ^ 48, refuseCode := code, refuseFrame := s.frame.frameNo, refuseMask := mask }
    host := { s.host with sq := s.host.sq.map fun (p : Nat × SqRing) => (p.1, { p.2 with pending := 0 })
                          cq := s.host.cq.map fun (p : Nat × CqRing) => (p.1, { p.2 with pending := 0 }) } }
  s1.raise 0x0001 1 code

/-! ### Application -/

/-- Lines that satisfy a test leave the sets and the victim caches, and are counted (R254, R256). -/
def State.invalidate (s : State) (gone : CacheLine → Bool) (victimGone : Nat → Bool) : State :=
  let c := s.cache
  let n := ((c.sets.map fun p => (p.2.filter gone).length).sum) + ((c.victims.map fun p => (p.2.filter victimGone).length).sum)
  { s with cache := { c with
      sets := c.sets.map fun p => (p.1, p.2.filter fun l => !gone l)
      victims := c.victims.map fun p => (p.1, p.2.filter fun m => !victimGone m)
      invalidated := (c.invalidated + n) % 2 ^ 48 } }

/-- Range invalidation (R256). -/
def State.invalidateRange (s : State) (base len : Nat) : State :=
  let hit (ma : Nat) : Bool := decide (base < ma + 192) && decide (ma < base + len)
  if len = 0 then s else s.invalidate (fun l => hit l.ma) hit

/-- Lock changes, against the locks in force (R254, R257). -/
def State.relock (s : State) : State :=
  let changed := (List.range 16).filter fun w =>
    s.odNext 0x3103 (w + 1) != s.od 0x3103 (w + 1) && s.odNext 0x3103 (w + 1) != 0xFF
  if changed.isEmpty then s else s.invalidate (fun l => changed.contains l.way) fun _ => false

/-- A submission ring takes its new context (R275). -/
def State.latchSq (s : State) (r : Nat) : State :=
  let x := s.sq r
  let n := x.next
  if x.pending = 0 then s
  else if x.inEffect.enable && !n.enable then
    let s1 := s.disableSq r
    s1.setSq r { s1.sq r with inEffect := n, pending := 0 }
  else if !x.inEffect.enable && n.enable then
    s.setSq r { x with inEffect := n, pending := 0, state := 1, error := 0, listed := 0, reading := 1, enabling := true, entries := [] }
  else s.setSq r { x with inEffect := n, pending := 0 }

/-- A completion ring takes its new context. -/
def State.latchCq (s : State) (r : Nat) : State :=
  let x := s.cq r
  let n := x.next
  if x.pending = 0 then s
  else if x.inEffect.enable && !n.enable then s.setCq r { x with inEffect := n, pending := 0, state := 0 }
  else if !x.inEffect.enable && n.enable then
    s.setCq r { x with inEffect := n, pending := 0, state := 1, error := 0, count := 0, reading := 1, enabling := true,
                       unpublished := [] }
  else s.setCq r { x with inEffect := n, pending := 0 }

/-- The shadow set is applied as a whole (R47, R257). -/
def State.applySet (s : State) : State :=
  let s1 := (s.invalidateRange (s.odNext 0x3104 1) (s.odNext 0x3104 2)).relock
  let vals := s1.dict.shadow.foldl (fun (v : List (Nat × Nat)) p => (p.1, p.2) :: v.filter fun q => q.1 != p.1) s1.dict.vals
  let s2 := ({ s1 with dict := { s1.dict with vals := vals, shadow := [] } }).odSet 0x3104 2 0
  let s3 := (s2.host.sq.map fun p => p.1).foldl (fun (s : State) r => s.latchSq r) s2
  (s3.host.cq.map fun p => p.1).foldl (fun (s : State) r => s.latchCq r) s3

/-- Nothing waits in the shadow set. -/
def State.shadowEmpty (s : State) : Bool :=
  s.dict.shadow.isEmpty && (s.host.sq.all fun p => p.2.pending == 0) && s.host.cq.all fun p => p.2.pending == 0

/-- The whole set is checked, and applied or refused; the second part says whether a set was applied. -/
def State.latchSet (s : State) : State × Bool :=
  if s.shadowEmpty then (s, false)
  else
    let mask := s.refuseMask
    if mask = 0 then (s.applySet, true) else (s.refuseSet mask, false)

/-! ### Descriptor changes (R67, R68, R71, R300, R453) -/

/-- First row of R68: reserved bits, ABSENT, KIND, and fields beside KIND 0x0. -/
def descReserved (d : BitVec 192) : Bool :=
  d.extractLsb' 112 32 != 0 || decide (5 ≤ descKind d) || d.extractLsb' 100 8 != 0 || d.getLsbD 99 || d.extractLsb' 84 12 != 0
    || d.extractLsb' 0 20 != 0 || (descKind d == 0 && d != 0)

/-- Slots of a descriptor: first and number. -/
def descSlots (d : BitVec 192) : Nat × Nat := (descBase d / slotBytes, if descKind d = 0 then 0 else descSegs d)

/-- Valid descriptors other than one: key and descriptor. -/
def State.otherDescs (s : State) (inst sel : Nat) : List (Nat × BitVec 192) :=
  s.host.descs.filter fun p => p.1 != 4096 * inst + sel && descKind p.2 != 0

/-- The status of R68 for a descriptor write, or 0. -/
def State.descStatus (s : State) (inst sel : Nat) (d : BitVec 192) : Nat :=
  let (b, n) := descSlots d
  if descReserved d then Status.reservedField
  else if descKind d = 0 then 0
  else if openSlots s.e384 * slotBytes ≤ descBase d + descLimit d then Status.segRange
  else if (s.otherDescs inst sel).any fun p =>
      let (c, m) := descSlots p.2
      decide (b < c + m) && decide (c < b + n) then Status.segOverlap
  else if (descKind d = 4 ∧ descPersist d = true) ∨ (descPersist d = true ∧ descSpan d = 0) then Status.segRange
  else 0

/-- Valid descriptors of an instance and the slots they span (R299). -/
def descUse (descs : List (Nat × BitVec 192)) (inst : Nat) : Nat × Nat :=
  let mine := descs.filter fun p => p.1 / 4096 == inst && descKind p.2 != 0
  (mine.length, (mine.map fun p => (descSlots p.2).2).sum)

/-- The quota check of R300. -/
def State.overQuota (s : State) (inst sel : Nat) (d : BitVec 192) : Bool :=
  let (n0, m0) := descUse s.host.descs inst
  let (n1, m1) := descUse (insertK s.host.descs (4096 * inst + sel) d) inst
  (decide (n0 < n1) && decide (s.quota inst 3 < n1)) || (decide (m0 < m1) && decide (s.quota inst 4 < m1))

/-- The 32-byte body of a SEGDESC record, with ABSENT 0 (R353). -/
def segdescBody (inst sel : Nat) (d : BitVec 192) : List Byte :=
  leBytes 1 inst ++ [0] ++ leBytes 2 sel ++ List.replicate 4 0 ++ leBytes 24 (d &&& ~~~(BitVec.ofNat 192 (2 ^ 99))).toNat

/-- A record of a cocoon (R353): header, body and padding. -/
def cocoonRecord (type : Nat) (pcc : Bool) (body : List Byte) : List Byte :=
  leBytes 1 type ++ [if pcc then 1 else 0] ++ leBytes 6 body.length ++ body ++ List.replicate ((8 - body.length % 8) % 8) 0

/-- A slot of the descriptor's span is not resident. -/
def State.spanAbsent (s : State) (d : BitVec 192) : Bool :=
  (List.range (descSlots d).2).any fun i => !s.resident ((descSlots d).1 + i)

/-- The descriptor with ABSENT as the engine maintains it: 1 while a slot of the span is not resident (R67, R70). -/
def State.withAbsent (s : State) (d : BitVec 192) : BitVec 192 :=
  if descKind d != 0 && s.spanAbsent d then d ||| BitVec.ofNat 192 (2 ^ 99) else d &&& ~~~(BitVec.ofNat 192 (2 ^ 99))

/-- A descriptor takes effect: it is staged for the cocoon (R349, R350) and enters the frame's sums (R411). -/
def State.applyDesc (s : State) (inst sel : Nat) (d : BitVec 192) : State :=
  let body := segdescBody inst sel d
  let g := s.persist.staged
  let s1 := { s with
    host := { s.host with descs := if descKind d = 0 then s.host.descs.filter fun p => p.1 != 4096 * inst + sel
                                   else insertK s.host.descs (4096 * inst + sel) (s.withAbsent d) }
    persist := { s.persist with staged := { g with segdesc := g.segdesc ++ cocoonRecord 1 false body, records := g.records + 1, journal := true } } }
  s1.sumMerge body

/-- An entry in the work table names a selector in a set of its image or job (R71). -/
def State.selectorInUse (s : State) (inst sel : Nat) : Bool :=
  s.work.any fun e => entryField e.entry 0 1 != 4 && (e.named.reads ++ e.named.writes).contains (inst, sel)

/-- One descriptor change: applied, refused, or still pending (R71, R453). -/
def State.latchDesc (s : State) (c : DescChange) : State :=
  if s.selectorInUse c.inst c.selector then s
  else
    let st := s.descStatus c.inst c.selector c.descriptor
    let st := if st = 0 ∧ s.overQuota c.inst c.selector c.descriptor then Status.quotaExceeded else st
    let s1 := if st = 0 then s.applyDesc c.inst c.selector c.descriptor else s
    let s2 := { s1 with host := { s1.host with changes := s1.host.changes.filter fun x => x != c } }
    match c.slot.bind s2.entry? with
    | some e => s2.finish e.slot e.pos st 0
    | none => s2

/-- The descriptor changes, in the order their entries were listed (R453). -/
def State.latchDescs (s : State) : State := s.host.changes.foldl (fun (s : State) c => s.latchDesc c) s

end Sys2Proof.Machine
end

