-- ==== Sys2Proof/Machine/Durable.lean ====
section
/-! DEFINITION. Cocoons, commit and the chrysalis (R349 to R374), and their commands. -/

namespace Sys2Proof.Machine

/-- The journal key: the key-store slot that OD 0x4000.07 names (R355). -/
def State.journalKey (s : State) : List Byte := lookupD s.digest.keys (s.od 0x4000 7) []

/-- A compare of the engine's own counts (R342, R348). -/
def State.countCompare (s : State) : State :=
  { s with digest := { s.digest with compares := (s.digest.compares + 1) % 2 ^ 48 } }

/-! ### The volume (R367 to R369) -/

/-- Ports of a mask, ascending. -/
def maskPorts (mask : Nat) : List (Fin 4) := (List.finRange 4).filter fun p => mask.testBit p.val

/-- W (R367). -/
def widthOf (mode mask : Nat) : Nat := if mode = 0 then (maskPorts mask).length else (maskPorts mask).length / 2

/-- Members that hold a volume block (R368). -/
def PersistSet.membersAt (p : PersistSet) (v : Nat) : List (Fin 4) :=
  let l := (v / 64) % p.width
  let ports := maskPorts p.portMask
  if p.mode = 0 then (ports.drop l).take 1 else (ports.drop (2 * l)).take 2

def State.setPort (s : State) (p : Fin 4) (x : PersistPort) : State :=
  { s with persist := { s.persist with ports := s.persist.ports.set p x } }

/-- A run of volume blocks is read, each from the first member that holds it and serves (R368, R383). -/
def State.countBlocks (s : State) (v n : Nat) : State :=
  match s.persist.set with
  | none => s
  | some p => (List.range n).foldl (fun (s : State) i =>
      match (p.membersAt (v + i)).find? fun m => s.persist.ports[m].state == 2 with
      | some m => s.setPort m { s.persist.ports[m] with reads := (s.persist.ports[m].reads + 1) % 2 ^ 48 }
      | none => s) s

/-! ### NVMe commands (R356, R363, R365, R368) -/

/-- A Write with FUA, or a Flush, that the persist controller gives a member: I/O queue 1 carries cocoons, queue 2 the rest (R365). -/
structure SsdCommand where
  port : Nat
  queue : Nat
  flush : Bool
  lba : Nat
  blocks : Nat
deriving DecidableEq, Repr

/-- Where a volume block lies on its member (R368). -/
def PersistSet.lbaOf (p : PersistSet) (v : Nat) : Nat := 256 + v / (64 * p.width) * 64 + v % 64

/-- Volume blocks cut into runs that each lie within one stripe unit (R356). -/
def stripeRuns : Nat → Nat → Nat → List (Nat × Nat)
  | 0, _, _ => []
  | fuel + 1, v, n =>
    if n = 0 then []
    else
      let k := min n (64 - v % 64)
      (v, k) :: stripeRuns fuel (v + k) (n - k)

/-- The commands that write a run of volume blocks: in MIRROR mode each goes to both members of the pair. -/
def PersistSet.writeRun (p : PersistSet) (queue v n : Nat) : List SsdCommand :=
  (stripeRuns n v n).flatMap fun r => (p.membersAt r.1).map fun m =>
    { port := m.val, queue := queue, flush := false, lba := p.lbaOf r.1, blocks := r.2 }

/-- The commands of one write of the controller. A cocoon that reaches the end of the ring goes on at its start (R369). -/
def PersistSet.commands (p : PersistSet) (w : PersistWrite) : List SsdCommand :=
  match w with
  | .cocoon jpos bytes =>
    let at_ := jpos % p.jringBlocks
    let n := bytes.length / 4096
    let k := min n (p.jringBlocks - at_)
    p.writeRun 1 (22528 + at_) k ++ p.writeRun 1 22528 (n - k)
  | .slot unit _ => p.writeRun 2 (22528 + p.jringBlocks + 256 * unit) 256
  | .map sel bytes => p.writeRun 2 (3072 * sel) (ceilDiv bytes.length 4096)
  | .manifest sel bytes => p.writeRun 2 (6144 + 8192 * sel) (ceilDiv bytes.length 4096)
  | .superblock port copyB _ => [{ port := port, queue := 2, flush := false, lba := if copyB then 8 else 0, blocks := 1 }]
  | .wipe port => [{ port := port, queue := 2, flush := false, lba := 0, blocks := 256 }]
  | .flush port => [{ port := port, queue := 2, flush := true, lba := 0, blocks := 0 }]

/-- A write of the controller: the members that serve get its commands, and count the blocks (R356, R383). -/
def State.submit (s : State) (p : PersistSet) (w : PersistWrite) : State :=
  let cs := p.commands w
  let count (m : Fin 4) : PersistPort :=
    let x := s.persist.ports[m]
    if x.state = 2 then { x with writes := (x.writes + ((cs.filter fun c => c.port == m.val).map fun c => c.blocks).sum) % 2 ^ 48 } else x
  { s with persist := { s.persist with sent := s.persist.sent ++ [w], ports := Vector.ofFn count } }

/-! ### Cocoons (R352 to R356) -/

/-- The 24 bytes of a frame header (R44). -/
def FrameHeader.bytes (h : FrameHeader) : List Byte :=
  leBytes 6 h.frameNo ++ leBytes 6 h.tstamp.toNat ++ leBytes 2 h.periodUs ++ leBytes 2 h.quota ++ leBytes 2 h.mergeAllow
    ++ leBytes 2 h.entryCount ++ leBytes 2 ((if h.config then 1 else 0) + if h.quiescent then 2 else 0) ++ [0, 0]

/-- The 80 bytes of a list record (R284). -/
def ListRecord.bytes (r : ListRecord) : List Byte :=
  leBytes 2 r.ring ++ leBytes 1 r.inst ++ [if r.refuse = 0 then 0 else 1] ++ leBytes 2 r.refuse ++ leBytes 2 r.slot
    ++ leBytes 4 r.sqIndex ++ List.replicate 4 0 ++ leBytes 64 r.entry.toNat

/-- LIST, DESC and IMAGE records of a list record (R353, R354): the bytes and how many records. -/
def ListRecord.records (r : ListRecord) : List Byte × Nat :=
  let kind := entryField r.entry 0 1
  let l := cocoonRecord 3 false r.bytes
  if r.refuse ≠ 0 ∨ r.reset then (l, 1)
  else if kind = 2 ∨ kind = 3 ∨ kind = 4 then (l ++ cocoonRecord 4 false (leBytes 64 r.desc.toNat), 2)
  else if kind = 1 then (l ++ cocoonRecord 5 false ((r.image.map fun i => i.bytes).getD []), 2)
  else (l, 1)

/-- A table record (R373). -/
def KmaTable.record (t : KmaTable) : List Byte :=
  let item (b : Nat) : List Byte :=
    leBytes 1 b ++ List.replicate 7 0
      ++ leBytes 16 (((t.extents.filter fun x => x.1 == b).map fun x => 2 ^ x.2).sum)
  leBytes 2 t.tag ++ leBytes 1 t.inst ++ leBytes 1 t.span.length ++ leBytes 1 t.perBank
    ++ leBytes 1 ((if t.ordered then 1 else 0) + (if t.unique then 2 else 0) + (if t.dict then 4 else 0))
    ++ leBytes 1 t.bankset ++ [0] ++ leBytes 4 t.limit ++ leBytes 4 t.dictId ++ t.span.flatMap item

/-- Chunks of 262,144 bytes (R352). -/
def chunks : Nat → List Byte → List (List Byte)
  | 0, _ => []
  | n + 1, l => if l.isEmpty then [] else l.take 262144 :: chunks n (l.drop 262144)

def chunkDigests (records : List Byte) : List (List Byte) := (chunks (records.length / 262144 + 1) records).map sha256

/-- What SEAL covers: header bytes 0 to 95 and the chunk digests. -/
def sealInput (head records : List Byte) : List Byte := head ++ (chunkDigests records).flatten

/-- The seal of a cocoon is made: its chunks on the persist lanes, the HMAC on context 15 (R334, R355). -/
def State.hashSeal (s : State) (head records : List Byte) : State :=
  (s.hashLanes (chunkDigests records)).hashOn 2 1 (some s.journalKey) (sealInput head records)

/-- Header bytes 0 to 95 of a cocoon (R352). -/
def cocoonHead (frame prev jpos bytes count epoch : Nat) (setId : List Byte) (h : FrameHeader) : List Byte :=
  leBytes 4 0xC0C00A15 ++ leBytes 2 1 ++ [0, 0] ++ leBytes 6 frame ++ leBytes 6 prev ++ leBytes 6 jpos
    ++ leBytes 4 (ceilDiv (128 + bytes) 4096) ++ [0, 0] ++ leBytes 6 bytes ++ leBytes 4 count ++ leBytes 6 epoch ++ setId
    ++ h.bytes ++ List.replicate 8 0

def emptyStaged : Staged := { segdesc := [], place := [], placed := [], lists := [], data := [], records := 0, journal := false }

/-- Sequencing epoch for cocoons and superblocks; 0 on a solo engine (R420). -/
def State.writtenEpoch (s : State) : Nat := if s.od 0x5000 1 = 0 then 0 else s.mirror.epoch

/-- Use of the ring in blocks (R359). -/
def State.ringUse (s : State) : Nat :=
  match s.persist.set with
  | none => 0
  | some p => s.persist.nextJpos - p.jposStart

/-- A chrysalis becomes due, unless it is already (R362). -/
def State.markDue (s : State) (frame : Nat) : State :=
  if s.persist.due then s else { s with persist := { s.persist with due := true, dueSince := frame } }

/-- JOURNAL_LOW when use reaches its mark from below (R359). -/
def State.checkLow (s : State) : State :=
  match s.persist.set with
  | none => s
  | some p =>
    let at_ := decide (s.od 0x4001 2 * p.jringBlocks ≤ 100 * s.ringUse)
    if at_ && !s.persist.lowRaised then
      (({ s with persist := { s.persist with lowRaised := true } }).markDue (s.frame.frameNo + 1)).raise 0x0041 1 0
    else if at_ then s
    else { s with persist := { s.persist with lowRaised := false } }

/-- The cocoon of the frame that ends is sealed and queued for writing (R356, R359). Its whole blocks count toward CHRYSALIS_BYTES (R352,
R362; DEDUCED, assumption 50). -/
def State.sealCocoon (s : State) : State :=
  let f := s.frame.frameNo
  let g := s.persist.staged
  let s1 := { s with persist := { s.persist with staged := emptyStaged } }
  if !g.journal || s.replaying then s1
  else
    let s2 := { s1 with persist := { s1.persist with open_ := s1.persist.open_ ++ [f] } }
    match s2.persist.set with
    | none => s2
    | some p =>
      let recs := g.segdesc ++ g.place ++ g.lists ++ g.data
      let blocks := ceilDiv (128 + recs.length) 4096
      let jpos := s2.persist.nextJpos
      if s.od 0x4000 1 = 0 ∨ !(s.persist.state == 4 || s.persist.state == 5) then s2
      else if s2.persist.stalled then s2
      else if p.jposStart + p.jringBlocks < jpos + blocks then
        ({ s2 with persist := { s2.persist with stalled := true } }).raise 0x0042 2 0
      else
        let head := cocoonHead f s2.persist.lastCocoonFrame jpos recs.length g.records s.writtenEpoch p.setId s.frame.header
        let bytes := head ++ hmac256 s.journalKey (sealInput head recs) ++ recs
        let pad := List.replicate (4096 * blocks - bytes.length) 0
        let s3 := { s2 with persist := { s2.persist with
          nextJpos := jpos + blocks, lastCocoonFrame := f, chrysBytes := s2.persist.chrysBytes + 4096 * blocks,
          waiting := s2.persist.waiting ++ [({ frame := f, jpos := jpos, blocks := blocks } : SealedCocoon)] } }
        ((s3.submit p (.cocoon jpos (bytes ++ pad))).hashSeal head recs).checkLow

/-! ### Commit (R357) -/

/-- The engine has a downstream neighbour whose acknowledgement commit needs (R396, R418). -/
def State.needsAck (s : State) : Bool :=
  (s.mirror.state == 3 || s.mirror.state == 4) && s.mirror.portB.peer != 0xFFFF && !s.mirror.portB.failed
    && !(match s.mirror.join with
      | some j => j.donor
      | none => false)

/-- COMMITTED_FRAME follows the cocoons, up to the last frame that has ended. -/
def State.advanceCommit (s : State) (ended : Nat) : State :=
  let p := s.persist
  let own := match p.open_ with
    | [] => ended
    | f :: _ => min ended (f - 1)
  let base := if s.needsAck then min own s.mirror.downAck else own
  let late := p.lateRaised.filter fun f => decide (base < f)
  if p.state = 6 ∨ s.frozen then s
  else { s with persist := { p with committed := max p.committed base, lateRaised := late }
                health := { s.health with commitLate := !late.isEmpty } }

/-- COCOON_ACKNOWLEDGED (R356). -/
def execCocoonAcknowledged (frame : Nat) (s : State) : Host.Outcome State Fault Refusal :=
  let p := s.persist
  .next (if !(p.waiting.any fun c => c.frame == frame) || p.state == 6 then s
    else ({ s with persist := { p with waiting := p.waiting.filter fun c => c.frame != frame,
                                       open_ := p.open_.filter fun f => f != frame } }).advanceCommit (s.frame.frameNo - 1))

/-- COMMIT_TIMEOUT (R358, R397): the oldest journal frame not committed is late. -/
def execCommitTimeout (s : State) : Host.Outcome State Fault Refusal :=
  let p := s.persist
  .next (match (p.open_ ++ (if s.needsAck ∧ s.mirror.downAck < s.frame.frameNo - 1 then [s.mirror.downAck + 1] else [])).find? fun f =>
      !p.lateRaised.contains f with
    | none => s
    | some f =>
      let s1 := ({ s with persist := { p with lateRaised := p.lateRaised ++ [f] } }).raiseAt 0x0040 2 packageLocation f 0
      if s.od 0x5000 1 = 0 then s1
      else
        let s2 := { s1 with health := { s1.health with commitLate := true } }
        let b := s.mirror.portB
        if s.od 0x5001 5 = 1 ∧ s.mirror.state = 4 ∧ b.t1sLive ∧ !b.mirLive then
          { s2 with mirror := { s2.mirror with detaching := true, leaseValid := false } }
        else s2)

/-! ### The chrysalis (R362 to R364, R371 to R374) -/

/-- Slots of the spans with PERSIST 1: slot, SPAN_ID and place in the span. -/
def State.persistSlots (s : State) : List (Nat × Nat × Nat) :=
  (s.host.descs.filter fun p => descKind p.2 != 0 && descPersist p.2).flatMap fun p =>
    let (b, n) := descSlots p.2
    (List.range n).map fun i => (b + i, descSpan p.2, i)

/-- The first unit from u on that no entry of a map holds. -/
def freeUnit (used : List Nat) (total : Nat) : Nat → Nat → Nat
  | 0, u => u % total
  | n + 1, u => if used.contains (u % total) then freeUnit used total n (u + 1) else u % total

/-- Bytes of a slot, as of now. -/
def State.slotBytesNow (s : State) (slot : Nat) : List Byte := s.bytesAt (slot * slotBytes) slotBytes

/-- A slot is read line by line, and its header with it: by the persist controller, requester 65, which may fill the cache, or by the
mirror, which may not (R249). A poisoned line is taken as it is. -/
def State.readSlot (s : State) (slot : Nat) (mirror : Bool) : State :=
  let s1 := (s.readRange (slot * slotBytes) slotBytes 65 (!mirror)).1
  if mirror then s1 else s1.persistRead (slot * slotBytes) slotBytes

/-- The map entry of a slot with these bytes, before it has a store unit (R371). -/
def freshMapEntry (bs : List Byte) (spanId seq heat : Nat) : MapEntry :=
  { unit := 0xFFFFFFFF, spanId := spanId, seq := seq, heat := heat, present := true, zero := bs.all fun b => b == 0, crc := crc64 bs }

/-- A slot that is not all zero takes a free store unit and is written there; which one is a free value (DESIGN CHOICE,
assumption 64). -/
def State.placeEntry (s : State) (p : PersistSet) (used : List Nat) (slot : Nat) (e : MapEntry) : State × MapEntry :=
  if e.zero then (s, e)
  else
    let s1 := s.fresh.2
    let unit := freeUnit used p.storeUnits used.length s.fresh.1
    (s1.submit p (.slot unit slot), { e with unit := unit })

/-- The map entry of a slot that the chrysalis writes, and the store unit it goes to (R363, R371, R374). -/
def State.freshEntry (s : State) (p : PersistSet) (used : List Nat) (slot spanId seq heat : Nat) : State × MapEntry :=
  (s.readSlot slot false).placeEntry p used slot (freshMapEntry (s.slotBytesNow slot) spanId seq heat)

/-- HEAT at a chrysalis (R374). -/
def nextHeat (old fetched : Nat) : Nat := min 65535 (old / 2 + fetched / 16)

/-- An entry joins the map being made. -/
def pushEntry (l : List (Nat × MapEntry)) (slot : Nat) (n : State × MapEntry) : State × List (Nat × MapEntry) := (n.1, l ++ [(slot, n.2)])

/-- One slot of the map of a chrysalis: the old entry of a slot that is present and not dirty, else a fresh one. -/
def newMapStep (p : PersistSet) (old : List (Nat × MapEntry)) (units : List Nat) (r : State × List (Nat × MapEntry)) (q : Nat × Nat × Nat) :
    State × List (Nat × MapEntry) :=
  let heat (o : Nat) : Nat := nextHeat o (lookupD r.1.mem.heat q.1 0)
  let used := units ++ (r.2.filter fun e => e.2.unit != 0xFFFFFFFF).map fun e => e.2.unit
  match lookup? old q.1 with
  | some e =>
    if e.present && !r.1.mem.dirty.contains q.1 then (r.1, r.2 ++ [(q.1, { e with heat := heat e.heat, spanId := q.2.1, seq := q.2.2 })])
    else pushEntry r.2 q.1 (r.1.freshEntry p used q.1 q.2.1 q.2.2 (heat e.heat))
  | none => pushEntry r.2 q.1 (r.1.freshEntry p used q.1 q.2.1 q.2.2 (heat 0))

/-- The new map (R363): new entries for the dirty slots, the others carried over. -/
def State.newMap (s : State) (p : PersistSet) : State × List (Nat × MapEntry) :=
  let old := s.persist.map
  let units := (old.filter fun e => e.2.unit != 0xFFFFFFFF).map fun e => e.2.unit
  s.persistSlots.foldl (newMapStep p old units) (s, [])

/-- The 32 bytes of a map entry (R371). -/
def MapEntry.bytes (e : MapEntry) : List Byte :=
  leBytes 4 e.unit ++ leBytes 6 e.spanId ++ leBytes 2 e.seq ++ leBytes 2 e.heat
    ++ leBytes 1 ((if e.present then 1 else 0) + if e.zero then 2 else 0) ++ [0] ++ leBytes 8 e.crc ++ List.replicate 8 0

def absentEntry : MapEntry := { unit := 0xFFFFFFFF, spanId := 0, seq := 0, heat := 0, present := false, zero := false, crc := 0 }

def asciiBytes (t : String) : List Byte := t.toList.map fun c => BitVec.ofNat 8 c.toNat

/-- A map area (R371). -/
def mapBytes (slots chrysNo : Nat) (m : List (Nat × MapEntry)) : List Byte :=
  asciiBytes "TQ48SMAP" ++ leBytes 6 chrysNo ++ leBytes 4 slots ++ List.replicate 4078 0
    ++ (List.range slots).flatMap fun i => (lookupD m i absentEntry).bytes

/-- Pads to a block. -/
def padBlock (l : List Byte) : List Byte := l ++ List.replicate ((4096 - l.length % 4096) % 4096) 0

/-- The manifest (R372). -/
def State.manifestBytes (s : State) (no frame : Nat) (tstamp : Word) : List Byte :=
  let descs := s.host.descs.filter fun p => descKind p.2 != 0
  let tables := s.kma.tables.filter fun t => decide (t.tag < 0x4000)
  let entries := s.kma.entries.filter fun p => decide (p.2.tag < 0x4000)
  let d := padBlock (descs.flatMap fun p => segdescBody (p.1 / 4096) (p.1 % 4096) p.2)
  let t := padBlock (tables.flatMap fun t => t.record)
  let e := padBlock (entries.flatMap fun p =>
    leBytes 1 (p.1 / 8192) ++ [if s.kma.poisoned.contains p.1 then 1 else 0] ++ leBytes 2 (p.1 % 8192) ++ [0, 0] ++ kmaEntryBytes p.2)
  let total := 4096 + d.length + t.length + e.length
  asciiBytes "TQ48CHRY" ++ leBytes 6 no ++ leBytes 6 frame ++ leBytes 6 tstamp.toNat ++ leBytes 4 descs.length
    ++ leBytes 4 tables.length ++ leBytes 4 entries.length ++ leBytes 6 total ++ leBytes 6 4096 ++ leBytes 6 (4096 + d.length)
    ++ leBytes 6 (4096 + d.length + t.length) ++ List.replicate 4034 0 ++ d ++ t ++ e

/-- The superblock of a member (R370). -/
def PersistSet.superblock (p : PersistSet) (slots epoch : Nat) (member : Fin 4) (mapSeal manifestSeal : List Byte) : List Byte :=
  let b := asciiBytes "TQ48SUPR" ++ leBytes 2 1 ++ leBytes 1 member.val ++ leBytes 1 p.mode ++ leBytes 1 p.portMask
    ++ leBytes 1 p.width ++ [0, 0] ++ p.setId ++ leBytes 6 p.generation ++ leBytes 6 p.chrysNo ++ leBytes 6 p.chrysFrame
    ++ leBytes 6 p.jposStart ++ leBytes 6 p.volumeBlocks ++ leBytes 6 p.jringBlocks ++ leBytes 4 p.storeUnits ++ leBytes 4 slots
    ++ leBytes 1 p.mapSel ++ leBytes 1 p.keySource ++ [0, 0] ++ p.label ++ mapSeal ++ manifestSeal ++ leBytes 6 epoch
  let c := b ++ List.replicate (4088 - b.length) 0
  c ++ leBytes 8 (crc64 c)

/-- The superblock goes to every member that serves; chrysalis n writes copy A when n is even (R363). -/
def State.writeSuperblocks (s : State) (p : PersistSet) (map manifest : List Byte) : State :=
  let ms := hmac256 s.journalKey map
  let fs := hmac256 s.journalKey manifest
  let s1 := (s.hashOn 2 1 (some s.journalKey) map).hashOn 2 1 (some s.journalKey) manifest
  (maskPorts p.portMask).foldl (fun (s : State) (m : Fin 4) =>
    if s.persist.ports[m].state ≠ 2 then s
    else s.submit p (.superblock m.val (decide (p.chrysNo % 2 = 1)) (p.superblock (slotCount s.e384) s.writtenEpoch m ms fs))) s1

/-- The tick about to fire is write-quiet (R362). -/
def State.writeQuiet (s : State) : Bool :=
  !(s.work.any fun e => decide (e.slot < 256) && e.writes) && !(s.frame.next.records.any fun r => r.entry.getLsbD 8)

/-- A Flush goes to every member that reports a volatile write cache (R363). -/
def State.flushCaches (s : State) (p : PersistSet) : State :=
  (maskPorts p.portMask).foldl (fun (s : State) (m : Fin 4) =>
    if s.persist.ports[m].state = 2 ∧ s.persist.ports[m].vwc then s.submit p (.flush m.val) else s) s

/-- A chrysalis starts at tick k (R363). -/
def State.startChrysalis (s : State) (k : Nat) (p : PersistSet) (format : Bool) : State :=
  let (s1, m) := s.newMap p
  let no := p.chrysNo + 1
  let tstamp := s.frame.next.header.tstamp
  let c : Chrysalis :=
    { no := no, frame := k, tstamp := tstamp, jposStart := s.persist.nextJpos, bytesAt := s.persist.chrysBytes, map := m,
      manifest := s.manifestBytes no k tstamp, dirty := s.mem.dirty, heat := s.mem.heat, sealed := false, format := format }
  let sel := 1 - p.mapSel
  let s2 := { s1 with
    mem := { s1.mem with dirty := s1.mem.dirty.filter fun d => !(m.any fun e => e.1 == d), heat := [] }
    persist := { s1.persist with chrysalis := some c, due := false, dueSince := 0, stalled := false } }
  (((s2.submit p (.manifest sel c.manifest)).submit p (.map sel (mapBytes (slotCount s.e384) no m)))).flushCaches p

/-- A chrysalis in progress is abandoned: the previous one stands (R364). -/
def State.dropChrysalis (s : State) : State :=
  match s.persist.chrysalis with
  | none => s
  | some c =>
    let heat := c.heat.foldl (fun (m : List (Nat × Nat)) p => insertK m p.1 (min (2 ^ 20) (lookupD m p.1 0 + p.2))) s.mem.heat
    ({ s with mem := { s.mem with dirty := c.dirty ++ s.mem.dirty.filter fun d => !c.dirty.contains d, heat := heat }
              persist := { s.persist with chrysalis := none } }).markDue s.frame.frameNo

/-- The conditions of R362 that make a chrysalis due at a tick. -/
def State.chrysalisDue (s : State) (k : Nat) : Bool :=
  s.persist.due || (match s.persist.set with
    | none => false
    | some p => decide (p.chrysFrame + s.od 0x4001 1 ≤ k) || decide (s.od 0x4001 4 ≤ s.persist.chrysBytes))

/-- Between steps 4 and 5 of tick k: a due chrysalis is taken, or its wait is counted (R362, R396). -/
def State.chrysalisTick (s : State) (k : Nat) : State :=
  match s.persist.set with
  | none => s
  | some p =>
    if !s.chrysalisDue k || s.persist.chrysalis.isSome || !(s.persist.state == 4 || s.persist.state == 5) then s
    else if s.writeQuiet && (!s.needsAck || decide (k ≤ s.mirror.downAck + 1)) then s.startChrysalis k p false
    else
      let s1 := s.markDue k
      let age := k - s1.persist.dueSince
      if age ≠ 0 ∧ age % s.od 0x4001 1 = 0 then s1.raise 0x0043 1 0 else s1

/-- The values of the superblock a chrysalis writes (R363). -/
def Chrysalis.newSet (c : Chrysalis) (p : PersistSet) : PersistSet :=
  { p with generation := p.generation + 1, chrysNo := c.no, chrysFrame := c.frame, jposStart := c.jposStart, mapSel := 1 - p.mapSel }

/-- CHRYSALIS_WRITE_ACK (R363 step 6). -/
def execChrysalisWriteAck (s : State) : Host.Outcome State Fault Refusal :=
  .next (match s.persist.chrysalis, s.persist.set with
    | some c, some p =>
      if c.sealed || s.frozen || s.persist.state == 6 then s
      else
        let s1 := s.writeSuperblocks (c.newSet p) (mapBytes (slotCount s.e384) c.no c.map) c.manifest
        { s1 with persist := { s1.persist with chrysalis := some { c with sealed := true } } }
    | _, _ => s)

/-- A joiner whose first chrysalis is complete is the tail (R418). -/
def State.joined (s : State) : State :=
  match s.mirror.join with
  | some j => if !j.donor && j.provisional then { s with mirror := { s.mirror with join := none } } else s
  | none => s

/-- ACK_FRAME (R396): the highest frame committed by conditions 1 or 2 of R357. -/
def ackBelow (byChrys : List Nat) : Nat → Nat
  | 0 => 0
  | f + 1 => if byChrys.contains (f + 1) then ackBelow byChrys f else f + 1

def State.ackFrame (s : State) : Nat :=
  let own := ackBelow s.persist.byChrys s.persist.committed
  if s.needsAck then min own s.mirror.downAck else own

/-- CHRYSALIS_COMPLETE (R357, R363 step 7). -/
def execChrysalisComplete (s : State) : Host.Outcome State Fault Refusal :=
  .next (match s.persist.chrysalis, s.persist.set with
    | some c, some p =>
      if !c.sealed || s.frozen || s.persist.state == 6 then s
      else
        let gone := s.persist.open_.filter fun f => decide (f < c.frame)
        let s1 := { s with persist := { s.persist with
          byChrys := if s.od 0x5000 1 = 0 then [] else s.persist.byChrys ++ gone
          chrysalis := none, set := some (c.newSet p), map := c.map, chrysBytes := s.persist.chrysBytes - c.bytesAt
          open_ := s.persist.open_.filter fun f => decide (c.frame ≤ f), committed := max s.persist.committed (c.frame - 1) } }
        (s1.checkLow.joined).advanceCommit (s.frame.frameNo - 1)
    | _, _ => s)

/-- CHRYSALIS_SOON (R362, R384). -/
def execChrysalisSoon (s : State) : Host.Outcome State Fault Refusal :=
  .next (s.markDue s.frame.frameNo)

/-! ### FORMAT (R369, R384) -/

/-- The layout FORMAT would write: volume blocks, ring blocks and store units. -/
def State.formatLayout (s : State) (mode mask : Nat) : Nat × Nat × Nat :=
  let w := widthOf mode mask
  let smallest := ((maskPorts mask).map fun m => s.persist.ports[m].blocks).foldl min (2 ^ 64)
  let vol := w * ((smallest - 256) / 64) * 64
  let ring := 256 * s.od 0x4000 4
  (vol, ring, (vol - (22528 + ring)) / 256)

/-- FORMAT (R384): it waits for the next quiescent tick. -/
def execFormat (s : State) : Host.Outcome State Fault Refusal :=
  .next { s with persist := { s.persist with formatWaiting := true } }

/-- A waiting FORMAT at quiescent tick k (R369, R384). The superblock that completes chrysalis 1 is the first, with GENERATION 1 (R370;
DEDUCED, assumption 49). Before it, the first blocks of every member are zero, superblocks of an older set with them (R368; DEDUCED,
assumption 159). SET_ID is a free value (DESIGN CHOICE, assumption 65). -/
def State.formatTick (s : State) (k : Nat) : State :=
  let mode := s.od 0x4000 2
  let mask := s.od 0x4000 3
  let ports := maskPorts mask
  let (vol, ring, units) := s.formatLayout mode mask
  let s0 := { s with persist := { s.persist with formatWaiting := false } }
  if !s.persist.formatWaiting || s.persist.chrysalis.isSome || (s.od 0x4000 5 == 1 && !s.persist.keyReady) then s
  else if ports.any fun m => s.persist.ports[m].state != 2 then s0
  else if units < 2 * (slotCount s.e384 - 256) then { s0 with persist := { s0.persist with state := 8, restoreStatus := Status.persistTooSmall } }
  else
    let (id, s1) := s0.fresh
    let p : PersistSet :=
      { setId := leBytes 16 id, generation := 0, chrysNo := 0, chrysFrame := k, jposStart := 0, volumeBlocks := vol, jringBlocks := ring,
        storeUnits := units, mapSel := 0, keySource := s.od 0x4000 5, label := leBytes 16 (s.od 0x4000 6), mode := mode,
        portMask := mask, width := widthOf mode mask }
    let s2 := { s1 with persist := { s1.persist with
      set := some p, map := [], nextJpos := 0, lastCocoonFrame := 2 ^ 48 - 1, chrysBytes := 0, waiting := [], lowRaised := false, stalled := false
      restoreStatus := 0, state := if s1.allHere then 5 else 4 } }
    (ports.foldl (fun (s : State) m => s.submit p (.wipe m.val)) s2).startChrysalis k p true

end Sys2Proof.Machine
end

