-- ==== Sys2Proof/Machine/Frames.lean ====
section
/-! DEFINITION. The steps of a tick (R24): the digest, the release of completions, the start of a frame and the fixing of the
next list. -/

namespace Sys2Proof.Machine

/-! ### Step 2: the frame-state digest (R411) -/

/-- Entries whose last stage is over and whose Carafes are all signalled finish in the frame that ends (R116). -/
def State.finishDone (s : State) : State :=
  s.work.foldl (fun (s : State) e => match e.image with
    | none => s
    | some img =>
      if e.begun && e.fail.isNone && e.finished.isNone && decide (img.stages.length ≤ e.stage) && e.carafes == 0 then
        s.finish e.slot e.pos 0 0
      else s) s

/-- Carafes handed off before the failure of their entry, and the entries finished in the frame, enter OSUM. -/
def State.sumOutputs (s : State) : State :=
  s.work.foldl (fun (s : State) e =>
    let cut := match e.fail with
      | some f => f.pos
      | none => 2 ^ 64
    let s1 := (e.out.filter fun o => decide (o.1 < cut)).foldl (fun (s : State) o => s.sumOutput o.2.2) s
    match e.finished with
    | some (f, st, _) =>
      if f = s.frame.frameNo then
        s1.sumOutput (crc64 (leBytes 2 e.slot ++ leBytes 2 (if st = Status.carafeLost ∨ st = Status.holdOverflow then 0 else st)))
      else s1
    | none => s1) s

/-- The 104 bytes D_k covers. -/
def State.digestInput (s : State) : List Byte :=
  let u := s.frame.sums
  s.frame.header.bytes ++ leBytes 8 u.wsum ++ leBytes 8 u.msum ++ leBytes 8 u.osum ++ leBytes 6 u.wcount ++ leBytes 6 u.mcount
    ++ leBytes 6 u.ocount ++ List.replicate 6 0 ++ s.frame.digest

def zeroSums : Sums := { wsum := 0, wcount := 0, msum := 0, mcount := 0, osum := 0, ocount := 0 }

/-- Step 2: the digest is computed on context 14, and the sums start afresh. -/
def State.stepDigest (s : State) : State :=
  let s1 := s.finishDone.sumOutputs
  let d := sha256 s1.digestInput
  { s1.hashOn 1 1 none s1.digestInput with frame := { s1.frame with digest := d, sums := zeroSums } }

/-! ### Step 4: release (R24, R286, R361, R393) -/

/-- A finished entry is released only once its frame has committed (R361). -/
def State.waitsCommit (s : State) (e : WorkEntry) : Bool := e.writes && s.od 0x4020 (e.inst + 1) == 1

/-- A frame whose durable completions may be released (R361, R393). -/
def State.durableTo (s : State) : Nat :=
  if s.mirror.state = 3 then min s.persist.committed s.mirror.seqCommitted else s.persist.committed

/-- PRODUCER of each ring whose completions became visible is written once, and then the interrupts that fall due are sent (R286,
R289). -/
def State.writeProducers (s before : State) : State :=
  ((s.host.cq.filter fun p => (before.cq p.1).shown != p.2.shown).foldl (fun (t : State) p => t.writeProducer p.1) s).dueNow

/-- The temporary tables a slot left behind are released. -/
def State.dropSlotTables (s : State) (inst slot : Nat) : State :=
  if 256 ≤ slot then s
  else (s.kma.tables.filter fun t => t.inst == inst && decide (0x4000 + 64 * slot ≤ t.tag) && decide (t.tag < 0x4040 + 64 * slot)).foldl
    (fun (s : State) t => s.dropTable t.inst t.tag) s

/-- The temporary tables of an entry are released with its completion (R129, R194). -/
def State.dropEntryTables (s : State) (e : WorkEntry) : State :=
  (s.kma.tables.filter fun t => t.inst == e.inst && decide (0x4000 ≤ t.tag) && t.owner == (e.frame, e.pos)).foldl
    (fun (s : State) t => s.dropTable t.inst t.tag) s

/-- The squashes of the last tick have freed their slots; durable completions of an instance that its function's reset ended are
discarded (R306, R307, R309). -/
def State.completeResets (s : State) : State :=
  let gone (h : HeldCompletion) : Bool := s.resetting h.entry.inst && s.frame.squashing.any fun p => p.1 == h.entry.inst
  let s1 := { s with held := s.held.filter fun h => !gone h
                     frame := { s.frame with squashing := s.frame.squashing.map fun p => (p.1, true) } }
  (s.held.filter gone).foldl (fun (s : State) h => (s.releaseEntry h.entry true).dropEntryTables h.entry) s1

/-- Step 4 of a tick. -/
def State.stepRelease (s : State) : State :=
  let done := s.work.filter fun e => e.finished.isSome
  let now := (done.filter fun e => !s.waitsCommit e).map fun e => (e, false)
  let wait := s.held ++ (done.filter s.waitsCommit).map fun e =>
    ({ entry := e, frame := (e.finished.map fun f => f.1).getD 0 } : HeldCompletion)
  let due := (wait.filter fun h => decide (h.frame ≤ s.durableTo)).map fun h => (h.entry, true)
  let out := sortBy (fun (a b : WorkEntry × Bool) => decide (a.1.frame < b.1.frame) || (a.1.frame == b.1.frame && decide (a.1.pos < b.1.pos)))
    (due ++ now)
  let s1 := { s with held := wait.filter fun h => !decide (h.frame ≤ s.durableTo), work := s.work.filter fun e => e.finished.isNone }
  let s2 := out.foldl (fun (s : State) p => (s.releaseEntry p.1 p.2).dropEntryTables p.1) s1.postEnded
  (s2.completeResets.writeProducers s).completeDrained (s.frame.frameNo + 1)

/-! ### Step 6: the frame begins -/

/-- What a BUILD or AGGREGATE with HANDLE 0 is placed with (R109, R129). -/
def tableSpec (e : WorkEntry) (img : Image) (op : Nat) (o : ImageOp) : TableSpec :=
  { inst := e.inst, tag := tableTag e img op, ordered := false, unique := o.kind == 5 && o.flags % 2 == 1, dictId := 0,
    bankset := bitsOf o.arg4 21 18, capacity := bitsOf o.arg4 17 0, spillSel := bitsOf o.arg4 33 22,
    spillListed := img.sets.any fun p => p.1 == bitsOf o.arg4 33 22 && p.2, owner := (e.frame, e.pos) }

/-- A placed table goes into TICK (R390), and into the cocoon when its entry is modifying (R349, R350). -/
def State.stagePlace (s : State) (t : KmaTable) (writes : Bool) : State :=
  let g := s.persist.staged
  let r := cocoonRecord 2 false t.record
  let g1 := { g with placed := g.placed ++ r }
  { s with persist := { s.persist with staged := if writes then { g1 with place := g.place ++ r, records := g.records + 1, journal := true } else g1 } }

/-- The tables of a stage are placed; with recorded placements R193 is not applied (R377, R390). -/
def State.placeTables (s : State) (e : WorkEntry) (img : Image) (recorded : Option (List KmaTable)) : State :=
  (img.ops.zipIdx.filter fun p => p.1.stage == e.stage && (p.1.kind == 5 || p.1.kind == 7)).foldl (fun (s : State) p =>
    match s.entry? e.slot with
    | none => s
    | some x =>
      if x.finished.isSome then s
      else
        let handle := bitsOf p.1.arg4 47 34
        if handle ≠ 0 then
          if (s.table? e.inst handle).isSome then s else s.finish e.slot e.pos Status.kmaNoTable 0
        else if 64 ≤ tempRank img p.2 then s.finish e.slot e.pos Status.kmaFull 0
        else
          let spec := tableSpec e img p.2 p.1
          let s1 := match recorded with
            | some l => match l.find? fun (t : KmaTable) => t.is e.inst spec.tag with
              | some t => { s with kma := { s.kma with tables := s.kma.tables ++ [{ t with spillSel := spec.spillSel, spillListed := spec.spillListed, owner := spec.owner }] } }
              | none => s
            | none => s.placeTable spec
          match s1.table? e.inst spec.tag with
          | some t => s1.stagePlace t e.writes
          | none => s1) s

/-- A tile's state at the start of a stage (R136). -/
def startCtx (e : WorkEntry) (img : Image) (rank tiles : Nat) : Ctx :=
  { slot := e.slot, stage := e.stage, rank := rank, tiles := tiles,
    a := Vector.ofFn fun (i : Fin 16) => if i = 0 then BitVec.ofNat 48 rank else if i = 1 then BitVec.ofNat 48 tiles
      else if i = 2 then BitVec.ofNat 48 e.stage else 0
    d := Vector.replicate 32 (quadOf 0), x := Vector.replicate 8 (Vector.replicate 4 0), k := Vector.replicate 3 0b1111,
    fl := 0, xs := 0, lx := 0
    pc := BitVec.ofNat 14 (match img.stages[e.stage]? with
      | some st => st.entryPc
      | none => 0)
    sp := (img.consts.zipIdx).foldl (fun (m : Sparse 48) p => sparseWrite m (img.constSp + p.2) p.1) [], code := img.code
    trap := none, waiting := none, pending := [], locals := [], ran := 0, qpos := 0, probed := [], allowed := 0, checked := false }

/-- A stage begins on its tiles (R112, R113, R137). -/
def State.beginStage (s : State) (recorded : Option (List KmaTable)) (e0 : WorkEntry) : State :=
  match s.entry? e0.slot with
  | none => s
  | some e => match e.image with
    | none => s
    | some img =>
      if e.active || e.finished.isSome || e.fail.isSome || e.refuse != 0 || decide (img.stages.length ≤ e.stage) then s
      else
        let s0 := if e.stage = 0 ∧ e.round = 0 then s.dropSlotTables e.inst e.slot else s
        let s1 := if e.round = 0 then s0.placeTables e img recorded else s0
        match s1.entry? e.slot with
        | none => s1
        | some e1 =>
          if e1.finished.isSome then s1
          else
            let ts := img.stageTiles e.stage
            let s2 := ts.zipIdx.foldl (fun (s : State) p =>
              let x := s.tiles[p.1]
              s.setTile p.1 { x with ctxs := x.ctxs ++ [startCtx e1 img p.2 ts.length] }) s1
            s2.updEntry e.slot fun e => { e with active := true }

/-- Place of a context in the order of R33: modifying work first, then work-table order. -/
def State.ctxRank (s : State) (c : Ctx) : Nat × Nat × Nat :=
  match s.entry? c.slot with
  | some e => (if e.writes then 0 else 1, e.frame, e.pos)
  | none => (2, 0, 0)

def rankBefore (a b : Nat × Nat × Nat) : Bool :=
  decide (a.1 < b.1) || (a.1 == b.1 && (decide (a.2.1 < b.2.1) || (a.2.1 == b.2.1 && decide (a.2.2 < b.2.2))))

/-- The counters of a tile start afresh; a tile with no work has yielded (R30, R33). -/
def State.beginTile (s : State) (x : Tile) : Tile :=
  let cs := sortBy (fun (a b : Ctx) => rankBefore (s.ctxRank a) (s.ctxRank b)) x.ctxs
  { x with ctxs := cs, beats := 0, records := 0, yielded := cs.isEmpty, ran := [], merge := [] }

def waitingJob : CodecJob :=
  { unit := none, done := false, status := 0, flags := 0, consumed := 0, produced := 0, values := 0, trailing := 0,
    blocks := 0, headers := [], written := false }

/-- A list record becomes an entry of the frame (R283, R284); refused records and NOPs finish at once. -/
def beginEntry (k : Nat) (own : Bool) (r : ListRecord) (pos : Nat) : WorkEntry :=
  let kind := entryField r.entry 0 1
  { slot := r.slot, frame := k, pos := pos, inst := r.inst, ring := if own then some r.ring else none, sqIndex := r.sqIndex,
    batch := r.batch, cq := r.cq, refuse := r.refuse, entry := r.entry, desc := r.desc, image := r.image, input := r.input, begun := true,
    stage := 0, active := false, round := 0, done := [], fail := none, late := 0, silent := false, carafes := 0, seqs := [], out := [], cursors := [],
    runs := [], sorts := [], job := if kind = 2 ∧ r.refuse = 0 then some waitingJob else none,
    finished := if r.refuse ≠ 0 then some (k, r.refuse, 0) else if kind = 5 then some (k, 0, 0) else none }

/-- The records of a list with WRITE set are staged for the cocoon, in list order (R349, R350). -/
def State.stageList (s : State) (rs : List ListRecord) : State :=
  let ws := rs.filter fun r => r.entry.getLsbD 8
  let g := s.persist.staged
  let recs := ws.map ListRecord.records
  let busy := s.work.any fun e => decide (e.slot < 256) && e.writes
  { s with persist := { s.persist with staged := { g with
      lists := g.lists ++ recs.flatMap fun p => p.1
      records := g.records + (recs.map fun p => p.2).sum
      journal := g.journal || !ws.isEmpty || busy || s.mirror.epochStart == some s.frame.frameNo } } }

/-- A part of the self-test kernel falls due on the tile whose turn it is; parts that found no idle time move on (R414). -/
def State.stepSelftest (s : State) : State :=
  let k := s.frame.frameNo
  let due (t : Fin 64) : Tile :=
    let x := s.tiles[t]
    { x with selfAge := x.selfAge + 1, selfDue := if k % 64 = t.val then x.selfDue ++ [k / 64 % 64] else x.selfDue }
  let moved := (s.tiles.toList.filter fun x => !x.selfDue.isEmpty).length
  { s with tiles := Vector.ofFn due, health := { s.health with postponed := (s.health.postponed + moved) % 2 ^ 48 } }

/-- Step 6: the frame whose number is in force begins with its list (R24). -/
def State.beginFrame (s : State) (own : Bool) (recorded : Option (List KmaTable)) : State :=
  let k := s.frame.frameNo
  let l := s.frame.next
  let fresh := (l.records.zipIdx.filter fun p => !p.1.reset).map fun p => beginEntry k own p.1 p.2
  let s1 := { s with
    frame := { s.frame with header := l.header, timerExpired := false, merging := false, mergeDone := false, overran := false }
    work := (s.work.map fun (e : WorkEntry) => { e with out := [] }) ++ fresh }
  let s2 := s1.stageList l.records
  let s3 := s2.work.foldl (fun (s : State) e => s.beginStage recorded e) s2
  let resets := l.records.filterMap fun r => if r.reset then (if h : r.inst < 64 then some (⟨r.inst, h⟩ : Fin 64) else none) else none
  let s4 := resets.foldl (fun (s : State) i => s.squashInstance i true) s3
  ({ s4 with tiles := s4.tiles.map s4.beginTile }).stepSelftest

/-! ### Step 7: the next list (R44, R45, R50, R283) -/

/-- The frame header of the list for frame k (R44, R45). -/
def State.makeHeader (s : State) (k count : Nat) (quiescent : Bool) : FrameHeader :=
  { frameNo := k, tstamp := s.frame.timeBase, periodUs := s.od 0x2000 1,
    quota := quotaOf s.e384 (s.od 0x2000 1) (s.od 0x2000 2) (s.od 0x2000 3), mergeAllow := s.od 0x2000 2, entryCount := count,
    config := false, quiescent := quiescent }

/-- Step 5 has changed the configuration: the header of the frame that begins is fixed with the new values (R45). -/
def State.refixHeader (s : State) : State :=
  let h := s.frame.next.header
  { s with frame := { s.frame with next := { s.frame.next with header := { h with
      periodUs := s.od 0x2000 1, quota := quotaOf s.e384 (s.od 0x2000 1) (s.od 0x2000 2) (s.od 0x2000 3), mergeAllow := s.od 0x2000 2
      config := true } } } }

/-- The work table is empty (R50): no entry holds a slot. -/
def State.tableEmpty (s : State) : Bool := !(s.work.any fun e => decide (e.slot < 256))

/-- The history store is full: its messages, with their headers, exceed its span (R395). -/
def State.storeFull (s : State) : Bool :=
  decide (descLimit (s.desc 0 (s.od 0x5001 7)) < (s.mirror.history.map fun m => 40 + m.payload.length).sum)

/-- Step 7 lists nothing: a power failure stands, doze entry has reached its tick, a join drains, the lease has run out, or the
chain lags by the window (R375, R395, R408, R417, R439). -/
def State.listsNothing (s : State) : Bool :=
  !s.listsOwn || decide (2 ≤ s.moth.dozeStep) || s.mirror.drainAsked
    || (s.mirror.state == 4 && s.needsAck
        && (!s.mirror.leaseValid || decide (s.mirror.downAck + s.od 0x5001 4 ≤ s.frame.frameNo)
            || !s.workSpan (s.od 0x5001 7) 4096 || s.storeFull))

/-- Step 7: the admission list of the next frame is fixed. -/
def State.stepList (s : State) : State :=
  let (s0, l) := if s.listsNothing then (s, []) else s.buildList
  let s1 := s0.countOverload
  let h := s1.makeHeader (s.frame.frameNo + 1) l.length (s1.tableEmpty && l.isEmpty)
  { s1 with frame := { s1.frame with next := { header := h, records := l } } }

/-- The tick about to fire is quiescent (R50): the work table and the list of its frame are empty, and nothing could be listed. -/
def State.quiescentTick (s : State) : Bool :=
  s.tableEmpty && s.frame.next.records.isEmpty && (s.listsNothing || s.buildList.2.isEmpty)

/-! ### Overruns (R36, R37) -/

/-- The frame that ends overran or did not. -/
def State.closeOverrun (s : State) (elapsedUs : Nat) : State :=
  let f := s.frame
  if f.overran then
    let n := f.consecutive + 1
    let fire := decide (s.od 0x2003 3 ≤ n) && !f.alarmed
    let s1 := { s with frame := { f with overrunCount := (f.overrunCount + 1) % 2 ^ 48, overrunMax := max f.overrunMax (min elapsedUs (2 ^ 32 - 1)),
                                         consecutive := n, alarmed := f.alarmed || fire } }
    if fire then s1.raise 0x0010 1 0 else s1
  else { s with frame := { f with consecutive := 0, alarmed := false } }

/-- FRAME_TIMER_EXPIRY (R36): the timer of the frame runs out; a merge not complete by then makes the frame an overrun. -/
def execFrameTimerExpiry (s : State) : Host.Outcome State Fault Refusal :=
  .next (if s.frame.timerExpired || !s.serving then s
    else { s with frame := { s.frame with timerExpired := true, overran := !s.frame.mergeDone } })

/-- Microseconds of a frame that TIME_BASE has still to count: all of them, or those after a write in the frame, of which a free value
says how many had passed (R52; DESIGN CHOICE, assumption 51). -/
def Frame.uncounted (f : Frame) (us : Nat) : Nat := match f.timeWritten with
  | none => us
  | some x => us - x % (us + 1)

/-- TIME_BASE advances with elapsed time (R52), which reaches the block with its ticks. -/
def State.advanceTime (s : State) (us : Nat) : State :=
  let t := s.frame.timeFraction + s.frame.uncounted us
  { s with frame := { s.frame with timeBase := s.frame.timeBase + BitVec.ofNat 48 (t / 1000), timeFraction := t % 1000, timeWritten := none } }

/-- TIME_BASE_WRITE (R52). -/
def execTimeBaseWrite (v : Word) (s : State) : Host.Outcome State Fault Refusal := .next (s.setTimeBase v)

/-- HOLD_WRITE (R49). -/
def execHoldWrite (on : Bool) (s : State) : Host.Outcome State Fault Refusal :=
  .next (s.odSet 0x2001 1 (if on then 1 else 0))

end Sys2Proof.Machine
end

