-- ==== Sys2Proof/Machine/MirrorSend.lean ====
section
/-! DEFINITION. Mirror messages as they are sent (R398 to R405), heartbeats (R402, R406), fencing (R413), and the records that
carry host bytes (R350, R353). -/

namespace Sys2Proof.Machine

/-! ### Heartbeats -/

/-- The 64-byte heartbeat block (R402). -/
def heartbeatBytes (h : Sys2Proof.Heartbeat) : List Byte :=
  leBytes 6 h.epoch ++ leBytes 2 h.position ++ leBytes 1 h.role ++ [h.flags] ++ leBytes 2 h.health ++ leBytes 6 h.faults
    ++ leBytes 6 h.frameNo ++ leBytes 6 h.committed ++ leBytes 2 h.upPos ++ leBytes 2 h.downPos ++ leBytes 2 h.toPos
    ++ List.replicate 28 0

/-- The engine is the donor of a join whose joiner is a provisional tail (R418). -/
def Mirror.donorJoin (m : Mirror) : Bool := match m.join with
  | some j => j.donor
  | none => false

/-- The engine joins, or is a provisional tail (R417, R418). -/
def Mirror.joins (m : Mirror) : Bool := match m.join with
  | some j => !j.donor
  | none => false

/-- ROLE (R402). -/
def State.role (s : State) : Nat :=
  let m := s.mirror
  match m.state with
  | 2 => 4
  | 3 => if m.joins then 4 else if m.portB.peer = 0xFFFF ∨ m.donorJoin then 3 else 2
  | 4 => 1
  | 5 => 5
  | 6 => 6
  | _ => 0

/-- The heartbeat block the engine sends; `p` is the port toward the addressed neighbour. -/
def State.heartbeat (s : State) (p : MirrorPort) (detach : Bool) : Sys2Proof.Heartbeat :=
  let b (i : Nat) (x : Bool) : Nat := if x then 2 ^ i else 0
  { epoch := s.mirror.epoch, position := s.od 0x5000 3, role := s.role,
    flags := BitVec.ofNat 8 (b 0 (s.od 0x5000 2 == 1) + b 1 s.mirror.leaseValid + b 2 p.mirLive + b 3 p.t1sLive
      + b 4 s.moth.powerFail + b 5 detach + b 6 s.mirror.drainAsked)
    health := s.health.score, faults := s.health.faults.toNat, frameNo := s.frame.frameNo, committed := s.persist.committed,
    upPos := s.mirror.portA.peer, downPos := s.mirror.portB.peer, toPos := if detach then p.peer else 0xFFFF }

/-! ### Sending (R399 to R401) -/

/-- An Ethernet frame up to its FCS: addresses and EtherType as IEEE 802.3 sends them, the EtherType's high byte first, and a payload
filled up to 46 bytes (R6, R398, R457). -/
def etherFrame (dest src etherType : Nat) (payload : List Byte) : List Byte :=
  leBytes 6 dest ++ leBytes 6 src ++ leBytes 1 (etherType / 256) ++ leBytes 1 etherType ++ payload ++ List.replicate (46 - payload.length) 0

/-- The 40-byte mirror header (R399) of frame i of the n that carry a message; `bs` is what it carries. -/
def mirrorHeader (position : Nat) (msg : MirrorMsg) (seq ack : BitVec 32) (i n : Nat) (bs : List Byte) : List Byte :=
  leBytes 2 0x4E4D ++ [1] ++ leBytes 1 msg.type ++ leBytes 2 ((if i = 0 then 1 else 0) + if i + 1 = n then 2 else 0) ++ leBytes 2 position
    ++ leBytes 6 msg.epoch ++ leBytes 6 msg.frameNo ++ leBytes 4 (seq + BitVec.ofNat 32 i).toNat ++ leBytes 4 ack.toNat
    ++ leBytes 2 bs.length ++ [0, 0] ++ leBytes 4 i ++ List.replicate 4 0

/-- The Ethernet frames of a message in the retransmit store of a port, from one address to another (R398, R400). -/
def mirrorFrames (position dest src : Nat) (ack : BitVec 32) (x : BitVec 32 × Nat × MirrorMsg) : List (List Byte) :=
  (List.range x.2.1).map fun i =>
    let bs := (x.2.2.payload.drop (8992 * i)).take 8992
    etherFrame dest src 0x88B6 (mirrorHeader position x.2.2 x.1 ack i x.2.1 bs ++ bs)

/-- A message leaves on a port: its Ethernet frames take numbers and stay in the retransmit store. A port that is down, or has
no neighbour, sends nothing. -/
def State.sendMirror (s : State) (portB : Bool) (type frame : Nat) (payload : List Byte) : State :=
  let m := s.mirror
  let p := if portB then m.portB else m.portA
  if !p.up || p.peer == 0xFFFF || s.od 0x5000 1 == 0 then s
  else
    let n := max 1 (ceilDiv payload.length 8992)
    let msg : MirrorMsg := { portB := portB, type := type, epoch := m.epoch, frameNo := frame, payload := payload }
    let q := { p with txSeq := p.txSeq + BitVec.ofNat 32 n, unacked := p.unacked ++ [(p.txSeq, n, msg)], owed := false }
    let m1 := { m with msgsTx := (m.msgsTx + 1) % 2 ^ 48, sent := m.sent ++ [msg] }
    { s with mirror := if portB then { m1 with portB := q } else { m1 with portA := q } }

/-- The engine is a donor whose joiner does not yet execute frames (R417). -/
def Mirror.copying (m : Mirror) : Bool := match m.join with
  | some j => j.donor && !j.provisional
  | none => false

/-- A message toward the tail that the history store keeps (R395); a joiner receives none before its join tick. -/
def State.sendDown (s : State) (type frame : Nat) (payload : List Byte) : State :=
  let msg : MirrorMsg := { portB := true, type := type, epoch := s.mirror.epoch, frameNo := frame, payload := payload }
  let s1 := { s with mirror := { s.mirror with history := s.mirror.history ++ [msg] } }
  if s.mirror.copying then s1 else s1.sendMirror true type frame payload

/-- The engine is in a pair or chain and executes its frames (R389). -/
def State.inChain (s : State) : Bool := s.mirror.state == 3 || s.mirror.state == 4

/-- A 10BASE-T1S heartbeat to every node (R406); without AUX_CLK the port is silent (R498). -/
def State.sendT1s (s : State) (h : Sys2Proof.Heartbeat) : State :=
  if !s.pins.auxClk || s.od 0x5000 1 == 0 then s
  else { s with mirror := { s.mirror with t1sSent := s.mirror.t1sSent ++ [h] } }

/-- HEARTBEAT on both ports (R406). -/
def State.sendHeartbeats (s : State) (detach : Bool) : State :=
  let s1 := s.sendMirror false 5 s.frame.frameNo (heartbeatBytes (s.heartbeat s.mirror.portA false))
  s1.sendMirror true 5 s.frame.frameNo (heartbeatBytes (s1.heartbeat s1.mirror.portB detach))

/-! ### Fencing (R413) -/

/-- HEALTH_FAULTS and HEALTH_SCORE (R416): penalties of the bits, and the fatal ones. -/
def faultPenalty (bit : Nat) : Nat :=
  match bit with
  | 4 => 100 | 5 => 20 | 6 => 50 | 7 => 100 | 8 => 10 | 9 => 100 | 10 => 300 | 11 => 50 | 12 => 50 | 13 => 30 | 14 => 50 | 15 => 10
  | 16 => 100 | 17 => 20 | 18 => 20 | 19 => 100 | 20 => 200
  | _ => 0

def fatalBits : List Nat := [0, 1, 2, 3, 21]

def scoreOf (faults : BitVec 48) : Nat :=
  if fatalBits.any fun b => faults.getLsbD b then 0
  else 1000 - (((List.range 22).filter fun b => faults.getLsbD b).map faultPenalty).sum

/-- HEALTH_FAULTS takes a new value, and the score is recomputed. -/
def State.setFaults (s : State) (f : BitVec 48) : State :=
  { s with health := { s.health with faults := f, score := scoreOf f } }

/-- A latched fault bit is set (R416). -/
def State.latchFault (s : State) (bit : Nat) : State := s.setFaults (s.health.faults ||| ((1 : BitVec 48) <<< bit))

/-- The engine fences itself (R413): every entry stops, and FENCE goes out on both ports and on 10BASE-T1S. -/
def State.fence (s : State) (reason : Nat) : State :=
  if s.mirror.state = 5 then s
  else
    let s1 := { s with mirror := { s.mirror with state := 5, fenceReason := reason, leaseValid := false, join := none } }
    let s2 := s1.latchFault 21
    let pay (p : MirrorPort) : List Byte := heartbeatBytes (s2.heartbeat p false) ++ leBytes 2 reason
    let s3 := (s2.sendMirror false 6 s.frame.frameNo (pay s2.mirror.portA)).sendMirror true 6 s.frame.frameNo (pay s2.mirror.portB)
    (s3.sendT1s (s3.heartbeat s3.mirror.portB false)).raise 0x0054 3 reason

/-- A fatal fault: its latched bit, its event with the location, and the fence with reason 1. -/
def State.fatal (s : State) (bit loc : Nat) : State :=
  ((s.latchFault bit).raiseAt 0x0030 3 loc 0 0).fence 1

/-! ### Host bytes of modifying entries (R350, R353) -/

/-- The engine takes the host bytes of modifying entries from records and not from its host: in replay, and as a follower
(R377, R390). -/
def State.fromRecords (s : State) : Bool := s.replaying || s.mirror.state == 3

/-- A DATA record body (R353). -/
def dataBody (slot source offset : Nat) (bytes : List Byte) : List Byte :=
  leBytes 2 slot ++ leBytes 1 source ++ List.replicate 5 0 ++ leBytes 6 offset ++ [0, 0] ++ bytes

/-- Values as one stream of PCC blocks cut every 4,096 values, each at the first multiple of 6 after the one before (R97). -/
def compactWords : Nat → List Word → List Byte
  | 0, _ => []
  | n + 1, vs =>
    if vs.isEmpty then []
    else
      let (h, gs) := encodeBlock 2 none (vs.take 4096)
      let b := h.bytes ++ gs.flatten
      let rest := compactWords n (vs.drop 4096)
      if rest.isEmpty then b else b ++ List.replicate ((6 - b.length % 6) % 6) 0 ++ rest

/-- A codec job takes an encoder; any OP but encode goes to a decoder (R94). -/
def WorkEntry.encodes (e : WorkEntry) : Bool := entryField e.desc 0 1 == 1

/-- The codec unit that an entry holds. -/
def WorkEntry.unit (e : WorkEntry) : Option (Fin 4) := e.job.bind fun j => j.unit

/-- Jobs that hold encoders, or decoders (R101, R102). -/
def State.unitsHeld (s : State) (encoder : Bool) : List WorkEntry :=
  s.work.filter fun e => e.encodes == encoder && e.finished.isNone && e.unit.isSome

/-- The data of one DATA record: compacted when an encoder is free and the length is whole words. -/
def State.packData (s : State) (bytes : List Byte) : Bool × List Byte :=
  if decide ((s.unitsHeld true).length < 4) && bytes.length % 6 == 0 && !bytes.isEmpty then
    (true, compactWords bytes.length ((List.range (bytes.length / 6)).map fun i => BitVec.ofNat 48 (fieldNat bytes (6 * i) 6)))
  else (false, bytes)

/-- DATA records of some bytes, 65,536 bytes each, from an offset. -/
def State.dataRecords (s : State) (slot source : Nat) : Nat → Nat → List Byte → List (List Byte)
  | 0, _, _ => []
  | n + 1, off, bytes =>
    if bytes.isEmpty then []
    else
      let (pcc, d) := s.packData (bytes.take 65536)
      cocoonRecord 6 pcc (dataBody slot source off d) :: s.dataRecords slot source n (off + min 65536 bytes.length) (bytes.drop 65536)

/-- Host bytes read for a modifying entry are staged for the cocoon and go down the chain (R350, R390). -/
def State.stageData (s : State) (slot source : Nat) (bytes : List Byte) : State :=
  let recs := s.dataRecords slot source (bytes.length / 65536 + 1) 0 bytes
  let g := s.persist.staged
  let s1 := { s with persist := { s.persist with staged := { g with data := g.data ++ recs.flatten, records := g.records + recs.length } } }
  if s.mirror.state = 4 ∧ !recs.isEmpty then s1.sendDown 3 s.frame.frameNo recs.flatten else s1

/-- The values of a compacted record (R353). -/
def expandWords : Nat → List Byte → List Byte
  | 0, _ => []
  | n + 1, bs =>
    if bs.length < 12 then []
    else
      let h := parsePcc bs
      let (vs, _, _) := decodeBlock h (bs.drop 12)
      let len := 12 + h.encLen
      (vs.flatMap fun v => leBytes 6 v.toNat) ++ expandWords n (bs.drop (len + (6 - len % 6) % 6))

/-- Bytes of a DATA record as they were read. -/
def rawBytes (r : Sys2Proof.DataRecord) : List Byte := if r.pcc then expandWords r.data.length r.data else r.data

/-- A DATA record reaches its entry. -/
def State.takeData (s : State) (r : Sys2Proof.DataRecord) : State :=
  s.updEntry r.slot fun e => if e.input.length = r.offset then { e with input := e.input ++ rawBytes r } else e

/-- What a unit that needs n host bytes of an entry gets: it waits, the read failed after some bytes, or all of them. -/
inductive HostRead where
  | waits
  | failed (arrived : List Byte)
  | got (bytes : List Byte)
deriving DecidableEq, Repr

/-- The host bytes that have come. -/
def HostRead.bytes (r : HostRead) : List Byte := match r with
  | .waits => []
  | .failed bs => bs
  | .got bs => bs

/-- The host bytes of an entry: from its records in replay and on a follower, else those the host returns. A replay has every
record of its frame at hand; a follower waits for its DATA (R390). -/
def State.hostRead (s : State) (e : WorkEntry) (n : Nat) (host : Option (List Byte)) : HostRead :=
  if e.writes && s.fromRecords then
    if n ≤ e.input.length then .got (e.input.take n) else if s.replaying then .failed e.input else .waits
  else match host with
    | some bs => if n ≤ bs.length then .got (bs.take n) else .failed bs
    | none => .failed []

end Sys2Proof.Machine
end

