-- ==== Sys2Proof/Machine/DramRows.lean ====
section
/-! DEFINITION. The memory controller's commands (R230 to R243), the column cache's (R259), and the verify scan of the array (R211). -/

namespace Sys2Proof.Machine

/-! ### Channels -/

/-- Channels and stacks that the ordering code populates (R3). -/
def channelPresent (e384 : Bool) (c : Nat) : Bool := e384 || decide (c < 12) || (decide (24 ≤ c) && decide (c < 36))
def stackPresent (e384 : Bool) (m : Nat) : Bool := channelPresent e384 (4 * m)

/-- Postponement limit (R240). -/
def Channel.limit (x : Channel) : Nat := match x.limband with
  | 0 => 8
  | 1 => 4
  | _ => 2

/-- REFRESH_INTERVAL_EXPIRY (R240). -/
def execRefreshIntervalExpiry (c : Fin 48) (s : State) : Host.Outcome State Fault Refusal :=
  .next (if s.dram.channels[c].state ≠ 2 then s
    else s.updChannel c.val fun x => { x with debt := min 63 (x.debt + 1) })

/-- REFRESH_UNIT (R240, R241): issued when the channel is idle, at the limit, or in payback. -/
def execRefreshUnit (c : Fin 48) (idle : Bool) (s : State) : Host.Outcome State Fault Refusal :=
  let x := s.dram.channels[c]
  .next (if x.state ≠ 2 ∨ x.debt = 0 ∨ !(idle || x.payback || decide (x.limit ≤ x.debt)) then s
    else s.updChannel c.val fun x => { x with debt := x.debt - 1, payback := x.payback && x.debt != 1 })

/-- One readout of a channel's stack (R241). -/
def Channel.readout (x : Channel) (new : Nat) : Channel :=
  let debt1 := if new = x.rate then x.debt
    else if x.rate < new then (x.debt + 1) * 2 ^ (new - x.rate) else (x.debt + 1 + 2 ^ (x.rate - new) - 1) / 2 ^ (x.rate - new)
  let y := { x with debt := min 63 debt1, payback := x.payback || (decide (x.rate < new) && decide (0 < debt1)), rate := new,
                    readouts := (new :: x.readouts).take 2 }
  if x.limband ≤ new then { y with limband := new, low := 0 }
  else if x.low + 1 = 3 then { y with limband := max new (x.readouts.foldl max 0), low := 0 }
  else { y with low := x.low + 1 }

/-- MR4_READOUT (R239, R241): the bands of the eight readings of a stack, one for each rank of its four channels; a value above
2 asks for more than ×4. -/
def execMr4Readout (stack : Fin 12) (readings : List Nat) (s : State) : Host.Outcome State Fault Refusal :=
  let new := readings.foldl (fun m r => max m (min 2 r)) 0
  let above := (readings.take 8).zipIdx.filter fun p => decide (2 < p.1)
  .next (if !stackPresent s.e384 stack.val || s.dram.channels.toList.all (fun x => x.state != 2) then s
    else
      let s1 := above.foldl (fun (s : State) p =>
        s.raiseAt 0x0030 2 (location 2 5 (4 * stack.val + p.2 / 2)) (5 * 2 ^ 45 + 3 * 2 ^ 43 + (p.2 % 2) * 2 ^ 42) 0) s
      let starts := (List.range 4).any fun i => match s.dram.channels.toList[4 * stack.val + i]? with
        | some x => decide (x.rate < new) && x.state == 2 && !x.payback
        | none => false
      let s2 := (List.range 4).foldl (fun (s : State) i => s.updChannel (4 * stack.val + i) fun x =>
        if x.state = 2 then x.readout new else x) s1
      { s2 with dram := { s2.dram with stackBand := s2.dram.stackBand.set stack new
                                       paybacks := if starts then (s2.dram.paybacks + 1) % 2 ^ 48 else s2.dram.paybacks } })

/-- RECALIBRATION (R243): it takes channel time only. -/
def execRecalibration (_c : Fin 48) (s : State) : Host.Outcome State Fault Refusal := .next s

/-- WRITE_QUEUE_DRAIN (R232): buffered writes reach their channels (R250), and the channel drains: one that began at 24 lines goes on
until 8 remain, one with no read eligible empties the queue. While reads wait, no other drain begins. -/
def execWriteQueueDrain (c : Fin 48) (s : State) : Host.Outcome State Fault Refusal :=
  .next (s.emptyBuffers.updChannel c.val fun x =>
    if x.draining then { x with queue := x.queue.drop (x.queue.length - 8), draining := false }
    else if x.reads.isEmpty then { x with queue := [] } else x)

/-! ### Reads (R231 to R236) -/

/-- What the requester of an uncorrectable read does (R236). -/
def State.poisonOutcome (s : State) (who : Sys2Proof.Requester) (c : Nat) : State :=
  let failed (slot : Nat) : State :=
    s.failEntry slot { pos := 2 ^ 48, tile := 64, status := Status.memUncorrectable, detail := 0 }
  match who with
  | .tile t => match s.runner t with
    | some (x, _, _) => s.tileFail t x Status.memUncorrectable 0
    | none => s
  | .kmaSpill slot => failed slot.val
  | .engineStructure (some slot) => failed slot.val
  | .engineStructure none => s.fatal 3 (location 2 5 c)
  | .mover | .persist | .mirror | .codec => s

/-- What a channel does at a command slot (R232). -/
inductive Access where
  | refresh | drain
  | read (r : QueuedRead)
  | write | none
deriving DecidableEq, Repr

/-- The read of greatest priority, the oldest among equals; reads that arrived at one instant stand in port order (R232). -/
def firstRead (prio : Nat → Nat) (l : List QueuedRead) : Option QueuedRead :=
  l.foldl (fun (m : Option QueuedRead) r => match m with
    | some q => if prio q.port < prio r.port then some r else some q
    | none => some r) none

/-- The next access of a channel (R232, R240): a refresh unit that must be issued now, a drain in progress, a read, else a write. -/
def Channel.choose (x : Channel) (prio : Nat → Nat) : Access :=
  if 0 < x.debt ∧ (x.payback ∨ x.limit ≤ x.debt) then .refresh
  else if x.draining then .drain
  else match firstRead prio x.reads with
    | some r => .read r
    | none => if x.queue.isEmpty then .none else .write

/-- Priority of a port on the die of a channel (R231): PORT_PRIO_EAST or PORT_PRIO_WEST. -/
def State.portPrio (s : State) (c p : Nat) : Nat := s.od (if c < 24 then 0x3020 else 0x3021) (p + 1)

/-- The memory port by which a cluster's stores and unfilled reads enter the die of a channel (R231). -/
def clusterPort (cluster c : Nat) : Nat := if c < 24 then cluster else (cluster + 4) % 8

/-- The memory port of a requester on the die of a channel (R231): a tile's read that may fill the cache enters with the fills. -/
def State.memPort (s : State) (who : Sys2Proof.Requester) (l c : Nat) : Nat :=
  match who with
  | .tile t =>
    let fills := match s.runner t with
      | some (_, e, _) => s.cacheable l && s.cache.state == 0 && !(s.fillWays e.inst).isEmpty
      | none => false
    if fills then 8 else clusterPort (t.val / 8) c
  | .kmaSpill _ | .engineStructure _ => 8
  | .mover => 9
  | .persist => 10
  | .mirror => 11
  | .codec => 12

/-- A read waits in its channel's read queue of 64 entries (R232). -/
def Channel.enqueue (x : Channel) (r : QueuedRead) : Channel :=
  if x.reads.contains r ∨ 64 ≤ x.reads.length then x else { x with reads := x.reads ++ [r] }

/-- MEMORY_READ_RETURN (R232, R235, R236): a unit read that has arrived at its port, whose cells hold so many symbols in error in each
burst, returns when it is the channel's choice, and else waits on. -/
def execMemoryReadReturn (ma : Nat) (who : Sys2Proof.Requester) (bursts : List Nat) (s : State) : Host.Outcome State Fault Refusal :=
  let l := lineOf ma
  let c := homeChannel s.e384 l
  let r : QueuedRead := { port := s.memPort who l c, ma := l }
  if slotCount s.e384 * slotBytes ≤ ma then .fault .noSuchAddress
  else
    .next (
      let s1 := (s.strikeUnit l bursts).updChannel c fun x => x.enqueue r
      match s1.dram.channels.toList[c]? with
      | none => s
      | some x =>
        if x.choose (s.portPrio c) ≠ .read r then s1
        else
          let (s2, ok) := ((s1.updChannel c fun x => { x with reads := x.reads.filter (· != r) }).dramRead l).readUnit l false
          if ok then s2 else s2.poisonOutcome who c)

/-- PARTIAL_WRITE (R230): the bytes are merged into their line, unless its old data, which holds so many symbols in error in each
burst, is uncorrectable. -/
def execPartialWrite (ma : Nat) (data : Sys2Proof.PartialData) (who : Sys2Proof.Requester) (s : State) :
    Host.Outcome State Fault Refusal :=
  let l := lineOf ma
  if slotCount s.e384 * slotBytes ≤ ma then .fault .noSuchAddress
  else
    .next (if data.bytes.isEmpty ∨ unitBytes l ≤ data.bytes.length ∨ l + unitBytes l < ma + data.bytes.length then s
      else
        let (s1, ok) := (s.strikeUnit l data.bursts).writeLine l false [(ma, data.bytes)]
        if ok then s1 else s1.poisonOutcome who (homeChannel s.e384 l))

/-! ### Patrol scrub (R226, R238) -/

/-- Lines of slot i of group g on the channel of populated index p, ascending (R225, R226). -/
def channelLinesOf (n g i p : Nat) : List Nat :=
  let rem := 5461 % n
  let full := 5461 - rem
  let hg := homeSel n g 0 255
  ((List.range (full / n)).map fun b => b * n + (p + n - homeSel n g i b) % n)
    ++ ((List.range rem).map fun j => full + j).filter fun ln => (ln % n + rem * i + hg) % n == p

/-- The k-th line of group g on a channel, in order of slot and line. -/
def channelLine (n g p : Nat) : Nat → Nat → Nat → Nat
  | 0, _, _ => 0
  | fuel + 1, i, k =>
    let l := channelLinesOf n g i p
    if k < l.length then (g * n + i) * slotBytes + 192 * l.getD k 0 else channelLine n g p fuel (i + 1) (k - l.length)

/-- The slot of group g whose header lies on a channel. -/
def channelHeader (n g p : Nat) : Nat :=
  let rem := 5461 % n
  let hg := homeSel n g 0 255
  let i := ((List.range n).find? fun i => (rem * (i + 1) + hg) % n == p).getD 0
  (g * n + i) * slotBytes + lineArea

/-- Units of a channel (R238). -/
def scrubUnits : Nat := 7936 * 5462

/-- Module address of a scrub unit of channel c: the lines of a group, then its header (R226). -/
def scrubAddress (e384 : Bool) (c u : Nat) : Nat :=
  let n := channelsOf e384
  let p := channelIndex e384 c
  let g := u / 5462
  if u % 5462 = 5461 then channelHeader n g p else channelLine n g p n 0 (u % 5462)

/-- The channels that are scrubbed have all been visited: the pass is complete. How long it took is a free value (DESIGN CHOICE,
assumption 63). -/
def State.endScrubPass (s : State) : State :=
  if s.dram.channels.toList.any fun x => x.state == 2 && decide (x.scrubPos < scrubUnits) then s
  else
    let (v, s1) := s.fresh
    { s1 with dram := { s1.dram with
        channels := s1.dram.channels.map fun (x : Channel) => { x with scrubPos := 0, ueLines := [], scrubLate := false }
        scrubPasses := (s1.dram.scrubPasses + 1) % 2 ^ 48, scrubLastS := v % 2 ^ 32 } }

/-- SCRUB_VISIT (R238): the next unit of a channel is read past the cache; a corrected unit is rewritten, an uncorrectable one is
recorded and left in place. -/
def execScrubVisit (c : Fin 48) (o : Sys2Proof.EccOutcome) (s : State) : Host.Outcome State Fault Refusal :=
  let x := s.dram.channels[c]
  .next (if x.state ≠ 2 ∨ s.od 0x3005 1 = 0 ∨ scrubUnits ≤ x.scrubPos then s
    else
      let ma := scrubAddress s.e384 c.val x.scrubPos
      let (s1, ok) := ((s.strikeUnit ma o.symbols).dramRead ma).readUnit ma true
      (s1.updChannel c.val fun x => { x with
        scrubPos := x.scrubPos + 1
        ueLines := if ok || x.ueLines.contains ma then x.ueLines else ma :: x.ueLines }).endScrubPass)

/-- SCRUB_LATE (R238): once per pass. -/
def execScrubLate (c : Fin 48) (s : State) : Host.Outcome State Fault Refusal :=
  let x := s.dram.channels[c]
  .next (if x.scrubLate ∨ x.state ≠ 2 then s
    else (s.updChannel c.val fun x => { x with scrubLate := true }).raise 0x0031 1 c.val)

/-! ### The verify scan of the array (R211) -/

/-- VERIFY_SCAN_ROW (R211): one row of a bank is read and compared with its shadow copy, and rewritten when it differs; `differs` says
that a cell has just been upset. -/
def execVerifyScanRow (b : Fin 24) (differs : Bool) (s : State) : Host.Outcome State Fault Refusal :=
  let row := s.kma.scanRow[b]
  let pos := 8192 * b.val + row
  let s1 := ({ s with kma := { s.kma with scanRow := s.kma.scanRow.set b ((row + 1) % 8192) } } : State).readSram 3 pos
  .next (if !differs && s1.kma.row pos == camClean (camImage (s1.kma.shadow pos)) then s1
    else (({ s1 with kma := { s1.kma with scanRewrites := (s1.kma.scanRewrites + 1) % 2 ^ 48 } } : State).kmaFault 1 pos).rewriteRow pos)

/-! ### Upsets of cells (R210, R212, R235, R261) -/

/-- A data line that a set or the victim cache holds. -/
def State.cached (s : State) (ma : Nat) : Bool :=
  let (slice, set) := homeSlice s.e384 ma
  (lookupD s.cache.sets (768 * slice + set) []).any (·.ma == ma) || (lookupD s.cache.victims slice []).contains ma

/-- A cell of a CAM pair flips, and may be stuck from then on. -/
def CamRow.strike (r : CamRow) (bit : Nat) (pair stuck : Bool) : CamRow :=
  let m : BitVec 118 := 1 <<< bit
  if pair then { r with pair := r.pair ^^^ m, stuckPair := if stuck then r.stuckPair ||| m else r.stuckPair }
  else { r with cell := r.cell ^^^ m, stuckCell := if stuck then r.stuckCell ||| m else r.stuckCell }

/-- A word of a cached line has an error; a second one in the same word is one more than can be corrected. -/
def State.strikeCache (s : State) (x : CacheError) : State :=
  if !s.cached x.ma then s
  else
    let hit (y : CacheError) : Bool := y.ma == x.ma && y.word == x.word && y.kind != 2 && x.kind != 2
    let kind := if s.cache.errors.any hit then 1 else x.kind
    { s with cache := { s.cache with errors := (s.cache.errors.filter fun y => !hit y) ++ [{ x with kind := kind }] } }

/-- What an upset does to the cells it names; one of a place that does not exist, or that holds nothing, does nothing. -/
def State.strike (s : State) : Upset → State
  | .none => s
  | .dram burst symbols =>
    let l := lineOf burst
    if slotCount s.e384 * slotBytes ≤ burst then s
    else s.strikeUnit l ((List.range (unitBytes l / 64)).map fun b => if b = (burst - l) / 64 then symbols else 0)
  | .cam pos bit pair stuck =>
    if 196608 ≤ pos ∨ 118 ≤ bit then s
    else { s with kma := { s.kma with cam := insertK s.kma.cam pos ((s.kma.row pos).strike bit pair stuck) } }
  | .kmaSram pos word bits =>
    if (s.kma.shadow pos).isNone ∨ 7 ≤ word then s
    else
      let old := ((s.kma.sram.find? fun x => x.1 == pos && x.2.1 == word).map fun x => x.2.2).getD 0
      { s with kma := { s.kma with sram := (s.kma.sram.filter fun x => !(x.1 == pos && x.2.1 == word)) ++ [(pos, word, old + bits)] } }
  | .cacheData ma word more => s.strikeCache { ma := lineOf ma, word := word % 32, kind := if more then 1 else 0 }
  | .cacheTag ma => s.strikeCache { ma := lineOf ma, word := 0, kind := 2 }

/-- Time passes with no command waiting: cells may be upset, which ones a free value says (DESIGN CHOICE, assumptions 1 and 134). -/
def State.idle (s : State) : State := ({ s with free := s.free + 1 } : State).strike (Config.upset s.free)

/-! ### The column cache (R259) -/

/-- CACHE_ENABLE takes a value. -/
def State.cacheEnable (s : State) (on : Bool) : State :=
  let s1 := s.odSet 0x3100 1 (if on then 1 else 0)
  if on then
    if s.cache.state = 0 then s1
    else
      let s2 := s1.invalidate (fun _ => true) fun _ => true
      { s2 with cache := { s2.cache with state := 0 } }
  else { s1 with cache := { s1.cache with state := if s.cache.state = 0 then 1 else s.cache.state } }

/-- CACHE_ENABLE_WRITE (R259). -/
def execCacheEnableWrite (on : Bool) (s : State) : Host.Outcome State Fault Refusal := .next (s.cacheEnable on)

/-- CACHE_DRAIN_COMPLETE (R259): the write buffers are empty, every line is invalid, and the cache is bypassed. -/
def execCacheDrainComplete (s : State) : Host.Outcome State Fault Refusal :=
  .next (if s.cache.state ≠ 1 then s
    else
      let s1 := s.emptyBuffers.invalidate (fun _ => true) fun _ => true
      { s1 with cache := { s1.cache with state := 2 } })

end Sys2Proof.Machine
end

