-- ==== Sys2Proof/Machine/DictApply.lean ====
section
/-! DEFINITION. Values of dictionary objects: the checks of R449 on a value, the effect of immediate-class values, and profiles
(R468 to R471). -/

namespace Sys2Proof.Machine

namespace OdError
def ok : Nat := 0x0000
def noObject : Nat := 0x0001
def readOnly : Nat := 0x0002
def writeOnly : Nat := 0x0003
def typeLength : Nat := 0x0004
def valueRange : Nat := 0x0005
def reservedField : Nat := 0x0006
def notPermitted : Nat := 0x0007
def busy : Nat := 0x0008
def segSequence : Nat := 0x0009
def segTimeout : Nat := 0x000A
def segAborted : Nat := 0x000B
def dozing : Nat := 0x000C
def powerDown : Nat := 0x000D
def profilePending : Nat := 0x000E
def mailboxFull : Nat := 0x000F
end OdError

/-! ### Values -/

/-- The number a value's bytes stand for. -/
def valueOf (ty : ObjType) (bs : List Byte) : Nat := match ty with
  | .var .. => varNat bs
  | _ => leNat bs

/-- The bytes of a value. -/
def bytesOfValue (ty : ObjType) (v : Nat) : List Byte := match ty with
  | .var .. => varBytes v
  | t => leBytes t.bytes v

/-- The length suits the type. -/
def lengthOk (ty : ObjType) (n : Nat) : Bool := match ty with
  | .var _ m => decide (n ≤ m)
  | t => n == t.bytes

/-- Reserved fields and codes inside the values of R387 and R429. -/
def valueReserved (index : Nat) (bs : List Byte) : Bool :=
  let v := leNat bs
  if index = 0x6100 then decide (48 ≤ bitsOf v 47 42) || bitsOf v 41 40 == 3 || bitsOf v 35 24 != 0
  else if index = 0x5010 then (List.range (bs.length / 16)).any fun i => fieldNat bs (16 * i + 15) 1 != 0
  else false

/-- The value lies in the range of its table. -/
def valueInRange (r : ObjRow) (index sub : Nat) (bs : List Byte) : Bool :=
  let v := leNat bs
  if index = 0x5010 then bs.length % 16 == 0
  else if index = 0x1021 ∧ sub = 3 then decide (v < 64) || v == 255
  else if index = 0x4000 ∧ sub = 3 then v == 1 || v == 3 || v == 15
  else decide (r.lo ≤ v) && decide (v ≤ r.hi)

/-- The checks of R449 on a value, from TYPE_LENGTH on. -/
def valueError (r : ObjRow) (index sub : Nat) (bs : List Byte) : Nat :=
  if !lengthOk r.ty bs.length then OdError.typeLength
  else if valueReserved index bs then OdError.reservedField
  else if !valueInRange r index sub bs then OdError.valueRange
  else OdError.ok

/-! ### Immediate-class values -/

/-- A programmable rule takes a value: it is released, with its counter at 0 (R429). -/
def State.ruleSet (s : State) (rule v : Nat) : State :=
  let s1 := s.odSet 0x6100 (rule - 15) v
  { s1 with moth := { s1.moth with rules := s1.moth.rules.filter fun p => p.1 / 64 != rule
                                   fired := s1.moth.fired.filter fun p => p.1 != rule } }

/-- An immediate-class value takes effect. -/
def State.applyImmediate (s : State) (index sub v : Nat) : State :=
  if index = 0x2004 then s.setTimeBase (BitVec.ofNat 48 v)
  else if index = 0x3100 ∧ sub = 1 then s.cacheEnable (v == 1)
  else if index = 0x6100 then s.ruleSet (sub + 15) v
  else s.odSet index sub v

/-- A reset-class value waits in the reset shadow (R451). -/
def State.resetSet (s : State) (index sub v : Nat) : State :=
  { s with dict := { s.dict with resetShadow := (odKey index sub, v) :: s.dict.resetShadow.filter fun p => p.1 != odKey index sub } }

/-- A frame-class value joins the shadow set (R47). -/
def State.shadowSet (s : State) (index sub v : Nat) : State :=
  { s with dict := { s.dict with shadow := (odKey index sub, v) :: s.dict.shadow.filter fun p => p.1 != odKey index sub } }

/-- RULE_WRITE (R429): a value with a reserved field or code leaves the rule as it is. -/
def execRuleWrite (rule : Fin 64) (v : Word) (s : State) : Host.Outcome State Fault Refusal :=
  .next (if rule.val < 16 ∨ valueReserved 0x6100 (leBytes 6 v.toNat) then s else s.ruleSet rule.val v.toNat)

/-! ### Profiles (R468, R469) -/

/-- The objects a profile holds: every rw object but HOLD, TIME_BASE and TABLE_SELECT. -/
def profileObjects : List (Nat × Nat × ObjRow) :=
  ((objRows.filter fun r => r.acc == .rw).flatMap fun r => (List.range r.indices).flatMap fun i => (List.range r.subs).map fun j =>
    (r.index + i, r.sub + j, r)).filter fun p => !(p.1 == 0x2001 || p.1 == 0x2004 || (p.1 == 0x3410 && p.2.1 == 1))

/-- Keys rise strictly. -/
def risingKeys : List (Nat × Nat) → Bool
  | a :: b :: r => decide (a.1 < b.1) && risingKeys (b :: r)
  | _ => true

/-- Every record of a copy passes R449, and the records ascend. -/
def copyValid (c : ProfileCopy) : Bool :=
  risingKeys c.records && c.records.all fun p => match objRow (p.1 / 256) (p.1 % 256) with
    | some r => r.acc == .rw && valueError r (p.1 / 256) (p.1 % 256) (bytesOfValue r.ty p.2) == OdError.ok
    | none => false

/-- The valid copy of a profile with the higher GENERATION: which, and its contents. -/
def State.profileCopy? (s : State) (p : Nat) : Option (Nat × ProfileCopy) :=
  let get (i : Nat) : Option ProfileCopy := (lookup? s.profiles.copies (2 * p + i)).filter copyValid
  match get 0, get 1 with
  | some a, some b => if a.generation < b.generation then some (1, b) else some (0, a)
  | some a, none => some (0, a)
  | none, some b => some (1, b)
  | none, none => none

/-- The value a profile gives an object. -/
def State.profileValue (s : State) (c : ProfileCopy) (index sub : Nat) : Nat :=
  (lookup? c.records (odKey index sub)).getD (odDefault s.e384 index sub)

/-- Objects of a latch class with the values of a copy. -/
def State.profileValues (s : State) (c : ProfileCopy) (l : Latch) : List (Nat × Nat × Nat) :=
  (profileObjects.filter fun p => p.2.2.latch == l).map fun p => (p.1, p.2.1, s.profileValue c p.1 p.2.1)

/-- Step 5 with a profile load whose tick has come (R471): its frame-class values join the shadow set; when the set is applied
its immediate-class values take effect and its reset-class values become the reset shadow. -/
def State.latchProfile (s : State) : State × Bool :=
  match s.profileCopy? s.profiles.target with
  | none => s.latchSet
  | some (_, c) =>
    let s1 := (s.profileValues c .frame).foldl (fun (s : State) (p : Nat × Nat × Nat) => s.shadowSet p.1 p.2.1 p.2.2) s
    let mask := s1.refuseMask
    if mask = 0 then
      let s2 := (s1.profileValues c .immediate).foldl (fun (s : State) (p : Nat × Nat × Nat) => s.applyImmediate p.1 p.2.1 p.2.2) s1.applySet
      let s3 := { s2 with dict := { s2.dict with resetShadow := (s2.profileValues c .reset).map fun (p : Nat × Nat × Nat) => (odKey p.1 p.2.1, p.2.2) } }
      (({ s3 with profiles := { s3.profiles with active := s.profiles.target, state := 0, result := 0 } }).raise 0x0002 0 s.profiles.target, true)
    else
      let s2 := s1.refuseSet mask
      ({ s2 with profiles := { s2.profiles with state := 0, result := refuseCodeOf mask } }, false)

end Sys2Proof.Machine
end

