-- ==== Sys2Proof/Machine/Codec.lean ====
section
/-! DEFINITION. The bulk codec (R94 to R102), and the LOAD of a KMA table, whose records also come from the host (R220, R350). -/

namespace Sys2Proof.Machine

/-! ### The job descriptor (R94) -/

structure Job where
  op : Nat
  type : Nat
  force : Option Nat
  spanIn : Bool
  spanOut : Bool
  flushEvery : Nat
  expLimit : Nat
  inAddr : Nat
  outAddr : Nat
  validAddr : Nat
  resultAddr : Nat
  inLen : Nat
  outLen : Nat
  prior : Nat
  firstRow : Nat
deriving DecidableEq, Repr

def jobOf (d : BitVec 512) : Job :=
  let pred := entryField d 2 1
  { op := entryField d 0 1, type := entryField d 1 1, force := if bitOf pred 2 then some (pred % 4) else none,
    spanIn := bitOf (entryField d 3 1) 0, spanOut := bitOf (entryField d 3 1) 1
    flushEvery := if entryField d 4 2 = 0 then 4096 else entryField d 4 2, expLimit := entryField d 6 2,
    inAddr := entryField d 8 8, outAddr := entryField d 16 8, validAddr := entryField d 24 8, resultAddr := entryField d 32 8,
    inLen := entryField d 40 6, outLen := entryField d 46 6, prior := entryField d 52 6, firstRow := entryField d 58 6 }

/-- Reserved fields and codes of a job descriptor, and fields its OP does not use (R8, R94); a FLUSH_EVERY or an encode's IN_LEN that R94
does not admit is taken so too (DESIGN CHOICE, assumption 148). -/
def jobReserved (d : BitVec 512) : Bool :=
  let j := jobOf d
  let pred := entryField d 2 1
  !fits pred 3 || !fits (entryField d 3 1) 2 ||
  match j.op with
  | 1 => j.type == 0 || decide (7 < j.type) || j.spanIn || decide (4096 < entryField d 4 2) || j.expLimit != 0 || j.inLen % 6 != 0
      || (if j.spanOut then j.outLen != 0 || !fits j.outAddr 48 else j.validAddr != 0 || j.firstRow != 0)
  | 2 => j.type != 0 || pred != 0 || entryField d 4 2 != 0 || j.spanOut || j.validAddr != 0 || j.firstRow != 0
      || !fits j.prior 16 || (j.spanIn && !fits j.inAddr 48)
  | _ => true

/-- The span a job names passes checks 1 to 4 of R69 and is one of KIND 0x1 with RD and WR (R95). -/
def State.jobSpan (s : State) (inst addr : Nat) : Option (BitVec 192) :=
  let sel := addrSel addr
  let d := s.desc inst sel
  if sel = 0 ∨ descKind d ≠ 1 ∨ !descRd d ∨ !descWr d ∨ descLimit d < bitsOf addr 35 0 + 5
      ∨ !wellFormedAt false ((descBase d + bitsOf addr 35 0) % slotBytes) then none
  else some d

/-- Slot of segment n of a span. -/
def spanSlot (d : BitVec 192) (n : Nat) : Nat := descBase d / slotBytes + n

/-- TYPE of a column segment as a block type code (R79): the high component of a DEC96 column is 0x7. -/
def segBlockType (h : List Byte) : Nat :=
  let ty := fieldNat h 4 1 % 16
  if bitOf (fieldNat h 6 2) 3 then (if ty = 4 then 7 else 0) else if ty = 7 then 0 else ty

/-- The conditions of R95, in the order of its table; 0 when the job runs. A SPAN_OUT offset inside a segment fails as the span does
(DESIGN CHOICE, assumption 148); the type code of the named segment's header is looked at before it is compared (R58, R60). -/
def State.jobStatus (s : State) (e : WorkEntry) : Nat :=
  let j := jobOf e.desc
  if jobReserved e.desc then Status.reservedField
  else if (j.op = 1 ∧ j.spanOut = false ∧ j.outLen < 24652) ∨ (j.op = 2 ∧ j.outLen < 24576) then Status.codecSpace
  else if j.spanOut ∧ 98304 < j.inLen then Status.codecSpace
  else if j.spanIn then (if (s.jobSpan e.inst j.inAddr).isNone then Status.segFault else 0)
  else if j.spanOut then match s.jobSpan e.inst j.outAddr with
    | none => Status.segFault
    | some d =>
      if bitsOf j.outAddr 35 0 % slotBytes ≠ 0 then Status.segFault
      else
        let slot := spanSlot d (bitsOf j.outAddr 35 0 / slotBytes)
        let h := s.bytesAt (slot * slotBytes + lineArea) 64
        if fieldNat h 0 2 = 0x7353 ∧ s.typeReserved slot then Status.reservedField
        else if segBlockType h ≠ j.type ∨ j.firstRow ≠ fieldNat h 22 6 + fieldNat h 28 4 then Status.columnMismatch else 0
  else 0

/-! ### Encoding (R96, R97) -/

/-- Words of the input. -/
def inputWords (bs : List Byte) : List Word := (List.range (bs.length / 6)).map fun i => BitVec.ofNat 48 (fieldNat bs (6 * i) 6)

/-- Blocks of an encode (R96): the number of the first value and the values. -/
def cutBlocks (every prior : Nat) : Nat → Nat → List Word → List (Nat × List Word)
  | 0, _, _ => []
  | n + 1, i, vs =>
    if vs.isEmpty then []
    else
      let k := every - (prior + i) % every
      (i, vs.take k) :: cutBlocks every prior n (i + k) (vs.drop k)

/-- As many groups as fit in some bytes. -/
def fitGroups : Nat → List (List Byte) → List (List Byte)
  | _, [] => []
  | room, g :: r => if g.length ≤ room then g :: fitGroups (room - g.length) r else []

/-- What an encode to host memory has done. -/
structure EncodeOut where
  /-- offset and bytes of each block -/
  blocks : List (Nat × List Byte)
  values : Nat
  produced : Nat
  status : Nat
deriving DecidableEq, Repr

/-- The blocks of an encode to host memory, up to the group that does not fit (R97). -/
def encodeHost (j : Job) (o : EncodeOut) : List (Nat × List Word) → EncodeOut
  | [] => o
  | (_, vs) :: r =>
    let at_ := o.produced + (6 - o.produced % 6) % 6
    let (h, gs) := encodeBlock j.type j.force vs
    let fit := if at_ + 12 ≤ j.outLen then fitGroups (j.outLen - at_ - 12) gs else []
    if fit.isEmpty then { o with status := Status.stoppedSpace }
    else
      let n := if fit.length = gs.length then vs.length else 64 * fit.length
      let h1 := { h with n := n, rawM1 := n - 1, encLen := fit.flatten.length }
      let b := h1.bytes ++ fit.flatten
      let o1 := { o with blocks := o.blocks ++ [(at_, b)], values := o.values + n, produced := at_ + b.length }
      if fit.length = gs.length then encodeHost j o1 r else { o1 with status := Status.stoppedSpace }

/-! ### Encoding into a span (R98) -/

/-- A segment being appended to: its number in the span and its header as it will be. -/
structure OpenSeg where
  seg : Nat
  header : List Byte
deriving DecidableEq, Repr

/-- Progress of an encode into a span. -/
structure SpanOut where
  seg : OpenSeg
  headers : List (Nat × List Byte)
  blocks : Nat
  values : Nat
  produced : Nat
  status : Nat
deriving DecidableEq, Repr

def putField (h : List Byte) (i n v : Nat) : List Byte := overlay h i (leBytes n v)

/-- The header of a new segment (R98): what it takes from the first segment the job wrote, its SEQ and its first row. -/
def newSegHeader (first : List Byte) (seq row : Nat) : List Byte :=
  let z := List.replicate 64 (0 : Byte)
  let h := putField (putField (putField z 0 2 0x7353) 2 1 1) 3 1 1
  let h := putField (putField (putField h 4 1 (fieldNat first 4 1)) 5 1 (fieldNat first 5 1)) 6 2 (fieldNat first 6 2 / 2 * 2)
  let h := putField (putField h 8 4 (fieldNat first 8 4)) 12 2 (fieldNat first 12 2)
  putField (putField (putField h 16 6 seq) 22 6 row) 36 4 (fieldNat first 36 4)

/-- Where the next block of a segment goes (R89). -/
def State.nextBlockAt (s : State) (slot count : Nat) : Nat :=
  if count = 0 then 0x4800
  else
    let e := s.dirEntry slot (count - 1)
    let end_ := e.offset + 12 + (parsePcc (s.bytesAt (slot * slotBytes + e.offset) 12)).encLen
    end_ + (6 - end_ % 6) % 6

/-- Least and greatest of the values of a block that are not null, in type order. -/
def blockExtremes (ty : Nat) (vs : List (Word × Bool)) : Option (Word × Word) :=
  (vs.filter fun p => p.2).foldl (fun (m : Option (Word × Word)) p => match m with
    | none => some (p.1, p.1)
    | some (a, b) => some (if ordVal ty p.1 < ordVal ty a then p.1 else a, if ordVal ty b < ordVal ty p.1 then p.1 else b)) none

/-- SEG_MIN and SEG_MAX over the directory of a segment. -/
def State.segExtremes (s : State) (ty slot count : Nat) : Word × Word :=
  let es := ((List.range count).map fun e => s.dirEntry slot e).filter fun e => !e.allNull
  match es with
  | [] => (0, 0)
  | e :: r => r.foldl (fun (m : Word × Word) x =>
      (if ordVal ty x.min < ordVal ty m.1 then x.min else m.1, if ordVal ty m.2 < ordVal ty x.max then x.max else m.2)) (e.min, e.max)

/-- A store of the codec: its slot is dirty, and it enters the frame's sums. -/
def State.codecStore (s : State) (ma : Nat) (bs : List Byte) : State := (s.writeMem ma bs).1.sumStore ma bs

/-- One block is placed in a segment with room for it: block, directory entry and the header to come. -/
def State.placeBlock (s : State) (d : BitVec 192) (o : SpanOut) (ty at_ : Nat) (b : List Byte) (vs : List (Word × Bool)) : State × SpanOut :=
  let slot := spanSlot d o.seg.seg
  let count := fieldNat o.seg.header 32 2
  let ex := blockExtremes ty vs
  let pair := ex.getD (0, 0)
  let w := at_ + vs.length * 2 ^ 20 + (if ex.isNone then 2 ^ 33 else 0)
  let entry := leBytes 6 w ++ leBytes 6 pair.1.toNat ++ leBytes 6 pair.2.toNat
  let s1 := (s.codecStore (slot * slotBytes + at_) (b ++ List.replicate ((6 - b.length % 6) % 6) 0)).codecStore (slot * slotBytes + 18 * count) entry
  let ext := s1.segExtremes ty slot (count + 1)
  let h := putField (putField o.seg.header 28 4 (fieldNat o.seg.header 28 4 + vs.length)) 32 2 (count + 1)
  let h := putField (putField h 34 2 ((at_ + b.length - 1) / 192 + 1)) 42 6 ext.1.toNat
  let h := putField (putField h 48 6 ext.2.toNat) 54 6 s.frame.frameNo
  (s1, { o with seg := { o.seg with header := h }, blocks := o.blocks + 1, values := o.values + vs.length, produced := o.produced + b.length })

/-- The open segment is sealed (R98). -/
def SpanOut.seal (o : SpanOut) (d : BitVec 192) (frame : Nat) : SpanOut :=
  let h := putField (putField o.seg.header 6 2 (fieldNat o.seg.header 6 2 / 2 * 2 + 1)) 54 6 frame
  { o with headers := o.headers ++ [(spanSlot d o.seg.seg, h)] }

/-- The lines of a segment that hold a byte other than zero. -/
def State.usedLines (s : State) (slot : Nat) : List Nat :=
  ((s.mem.bytes.filter fun p => p.1 / slotBytes == slot && decide (p.1 % slotBytes < lineArea)).map fun p => lineOf p.1).foldr
    (fun x r => if r.contains x then r else x :: r) []

/-- A segment that begins anew reads as zero, directory and all, before its first block (R56, R89; DESIGN CHOICE, assumption 147). -/
def State.clearSegment (s : State) (slot : Nat) : State :=
  (s.usedLines slot).foldl (fun (s : State) l => s.codecStore l (List.replicate 192 0)) s

/-- The next segment of the span begins; `none` past LIMIT. -/
def nextSegment (d : BitVec 192) (first : List Byte) (s : State) (o : SpanOut) : Option (State × SpanOut) :=
  let n := o.seg.seg + 1
  if descLimit d + 1 < (n + 1) * slotBytes then none
  else
    let h := newSegHeader first (fieldNat o.seg.header 16 6 + 1) (fieldNat o.seg.header 22 6 + fieldNat o.seg.header 28 4)
    some (s.clearSegment (spanSlot d n), { o with seg := { seg := n, header := h } })

/-- The bytes of the next block of an encode into a span. -/
def blockBytes (j : Job) (vs : List (Word × Bool)) : List Byte :=
  let p := encodeBlock j.type j.force (vs.map fun p => p.1)
  p.1.bytes ++ p.2.flatten

/-- A block goes to an offset in its segment when it fits there; else the segment is sealed, and the block goes to the start of the next
segment; with no next segment the encode ends (R98). -/
def encodePut (j : Job) (d : BitVec 192) (first : List Byte) (s : State) (o : SpanOut) (vs : List (Word × Bool)) (b : List Byte) (at_ : Nat)
    (fits : Bool) : State × SpanOut :=
  if fits then s.placeBlock d o j.type at_ b vs
  else
    let sealed_ := o.seal d s.frame.frameNo
    match nextSegment d first s sealed_ with
    | none => (s, { sealed_ with status := Status.spanFull })
    | some (s1, o1) => s1.placeBlock d o1 j.type 0x4800 b vs

/-- The next block of an encode that has not ended: after the last block of its segment when there is room (R98). -/
def encodeStep (j : Job) (d : BitVec 192) (first : List Byte) (p : State × SpanOut) (vs : List (Word × Bool)) : State × SpanOut :=
  let b := blockBytes j vs
  let count := fieldNat p.2.seg.header 32 2
  let at_ := p.1.nextBlockAt (spanSlot d p.2.seg.seg) count
  if p.2.status ≠ 0 then p
  else encodePut j d first p.1 p.2 vs b at_ (decide (count < 1024) && decide (at_ + b.length ≤ lineArea))

/-- The blocks of an encode into a span (R98). -/
def encodeSpan (j : Job) (d : BitVec 192) (first : List Byte) (s : State) (o : SpanOut) (l : List (List (Word × Bool))) : State × SpanOut :=
  l.foldl (encodeStep j d first) (s, o)

/-! ### Decoding (R99) -/

/-- What a decode has done. -/
structure DecodeOut where
  pos : Nat
  values : List Word
  produced : List (List Byte)
  blocks : Nat
  trailing : Nat
  flags : Nat
  status : Nat
deriving DecidableEq, Repr

/-- What the first three rows of R99 say of the block that a decode comes to, in that order (R506): it stops before it, or the job has
ended, or the block is decoded. -/
inductive Gate where
  | stop (status : Nat)
  | ended
  | go
deriving DecidableEq, Repr

/-- `left` is what the input still holds, of which `head` is as much as is needed of the block. -/
def DecodeOut.gate (o : DecodeOut) (j : Job) (left : Nat) (head : List Byte) : Gate :=
  let h := parsePcc head
  let whole := 12 + h.encLen
  if 12 ≤ left ∧ j.outLen < 6 * o.values.length + 6 * h.n then .stop Status.stoppedSpace
  else if 12 ≤ left ∧ j.expLimit ≠ 0 ∧ j.expLimit * (o.pos + whole) < 6 * o.values.length + 6 * h.n then .stop Status.expansionLimit
  else if (j.prior ≠ 0 ∧ j.prior ≤ o.blocks) ∨ left < 12 ∨ (head.take 6).all (· == 0) then .ended
  else .go

/-- A decode ends, with so many bytes of its input left. -/
def DecodeOut.finish (o : DecodeOut) (left : Nat) : DecodeOut :=
  { o with trailing := o.trailing + left, flags := if left = 0 then o.flags else 1 }

/-- A block, of whose bytes `left` holds those the input holds; the second part says that the job goes on. `whole` is false when the
read of the input failed after them: then the job stops at the last whole block (R329). -/
def DecodeOut.block (o : DecodeOut) (left : List Byte) (whole : Bool) : DecodeOut × Bool :=
  let h := parsePcc left
  let n := 12 + h.encLen
  let (vs, len, ok) := decodeBlock h (left.drop 12)
  let more : DecodeOut := { o with values := o.values ++ vs, produced := o.produced ++ [vs.flatMap fun v => leBytes 6 v.toNat],
                                   blocks := o.blocks + 1 }
  if left.length < n then
    (if whole then { more with pos := o.pos + left.length, flags := 2, status := Status.pccTruncated }
      else { o with status := Status.moverReadError }, false)
  else if !h.ok then ({ o with status := Status.pccBadHeader }, false)
  else if !ok then ({ o with status := Status.pccBadGroup }, false)
  else ({ more with pos := o.pos + n, trailing := o.trailing + (h.encLen - len) }, true)

/-- The blocks of a decode from host memory, each at the first multiple of 6 after the one before. The bytes between count as consumed,
those after the last block too (DESIGN CHOICE, assumption 148). -/
def decodeJob (j : Job) (input : List Byte) (whole : Bool) : Nat → DecodeOut → DecodeOut
  | 0, o => o
  | fuel + 1, o0 =>
    let o := { o0 with pos := min input.length (o0.pos + (6 - o0.pos % 6) % 6) }
    let left := input.drop o.pos
    match o.gate j left.length left with
    | .stop st => { o with status := st }
    | .ended => if left.length < 12 ∧ !whole ∧ !(decide (j.prior ≠ 0) && decide (j.prior ≤ o.blocks)) then { o with status := Status.moverReadError }
      else o.finish left.length
    | .go =>
      let (o1, goOn) := o.block left whole
      if goOn then decodeJob j input whole fuel o1 else o1

/-! ### Decoding from a span (R99, R102) -/

/-- A decode from a span: it waits for a slot, it has ended, or it goes on with its next block. -/
inductive SpanRun where
  | wait (slot : Nat)
  | over (s : State) (o : DecodeOut)
  | more (s : State) (o : DecodeOut)

/-- Blocks of a segment of a span that start at an offset of the span or above: offsets in the segment. -/
def State.segBlocks (s : State) (d : BitVec 192) (off n : Nat) : List Nat :=
  ((List.range (min 1024 (s.blockCount (spanSlot d n)))).map fun e => (s.dirEntry (spanSlot d n) e).offset).filter fun o =>
    decide (off ≤ n * slotBytes + o)

/-- Bytes of a block, of which none lie past its segment. -/
def State.blockLen (s : State) (slot o : Nat) : Nat := min (lineArea - o) (12 + (parsePcc (s.bytesAt (slot * slotBytes + o) 12)).encLen)

/-- Bytes of the blocks of a span from an offset on; a lost segment holds none. -/
def State.spanBytes (s : State) (d : BitVec 192) (off : Nat) : Nat :=
  ((List.range (descSegs d)).map fun n =>
    if s.gone (spanSlot d n) then 0 else ((s.segBlocks d off n).map fun o => s.blockLen (spanSlot d n) o).sum).sum

/-- The first segment of a span, from the one of an offset on, that is not resident and can still be restored. -/
def State.segAway (s : State) (d : BitVec 192) (off : Nat) : Option Nat :=
  (List.range (descSegs d)).find? fun n => decide (off / slotBytes ≤ n) && !s.resident (spanSlot d n) && !s.gone (spanSlot d n)

/-- A job with SPAN_IN ends: what its input still holds, within IN_LEN, is counted, which needs the segments that follow. IN_LEN bounds
the bytes of the blocks (DESIGN CHOICE, assumption 148). -/
def State.spanEnd (s : State) (d : BitVec 192) (off inLen : Nat) (o : DecodeOut) : SpanRun :=
  if (s.segAway d off).isSome then .wait (spanSlot d ((s.segAway d off).getD 0))
  else .over s (o.finish (min inLen (s.spanBytes d off) - o.pos))

/-- One block of a span. A line of it that is uncorrectable ends the job with MEM_UNCORRECTABLE (DESIGN CHOICE, assumption 148). -/
def State.decodeSpanBlock (j : Job) (d : BitVec 192) (off slot : Nat) (p : SpanRun) (b : Nat) : SpanRun :=
  match p with
  | .more s o =>
    let ma := slot * slotBytes + b
    let left := min (j.inLen - o.pos) (lineArea - b)
    let (s1, ok1) := s.readRange ma (min 12 left) 66 true
    if !ok1 then .over s1 { o with status := Status.memUncorrectable }
    else match o.gate j left (s1.bytesAt ma (min 12 left)) with
      | .stop st => .over s1 { o with status := st }
      | .ended => s1.spanEnd d off j.inLen o
      | .go =>
        let n := min left (s1.blockLen slot b)
        let (s2, ok2) := s1.readRange ma n 66 true
        if !ok2 then .over s2 { o with status := Status.memUncorrectable }
        else
          let (o1, goOn) := o.block (s2.bytesAt ma n) true
          if goOn then .more s2 o1 else .over s2 o1
  | x => x

/-- The header and the directory of a segment are read. -/
def State.readDirectory (s : State) (slot : Nat) : State × Bool :=
  let h := s.readRange (slot * slotBytes + lineArea) 64 66 true
  let r := h.1.readRange (slot * slotBytes) (18 * min 1024 (h.1.blockCount slot)) 66 true
  (r.1, h.2 && r.2)

/-- The blocks of a segment whose directory has been read. -/
def State.decodeBlocks (s : State) (ok : Bool) (j : Job) (d : BitVec 192) (off n : Nat) (o : DecodeOut) : SpanRun :=
  if !ok then .over s { o with status := Status.memUncorrectable }
  else if s.blockCount (spanSlot d n) ≠ 0 ∧ s.typeReserved (spanSlot d n) then .over s { o with status := Status.reservedField }
  else (s.segBlocks d off n).foldl (State.decodeSpanBlock j d off (spanSlot d n)) (.more s o)

/-- One segment of a span: its header and directory are read, then its blocks. -/
def State.decodeSegment (j : Job) (d : BitVec 192) (off : Nat) (p : SpanRun) (n : Nat) : SpanRun :=
  match p with
  | .more s o =>
    if s.gone (spanSlot d n) then .over s { o with status := Status.segmentLost }
    else if !s.resident (spanSlot d n) then .wait (spanSlot d n)
    else (s.readDirectory (spanSlot d n)).1.decodeBlocks (s.readDirectory (spanSlot d n)).2 j d off n o
  | x => x

/-- The blocks of a span from an offset on, in order. -/
def State.decodeSpan (s : State) (j : Job) (d : BitVec 192) (off : Nat) (o : DecodeOut) : SpanRun :=
  ((List.range (descSegs d)).drop (off / slotBytes)).foldl (State.decodeSegment j d off) (.more s o)

/-- Slots of a span, first to last. -/
def descSlotList (d : BitVec 192) : List Nat := (List.range (descSegs d)).map fun n => spanSlot d n

/-! ### Units (R101, R102) -/

def WorkEntry.spanOut (e : WorkEntry) : Bool := e.kind == 2 && spanOutJob e.desc

/-- A job waits for a unit of its kind. -/
def WorkEntry.wantsUnit (e : WorkEntry) (encoder : Bool) : Bool :=
  e.kind == 2 && e.encodes == encoder && e.begun && e.finished.isNone && (match e.job with
    | some j => j.unit.isNone && !j.done
    | none => false)

def State.updJob (s : State) (slot : Nat) (f : CodecJob → CodecJob) : State :=
  s.updEntry slot fun e => { e with job := e.job.map f }

/-- CODEC_UNIT_GRANT (R101, R102): an encode job with SPAN_OUT comes first and may take the unit of a read-only encode job, which
then waits again; the others wait in work-table order. A job takes the free unit of lowest number, and when several read-only jobs hold
one, the last of them in work-table order yields (DESIGN CHOICE, assumption 148). -/
def execCodecUnitGrant (encoder : Bool) (s : State) : Host.Outcome State Fault Refusal :=
  let held := s.unitsHeld encoder
  let wants := s.work.filter fun e => e.wantsUnit encoder
  let free := (List.finRange 4).find? fun u => held.all fun e => e.unit != some u
  let grant (s : State) (u : Option (Fin 4)) (e : WorkEntry) : State := s.updJob e.slot fun j => { j with unit := u }
  .next (if s.frozen then s
    else match wants.find? WorkEntry.spanOut with
    | some e =>
      if free.isSome then grant s free e
      else match (held.filter fun x => !x.spanOut && !(match x.job with
          | some j => j.done
          | none => false)).getLast? with
        | some x => grant (grant s none x) x.unit e
        | none => s
    | none => match wants with
      | [] => s
      | e :: _ => if free.isSome then grant s free e else s)

/-- The Mover channel of the unit that a job holds (R312). -/
def WorkEntry.channel (e : WorkEntry) : Fin 32 :=
  let u := (e.unit.getD 0).val
  if e.encodes then ⟨8 + u % 4, by omega⟩ else ⟨12 + u % 4, by omega⟩

/-- The job that holds a unit in a slot and has its work to do. -/
def State.jobAt (s : State) (slot : Nat) : Option WorkEntry :=
  if !(s.serving || s.replaying) then none
  else match s.entry? slot with
    | some e => match e.job with
      | some j => if e.kind == 2 && j.unit.isSome && !j.done && e.finished.isNone && (!e.spanOut || s.executing) then some e else none
      | none => none
    | none => none

/-- A job ends before any work. -/
def State.endJob (s : State) (slot st : Nat) : State := s.updJob slot fun j => { j with done := true, status := st }

/-- The input of an encode job as far as it has arrived: its words, each with its validity, and whether that is all of it. -/
structure EncodeInput where
  words : List (Word × Bool)
  whole : Bool
deriving DecidableEq, Repr

/-- Input bytes, then one validity bit per word where VALID_ADDR names some (R94); a word counts once both have arrived. -/
def encodeInput (j : Job) (bs : List Byte) : EncodeInput :=
  let valid := bs.drop j.inLen
  let vs := inputWords (bs.take j.inLen)
  let got := if j.validAddr = 0 then vs else vs.take (8 * valid.length)
  { words := got.zipIdx.map fun p => (p.1, j.validAddr == 0 || (valid.getD (p.2 / 8) 0).getLsbD (p.2 % 8))
    whole := decide (j.inLen / 6 ≤ got.length) }

/-- The blocks of an encode (R96); of an input that has not come whole, the whole blocks (R329). -/
def encodeCuts (j : Job) (i : EncodeInput) : List (List (Word × Bool)) :=
  ((cutBlocks j.flushEvery j.prior i.words.length 0 (i.words.map fun p => p.1)).filter fun p =>
    i.whole || (j.prior + p.1 + p.2.length) % j.flushEvery == 0).map fun p => (i.words.drop p.1).take p.2.length

/-- The status of an encode that stopped for no other reason. -/
def EncodeInput.status (i : EncodeInput) (st : Nat) : Nat := if st = 0 ∧ !i.whole then Status.moverReadError else st

/-- The segment an encode into a span begins in (R98): the named one, or the next when that is SEALED. One that holds a header of the
job's type is appended to, whatever else it holds; any other begins anew (DESIGN CHOICE, assumption 148). -/
def State.encodeBegin (s : State) (j : Job) (d : BitVec 192) : Option (State × SpanOut) :=
  let n0 := bitsOf j.outAddr 35 0 / slotBytes
  let h0 := s.bytesAt (spanSlot d n0 * slotBytes + lineArea) 64
  let open_ (n : Nat) (h : List Byte) : SpanOut :=
    { seg := { seg := n, header := h }, headers := [], blocks := 0, values := 0, produced := 0, status := 0 }
  let h1 := s.bytesAt (spanSlot d (n0 + 1) * slotBytes + lineArea) 64
  if !bitOf (fieldNat h0 6 2) 0 then some (s, open_ n0 h0)
  else if descLimit d + 1 < (n0 + 2) * slotBytes then none
  else if fieldNat h1 0 2 = 0x7353 ∧ segBlockType h1 = j.type then some (s, open_ (n0 + 1) h1)
  else some (s.clearSegment (spanSlot d (n0 + 1)), open_ (n0 + 1) (newSegHeader h0 (fieldNat h0 16 6 + 1) j.firstRow))

/-- What an encode into a span does: its state and progress, or none when it finds no segment. -/
def State.encodeRunSpan (s : State) (j : Job) (d : BitVec 192) (i : EncodeInput) : Option (State × SpanOut) :=
  (s.encodeBegin j d).map fun p => encodeSpan j d p.2.seg.header p.1 p.2 (encodeCuts j i)

/-- An encode into a span. -/
def State.encodeInto (s : State) (e : WorkEntry) (j : Job) (d : BitVec 192) (i : EncodeInput) : State :=
  match s.encodeRunSpan j d i with
  | none => s.endJob e.slot Status.spanFull
  | some (s1, o1) =>
    let hs := o1.headers ++ (if o1.headers.any fun h => h.1 == spanSlot d o1.seg.seg then [] else [(spanSlot d o1.seg.seg, o1.seg.header)])
    s1.updJob e.slot fun x => { x with
      done := true, status := i.status o1.status, consumed := 6 * o1.values, produced := o1.produced, values := o1.values, blocks := o1.blocks
      headers := if o1.blocks = 0 then o1.headers else hs }

/-- Output of a job to host memory: one descriptor per piece, each entering the output sum (R99, R411; DESIGN CHOICE, assumption
154). -/
def State.codecOutput (s : State) (e : WorkEntry) (ps : List (Nat × List Byte)) : State :=
  ps.foldl (fun (s : State) p => (s.unitWrite e.channel e.inst e.slot p.1 p.2 true).sumOutput (crc64 p.2)) s

/-- What the host read of a job gives (R324 to R329): it waits while its channel moves nothing or its function is held; it fails on a
disabled channel and while the instance is being reset. -/
def State.jobRead (s : State) (e : WorkEntry) (n : Nat) (host : Option (List Byte)) : HostRead :=
  if n = 0 then .got []
  else if e.writes && s.fromRecords then s.hostRead e n host
  else if s.mover.channels[e.channel].disable then .failed []
  else if s.channelWaits e.channel || (s.hostHeld e.inst && !s.resetting e.inst) then .waits
  else if s.resetting e.inst then .failed []
  else s.hostRead e n host

/-- The read of a job's n input bytes over its channel is over (R320, R329, R330). -/
def State.noteRead (s : State) (e : WorkEntry) (addr n : Nat) (r : HostRead) : State :=
  let d := s.ownDesc e.inst e.slot addr 5 n (0, 3) false none
  if n = 0 || (e.writes && s.fromRecords) then s
  else match r with
    | .waits => s
    | .failed bs => s.fresh.2.carryFails e.channel d bs.length (if s.mover.channels[e.channel].disable then 6 else 1)
    | .got _ => s.fresh.2.carried e.channel d n

/-- The header of the segment that an encode into a span starts in has to be resident before it is checked. -/
def State.headWait (s : State) (e : WorkEntry) (j : Job) : Option (Nat ⊕ Nat) :=
  if !j.spanOut then none
  else match s.jobSpan e.inst j.outAddr with
    | none => none
    | some d => s.spanWait [spanSlot d (bitsOf j.outAddr 35 0 / slotBytes)]

/-- The slots that an encode into a span touches: the named segment, and those up to the one it ends in. -/
def State.encodeSlots (s : State) (j : Job) (d : BitVec 192) (i : EncodeInput) : List Nat :=
  let n0 := bitsOf j.outAddr 35 0 / slotBytes
  let last := match s.encodeRunSpan j d i with
    | some (_, o) => o.seg.seg
    | none => n0
  (List.range (last + 1 - n0)).map fun k => spanSlot d (n0 + k)

/-- The first of some slots that is not resident: it has to be waited for, or it is lost (R378). -/
def State.firstAway (s : State) (slots : List Nat) : Option (Nat ⊕ Nat) :=
  (slots.find? fun x => !s.resident x).map fun x => if s.gone x then .inr Status.segmentLost else .inl x

/-- Bytes an encode job reads: its input and one validity bit per word. -/
def encodeLength (j : Job) : Nat := j.inLen + if j.validAddr = 0 then 0 else ceilDiv (j.inLen / 6) 8

/-- What has arrived of the input, and of the validity bytes after it. -/
def encodeArrived (j : Job) (input : Option (List Byte)) (valid : List Byte) : List Byte :=
  let bs := (input.getD []).take j.inLen
  if bs.length < j.inLen then bs else bs ++ valid.take (encodeLength j - j.inLen)

/-- An encode into a span whose slots are resident: the header of its segment has to be readable. -/
def State.encodeResident (s : State) (e : WorkEntry) (j : Job) (d : BitVec 192) (bs : List Byte) : State :=
  let r := s.readRange (spanSlot d (bitsOf j.outAddr 35 0 / slotBytes) * slotBytes + lineArea) 64 66 true
  let s1 := if r.1.fromRecords then r.1 else r.1.stageData e.slot 1 bs
  if r.2 then s1.encodeInto e j d (encodeInput j bs) else s1.endJob e.slot Status.memUncorrectable

/-- An encode into a span, once its input has come: the slots it touches have to be resident. -/
def State.encodeToSpan (s : State) (e : WorkEntry) (j : Job) (r : HostRead) : Option (BitVec 192) → State
  | none => s
  | some d => match s.firstAway (s.encodeSlots j d (encodeInput j r.bytes)) with
    | some (.inl x) => s.awaitSlot x
    | some (.inr st) => s.endJob e.slot st
    | none => (s.noteRead e j.inAddr (encodeLength j) r).encodeResident e j d r.bytes

/-- An encode into host memory. -/
def State.encodeToHost (s : State) (e : WorkEntry) (j : Job) (r : HostRead) : State :=
  let i := encodeInput j r.bytes
  let cuts := (encodeCuts j i).map fun b => (0, b.map fun p => p.1)
  let o := encodeHost j { blocks := [], values := 0, produced := 0, status := 0 } cuts
  ((s.noteRead e j.inAddr (encodeLength j) r).codecOutput e (o.blocks.map fun b => (j.outAddr + b.1, b.2))).updJob e.slot fun x => { x with
    done := true, status := i.status o.status, consumed := 6 * o.values, produced := o.produced, values := o.values
    blocks := o.blocks.length }

/-- An encode job whose header has been checked reads its input and encodes what has arrived. -/
def State.encodeRun (s : State) (e : WorkEntry) (j : Job) (input : Option (List Byte)) (valid : List Byte) : State :=
  match s.jobRead e (encodeLength j) (some (encodeArrived j input valid)) with
  | .waits => s
  | r => if j.spanOut then s.encodeToSpan e j r (s.jobSpan e.inst j.outAddr) else s.encodeToHost e j r

/-- CODEC_ENCODE (R95 to R98): the work of an encode job that holds an encoder. `valid` is what a read at VALID_ADDR returns. -/
def execCodecEncode (slot : Fin 256) (input : Option (List Byte)) (valid : List Byte) (s : State) : Host.Outcome State Fault Refusal :=
  .next (match s.jobAt slot.val with
    | none => s
    | some e =>
      let j := jobOf e.desc
      let wait := s.headWait e j
      if j.op ≠ 1 then s
      else if wait.isSome ∧ s.jobStatus e = Status.columnMismatch then match wait with
        | some (.inl x) => s.awaitSlot x
        | _ => s.endJob e.slot Status.segmentLost
      else if s.jobStatus e ≠ 0 then s.endJob e.slot (s.jobStatus e)
      else s.encodeRun e j input valid)

/-- Where each decoded block goes. -/
def outputPieces : Nat → List (List Byte) → List (Nat × List Byte)
  | _, [] => []
  | a, b :: r => (a, b) :: outputPieces (a + b.length) r

/-- A decode job has ended: its output goes to the host, and its progress is what the result record will say. -/
def State.decodeOver (s : State) (e : WorkEntry) (j : Job) (o : DecodeOut) : State :=
  (s.codecOutput e (outputPieces j.outAddr o.produced)).updJob e.slot fun x => { x with
    done := true, status := o.status, flags := o.flags, consumed := o.pos, produced := 6 * o.values.length
    values := o.values.length, trailing := o.trailing, blocks := o.blocks }

/-- A disabled channel drops what a job has for the host: ERR with CAUSE 6 (R327). -/
def State.failOutput (s : State) (e : WorkEntry) (addr : Nat) : State :=
  s.fresh.2.carryFails e.channel (s.ownDesc e.inst e.slot 5 addr 32 (3, 0) false none) 0 6

def decodeStart : DecodeOut := { pos := 0, values := [], produced := [], blocks := 0, trailing := 0, flags := 0, status := 0 }

/-- CODEC_DECODE (R95, R99): the work of a decode job that holds a decoder. `input` is what has arrived of its input from the host; a
shorter one than IN_LEN is a read that failed after it (R329). -/
def execCodecDecode (slot : Fin 256) (input : Option (List Byte)) (s : State) : Host.Outcome State Fault Refusal :=
  .next (match s.jobAt slot.val with
    | none => s
    | some e =>
      let j := jobOf e.desc
      if j.op = 1 then s
      else if s.jobStatus e ≠ 0 then s.endJob e.slot (s.jobStatus e)
      else if j.spanIn then
        match s.jobSpan e.inst j.inAddr with
        | none => s
        | some d =>
          if s.mover.channels[e.channel].disable then (s.failOutput e j.outAddr).endJob e.slot Status.moverReadError
          else if s.channelWaits e.channel then s
          else match s.decodeSpan j d (bitsOf j.inAddr 35 0) decodeStart with
          | .wait x => s.awaitSlot x
          | .over s1 o => s1.decodeOver e j o
          | .more s1 o => s1.decodeOver e j o
      else match s.jobRead e j.inLen input with
        | .waits => s
        | r => (s.noteRead e j.inAddr j.inLen r).decodeOver e j
            (decodeJob j r.bytes (decide (j.inLen ≤ r.bytes.length)) (r.bytes.length + 1) decodeStart))

/-- The 32 bytes of a result record (R100). -/
def CodecJob.result (j : CodecJob) : List Byte :=
  leBytes 2 j.status ++ leBytes 2 j.flags ++ leBytes 6 j.consumed ++ leBytes 6 j.produced ++ leBytes 6 j.values ++ leBytes 6 j.trailing
    ++ leBytes 4 j.blocks

/-- CODEC_JOB_FINISH (R100, R102): the result record goes to the host, the unit is free, and the entry finishes. A record that a disabled
channel drops ends the job with MOVER_READ_ERROR (R327, R329). -/
def execCodecJobFinish (slot : Fin 256) (s : State) : Host.Outcome State Fault Refusal :=
  .next (match s.entry? slot.val with
    | some e => match e.job with
      | some j =>
        let live := !s.hostStopped e.inst
        let off := live && s.mover.channels[e.channel].disable
        if !j.done || e.finished.isSome || s.frozen || (live && !off && s.channelWaits e.channel) then s
        else
          let s1 := if off then s.failOutput e (jobOf e.desc).resultAddr
            else s.unitWrite e.channel e.inst e.slot (jobOf e.desc).resultAddr j.result false
          (s1.updJob e.slot fun j => { j with unit := none, written := true }).finish e.slot e.pos
            (if off ∧ j.status = 0 then Status.moverReadError else j.status) 0
      | none => s
    | none => s)

/-! ### CREATE (R193, R220, R350) -/

/-- A table with the placement the cocoon being replayed records (R377). -/
def State.recordedTable (s : State) (p : TableSpec) : State :=
  match s.persist.replayPlaces.find? fun (t : KmaTable) => t.is p.inst p.tag with
  | some t => { s with kma := { s.kma with tables := s.kma.tables ++ [t] } }
  | none => s

/-- The placement of a CREATE goes into the cocoon of its frame, after those of the tick (R350, R353). -/
def State.stageCreate (s : State) (t : KmaTable) : State :=
  let g := s.persist.staged
  { s with persist := { s.persist with staged := { g with place := g.place ++ cocoonRecord 2 false t.record, records := g.records + 1 } } }

/-- A table is placed for a CREATE; replay takes the recorded placement and does not apply R193 (R350, R377; DEDUCED, assumption
41). -/
def State.createTable (s : State) (p : TableSpec) : State :=
  let s1 := if s.replaying then s.recordedTable p else s.placeTable p
  match s1.table? p.inst p.tag with
  | some t => s1.stageCreate t
  | none => s1

/-- TABLE_CREATE (R193, R219 to R221). -/
def execTableCreate (slot : Fin 256) (s : State) : Host.Outcome State Fault Refusal :=
  .next (match s.nextCommand slot.val 3 1 with
    | none => s
    | some e =>
      let d := e.desc
      let inst := tcInst d
      let cap := entryField d 6 4
      let dict := s.dictSpan inst (entryField d 10 4)
      let wait := if tcFlag d 2 then s.spanWait (s.dictSlots inst) else none
      if tcArgument d then s.tableResult e Status.kmaArgument
      else if (s.table? inst (tcHandle d)).isSome then s.tableResult e Status.kmaExists
      else if cap = 0 ∨ (if tcFlag d 0 then 65536 else 196608) < cap ∨ entryField d 3 1 = 0 ∨ 8 < entryField d 3 1
          ∨ (tcFlag d 0 ∧ tcFlag d 2) ∨ (tcFlag d 2 ∧ entryField d 10 4 = 0) then s.tableResult e Status.kmaArgument
      else if let some (.inl x) := wait then s.awaitSlot x
      else if let some (.inr st) := wait then s.tableResult e st
      else if tcFlag d 2 ∧ dict.isNone then s.tableResult e Status.kmaArgument
      else
        let s1 := s.createTable { inst := inst, tag := tcHandle d, ordered := tcFlag d 0, unique := tcFlag d 1,
                                  dictId := if tcFlag d 2 then entryField d 10 4 else 0, bankset := entryField d 3 1,
                                  capacity := cap, spillSel := 0, spillListed := false, owner := (0, 0) }
        match dict with
        | some span =>
          if tcFlag d 2 then
            let (s2, st) := State.each (State.indexCode inst (tcHandle d) span) s1 ((List.range (dictCodes s1 span)).map (· + 1))
            s2.tableResult e st
          else s1.tableResult e 0
        | none => s1.tableResult e 0)

/-! ### LOAD (R220, R221) -/

/-- The records of a LOAD act on their table. -/
def State.loadTable (s : State) (e : WorkEntry) (n : Nat) (bs : List Byte) : State :=
  if (List.range n).any fun i => !fits (fieldNat bs (48 * i + 12) 6) 16 || fieldNat bs (48 * i + 42) 6 != 0 then
    s.tableResult e Status.reservedField
  else s.onTable e fun tb =>
    let es := (List.range n).map fun i => loadRecord tb.inst tb.tag (sliceBytes bs (48 * i) 48)
    if tb.ordered ∧ (s.tableEntries tb.inst tb.tag).isEmpty then
      if !ascending es then s.tableResult e Status.kmaOrder
      else
        let room := 15 * tb.limit / 16
        (s.spreadKeys tb (es.take room)).tableResult e (if n ≤ room then 0 else Status.kmaFull)
    else
      let (s1, st) := State.each (State.loadOne tb.inst tb.tag) s es
      s1.tableResult e st

/-- TABLE_LOAD (R220, R221, R350): `records` is what the read of the records returns. -/
def execTableLoad (slot : Fin 256) (records : Option (List Byte)) (s : State) : Host.Outcome State Fault Refusal :=
  .next (match s.nextCommand slot.val 3 4 with
    | none => s
    | some e =>
      let n := entryField e.desc 24 4
      let wait := match s.table? (tcInst e.desc) (tcHandle e.desc) with
        | some tb => s.spanWait (s.tableSlots tb)
        | none => none
      if tcArgument e.desc then s.tableResult e Status.kmaArgument
      else if let some (.inl x) := wait then s.awaitSlot x
      else if let some (.inr st) := wait then s.tableResult e st
      else match s.hostRead e (48 * n) records with
        | .waits => s
        | .failed _ => (s.frontRead e.inst (48 * n) false).tableResult e Status.entryFetch
        | .got bs => (if s.fromRecords then s else (s.frontRead e.inst (48 * n) true).stageData e.slot 2 bs).loadTable e n bs)

end Sys2Proof.Machine
end

