-- ==== Sys2Proof/Machine/Records.lean ====
section
/-! DEFINITION. Records of cocoons, lists and manifests read back (R284, R353, R371 to R373). -/

namespace Sys2Proof.Machine

/-- A record: TYPE, RFLAGS and body. -/
structure RawRecord where
  type : Nat
  flags : Nat
  body : List Byte
deriving DecidableEq, Repr

/-- Cuts a run of bytes into records (R353). -/
def rawRecords : Nat → List Byte → List RawRecord
  | 0, _ => []
  | n + 1, bs =>
    if bs.length < 8 then []
    else
      let len := fieldNat bs 2 6
      let rest := bs.drop 8
      { type := fieldNat bs 0 1, flags := fieldNat bs 1 1, body := rest.take len } :: rawRecords n (rest.drop (len + (8 - len % 8) % 8))

def recordsOf (bs : List Byte) : List RawRecord := rawRecords (bs.length / 8 + 1) bs

/-- A SEGDESC body: instance, selector and descriptor. -/
def segdescOf (b : List Byte) : Nat × Nat × BitVec 192 := (fieldNat b 0 1, fieldNat b 2 2, BitVec.ofNat 192 (fieldNat b 8 24))

/-- A table record (R373). -/
def tableOf (b : List Byte) : KmaTable :=
  let nb := fieldNat b 3 1
  let e := fieldNat b 4 1
  let fl := fieldNat b 5 1
  let banks := (List.range nb).map fun i => (fieldNat b (16 + 24 * i) 1, fieldNat b (16 + 24 * i + 8) 16)
  { inst := fieldNat b 2 1, tag := fieldNat b 0 2, ordered := bitOf fl 0, unique := bitOf fl 1, dict := bitOf fl 2,
    dictId := fieldNat b 12 4, bankset := fieldNat b 6 1, nb := nb, perBank := e, span := banks.map fun p => p.1,
    extents := banks.flatMap fun p => ((List.range 128).filter fun x => p.2.testBit x).map fun x => (p.1, x),
    limit := fieldNat b 8 4, charge := nb * e * 64, spillSel := 0, spillListed := false, owner := (0, 0), spilled := [], taken := [], inRound := [], ended := false,
    rebalances := 0 }

/-- A list record (R284). A MANAGE record with slot 0xFFFF that is not refused is a reset record (R305). -/
def listRecordOf (b : List Byte) : ListRecord :=
  let entry := BitVec.ofNat 512 (fieldNat b 16 64)
  let refuse := fieldNat b 4 2
  { ring := fieldNat b 0 2, inst := fieldNat b 2 1, refuse := refuse, slot := fieldNat b 6 2, sqIndex := fieldNat b 8 4, entry := entry,
    desc := 0, image := none, input := [], reset := fieldNat b 6 2 == 0xFFFF && entryField entry 0 1 == 4 && refuse == 0, batch := none, cq := 0 }

/-- A DATA record. -/
def dataRecordOf (r : RawRecord) : Sys2Proof.DataRecord :=
  { slot := fieldNat r.body 0 2, source := fieldNat r.body 2 1, offset := fieldNat r.body 8 6, pcc := bitOf r.flags 0, data := r.body.drop 16 }

/-- What the records of a cocoon, a list or a TICK hold. -/
structure Journal where
  descs : List (Nat × Nat × BitVec 192)
  tables : List KmaTable
  list : List ListRecord
  data : List Sys2Proof.DataRecord
deriving DecidableEq, Repr

/-- Changes the last element of a list. -/
def mapLast {α : Type} (f : α → α) : List α → List α
  | [] => []
  | [a] => [f a]
  | a :: r => a :: mapLast f r

def addRecord (j : Journal) (r : RawRecord) : Journal :=
  match r.type with
  | 1 => { j with descs := j.descs ++ [segdescOf r.body] }
  | 2 => { j with tables := j.tables ++ [tableOf r.body] }
  | 3 => { j with list := j.list ++ [listRecordOf r.body] }
  | 4 => { j with list := mapLast (fun (l : ListRecord) => { l with desc := BitVec.ofNat 512 (fieldNat r.body 0 64) }) j.list }
  | 5 => { j with list := mapLast (fun (l : ListRecord) => { l with image := some (parseImage r.body) }) j.list }
  | 6 => { j with data := j.data ++ [dataRecordOf r] }
  | _ => j

def journalOf (bs : List Byte) : Journal :=
  (recordsOf bs).foldl addRecord { descs := [], tables := [], list := [], data := [] }

/-- A frame header (R44). -/
def headerOf (b : List Byte) : FrameHeader :=
  { frameNo := fieldNat b 0 6, tstamp := BitVec.ofNat 48 (fieldNat b 6 6), periodUs := fieldNat b 12 2, quota := fieldNat b 14 2,
    mergeAllow := fieldNat b 16 2, entryCount := fieldNat b 18 2, config := bitOf (fieldNat b 20 2) 0, quiescent := bitOf (fieldNat b 20 2) 1 }

/-- A map entry (R371). -/
def mapEntryOf (b : List Byte) : MapEntry :=
  { unit := fieldNat b 0 4, spanId := fieldNat b 4 6, seq := fieldNat b 10 2, heat := fieldNat b 12 2, present := bitOf (fieldNat b 14 1) 0,
    zero := bitOf (fieldNat b 14 1) 1, crc := fieldNat b 16 8 }

/-- An entry of the array in a 48-byte entry record (R372): POSITION, poison and entry. -/
def kmaEntryOf (b : List Byte) : Nat × Bool × KmaEntry :=
  let x := fieldNat b 6 42
  let w (i : Nat) : Word := BitVec.ofNat 48 (x / 2 ^ (144 + 48 * i))
  (8192 * fieldNat b 0 1 + fieldNat b 2 2, bitOf (fieldNat b 1 1) 0,
    { inst := bitsOf x 116 111, tag := bitsOf x 110 96, key := BitVec.ofNat 96 x, prio := bitsOf x 143 128, payload := quad fun i => w i.val })

/-! ### Descriptor, table and entry records of a manifest or of JOIN_STATE (R372, R405) -/

def descRecords (n : Nat) (bs : List Byte) : List (Nat × Nat × BitVec 192) :=
  (List.range n).map fun i => segdescOf (sliceBytes bs (32 * i) 32)

def tableRecords : Nat → List Byte → List KmaTable
  | 0, _ => []
  | n + 1, bs =>
    let len := 16 + 24 * fieldNat bs 3 1
    tableOf (bs.take len) :: tableRecords n (bs.drop len)

def entryRecords (n : Nat) (bs : List Byte) : List (Nat × Bool × KmaEntry) :=
  (List.range n).map fun i => kmaEntryOf (sliceBytes bs (48 * i) 48)

/-- Table records in a run of bytes. -/
def countTables : Nat → List Byte → Nat
  | 0, _ => 0
  | n + 1, bs => if bs.length < 16 then 0 else 1 + countTables n (bs.drop (16 + 24 * fieldNat bs 3 1))

/-- Descriptors, tables and entries take the place of those the engine holds; every position is written. -/
def State.install (s : State) (descs : List (Nat × Nat × BitVec 192)) (tables : List KmaTable) (entries : List (Nat × Bool × KmaEntry)) : State :=
  { s with
    host := { s.host with descs := descs.foldl (fun (m : List (Nat × BitVec 192)) d => insertK m (4096 * d.1 + d.2.1) d.2.2) [] }
    kma := { ({ s.kma with
        tables := tables
        entries := entries.foldl (fun (m : List (Nat × KmaEntry)) e => insertK m e.1 e.2.2) [] } : Kma).renew (fun _ => true) with
      poisoned := (entries.filter fun e => e.2.1).map fun e => e.1 } }

end Sys2Proof.Machine
end

