-- ==== Sys2Proof/Machine/Tick.lean ====
section
/-! DEFINITION. The tick (R24), of an engine that sequences its own frames and of a follower (R390). -/

namespace Sys2Proof.Machine

/-! ### Steps 1 to 4 -/

/-- Completions kept beyond the limit fence the engine (R392). -/
def State.checkKept (s : State) : State :=
  if 1048576 < (s.host.cq.map fun p => p.2.kept.length).sum then s.fence 7 else s

/-- The frame that is executing ends: overrun, time, digest, cocoon, commit and release (R24 steps 1 to 4). -/
def State.endFrame (s : State) (elapsedUs : Nat) : State :=
  let s1 := (s.closeOverrun elapsedUs).advanceTime elapsedUs
  let s2 := s1.stepDigest.sealCocoon
  let s3 := { s2 with mirror := { s2.mirror with digests := ((s.frame.frameNo, s2.frame.digest) :: s2.mirror.digests).take 2048 } }
  let s4 := s3.advanceCommit s.frame.frameNo
  let tail := s4.mirror.portB.peer == 0xFFFF || s4.mirror.donorJoin
  let s5 := if tail then { s4 with mirror := { s4.mirror with outFrame := max s4.mirror.outFrame s.frame.frameNo } } else s4
  s5.stepRelease.checkKept

/-- The first quiescent tick at which every journal frame is committed is the tick of doze entry (R439 step 1). -/
def State.dozeTick (s : State) (quiescent : Bool) : State :=
  if s.moth.dozeStep = 1 ∧ quiescent ∧ s.persist.open_.isEmpty then { s with moth := { s.moth with dozeStep := 2 } } else s

/-! ### Step 5 -/

/-- Step 5 of tick k on an engine that sequences its own frames: the set or a waiting profile, the descriptor changes, and a waiting
FORMAT; HOLD holds all of them (R49, R50, R384, R452, R453, R471). A waiting LOAD keeps the shadow set but not the descriptor changes,
which are no part of it: their entries would keep the work table from draining (R453; DEDUCED, assumption 153). A descriptor change is
frame-class configuration and sets CONFIG as a set does (R44, R71, R298; DEDUCED, assumption 44). -/
def State.stepConfig (s : State) (k : Nat) (quiescent : Bool) : State :=
  if s.od 0x2001 1 = 1 then s
  else
    let (s1, applied) := if s.profiles.state = 1 then (if quiescent then s.latchProfile else (s, false)) else s.latchSet
    let s2 := s1.latchDescs
    let s3 := if applied || decide (s2.persist.staged.segdesc ≠ s1.persist.staged.segdesc) then s2.refixHeader else s2
    if quiescent then s3.formatTick k else s3

/-! ### Step 8: mirror messages (R390, R403, R406) -/

/-- The payload of LIST (R403). -/
def listPayload (l : AdmissionList) : List Byte := l.header.bytes ++ l.records.flatMap fun r => r.records.1

/-- The payload of TICK (R403). -/
def State.tickPayload (s : State) : List Byte :=
  let recs := s.persist.staged.segdesc ++ s.persist.staged.placed
  heartbeatBytes (s.heartbeat s.mirror.portB s.mirror.detaching) ++ leBytes 6 (s.frame.frameNo - 1) ++ [0, 0] ++ s.frame.digest
    ++ leBytes 4 (recordsOf recs).length ++ List.replicate 4 0 ++ recs

/-- Messages of acknowledged frames leave the history store (R395). -/
def State.trimHistory (s : State) : State :=
  { s with mirror := { s.mirror with history := s.mirror.history.filter fun m => decide (s.ackFrame < m.frameNo) } }

/-- The payload of ACK (R404). -/
def State.ackPayload (s : State) : List Byte :=
  let k := s.frame.frameNo
  let recv := (s.mirror.lists.map fun p => p.1).foldl max k
  heartbeatBytes (s.heartbeat s.mirror.portA false) ++ leBytes 6 recv ++ leBytes 6 (k - 1) ++ leBytes 6 s.ackFrame
    ++ leBytes 6 s.mirror.outFrame ++ leBytes 6 (k - 1) ++ [0, 0] ++ s.frame.digest
    ++ leBytes 8 (s.mirror.resetReq ||| s.mirror.downReset).toNat

/-- A 10BASE-T1S heartbeat at every tick whose FRAME_NO is a multiple of 16 (R406). -/
def State.tickT1s (s : State) : State :=
  if s.frame.frameNo % 16 = 0 ∧ (s.inChain ∨ s.mirror.state = 2) then s.sendT1s (s.heartbeat s.mirror.portB s.mirror.detaching) else s

/-- The sequencer's messages of a tick: the list of the frame again if step 5 changed its header, TICK, and the next list. -/
def State.stepMirror (s : State) (refixed : Option AdmissionList) : State :=
  if s.mirror.state ≠ 4 then s
  else
    let k := s.frame.frameNo
    let s1 := match refixed with
      | some l => s.sendDown 1 k (listPayload l)
      | none => s
    let s2 := { s1 with mirror := { s1.mirror with sentHealth := ((k, s1.health.score) :: s1.mirror.sentHealth).take 2048 } }
    ((s2.sendDown 2 k s2.tickPayload).sendDown 1 (k + 1) (listPayload s2.frame.next)).trimHistory

/-! ### Joins on the donor (R417, R418) -/

/-- The bytes of a COPY payload (R405). -/
def State.copyPayload (s : State) (slot : Nat) : List Byte :=
  let bs := s.slotBytesNow slot
  leBytes 4 slot ++ List.replicate 4 0 ++ bs ++ leBytes 8 (crc64 bs)

/-- COPY of some slots, ascending. -/
def State.sendCopies (s : State) (slots : List Nat) : State :=
  (sortBy (fun (a b : Nat) => decide (a < b)) slots).foldl (fun (s : State) x =>
    (s.readSlot x true).sendMirror true 8 s.frame.frameNo (s.copyPayload x)) s

/-- The payload of JOIN_STATE at tick J (R405). -/
def State.joinPayload (s : State) : List Byte :=
  let descs := s.host.descs.filter fun p => descKind p.2 != 0
  let tables := s.kma.tables.filter fun t => decide (t.tag < 0x4000)
  let entries := s.kma.entries.filter fun p => decide (p.2.tag < 0x4000)
  leBytes 6 s.frame.next.header.tstamp.toNat ++ s.frame.digest ++ [0, 0] ++ (descs.flatMap fun p => segdescBody (p.1 / 4096) (p.1 % 4096) p.2)
    ++ (tables.flatMap fun t => t.record) ++ entries.flatMap fun p =>
      leBytes 1 (p.1 / 8192) ++ [if s.kma.poisoned.contains p.1 then 1 else 0] ++ leBytes 2 (p.1 % 8192) ++ [0, 0] ++ kmaEntryBytes p.2

/-- Every message the history store holds of frame k and later is sent to the joiner. -/
def State.resendFrom (s : State) (k : Nat) : State :=
  (s.mirror.history.filter fun m => decide (k ≤ m.frameNo)).foldl (fun (s : State) m => s.sendMirror true m.type m.frameNo m.payload) s

/-- Tick J on the donor: what is left to copy, the state, and the messages of frame J onward. -/
def State.captureJoin (s : State) (k : Nat) (j : Join) : State :=
  let s1 := (s.sendCopies j.dirty).sendMirror true 9 k s.joinPayload
  ({ s1 with mirror := { s1.mirror with join := some { j with dirty := [], provisional := true }, drainAsked := false } }).resendFrom k

/-- Between steps 4 and 5 of tick k: a drain that has reached its tick ends, and a donor copies dirty slots, or captures its state. -/
def State.joinTick (s : State) (k : Nat) (drained : Bool) : State :=
  match s.mirror.join with
  | some j =>
    if j.donor && !j.provisional then
      if s.mirror.drainAsked && drained then s.captureJoin k j
      else if j.round < 8 ∧ 256 ≤ j.dirty.length then
        let s1 := { s with mirror := { s.mirror with join := some { j with round := j.round + 1, dirty := [] } } }
        s1.sendCopies j.dirty
      else s
    else if drained then { s with mirror := { s.mirror with drainAsked := false } } else s
  | none => if drained then { s with mirror := { s.mirror with drainAsked := false } } else s

/-! ### The tick -/

/-- Events raised since EVENT_SEQ stood at `seq`, in steps 1 to 4 of tick k, carry frame k: FRAME_NO advances at the tick (R23,
R464; DEDUCED, assumption 43). -/
def State.stampEvents (s : State) (seq k : Nat) : State :=
  let fix (e : Event) : Event := if (e.seq + 2 ^ 32 - seq) % 2 ^ 32 < 2 ^ 31 then { e with frame := k } else e
  { s with events := { s.events with log := s.events.log.map fix, windowLog := s.events.windowLog.map fix, queue := s.events.queue.map fix } }

/-- The tick of an engine that is solo, detached, forming or sequencer. Step 6 begins once every write buffer is empty (R251, R323). -/
def State.ownTick (s : State) (elapsedUs : Nat) : State :=
  let k := s.frame.frameNo + 1
  let s1 := s.endFrame elapsedUs
  let q := s1.quiescentTick
  let s2 := (s1.dozeTick q).chrysalisTick k
  let s2j := s2.joinTick k (s1.tableEmpty && s1.frame.next.records.isEmpty)
  let s4 := (({ s2j with frame := { s2j.frame with frameNo := k } }).stampEvents s.events.seq k).stepConfig k q
  let refixed := if s4.frame.next.header = s2j.frame.next.header then none else some s4.frame.next
  ((s4.emptyBuffers.beginFrame true none).stepList.askPlaces.stepMirror refixed).tickT1s

/-- TICK (R24): it fires once the frame timer has expired and the merge is complete. -/
def execTick (elapsedUs : Nat) (s : State) : Host.Outcome State Fault Refusal :=
  .next (if s.serving && s.frame.timerExpired && s.frame.mergeDone && !(s.mirror.state == 2 || s.mirror.state == 3) then s.ownTick elapsedUs
    else s)

/-! ### The tick of a follower (R390, R391) -/

/-- A recorded descriptor takes effect (R377, R390); an entry that asked for it finishes. -/
def State.applyRecorded (s : State) (p : Nat × Nat × BitVec 192) : State :=
  let s1 := s.applyDesc p.1 p.2.1 p.2.2
  match s1.host.changes.find? fun c => c.inst == p.1 && c.selector == p.2.1 && c.descriptor == p.2.2 with
  | none => s1
  | some c =>
    let s2 := { s1 with host := { s1.host with changes := s1.host.changes.filter fun x => x != c } }
    match c.slot.bind s2.entry? with
    | some e => s2.finish e.slot e.pos 0 0
    | none => s2

/-- A change that the sequencer did not apply and whose selector is free was refused there (R453). -/
def State.refuseRest (s : State) : State :=
  s.host.changes.foldl (fun (s : State) c =>
    if s.selectorInUse c.inst c.selector then s
    else
      let st := s.descStatus c.inst c.selector c.descriptor
      let s1 := { s with host := { s.host with changes := s.host.changes.filter fun x => x != c } }
      match c.slot.bind s1.entry? with
      | some e => s1.finish e.slot e.pos (if st = 0 then Status.quotaExceeded else st) 0
      | none => s1) s

/-- The recorded descriptors of a tick. -/
def State.stepRecorded (s : State) (ds : List (Nat × Nat × BitVec 192)) : State :=
  (ds.foldl (fun (s : State) p => s.applyRecorded p) s).refuseRest

/-- A record that a follower executes: CONSUMER of its own ring moves past it (R391), and it joins its batch (R287). -/
def State.followRecord (s : State) (r : ListRecord) : State × ListRecord :=
  if r.reset then (s, r)
  else
    let x := s.sq r.ring
    let c := BitVec.ofNat 32 (r.sqIndex + 1)
    let (s1, b) := (s.setSq r.ring { x with consumer := c, readPos := c }).batchStep r.ring r.sqIndex r.entry
    (s1.frontWrite r.inst ((s1.sq r.ring).inEffect.idxAddr + 4) (leBytes 4 c.toNat), { r with batch := b, cq := x.inEffect.cq })

def State.followRecords (s : State) (rs : List ListRecord) : State × List ListRecord :=
  rs.foldl (fun (p : State × List ListRecord) r => let (s1, x) := p.1.followRecord r; (s1, p.2 ++ [x])) (s, [])

/-- A joiner has installed the state of tick J, and goes on from step 5 of that tick (R417). -/
def Mirror.resumes (m : Mirror) : Bool := match m.join with
  | some j => !j.donor && j.resume
  | none => false

/-- The next tick of a follower. -/
def State.nextTick (s : State) : Nat := if s.mirror.resumes then s.frame.frameNo else s.frame.frameNo + 1

/-- The list and the records of a follower's next frame, once TICK and LIST of it have arrived whole. -/
def State.followReady (s : State) : Option (Sys2Proof.TickPayload × Sys2Proof.FrameList) :=
  match lookup? s.mirror.ticks s.nextTick, lookup? s.mirror.lists s.nextTick with
  | some t, some l => some (t, l)
  | _, _ => none

/-- Two engines differ in the digest of a frame: the one of lower HEALTH fences, on a tie the downstream one (R412). -/
def State.diverge (s : State) (frame : Nat) (loses : Bool) : State :=
  let s1 := ({ s with mirror := { s.mirror with divergences := (s.mirror.divergences + 1) % 2 ^ 48 } }).raiseAt 0x0053 2 packageLocation frame 0
  if loses then s1.fence 2 else s1

def State.followSteps (s : State) (elapsedUs : Nat) : State :=
  let k := s.frame.frameNo + 1
  let s1 := (s.endFrame elapsedUs).chrysalisTick k
  let s2 := s1.joinTick k (s1.tableEmpty && s1.frame.next.records.isEmpty)
  ({ s2 with frame := { s2.frame with frameNo := k } }).stampEvents s.events.seq k

/-- The tick is quiescent (R50): the work table is empty, the frame that begins has no entries, and neither has the list of the next
frame, which a follower has received when it can tell. -/
def State.followQuiescent (s : State) (list : List ListRecord) : Bool :=
  s.tableEmpty && list.isEmpty && (match lookup? s.mirror.lists (s.frame.frameNo + 1) with
    | some l => (journalOf l.records).list.isEmpty
    | none => false)

/-- Steps 1 to 4 of a follower's tick, the chrysalis, a join of which it is the donor, and FRAME_NO; a joiner's first tick has none of
them. -/
def State.followEnd (s : State) (elapsedUs : Nat) (l : FrameHeader × List ListRecord) : State :=
  let next (s : State) : State := { s with frame := { s.frame with next := { header := l.1, records := l.2 } } }
  match s.mirror.join with
  | some j =>
    if !j.donor && j.resume then next { s with mirror := { s.mirror with join := some { j with resume := false } } }
    else (next s).followSteps elapsedUs
  | none => (next s).followSteps elapsedUs

/-- The messages of tick k have been used; HEALTH of TICK(k) is kept for the comparison of digests (R412). -/
def Mirror.useTick (m : Mirror) (k health : Nat) : Mirror :=
  { m with lists := m.lists.filter fun p => decide (k < p.1), listedResets := m.listedResets.filter fun p => decide (k < p.1), ticks := m.ticks.filter fun p => decide (k < p.1),
           sentHealth := ((k, health) :: m.sentHealth).take 2048 }

/-- Reset requests whose reset record has been listed are over (R394). -/
def Mirror.endResetReqs (m : Mirror) (rs : List ListRecord) : Mirror :=
  let keep (b : BitVec 64) : BitVec 64 := rs.foldl (fun (b : BitVec 64) (r : ListRecord) =>
    if r.reset then b &&& ~~~((1 : BitVec 64) <<< r.inst) else b) b
  { m with resetReq := keep m.resetReq, downReset := keep m.downReset }

/-- DATA records of frame k reach their entries. -/
def State.useDatas (s : State) (k : Nat) : State :=
  let mine := s.mirror.datas.filter fun p => p.1 == k
  mine.foldl (fun (s : State) (p : Nat × Sys2Proof.DataRecord) => s.takeData p.2)
    { s with mirror := { s.mirror with datas := s.mirror.datas.filter fun p => decide (k < p.1) } }

/-- Steps 5 and 6 of a follower's tick. -/
def State.followBegin (s : State) (j : Journal) (head : FrameHeader) (list : List ListRecord) : State :=
  let s1 := if s.od 0x2001 1 = 1 then s else s.latchSet.1
  let s1 := s1.stepRecorded j.descs
  let s1 := if s.od 0x2001 1 != 1 && s.followQuiescent list then s1.formatTick s.frame.frameNo else s1
  let (s2, recs) := (s1.countOverload.emptyBuffers).followRecords list
  let s3 := { s2 with frame := { s2.frame with next := { header := head, records := recs } }, mirror := s2.mirror.endResetReqs recs }
  s3.beginFrame true (some j.tables)

/-- A follower's tick k with the messages of it. -/
def State.followTick (s : State) (elapsedUs : Nat) (t : Sys2Proof.TickPayload) (l : Sys2Proof.FrameList) : State :=
  let k := s.nextTick
  let head := headerOf l.header
  let s1 := s.followEnd elapsedUs (head, (journalOf l.records).list)
  let s2 := { s1 with mirror := s1.mirror.useTick k t.hb.health }
  let s3 := (s2.followBegin (journalOf t.records) head (journalOf l.records).list).useDatas k
  let s4 := (s3.sendMirror false 4 k s3.ackPayload).trimHistory.tickT1s
  if t.digestFrame + 1 = k ∧ t.digest ≠ s4.frame.digest then s4.diverge t.digestFrame (decide (s4.health.score ≤ t.hb.health)) else s4

/-- FOLLOWER_TICK (R390): its merge is complete, and TICK and LIST of the next frame have arrived whole. -/
def execFollowerTick (elapsedUs : Nat) (s : State) : Host.Outcome State Fault Refusal :=
  .next (if !s.serving || s.mirror.state != 3 || !s.frame.mergeDone then s
    else match s.followReady with
      | some (t, l) => s.followTick elapsedUs t l
      | none => s)

/-! ### Serving begins (R379) -/

/-- The engine starts its frame sequencer: no frame executes yet, and the list of the next one is empty. -/
def State.startFrames (s : State) : State :=
  let h := s.makeHeader (s.frame.frameNo + 1) 0 true
  { s with frame := { s.frame with next := { header := h, records := [] }, timerExpired := false, merging := false, mergeDone := true, overran := false }
           tiles := s.tiles.map fun (x : Tile) => { x with ctxs := [], yielded := true, merge := [], ran := [], beats := 0, records := 0 } }

end Sys2Proof.Machine
end

