-- ==== Sys2Proof/Machine/Sensors.lean ====
section
/-! DEFINITION. Moth's channels and rules (R424 to R429, R444). -/

namespace Sys2Proof.Machine

/-! ### Channels (R424, R426) -/

/-- Channels that are sampled and take part in rules: 14, 15, 46, 47 are reserved, and so are those of absent stacks. -/
def sampledChannel (e384 : Bool) (c : Nat) : Bool :=
  decide (c < 48) && !(c == 14 || c == 15 || c == 46 || c == 47)
    && (e384 || !((decide (35 ≤ c) && decide (c ≤ 37)) || (decide (41 ≤ c) && decide (c ≤ 43))))

/-- The median of five samples. -/
def median5 (l : List Nat) : Nat := (sortBy (fun (a b : Nat) => decide (a < b)) l).getD 2 0

/-- One sample passes the filter (R426). -/
def MothChannel.sample (x : MothChannel) (shift raw : Nat) : MothChannel :=
  if x.raws.isEmpty then { raws := List.replicate 5 raw, y := 256 * raw }
  else
    let l := (raw :: x.raws).take 5
    { raws := l, y := x.y + ((256 * median5 l : Int) - x.y).tdiv (2 ^ shift) }

/-- The filtered value. -/
def MothChannel.value (x : MothChannel) : Nat := (x.y.tdiv 256).toNat

/-- Filtered value of a channel. -/
def State.channelValue (s : State) (c : Nat) : Nat :=
  match s.moth.channels.toList[c]? with
  | some x => x.value
  | none => 0

/-- The greatest filtered value of channels 16 to 31 (R425). -/
def State.hottestDie (s : State) : Nat := ((List.range 16).map fun i => s.channelValue (16 + i)).foldl max 0

def State.hottestStack (s : State) : Nat := ((List.range 12).map fun i => s.channelValue (32 + i)).foldl max 0

/-- The code of a temperature in °C (R424). -/
def tempCode (t : Int) : Int := (t + 64) * 16

/-! ### Rules (R427, R428) -/

/-- A rule on one of its channels: the value it tests; released it is hit outside lo to hi, asserted it is hit inside relLo to
relHi; n is its debounce count. -/
structure RuleTest where
  rule : Nat
  place : Nat
  value : Int
  lo : Int
  hi : Int
  relLo : Int
  relHi : Int
  n : Nat
deriving DecidableEq, Repr

def aboveTest (rule place : Nat) (v t h : Int) (n : Nat) : RuleTest :=
  { rule := rule, place := place, value := v, lo := 0, hi := t, relLo := 0, relHi := t - h, n := n }

def belowTest (rule place : Nat) (v t h : Int) (n : Nat) : RuleTest :=
  { rule := rule, place := place, value := v, lo := t, hi := 65535, relLo := t + h, relHi := 65535, n := n }

/-- A rule that is not released by hysteresis. -/
def RuleTest.stands (r : RuleTest) : RuleTest := { r with relLo := 1, relHi := 0 }

/-- Nominal code of rail channel c (R424, R433): 0.5 mV per code. -/
def railNominal (c : Nat) : Nat := 2 * ([750, 750, 750, 850, 850, 1800, 1050, 900, 500, 850, 1200, 1800].getD (c - 2) 0)

/-- Rule 3 on one rail: the window is nominal ± 5 %, left again by 1 %. -/
def railTest (c : Nat) (v : Int) : RuleTest :=
  let n := railNominal c
  { rule := 3, place := c, value := v, lo := ceilDiv (95 * n) 100, hi := 105 * n / 100, relLo := ceilDiv (96 * n) 100, relHi := 104 * n / 100,
    n := 9 }

/-- Rules 4 to 7, on TJ. -/
def State.junctionTests (s : State) : List RuleTest :=
  let v : Int := s.hottestDie
  [ aboveTest 4 0 v (tempCode (s.od 0x6006 1)) 48 7, aboveTest 5 0 v (tempCode 125) 48 7, (aboveTest 6 0 v (tempCode 135) 0 3).stands,
    belowTest 7 0 v (tempCode (-40)) 48 7 ]

/-- A programmable rule on its channel (R429). -/
def ruleTestOf (rule obj : Nat) (v : Int) : RuleTest :=
  let t : Int := bitsOf obj 23 12
  let h : Int := bitsOf obj 11 0
  if bitsOf obj 41 40 = 1 then aboveTest rule 0 v t h (bitsOf obj 39 36) else belowTest rule 0 v t h (bitsOf obj 39 36)

/-- The programmable rules on a channel. -/
def State.programmedTests (s : State) (c : Nat) (v : Int) : List RuleTest :=
  ((List.range 48).filter fun i => bitsOf (s.od 0x6100 (i + 1)) 47 42 == c && bitsOf (s.od 0x6100 (i + 1)) 41 40 != 0).map fun i =>
    ruleTestOf (i + 16) (s.od 0x6100 (i + 1)) v

/-- The rules that a sample of a channel moves (R428). The rules on TJ move with channel 31. -/
def State.ruleTests (s : State) (c : Nat) : List RuleTest :=
  let v : Int := s.channelValue c
  let fixed : List RuleTest :=
    if c = 44 then (if s.od 0x6002 2 = 1 then [(belowTest 0 0 v 2048 0 1).stands] else [])
    else if c = 0 then [(belowTest 1 0 v (ceilDiv (s.od 0x6002 1) 4) 75 2).stands]
    else if c = 1 then [(belowTest 2 0 v 3000 100 4).stands]
    else if 2 ≤ c ∧ c ≤ 13 then [railTest c v]
    else if c = 31 then s.junctionTests
    else if 32 ≤ c ∧ c ≤ 43 then [aboveTest 8 c v (tempCode 105) 48 7, (aboveTest 9 c v (tempCode 125) 0 3).stands]
    else []
  fixed ++ s.programmedTests c v

def releasedRule : RuleState := { asserted := false, cnt := 0 }

/-- A rule is asserted on one of its channels. -/
def Moth.asserted (m : Moth) (rule : Nat) : Bool := m.rules.any fun p => p.1 / 64 == rule && p.2.asserted

/-- The hit of R427. -/
def RuleTest.hit (r : RuleTest) (asserted : Bool) : Bool :=
  if asserted then decide (r.relLo ≤ r.value) && decide (r.value ≤ r.relHi) else decide (r.value < r.lo) || decide (r.hi < r.value)

/-- A change of a rule becomes an event: of rule 3 on each rail, of rules 8 and 9 when the whole rule asserts, of rules 4, 5, 7 and
16 to 63 both ways (R428, R429). -/
def Moth.changed (before after : Moth) (rule place : Nat) (on : Bool) : Moth :=
  let raises := if rule < 4 ∨ rule = 6 then on
    else if rule = 8 ∨ rule = 9 then on && !before.asserted rule
    else true
  if raises then { after with fired := after.fired ++ [(rule, place, on)] } else after

/-- One test moves its counter (R427). -/
def Moth.test (m : Moth) (r : RuleTest) : Moth :=
  let k := 64 * r.rule + r.place
  let x := lookupD m.rules k releasedRule
  let cnt := if r.hit x.asserted then x.cnt + 1 else 0
  if cnt = r.n + 1 then m.changed { m with rules := insertK m.rules k { asserted := !x.asserted, cnt := 0 } } r.rule r.place (!x.asserted)
  else { m with rules := insertK m.rules k { asserted := x.asserted, cnt := cnt } }

/-- CHANNEL_SAMPLE (R426): the filter, then the rules of the channel; a sample of the input current also enters the power average. -/
def execChannelSample (ch : Fin 64) (raw : BitVec 12) (s : State) : Host.Outcome State Fault Refusal :=
  .next (if h : ch.val < 48 then
      if !sampledChannel s.e384 ch.val then s
      else
        let x := s.moth.channels[ch.val].sample (s.od 0x6004 (ch.val + 1)) raw.toNat
        let s1 := { s with moth := { s.moth with channels := s.moth.channels.set ch.val x } }
        let s2 := { s1 with moth := (s1.ruleTests ch.val).foldl (fun (m : Moth) r => m.test r) s1.moth }
        if ch.val = 45 then
          { s2 with moth := { s2.moth with powers := (40 * s2.channelValue 0 * s2.channelValue 45 :: s2.moth.powers).take 250000 } }
        else s2
    else s)

/-- POWER_IN_W (R444), in mW. -/
def Moth.powerIn (m : Moth) : Nat := m.powers.sum / (1000 * max 1 m.powers.length)

end Sys2Proof.Machine
end

