-- ==== Sys2Proof/Machine/Power.lean ====
section
/-! DEFINITION. Module reset (R473) and the power rows of Moth (R430 to R437). -/

namespace Sys2Proof.Machine

/-! ### Module reset (R473) -/

/-- What Moth keeps over a module reset: its counters, its power and the averages; every filter starts again (R426), every rule
is released, and no power failure or trip stands (R430, R437). -/
def Moth.restart (m : Moth) : Moth :=
  { resetMoth with shutLate := m.shutLate, wakeSource := m.wakeSource, dozeCount := m.dozeCount, dozeRefusal := m.dozeRefusal, powers := m.powers,
                   power := m.power, retries := m.retries, pwrgood := m.power == 3 }

/-- The dictionary between a module reset and the fill from the profile: the values of Moth, and the reset shadow (R451, R473). -/
def Dict.restart (d : Dict) : Dict :=
  { resetDict with vals := d.vals.filter fun p => p.1 / 2 ^ 20 == 6, resetShadow := d.resetShadow }

/-- A module reset by a source other than VAUX: engine dies, hub and host endpoint are reset, the always-on island is kept but for
the key store, and both event logs start empty. -/
def State.moduleReset (s : State) (cause : Nat) : State :=
  { State.reset with
    pending := s.pending, e384 := s.e384, free := s.free, moth := s.moth.restart, dict := s.dict.restart
    frame := { resetFrame with timeBase := s.frame.timeBase, timeFraction := s.frame.timeFraction }
    mover := { resetMover with errPulses := s.mover.errPulses }
    events := { resetEvents with queue := s.events.queue }
    profiles := { resetProfiles with copies := s.profiles.copies }
    boot := resetBoot cause
    pins := { s.pins with testFenced := false } }

/-- POWER_ON (R434, R473): VAUX rises. What is in flash and on the pins is not reset. -/
def execPowerOn (s : State) : Host.Outcome State Fault Refusal :=
  .next { State.reset with pending := s.pending, e384 := s.e384, free := s.free, profiles := { resetProfiles with copies := s.profiles.copies }
                           pins := { s.pins with tapInstr := 1, testMode := 0, testFenced := false } }

/-- MODULE_RESET (R475): the key, in an 8-byte write (R9), causes a module reset. -/
def execModuleReset (acc : RegAccess) (v : BitVec 64) (s : State) : Host.Outcome State Fault Refusal :=
  .next (match acc with
    | .qword => if bitsOf v.toNat 15 0 = 0xD1CE then s.moduleReset 6 else s
    | _ => s)

/-! ### Power-up (R434) -/

def State.setPower (s : State) (p : Nat) : State := { s with moth := { s.moth with power := p } }

/-- VIN_ON: soft start, and the rails come up. -/
def execVinOn (s : State) : Host.Outcome State Fault Refusal :=
  .next (if s.moth.power = 1 then s.setPower 2 else s)

/-- A failed power-up: another try after 1 s, but not after the third failure. -/
def State.powerFailure (s : State) : State :=
  let n := s.moth.retries + 1
  { s with moth := { s.moth with retries := n, power := if 3 ≤ n then 5 else 4, pwrgood := false } }

/-- RAIL_UP_TIMEOUT: which rail it was is not in the command, so the channel of the event is a free value (DESIGN CHOICE,
assumption 67). -/
def execRailUpTimeout (s : State) : Host.Outcome State Fault Refusal :=
  .next (if s.moth.power = 2 then
      let (v, s1) := s.fresh
      (s1.raise 0x0061 3 (2 + v % 12)).powerFailure
    else s)

/-- POWERUP_RETRY_TIMER. -/
def execPowerupRetryTimer (s : State) : Host.Outcome State Fault Refusal :=
  .next (if s.moth.power = 4 then s.setPower 2 else s)

/-- PWRGOOD: bring-up begins. After a power-down in service it follows a Moth restart (R430, R434). -/
def execPwrgood (s : State) : Host.Outcome State Fault Refusal :=
  .next (if s.moth.power = 2 then
      let s1 := if 4 ≤ s.moth.state then s.moduleReset 3 else s
      { s1 with moth := { s1.moth with power := 3, pwrgood := true, retries := 0 } }
    else s)

/-! ### Power failure (R375, R430) -/

/-- What a power failure leaves of the persist controller (R375): nothing further is submitted, a chrysalis is abandoned, and the
open frame is discarded. -/
def Persist.freeze (p : Persist) : Persist :=
  { p with state := 7, chrysalis := none, formatWaiting := false, waiting := [], staged := emptyStaged,
           ports := p.ports.map fun (x : PersistPort) => if x.state = 2 then { x with state := 4 } else x }

/-- The power-fail event (R430): PWRGOOD falls, the heartbeat leaves while VAUX lasts, the engine fences and freezes; a BDP transfer
that is open is abandoned (R465). -/
def State.failPower (s : State) (rule : Nat) : State :=
  let s1 := s.raise 0x0060 3 rule
  let s2 := { s1 with moth := { s1.moth with pwrgood := false, powerFail := true, dozeStep := 0, vauxLow := s1.moth.vauxLow || rule == 2 } }
  let s3 := if 3000 < s2.channelValue 1 then s2.sendT1s { s2.heartbeat s2.mirror.portB false with role := 5 } else s2
  let s4 := s3.fence 6
  { s4 with persist := s4.persist.freeze, moth := { s4.moth with state := max 4 s4.moth.state }, bdp := { s4.bdp with transfers := [] } }

/-- A change of a rule whose event has been taken. -/
def State.takeFired (s : State) (f : Nat × Nat × Bool) : State :=
  { s with moth := { s.moth with fired := s.moth.fired.erase f } }

/-- POWER_FAIL (R430). -/
def execPowerFail (rule : Fin 3) (s : State) : Host.Outcome State Fault Refusal :=
  .next (if s.moth.fired.contains (rule.val, 0, true) then (s.takeFired (rule.val, 0, true)).failPower rule.val else s)

/-- PF_RESTART_EXPIRY (R430): the supplies have held; Moth resets the module. One that has powered down waits for VIN. -/
def execPfRestartExpiry (s : State) : Host.Outcome State Fault Refusal :=
  .next (if s.moth.state = 4 ∧ (s.moth.power = 3 ∨ s.moth.power = 6) ∧ s.od 0x6002 1 + 300 < 4 * s.channelValue 0 ∧ 3100 < s.channelValue 1
      ∧ !(s.moth.asserted 3 || s.moth.asserted 6 || s.moth.asserted 9) then
      let s1 := s.moduleReset 3
      if s.moth.power = 6 then s1.setPower 1 else s1
    else s)

/-- Power-down (R435): PWRGOOD is low, the transmitters are off, and every peer sees electrical idle. -/
def State.powerDown (s : State) (power : Nat) : State :=
  { s with
    moth := { s.moth with power := power, pwrgood := false }
    host := { s.host with link := .down, linkSpeed := 0, linkWidth := 0 }
    mirror := { s.mirror with portA := { s.mirror.portA with up := false }, portB := { s.mirror.portB with up := false } } }

/-- VIN_OFF (R435): after a power-fail event the module powers down. -/
def execVinOff (s : State) : Host.Outcome State Fault Refusal :=
  .next (if s.moth.powerFail ∧ s.moth.power = 3 then s.powerDown 6 else s)

/-- RAIL_FAULT (R428, R434): the power-fail event, then power-down and a new try. Which rule that power-fail event names the spec
does not say, so it is a free value (DESIGN CHOICE, assumption 68). -/
def execRailFault (channel : Nat) (s : State) : Host.Outcome State Fault Refusal :=
  .next (if s.moth.fired.contains (3, channel, true) then
      let (v, s1) := (s.takeFired (3, channel, true)).fresh
      let s2 := ((s1.failPower (v % 3)).raise 0x0061 3 channel).powerDown 6
      s2.powerFailure
    else s)

/-! ### Temperature (R436, R437) -/

/-- The band by the rules asserted (R436). -/
def Moth.bandNow (m : Moth) : Nat := if m.asserted 5 then 3 else if m.asserted 4 then 2 else if m.asserted 7 then 0 else 1

/-- THERMAL_BAND (R428, R436). -/
def execThermalBand (s : State) : Host.Outcome State Fault Refusal :=
  .next (match s.moth.fired.find? fun f => f.1 == 4 || f.1 == 5 || f.1 == 7 with
    | none => s
    | some f =>
      let s1 := s.takeFired f
      ({ s1 with moth := { s1.moth with band := s1.moth.bandNow } }).raise 0x0062 1 s1.moth.bandNow)

/-- The change that a trip named by a channel stands on. -/
def State.tripFired (s : State) (channel : Nat) : Option (Nat × Nat × Bool) :=
  if 16 ≤ channel ∧ channel ≤ 31 ∧ s.channelValue channel = s.hottestDie ∧ s.moth.fired.contains (6, 0, true) then some (6, 0, true)
  else if s.moth.fired.contains (9, channel, true) then some (9, channel, true)
  else none

/-- THERMAL_TRIP (R437): the power-fail event, whose rule the spec does not say (a free value: DESIGN CHOICE,
assumption 68), then power-down at once. -/
def execThermalTrip (channel : Nat) (s : State) : Host.Outcome State Fault Refusal :=
  .next (match s.tripFired channel with
    | none => s
    | some f =>
      let (v, s1) := (s.takeFired f).fresh
      let s2 := ((s1.failPower (v % 3)).raise 0x0063 3 channel).powerDown 6
      { s2 with moth := { s2.moth with state := 5 } })

/-- STACK_HOT (R428). -/
def execStackHot (stack : Fin 12) (s : State) : Host.Outcome State Fault Refusal :=
  .next (if s.moth.fired.contains (8, 32 + stack.val, true) then (s.takeFired (8, 32 + stack.val, true)).raise 0x0064 1 stack.val else s)

/-- RULE_ASSERT (R429). -/
def execRuleAssert (rule : Fin 64) (s : State) : Host.Outcome State Fault Refusal :=
  .next (if 16 ≤ rule.val ∧ s.moth.fired.contains (rule.val, 0, true) then (s.takeFired (rule.val, 0, true)).raise 0x0065 0 rule.val else s)

/-- RULE_RELEASE (R429). -/
def execRuleRelease (rule : Fin 64) (s : State) : Host.Outcome State Fault Refusal :=
  .next (if 16 ≤ rule.val ∧ s.moth.fired.contains (rule.val, 0, false) then (s.takeFired (rule.val, 0, false)).raise 0x0066 0 rule.val else s)

/-- Every die and stack sensor reads below 100 °C (R437). -/
def State.coolEnough (s : State) : Bool := decide (s.hottestDie < 2624) && decide (s.hottestStack < 2624)

/-- A restart after a trip (R437). -/
def State.mothRestart (s : State) : State :=
  if s.moth.state = 5 ∧ s.coolEnough then (s.moduleReset 4).setPower 1 else s

/-- MOTH_CMD_RESTART (R437). -/
def execMothCmdRestart (s : State) : Host.Outcome State Fault Refusal := .next s.mothRestart

end Sys2Proof.Machine
end

