-- ==== Sys2Proof/Machine/Doze.lean ====
section
/-! DEFINITION. Doze (R438 to R441) and PERST_N (R440, R473, R488). -/

namespace Sys2Proof.Machine

/-! ### Entry (R438, R439) -/

/-- The code that refuses a doze request, 0 for none (R438). -/
def State.dozeCode (s : State) : Nat :=
  let m := s.mirror.state
  if m = 2 ∨ m = 3 ∨ m = 4 ∨ m = 6 then 1
  else if s.persist.state < 5 then 2
  else if 4 ≤ s.moth.state then 4
  else if s.moth.state ≠ 0 then 5
  else 0

/-- A refused request is recorded and raised. -/
def State.refuseDoze (s : State) (code : Nat) : State :=
  ({ s with moth := { s.moth with dozeRefusal := code } }).raise 0x0067 1 code

/-- MOTH_CMD DOZE (R438). A segmented transfer that is open is abandoned (R465). -/
def State.mothDoze (s : State) : State :=
  if s.dozeCode ≠ 0 then s.refuseDoze s.dozeCode
  else { s with moth := { s.moth with state := 1, dozeStep := 1 }, bdp := { s.bdp with transfers := [] } }

def execMothCmdDoze (s : State) : Host.Outcome State Fault Refusal := .next s.mothDoze

/-- SSDs that have been shut down are initialised again (R439, R441). -/
def State.reinitSsds (s : State) : State :=
  let ports := s.persist.ports.map fun (x : PersistPort) => if x.state = 2 then { x with state := 1, shutting := false } else x
  { s with persist := { s.persist with ports := ports }
           moth := { s.moth with wakeReinit := ports.toList.any fun x => x.state == 1 } }

/-- Entry is undone, and listing resumes at the next tick. -/
def State.cancelDoze (s : State) : State :=
  let s1 := if 3 ≤ s.moth.dozeStep then s.reinitSsds else s
  { s1 with moth := { s1.moth with state := 0, dozeStep := 0 } }

/-- The entry goes on to wait for the host link when no SSD is shutting down any more. -/
def State.ssdsDown (s : State) : State :=
  if s.moth.dozeStep = 3 ∧ !(s.persist.ports.toList.any fun x => x.shutting) then { s with moth := { s.moth with dozeStep := 4 } } else s

/-- Step 2 of R439. -/
def State.shutSsds (s : State) : State :=
  let ports := s.persist.ports.map fun (x : PersistPort) => if x.state = 2 then { x with shutting := true } else x
  ({ s with persist := { s.persist with ports := ports }, moth := { s.moth with dozeStep := 3 } }).ssdsDown

/-- The host has placed every function in D3hot and the link in L2/L3 Ready (R439 step 3). -/
def State.hostAsleep (s : State) : Bool :=
  s.host.link == .l2l3Ready && (List.finRange 64).all fun (i : Fin 64) => !s.exists? i || s.host.fns[i].d3hot

/-- A channel pays its debt and enters self-refresh (R242). -/
def Channel.sleep (x : Channel) : Channel := if x.state = 2 then { x with state := 4, debt := 0, payback := false, queue := [] } else x

/-- Steps 5 and 6 of R439: what is neither saved nor in the always-on island is lost. -/
def State.enterDoze (s : State) : State :=
  let s1 := { s with
    dram := { s.dram with channels := s.dram.channels.map Channel.sleep }
    cache := { s.cache with sets := [], victims := [], wbuf := [], errors := [] }
    mover := { resetMover with errPulses := s.mover.errPulses }
    digest := { s.digest with handles := [], queue := [], ports := [], own := resetDigest.own, lanes := resetDigest.lanes }
    window := Vector.replicate 8 resetSlot }
  let s2 := { s1 with
    mirror := { s1.mirror with portA := { s1.mirror.portA with up := false }, portB := { s1.mirror.portB with up := false } }
    moth := { s1.moth with state := 2, dozeStep := 0, dozeCount := (s1.moth.dozeCount + 1) % 2 ^ 48, perstInDoze := false } }
  s2.raise 0x0068 0 0

/-- DOZE_ENTRY (R439): at the tick of entry the SSDs shut down; once they are down and the host sleeps the module power-gates. -/
def execDozeEntry (s : State) : Host.Outcome State Fault Refusal :=
  .next (if s.moth.state ≠ 1 then s
    else if s.moth.dozeStep = 2 then s.shutSsds
    else if s.moth.dozeStep = 4 ∧ s.hostAsleep then s.enterDoze
    else s)

/-- SSD_SHUTDOWN_COMPLETE (R439). -/
def execSsdShutdownComplete (p : Fin 4) (s : State) : Host.Outcome State Fault Refusal :=
  .next (if s.persist.ports[p].shutting then (s.setPort p { s.persist.ports[p] with shutting := false }).ssdsDown else s)

/-- SSD_SHUTDOWN_TIMEOUT (R439): a member that has not reported is treated as failed at the next restore. -/
def execSsdShutdownTimeout (s : State) : Host.Outcome State Fault Refusal :=
  .next (if s.moth.dozeStep ≠ 3 then s
    else
      let late := (List.finRange 4).foldl (fun (v : BitVec 4) (p : Fin 4) => if s.persist.ports[p].shutting then v ||| (1 <<< p.val) else v) s.moth.shutLate
      ({ s with
        persist := { s.persist with ports := s.persist.ports.map fun (x : PersistPort) => { x with shutting := false } }
        moth := { s.moth with shutLate := late } }).ssdsDown)

/-- DOZE_LINK_WAIT_EXPIRY (R439): the request is refused with code 3. -/
def execDozeLinkWaitExpiry (s : State) : Host.Outcome State Fault Refusal :=
  .next (if s.moth.dozeStep = 4 ∧ !s.hostAsleep then (s.cancelDoze).refuseDoze 3 else s)

/-! ### Wake (R440, R441) -/

/-- A wake source: it wakes the engine from doze, and cancels an entry in progress. -/
def State.wake (s : State) (source : Nat) : State :=
  if s.moth.state = 2 then { s with moth := { s.moth with state := 3, wakeSource := source } }
  else if s.moth.state = 1 then s.cancelDoze
  else s

/-- MOTH_CMD_WAKE. -/
def execMothCmdWake (s : State) : Host.Outcome State Fault Refusal := .next (s.wake 2)

/-- DOZE_TIMER_EXPIRY: 0 disables the timer. -/
def execDozeTimerExpiry (s : State) : Host.Outcome State Fault Refusal :=
  .next (if s.moth.state = 2 ∧ s.od 0x6001 2 ≠ 0 then s.wake 3 else s)

/-- A channel leaves self-refresh (R242). -/
def Channel.wake (x : Channel) : Channel :=
  if x.state = 4 then { x with state := 2, rate := 2, limband := 2, low := 0, payback := false, debt := 0, readouts := [] } else x

/-- The host endpoint comes up as from a fundamental reset; instances that stop existing are reset (R295, R441). -/
def State.freshEndpoint (s : State) : State :=
  let was := (List.finRange 64).filter fun (i : Fin 64) => i.val != 0 && s.exists? i
  let s1 := { s with host := { s.host with
    link := .down, linkSpeed := 0, linkWidth := 0, vfEnable := false, numVfs := 0, fns := Vector.replicate 64 resetFunction } }
  was.foldl (fun (s : State) i => s.acceptReset i) s1

/-- The schedule of R441 has run: the frame sequencer is started, and the first tick may fire. -/
def State.finishWake (s : State) (dozeMs : Nat) : State :=
  let s1 := (if s.moth.wakeSource = 1 then s.freshEndpoint else s).reinitSsds
  let s2 := ({ s1 with
    dram := { s1.dram with channels := s1.dram.channels.map Channel.wake }
    moth := { s1.moth with state := 0, channels := Vector.replicate 48 { raws := [], y := 0 } }
    frame := { s1.frame with timeBase := s1.frame.timeBase + BitVec.ofNat 48 dozeMs } }).startFrames
  { s2 with frame := { s2.frame with timerExpired := true } }

/-- WAKE_SCHEDULE (R441): a failure in the schedule is WAKE_FAIL and a module reset. -/
def execWakeSchedule (ok : Bool) (dozeMs : Nat) (s : State) : Host.Outcome State Fault Refusal :=
  .next (if s.moth.state ≠ 3 then s
    else if ok then s.finishWake dozeMs
    else (s.raise 0x0069 2 0).moduleReset 5)

/-! ### PERST_N (R473, R488) -/

/-- PERST_N_ASSERT: a module reset while MOTH_STATE is 0; during doze it only prepares a wake. -/
def execPerstNAssert (s : State) : Host.Outcome State Fault Refusal :=
  let t := { s with pins := { s.pins with perstN := false } }
  .next (if s.moth.state = 0 then t.moduleReset 2
    else if s.moth.state ≤ 2 then { t with moth := { t.moth with perstInDoze := true } }
    else t)

/-- PERST_N_DEASSERT. -/
def execPerstNDeassert (s : State) : Host.Outcome State Fault Refusal :=
  let t := { s with pins := { s.pins with perstN := true } }
  .next (if s.moth.perstInDoze then ({ t with moth := { t.moth with perstInDoze := false } }).wake 1 else t)

/-- WAKE_N is low while a PME is pending with the link in L2/L3 Ready (R488). -/
def State.wakeN (s : State) : Bool := !(s.host.link == .l2l3Ready && s.host.fns.toList.any fun f => f.pmeStatus)

/-- PSTp_PERST_N (R489): released from bring-up step 4 on, but not in doze nor outside PORT_MASK. -/
def State.pstPerstN (s : State) (p : Fin 4) : Bool :=
  s.moth.pwrgood && s.moth.state != 2 && s.persist.state != 0 && (s.od 0x4000 3).testBit p.val

end Sys2Proof.Machine
end

