-- ==== Sys2Proof/Machine/Boot.lean ====
section
/-! DEFINITION. Bring-up (R474 to R481) and the loss of clocks (R498). -/

namespace Sys2Proof.Machine

def State.setStage (s : State) (n : Nat) : State := { s with boot := { s.boot with stage := n } }

/-- Bring-up stops with a code (R476). -/
def State.failBoot (s : State) (code : Nat) : State := { s with boot := { s.boot with stage := 7, code := code } }

/-- BRINGUP_START (R476 step 1): PWRGOOD is asserted, and a reset by PERST_N has been released. -/
def execBringupStart (profsel : Fin 4) (s : State) : Host.Outcome State Fault Refusal :=
  .next (if s.boot.stage ≠ 0 ∨ !s.moth.pwrgood ∨ s.frozen ∨ (s.boot.cause = 2 ∧ !s.pins.perstN) then s
    else { s with boot := { s.boot with stage := 1, profsel := profsel.val } })

/-! ### Firmware (R478) -/

/-- The bank is valid. -/
def bankValid (b : Sys2Proof.FirmwareBank) : Bool :=
  let h := b.header
  let key := sliceBytes h 132 97
  sliceBytes h 0 8 == asciiBytes "TQ48FIRM" && fieldNat h 8 2 == 1 && decide (Config.rollbackMin ≤ fieldNat h 12 4)
    && sha384 key == Config.keyDigest && Config.ecdsaVerify key (sliceBytes h 0 320) (sliceBytes h 320 96)
    && sha384 (b.body.take (fieldNat h 16 4)) == sliceBytes h 84 48

/-- The bank that runs: the valid one with the higher ROLLBACK, A on a tie. -/
def chooseBank (a b : Sys2Proof.FirmwareBank) : Option (Nat × Sys2Proof.FirmwareBank) :=
  match bankValid a, bankValid b with
  | true, true => if fieldNat a.header 12 4 < fieldNat b.header 12 4 then some (1, b) else some (0, a)
  | true, false => some (0, a)
  | false, true => some (1, b)
  | false, false => none

/-! ### Configuration (R451, R468, R476 steps 3 to 5) -/

/-- Pending reset-class values apply over the profile (R451). -/
def Dict.applyReset (d : Dict) : Dict :=
  { d with vals := d.resetShadow ++ d.vals.filter fun p => !(d.resetShadow.any fun q => q.1 == p.1), resetShadow := [] }

/-- The dictionary is filled from the profile that PROFSEL selects, or from the defaults. -/
def State.fillDict (s : State) : State :=
  let p := s.boot.profsel
  match s.profileCopy? p with
  | some (_, c) =>
    let vals := profileObjects.map fun x => (odKey x.1 x.2.1, s.profileValue c x.1 x.2.1)
    let s1 := { s with dict := ({ s.dict with vals := vals } : Dict).applyReset, profiles := { s.profiles with active := p } }
    s1.raise 0x0002 0 p
  | none =>
    let s1 := { s with dict := ({ s.dict with vals := [] } : Dict).applyReset, profiles := { s.profiles with active := 0xFF } }
    (s1.raise 0x0003 1 p).raise 0x0002 0 0xFF

/-- A port at the start of restore (R376 step 1, R439, R489). -/
def initPort (mask : Nat) (absent late : BitVec 4) (p : Fin 4) : PersistPort :=
  if !mask.testBit p.val then resetPort
  else if absent.getLsbD p.val then { resetPort with state := 3, failReason := 1 }
  else if late.getLsbD p.val then { resetPort with state := 3, failReason := 6 }
  else { resetPort with state := 1 }

/-- JOURNAL_LABEL as bytes. -/
def State.journalLabel (s : State) : List Byte := leBytes 16 (s.od 0x4000 6)

/-- With KEY_SOURCE 0 the journal key is derived on context 13 (R355): two messages, extract and expand. -/
def State.deriveKey (s : State) (label : List Byte) : State :=
  if s.od 0x4000 5 = 0 then
    ((s.putKey (s.od 0x4000 7) (hkdf256 [] Config.otpRoot label)).hashOn 0 1 (some []) Config.otpRoot).hashOn 0 1
      (some (hmac256 [] Config.otpRoot)) (label ++ [1])
  else s

/-- A firmware image is verified on context 13 (R334, R478): its key against the OTP digest, then its body; these are the messages that
count (DESIGN CHOICE, assumption 156). -/
def State.hashFirmware (s : State) (b : Sys2Proof.FirmwareBank) : State :=
  (s.hashOn 0 2 none (sliceBytes b.header 132 97)).hashOn 0 2 none (b.body.take (fieldNat b.header 16 4))

/-- What the dictionary configures at bring-up. -/
def State.configure (s : State) : State :=
  let s1 := { s with
    persist := { s.persist with state := 1, ports := Vector.ofFn (initPort (s.od 0x4000 3) s.pins.pstPrsntN s.moth.shutLate) }
    moth := { s.moth with shutLate := 0 }
    kma := { s.kma with persistBase := s.od 0x3400 1 }
    cache := { s.cache with state := if s.od 0x3100 1 = 1 then 0 else 2 } }
  s1.deriveKey s1.journalLabel

/-- Memory training begins on every populated channel (R243). -/
def State.startTraining (s : State) : State :=
  let start (c : Fin 48) : Channel :=
    if channelPresent s.e384 c.val then { s.dram.channels[c] with state := 1 } else s.dram.channels[c]
  { s with dram := { s.dram with channels := Vector.ofFn start } }

/-- FIRMWARE_VERIFY (R478): the firmware runs, configures the engine, and memory training begins. -/
def execFirmwareVerify (a b : Sys2Proof.FirmwareBank) (s : State) : Host.Outcome State Fault Refusal :=
  .next (if s.boot.stage ≠ 1 ∨ s.frozen then s
    else
    let s := (s.hashFirmware a).hashFirmware b
    match chooseBank a b with
      | none => s.failBoot Status.bootFwFail
      | some (n, f) =>
        let s1 := { s with boot := { s.boot with bank := n, firmware := some f, library := Config.library f.body, stage := 2 } }
        ((s1.fillDict.configure).startTraining).setStage 3)

/-! ### Training and self-test (R243, R479) -/

/-- MEMORY_TRAINING_COMPLETE (R243): a channel that still fails stops bring-up. What training leaves in the reserved areas is a free
value (DESIGN CHOICE, assumption 157). -/
def execMemoryTrainingComplete (failed : List (Fin 48)) (s : State) : Host.Outcome State Fault Refusal :=
  .next (if s.boot.stage ≠ 3 ∨ s.boot.trained ∨ s.frozen then s
    else
      let bad := (List.finRange 48).filter fun c => failed.contains c && channelPresent s.e384 c.val
      let trained (c : Fin 48) : Channel :=
        if !channelPresent s.e384 c.val then s.dram.channels[c]
        else { s.dram.channels[c] with state := if bad.contains c then 3 else 2, reserved := Config.freeNat (s.free + c.val) }
      let s1 := { s with dram := { s.dram with channels := Vector.ofFn trained }, free := s.free + 48 }
      if bad.isEmpty then { s1 with boot := { s1.boot with trained := true } }
      else (bad.foldl (fun (s : State) (c : Fin 48) => s.channelFault c.val 4 3 0) s1).failBoot Status.memTrainFail)

/-- A fault at die level on a link (R16): which of the two dies it names the spec does not say, so it is a free value (DESIGN CHOICE,
assumption 60). -/
def State.linkLocation (s : State) (l : Sys2Proof.DieLink) : Nat × State :=
  let (v, s1) := s.fresh
  let die := match l with
    | .eastWest => v % 2
    | .eastHub => 2 * (v % 2)
    | .westHub => 1 + v % 2
  (location 5 0 die, s1)

/-- One mismatch of the start-up self-test: its latched bit, where R416 has one for its kind, and its event. Its location code is that of
the tile, of the bank or slice at LEVEL 2, or for a link of a die that it joins, at LEVEL 5 (DESIGN CHOICE, assumption 158). -/
def State.selftestFault (s : State) (u : Sys2Proof.SelftestUnit) : State :=
  match u with
  | .tile t => (s.latchFault 0).raiseAt 0x0030 3 (location 3 1 t.val) 0 0
  | .kmaBank b => s.raiseAt 0x0030 3 (location 2 3 b.val) 0 0
  | .cacheSlice n => s.raiseAt 0x0030 3 (location 2 4 n.val) 0 0
  | .dieLink => ((s.linkLocation .eastWest).2.latchFault 2).raiseAt 0x0030 3 (s.linkLocation .eastWest).1 0 0
  | .hubLink west =>
    let l : Sys2Proof.DieLink := if west then .westHub else .eastHub
    ((s.linkLocation l).2.latchFault 2).raiseAt 0x0030 3 (s.linkLocation l).1 0 0

/-- STARTUP_SELFTEST_COMPLETE (R479). -/
def execStartupSelftestComplete (mismatch : List Sys2Proof.SelftestUnit) (s : State) : Host.Outcome State Fault Refusal :=
  .next (if s.boot.stage ≠ 3 ∨ !s.boot.trained ∨ s.frozen then s
    else
      let s1 := { s with boot := { s.boot with tested := true } }
      if mismatch.isEmpty then s1.setStage 4
      else ((mismatch.foldl (fun (s : State) u => s.selftestFault u) s1).fence 1).failBoot Status.selftestFail)

/-! ### Boot spans and serving (R379, R480, R481) -/

/-- A work span of instance 0 over some slots: KIND 0x4 with RD and WR. -/
def workDesc (slot n : Nat) : BitVec 192 :=
  BitVec.ofNat 192 (4 * 2 ^ 108 + 3 * 2 ^ 96 + (n * slotBytes - 1) * 2 ^ 48 + slot * slotBytes)

/-- A boot span is installed when its selector is unused and its slots belong to no descriptor; its object takes the selector when
it is 0. -/
def State.bootSpan (s : State) (sel index sub slot n : Nat) : State :=
  let used := s.host.descs.any fun p => descKind p.2 != 0 && (p.1 == sel ||
    (decide (slot < (descSlots p.2).1 + (descSlots p.2).2) && decide ((descSlots p.2).1 < slot + n)))
  if used then s
  else
    let s1 := { s with host := { s.host with descs := insertK s.host.descs sel (workDesc slot n) } }
    if s1.od index sub = 0 then s1.odSet index sub sel else s1

/-- Step 8 of R476. -/
def State.bootSpans (s : State) : State :=
  let t := slotCount s.e384 - 257
  let s1 := s.bootSpan 0xFFD 0x2010 1 (t - 63) 64
  let s2 := if s1.od 0x4000 1 = 1 then s1.bootSpan 0xFFE 0x4004 1 (t - 319) 256 else s1
  if s2.od 0x5000 1 ≠ 0 then s2.bootSpan 0xFFF 0x5001 7 (t - 4415) 4096 else s2

/-- PERSIST_STATE while serving: prefetching, or resident (R384). -/
def State.servingPersist (s : State) : Nat :=
  if s.persist.state = 8 then 8 else if s.allHere then 5 else 4

/-- Serving begins (R379, R481): in a pair or chain with formation, and a chrysalis is due. -/
def State.beginServing (s : State) : State :=
  let s1 := { s with
    boot := { s.boot with stage := 6 }
    persist := { s.persist with state := s.servingPersist, due := s.persist.set.isSome, dueSince := s.frame.frameNo }
    mirror := { s.mirror with state := if s.od 0x5000 1 = 0 then 0 else 6, formFrame := s.frame.frameNo } }
  s1.startFrames

/-! ### Clocks (R498) -/

/-- SYS_REFCLK_LOSS: a fatal fault at die level for East, West and Hub. -/
def execSysRefclkLoss (s : State) : Host.Outcome State Fault Refusal :=
  let t := { s with pins := { s.pins with sysRefclk := false } }
  .next (([0, 1, 2].foldl (fun (s : State) d => s.raiseAt 0x0030 3 (location 5 0 d) 0 0) t).fence 1)

/-- PEX_REFCLK_LOSS: a link-down of the host link. -/
def execPexRefclkLoss (s : State) : Host.Outcome State Fault Refusal :=
  execHotReset true { s with pins := { s.pins with pexRefclk := false } }

/-- MIR_REFCLK_LOSS: both mirror ports go down. -/
def execMirRefclkLoss (s : State) : Host.Outcome State Fault Refusal :=
  .next { s with
    pins := { s.pins with mirRefclk := false }
    mirror := { s.mirror with portA := { s.mirror.portA with up := false }, portB := { s.mirror.portB with up := false } } }

/-- AUX_CLK_LOSS: the 10BASE-T1S port falls silent, and the time base goes on. -/
def execAuxClkLoss (s : State) : Host.Outcome State Fault Refusal :=
  .next (if !s.pins.auxClk then s
    else ({ s with pins := { s.pins with auxClk := false } }).raiseAt 0x0030 2 (location 2 9 10) 1 0)

/-- AUX_CLK_RETURN. -/
def execAuxClkReturn (s : State) : Host.Outcome State Fault Refusal :=
  .next (if s.pins.auxClk then s
    else ({ s with pins := { s.pins with auxClk := true } }).raiseAt 0x0030 2 (location 2 9 10) 2 0)

end Sys2Proof.Machine
end

