-- ==== Sys2Proof/Machine/Restore.lean ====
section
/-! DEFINITION. The SSDs (R365 to R367), restore and replay (R376 to R380), and the rows of the persist controller about them. -/

namespace Sys2Proof.Machine

/-! ### Superblocks read back (R370) -/

/-- What a superblock gives: the set, and its EPOCH. -/
structure Superblock where
  set : PersistSet
  member : Nat
  epoch : Nat
  mapSeal : List Byte
  manifestSeal : List Byte
deriving DecidableEq, Repr

/-- A copy is valid: MAGIC, VERSION, CRC, and the port, MODE, PORT_MASK and WIDTH (R376 step 2). -/
def State.superblock? (s : State) (port : Fin 4) (b : List Byte) : Option Superblock :=
  let mode := s.od 0x4000 2
  let mask := s.od 0x4000 3
  if b.length == 4096 && sliceBytes b 0 8 == asciiBytes "TQ48SUPR" && fieldNat b 8 2 == 1 && fieldNat b 4088 8 == crc64 (b.take 4088)
      && fieldNat b 10 1 == port.val && fieldNat b 11 1 == mode && fieldNat b 12 1 == mask && fieldNat b 13 1 == widthOf mode mask then
    some { set := { setId := sliceBytes b 16 16, generation := fieldNat b 32 6, chrysNo := fieldNat b 38 6, chrysFrame := fieldNat b 44 6,
                    jposStart := fieldNat b 50 6, volumeBlocks := fieldNat b 56 6, jringBlocks := fieldNat b 62 6,
                    storeUnits := fieldNat b 68 4, mapSel := fieldNat b 76 1 % 2, keySource := fieldNat b 77 1,
                    label := sliceBytes b 80 16, mode := mode, portMask := mask, width := widthOf mode mask }
           member := port.val, epoch := fieldNat b 160 6, mapSeal := sliceBytes b 96 32, manifestSeal := sliceBytes b 128 32 }
  else none

/-! ### Ports (R365 to R367, R383) -/

/-- Blocks a member needs (R366). -/
def State.blocksNeeded (s : State) (port : Fin 4) (super : Option (List Byte)) : Nat :=
  let w := widthOf (s.od 0x4000 2) (s.od 0x4000 3)
  match super.bind (s.superblock? port) with
  | some b => b.set.volumeBlocks / w + 256
  | none =>
    let need := 22528 + 256 * s.od 0x4000 4 + 512 * (slotCount s.e384 - 256)
    256 + 64 * ceilDiv need (64 * w)

/-- FAIL_REASON of an SSD that is not accepted, 0 for one that is (R366). -/
def State.ssdReason (s : State) (port : Fin 4) (id : Sys2Proof.SsdIdentity) : Nat :=
  if !id.active ∨ id.lbaBytes ≠ 4096 ∨ id.metadata then 3
  else if id.mdtsBytes < 131072 ∨ id.mqes + 1 < 64 then 4
  else if id.blocks < s.blocksNeeded port id.superblock then 5
  else 0

/-- SSDs that a wake initialises again have come up, or have failed (R441). -/
def State.checkReinit (s : State) : State :=
  if s.persist.ports.toList.any fun x => x.state == 1 then s else { s with moth := { s.moth with wakeReinit := false } }

/-- The set cannot go on without the members that have failed: STRIPE loses with one, MIRROR with both of a pair (R367). -/
def State.setLost (s : State) (p : PersistSet) : Bool :=
  let failed (m : Fin 4) : Bool := s.persist.ports[m].state == 3
  let ports := maskPorts p.portMask
  if p.mode = 0 then ports.any failed
  else (List.range p.width).any fun l => ((ports.drop (2 * l)).take 2).all failed

/-- What a failed member does to the set (R364, R367): PERSIST_FAULT stops cocoons and chrysalis. -/
def State.checkSet (s : State) : State :=
  match s.persist.set with
  | none => s
  | some p =>
    if s.setLost p && (s.persist.state == 4 || s.persist.state == 5) then
      let s1 := s.dropChrysalis
      { s1 with persist := { s1.persist with state := 6 } }
    else s

/-- A member fails. -/
def State.failMember (s : State) (port : Fin 4) (reason : Nat) (counts : Bool) : State :=
  let x := s.persist.ports[port]
  let y := { x with state := 3, failReason := reason, shutting := false, errors := if counts then min 65535 (x.errors + 1) else x.errors }
  (s.setPort port y).checkSet.checkReinit.ssdsDown

/-- SSD_READY (R366, R441): an SSD that initialised is accepted, or its port fails. -/
def execSsdReady (p : Fin 4) (id : Sys2Proof.SsdIdentity) (s : State) : Host.Outcome State Fault Refusal :=
  let x := s.persist.ports[p]
  let r := s.ssdReason p id
  .next (if x.state ≠ 1 then s
    else if r ≠ 0 then s.failMember p r false
    else (s.setPort p { x with state := 2, queues := min 4 id.queues, vwc := id.vwc, blocks := id.blocks }).checkReinit)

/-- SSD_READY_TIMEOUT (R383). -/
def execSsdReadyTimeout (p : Fin 4) (s : State) : Host.Outcome State Fault Refusal :=
  .next (if s.persist.ports[p].state ≠ 1 then s else s.failMember p 2 false)

/-- A command of a member failed: it may have been a write of a chrysalis, which is then abandoned (R364). Which command it was the
event does not say, so that is a free value (DESIGN CHOICE, assumption 69). -/
def State.commandFailed (s : State) (p : Fin 4) (reason : Nat) : State :=
  let (v, s1) := s.fresh
  (if v % 2 = 0 then s1.dropChrysalis else s1).failMember p reason true

/-- SSD_COMMAND_TIMEOUT (R367). -/
def execSsdCommandTimeout (p : Fin 4) (s : State) : Host.Outcome State Fault Refusal :=
  .next (if s.persist.ports[p].state = 1 ∨ s.persist.ports[p].state = 2 then s.commandFailed p 6 else s)

/-- SSD_COMMAND_ERROR (R367). -/
def execSsdCommandError (p : Fin 4) (s : State) : Host.Outcome State Fault Refusal :=
  .next (if s.persist.ports[p].state = 1 ∨ s.persist.ports[p].state = 2 then s.commandFailed p 7 else s)

/-- SSD_LINK_DOWN (R367). -/
def execSsdLinkDown (p : Fin 4) (s : State) : Host.Outcome State Fault Refusal :=
  .next (if s.persist.ports[p].state = 1 ∨ s.persist.ports[p].state = 2 then s.failMember p 1 false else s)

/-- SMART_LOG_POLL (R365): the logs are read, which changes nothing the spec names. -/
def execSmartLogPoll (_ : Fin 4) (s : State) : Host.Outcome State Fault Refusal := .next s

/-! ### Restore (R376) -/

/-- A failed restore with the status it gives; none of it serves (R380). -/
def State.restoreFails (s : State) (status : Nat) : State := s.failRestore status

/-- Valid superblocks of the members that are ready: the best copy of each. -/
def State.validCopies (s : State) (rd : RestoreRead) : List Superblock :=
  rd.superblocks.flatMap fun m =>
    if h : m.1 < 4 then
      let p : Fin 4 := ⟨m.1, h⟩
      if !(s.od 0x4000 3).testBit m.1 || s.persist.ports[p].state != 2 then []
      else (m.2.1.bind (s.superblock? p)).toList ++ (m.2.2.bind (s.superblock? p)).toList
    else []

/-- The valid copy with the highest GENERATION. -/
def newestCopy (l : List Superblock) : Option Superblock :=
  l.foldl (fun (m : Option Superblock) b => match m with
    | some x => if x.set.generation < b.set.generation then some b else some x
    | none => some b) none

/-- Too few members are valid for MODE (R380). -/
def tooFew (mode mask : Nat) (valid : List Superblock) : Bool :=
  let ports := maskPorts mask
  let has (m : Fin 4) : Bool := valid.any fun b => b.member == m.val
  if mode = 0 then !ports.all has
  else (List.range (widthOf mode mask)).any fun l => !((ports.drop (2 * l)).take 2).any has

/-- Members that do not belong to the set fail with FAIL_REASON 8 (R383). -/
def State.failStrangers (s : State) (valid : List Superblock) (setId : List Byte) : State :=
  (maskPorts (s.od 0x4000 3)).foldl (fun (s : State) (m : Fin 4) =>
    let mine := valid.filter fun b => b.member == m.val
    if s.persist.ports[m].state = 2 ∧ !(mine.any fun b => b.set.setId == setId) then
      s.setPort m { s.persist.ports[m] with state := 3, failReason := 8 }
    else s) s

/-- Descriptors, tables and entries that a manifest reinstates (R372, R376 step 5); the map is taken as read. -/
def State.reinstate (s : State) (b : Superblock) (map manifest : List Byte) : State :=
  let descs := descRecords (fieldNat manifest 26 4) (manifest.drop (fieldNat manifest 44 6))
  let tables := tableRecords (fieldNat manifest 30 4) (manifest.drop (fieldNat manifest 50 6))
  let entries := entryRecords (fieldNat manifest 34 4) (manifest.drop (fieldNat manifest 56 6))
  let slots := (List.range (slotCount s.e384)).filterMap fun i =>
    let e := mapEntryOf (sliceBytes map (4096 + 32 * i) 32)
    if e.present then some (i, e) else none
  let s1 := s.install descs tables entries
  { s1 with
    frame := { s1.frame with frameNo := fieldNat manifest 14 6, timeBase := BitVec.ofNat 48 (fieldNat manifest 20 6), timeFraction := 0 }
    persist := { s1.persist with set := some b.set, map := slots, nextJpos := b.set.jposStart, committed := b.set.chrysFrame - 1 }
    mirror := { s1.mirror with epoch := if s.od 0x5000 1 = 0 then s.mirror.epoch else b.epoch } }

/-- Every slot open to descriptors is absent, and so is every descriptor's span (R376 step 6). -/
def State.markAbsent (s : State) : State :=
  { s with
    mem := { s.mem with allResident := false, flipped := (List.range 256).map fun i => openSlots s.e384 + i }
    host := { s.host with descs := s.host.descs.map fun p => (p.1, p.2 ||| BitVec.ofNat 192 (2 ^ 99)) } }

/-- Replay begins at JPOS_START (R377). What PREV_FRAME the first new cocoon names, should none be replayed, the spec does not
say: a free value (DESIGN CHOICE, assumption 70). -/
def State.startReplay (s : State) : State :=
  let (v, s1) := s.fresh
  let s2 := { s1 with persist := { s1.persist with
    state := 3, replayPrev := none, replayPlaces := [], replayFrames := 0, restoreRead := none, restoreStatus := 0, lastCocoonFrame := v % 2 ^ 48 } }
  s2.startFrames

/-- Blocks a restore reads: the map, then the manifest. -/
def State.countRestoreReads (s : State) (b : Superblock) (bytes : Nat) : State :=
  let sel := b.set.mapSel
  (s.countBlocks (3072 * sel) (1 + ceilDiv (32 * slotCount s.e384) 4096)).countBlocks (6144 + 8192 * sel) (ceilDiv bytes 4096)

/-- Steps 4 to 7 of R376, with the journal key in place: both seals are checked. -/
def State.restoreKeyed (s : State) (b : Superblock) (rd : RestoreRead) : State :=
  let key := s.journalKey
  let map := rd.map.map fun m => m.take (4096 + 32 * slotCount s.e384)
  let manifest := rd.manifest.map fun m => m.take (fieldNat m 38 6)
  let wrong (x : Option (List Byte)) (mac : List Byte) : Bool := match x with
    | some m => hmac256 key m != mac
    | none => false
  let s1 := (map.toList ++ manifest.toList).foldl (fun (s : State) m => (s.hashOn 2 1 (some key) m).countCompare) s
  if wrong map b.mapSeal || wrong manifest b.manifestSeal then s1.restoreFails Status.restoreKey
  else match map, manifest with
    | some m, some f =>
      let s2 := { s1 with persist := { s1.persist with set := some b.set, state := 2 } }
      ((((s2.countRestoreReads b f.length).reinstate b m f).bootSpans).markAbsent).startReplay
    | _, _ => s1.restoreFails Status.restoreMember

/-- No set: the engine serves with empty memory and no journal until FORMAT (R380, R480). -/
def State.restoreNoSet (s : State) : State :=
  let s1 := { s with persist := { s.persist with state := 8, restoreStatus := Status.restoreNoSet, set := none }
                     mem := { s.mem with allResident := true, flipped := [] } }
  s1.bootSpans.beginServing

/-- Steps 2 and 3 of R376. -/
def State.restoreFrom (s : State) (rd : RestoreRead) : State :=
  let valid := s.validCopies rd
  match newestCopy valid with
  | none => s.restoreNoSet
  | some b =>
    let s1 := s.failStrangers valid b.set.setId
    if (valid.any fun x => x.set.setId != b.set.setId) || tooFew b.set.mode b.set.portMask valid then s1.restoreFails Status.restoreSetMismatch
    else if s.od 0x4000 5 = 1 ∧ !s.persist.keyReady then
      { s1 with boot := { s1.boot with stage := 5 }, persist := { s1.persist with restoreRead := some rd } }
    else (s1.deriveKey b.set.label).restoreKeyed b rd

/-- RESTORE (R376): bring-up has reached the persist controller, and every SSD has come up or failed. -/
def execRestore (rd : RestoreRead) (s : State) : Host.Outcome State Fault Refusal :=
  .next (if s.boot.stage ≠ 4 ∨ s.persist.state ≠ 1 ∨ s.frozen ∨ s.persist.ports.toList.any fun x => x.state == 1 then s
    else
      let ports := (maskPorts (s.od 0x4000 3)).filter fun m => s.persist.ports[m].state == 2
      let s1 := ports.foldl (fun (s : State) (m : Fin 4) => s.setPort m { s.persist.ports[m] with reads := s.persist.ports[m].reads + 2 }) s
      s1.restoreFrom rd)

/-- The manager has loaded the journal key (R384): a restore that waits goes on. -/
def State.keyLoaded (s : State) : State :=
  let s1 := { s with persist := { s.persist with keyReady := true } }
  match s1.persist.restoreRead with
  | some rd =>
    if s1.boot.stage ≠ 5 ∨ s1.frozen then s1
    else match newestCopy (s1.validCopies rd) with
      | some b => ({ s1 with boot := { s1.boot with stage := 4 } }).restoreKeyed b rd
      | none => s1
  | none => s1

/-- KEY_READY (R384). -/
def execKeyReady (s : State) : Host.Outcome State Fault Refusal := .next s.keyLoaded

/-- KEY_READY_TIMEOUT (R380). -/
def execKeyReadyTimeout (s : State) : Host.Outcome State Fault Refusal :=
  .next (if s.boot.stage = 5 ∧ !s.frozen then s.restoreFails Status.restoreKey else s)

/-! ### Replay (R377) -/

/-- The frame that replay executed ends. -/
def State.replayEnd (s : State) : State :=
  match s.persist.replayPrev with
  | none => s
  | some f =>
    let s1 := s.stepDigest.sealCocoon
    let s2 := { s1 with persist := { s1.persist with committed := f } }
    s2.stepRelease

/-- Replay stops: FRAME_NO goes on after the last cocoon accepted, entries end REPLAY_CUT without a completion, and serving begins. -/
def State.stopReplay (s : State) : State :=
  let s1 := s.replayEnd
  let s2 := (s1.work ++ s1.held.map fun h => h.entry).foldl (fun (s : State) e => s.dropEntryTables e) s1
  let f := match s2.persist.replayPrev with
    | some f => f + 1
    | none => s2.frame.frameNo
  let s3 := { s2 with work := [], held := [], frame := { s2.frame with frameNo := f }
                      persist := { s2.persist with committed := f - 1, open_ := [] } }
  s3.beginServing

/-- The checks of R377 on a cocoon. -/
def State.cocoonGood (s : State) (p : PersistSet) (bytes : List Byte) : Bool :=
  let recs := sliceBytes bytes 128 (fieldNat bytes 32 6)
  fieldNat bytes 0 4 == 0xC0C00A15 && fieldNat bytes 4 2 == 1 && sliceBytes bytes 48 16 == p.setId && fieldNat bytes 20 6 == s.persist.nextJpos
    && decide (128 + recs.length ≤ bytes.length)
    && hmac256 s.journalKey (sealInput (bytes.take 96) recs) == sliceBytes bytes 96 32
    && (match s.persist.replayPrev with
      | none => decide (p.chrysFrame ≤ fieldNat bytes 8 6)
      | some f => fieldNat bytes 14 6 == f)

/-- An accepted cocoon is executed as its frame. -/
def State.replayFrame (s : State) (bytes : List Byte) : State :=
  let f := fieldNat bytes 8 6
  let head := headerOf (sliceBytes bytes 64 24)
  let j := journalOf (sliceBytes bytes 128 (fieldNat bytes 32 6))
  let s1 := s.replayEnd
  let s2 := { s1 with
    frame := { s1.frame with frameNo := f, timeBase := head.tstamp, timeFraction := 0, next := { header := head, records := j.list } }
    persist := { s1.persist with
      replayPrev := some f, replayPlaces := j.tables, nextJpos := s1.persist.nextJpos + fieldNat bytes 26 4, lastCocoonFrame := f,
      replayFrames := s1.persist.replayFrames + 1, chrysBytes := s1.persist.chrysBytes + 4096 * fieldNat bytes 26 4 }
    mirror := { s1.mirror with epoch := max s1.mirror.epoch (fieldNat bytes 42 6) } }
  let s3 := j.descs.foldl (fun (s : State) d => s.applyDesc d.1 d.2.1 d.2.2) s2
  j.data.foldl (fun (s : State) r => s.takeData r) (s3.beginFrame false (some j.tables))

/-- COCOON_REPLAY (R377): the cocoon at the next journal position, once the merge of the frame before it is complete. -/
def execCocoonReplay (bytes : List Byte) (s : State) : Host.Outcome State Fault Refusal :=
  .next (match s.persist.set with
    | none => s
    | some p =>
      if !s.replaying || !s.frame.mergeDone then s
      else
        let s1 := (s.countBlocks (22528 + s.persist.nextJpos % p.jringBlocks) (fieldNat bytes 26 4)).hashSeal (bytes.take 96) (sliceBytes bytes 128 (fieldNat bytes 32 6)) |>.countCompare
        if s.cocoonGood p bytes then s1.replayFrame bytes else s1.stopReplay)

/-! ### Slots (R70, R378) -/

/-- Waits for a slot are over: its accesses are tried again. -/
def State.endWaits (s : State) (slot : Nat) : State :=
  { s with
    tiles := s.tiles.map fun (x : Tile) => { x with ctxs := x.ctxs.map fun c => if c.waiting = some slot then { c with waiting := none } else c }
    persist := { s.persist with demand := s.persist.demand.filter fun x => x != slot } }

/-- ABSENT of the descriptors whose last slot has become resident is cleared (R70). -/
def State.clearAbsent (s : State) : State :=
  { s with host := { s.host with descs := s.host.descs.map fun p => (p.1, s.withAbsent p.2) } }

/-- A slot is resident from now on. -/
def State.arriveSlot (s : State) (slot : Nat) : State :=
  let s2 := s.setResident slot true
  let s3 := if s2.allHere then { s2 with mem := { s2.mem with allResident := true, flipped := [] }
                                         persist := { s2.persist with state := if s2.persist.state = 4 then 5 else s2.persist.state } }
    else s2
  s3.clearAbsent.endWaits slot

/-- A slot's bytes are written to memory: it is resident. -/
def State.fetchedSlot (s : State) (slot : Nat) (bytes : List Byte) : State := (s.writeSlot slot bytes).arriveSlot slot

/-- A slot without a good copy stays absent for good; a replay that waits on it ends the restore. -/
def State.loseSlot (s : State) (slot : Nat) : State :=
  let waited := s.persist.demand.contains slot
  let s1 := { s with mem := { s.mem with lost := slot :: s.mem.lost } }
  if s.replaying ∧ waited then s1.failRestore Status.restoreSegmentLost else s1.endWaits slot

/-- SLOT_FETCH_COMPLETE (R378): `data` is the unit as read, with a good CRC if any member has it. -/
def execSlotFetchComplete (slot : Nat) (data : Option (List Byte)) (s : State) : Host.Outcome State Fault Refusal :=
  .next (match s.persist.set with
    | none => s
    | some p =>
      if s.resident slot || s.mem.lost.contains slot || decide (openSlots s.e384 ≤ slot) || !(s.serving || s.replaying) then s
      else
        let read (e : MapEntry) : State := s.countBlocks (22528 + p.jringBlocks + 256 * e.unit) 256
        match lookup? s.persist.map slot with
        | none => s.fetchedSlot slot (List.replicate slotBytes 0)
        | some e =>
          if e.zero ∨ e.unit = 0xFFFFFFFF then s.fetchedSlot slot (List.replicate slotBytes 0)
          else match data with
            | none => (read e).loseSlot slot
            | some bs => if bs.length = slotBytes ∧ crc64 bs = e.crc then (read e).fetchedSlot slot bs else (read e).loseSlot slot)

end Sys2Proof.Machine
end

