-- ==== Sys2Proof/Machine/Mirror.lean ====
section
/-! DEFINITION. Mirror links and messages as they arrive, neighbours that fail, leases and epochs (R390 to R413). -/

namespace Sys2Proof.Machine

/-! ### Ports -/

def Mirror.port (m : Mirror) (portB : Bool) : MirrorPort := if portB then m.portB else m.portA

def Mirror.setPort (m : Mirror) (portB : Bool) (p : MirrorPort) : Mirror :=
  if portB then { m with portB := p } else { m with portA := p }

def State.setMirrorPort (s : State) (portB : Bool) (p : MirrorPort) : State := { s with mirror := s.mirror.setPort portB p }

/-- The engine's own POSITION. -/
def State.position (s : State) : Nat := s.od 0x5000 3

/-- The engine is in pair or chain mode (R385). -/
def State.mirrored (s : State) : Bool := s.od 0x5000 1 != 0

/-- The port whose neighbour an engine is: port A for the upstream one, port B for the downstream one. -/
def State.portOf (s : State) (pos : Nat) : Option Bool :=
  if pos = 0xFFFF then none
  else if s.mirror.portA.peer = pos then some false
  else if s.mirror.portB.peer = pos then some true
  else none

/-- What was last heard of an engine on 10BASE-T1S. -/
def State.heardOf (s : State) (pos : Nat) : Option Heard := s.mirror.heard.find? fun h => h.pos == pos

/-- An engine is live: its 10BASE-T1S heartbeats arrive, and it is not fenced (R409). -/
def Heard.serves (h : Heard) : Bool := h.live && h.hb.role != 5

/-- The port is turned to an engine: numbering starts anew on a link to another engine (R400, R409). -/
def MirrorPort.turn (p : MirrorPort) (peer : Nat) (t1s fresh : Bool) : MirrorPort :=
  { p with peer := peer, txSeq := 0, rxSeq := 0, unacked := [], owed := false, mirLive := true, t1sLive := t1s, failed := false,
           lostRaised := false, lastRole := 0, health := 0, fresh := fresh, drain := false }

/-- The port has no neighbour. -/
def MirrorPort.alone (p : MirrorPort) : MirrorPort :=
  { p with peer := 0xFFFF, unacked := [], owed := false, mirLive := false, t1sLive := false, failed := false, lostRaised := false, fresh := false,
           drain := false }

/-- Messages from the neighbour of a port are taken: the port is up, and the neighbour is not declared failed (R407). -/
def State.hears (s : State) (portB : Bool) : Bool :=
  let p := s.mirror.port portB
  s.mirrored && p.up && p.peer != 0xFFFF && !p.failed && !s.frozen

/-! ### The link (R400) -/

/-- Messages whose every Ethernet frame LINK_ACK has passed leave the retransmit store. -/
def passAcked (ack : BitVec 32) (l : List (BitVec 32 × Nat × MirrorMsg)) : List (BitVec 32 × Nat × MirrorMsg) :=
  l.filter fun x => !decide ((ack - (x.1 + BitVec.ofNat 32 x.2.1)).toNat < 2 ^ 31)

/-- A message has arrived whole in some Ethernet frames. -/
def State.receive (s : State) (portB : Bool) (segs : Nat) (ack : Option (BitVec 32)) : State :=
  let p := s.mirror.port portB
  let q := { p with rxSeq := p.rxSeq + BitVec.ofNat 32 segs, owed := true, unacked := match ack with
    | some a => passAcked a p.unacked
    | none => p.unacked }
  { s with mirror := { s.mirror.setPort portB q with msgsRx := (s.mirror.msgsRx + 1) % 2 ^ 48 } }

/-- LINKACK (R400): it is a numbered frame as any other, so it is owed an acknowledgement in its turn. -/
def execLinkack (portB : Bool) (ack : BitVec 32) (s : State) : Host.Outcome State Fault Refusal :=
  let p := s.mirror.port portB
  .next (if !s.hears portB then s
    else
      let q := { p with rxSeq := p.rxSeq + 1, owed := true, unacked := passAcked ack p.unacked }
      { s with mirror := { s.mirror.setPort portB q with msgsRx := (s.mirror.msgsRx + 1) % 2 ^ 48 } })

/-- RETRANSMIT_TIMEOUT (R400): every frame outstanding is sent again. -/
def execRetransmitTimeout (portB : Bool) (s : State) : Host.Outcome State Fault Refusal :=
  let p := s.mirror.port portB
  .next (if p.unacked.isEmpty ∨ !p.up then s
    else { s with mirror := { s.mirror with
      retransmits := (s.mirror.retransmits + (p.unacked.map fun x => x.2.1).sum) % 2 ^ 48
      sent := s.mirror.sent ++ p.unacked.map fun x => x.2.2 } })

/-- LINKACK_TIMER (R400): a receiver with nothing else to send acknowledges; the sender keeps this frame as every other. -/
def execLinkackTimer (portB : Bool) (s : State) : Host.Outcome State Fault Refusal :=
  let p := s.mirror.port portB
  .next (if !p.owed ∨ !p.up ∨ p.peer = 0xFFFF ∨ !s.mirrored then s
    else
      let msg : MirrorMsg := { portB := portB, type := 0x0B, epoch := s.mirror.epoch, frameNo := 0, payload := [] }
      let q := { p with owed := false, txSeq := p.txSeq + 1, unacked := p.unacked ++ [(p.txSeq, 1, msg)] }
      { s with mirror := { s.mirror.setPort portB q with msgsTx := (s.mirror.msgsTx + 1) % 2 ^ 48, sent := s.mirror.sent ++ [msg] } })

/-- Numbers the messages of a retransmit store from 0. -/
def renumber : BitVec 32 → List (BitVec 32 × Nat × MirrorMsg) → List (BitVec 32 × Nat × MirrorMsg)
  | _, [] => []
  | n, x :: r => (n, x.2.1, x.2.2) :: renumber (n + BitVec.ofNat 32 x.2.1) r

/-- MIRROR_PORT_LINK_CHANGE (R400): LINK_STATE follows, and numbering starts from 0 when the link comes up. -/
def execMirrorPortLinkChange (portB up : Bool) (s : State) : Host.Outcome State Fault Refusal :=
  let p := s.mirror.port portB
  .next (if up = p.up ∨ !s.mirrored ∨ (up ∧ !s.pins.mirRefclk) then s
    else if up then
      s.setMirrorPort portB { p with up := true, txSeq := BitVec.ofNat 32 (p.unacked.map fun x => x.2.1).sum, rxSeq := 0,
                                     unacked := renumber 0 p.unacked, owed := false }
    else s.setMirrorPort portB { p with up := false })

/-- The MAC address of a port of a roster engine. -/
def State.rosterMac (s : State) (pos : Nat) (portB : Bool) : Option Nat :=
  ((rosterOf (s.od 0x5010 1)).find? fun r => r.1 == pos).map fun r => if portB then r.2.2 else r.2.1

/-- MIRROR_FRAME_DROP (R398, R399): a frame from or to another address, or with a reserved field that is not zero, is counted; one
with an unexpected LINK_SEQ, and PAUSE and PFC frames, are dropped and not counted. A frame with an unexpected LINK_SEQ shows that
the neighbour still holds frames outstanding, so an acknowledgement is owed again (R400). -/
def execMirrorFrameDrop (portB : Bool) (f : Sys2Proof.MirrorFrame) (s : State) : Host.Outcome State Fault Refusal :=
  let p := s.mirror.port portB
  let own := if portB then Config.macB else Config.macA
  let bad := f.dest != own || s.rosterMac p.peer (!portB) != some f.src.toNat || f.reservedSet
  .next (if !p.up ∨ !s.mirrored ∨ f.pause then s
    else if !bad then s.setMirrorPort portB { p with owed := true }
    else { s with mirror := { s.mirror with framesDropped := (s.mirror.framesDropped + 1) % 2 ^ 48 } })

/-! ### Becoming sequencer (R386, R409, R419) -/

/-- MIRROR_PRIMARY as the engine maintains it, in effect and in the reset shadow. -/
def State.setPrimary (s : State) (v : Nat) : State :=
  let s1 := s.odSet 0x5000 2 v
  let k := odKey 0x5000 2
  { s1 with dict := { s1.dict with resetShadow := (k, v) :: s1.dict.resetShadow.filter fun p => p.1 != k } }

/-- Round-robin state starts at 0 (R283). -/
def State.zeroRings (s : State) : State :=
  { s with host := { s.host with sq := s.host.sq.map fun p => (p.1, { p.2 with cur := 0 }) } }

/-- What both ways of becoming sequencer share: the epoch, MIRROR_PRIMARY, the rings and the event. -/
def State.startEpoch (s : State) (first : Nat) : State :=
  let e := s.mirror.epoch + 1
  let s1 := { s with mirror := { s.mirror with state := 4, epoch := e, epochStart := some first, leaseValid := true, detaching := false, drainAsked := false } }
  ((s1.setPrimary 1).zeroRings).raiseAt 0x0052 1 packageLocation e 0

/-- The list a follower holds for its next frame becomes the list that frame executes. -/
def State.adoptList (s : State) : State :=
  let k := s.frame.frameNo + 1
  match lookup? s.mirror.lists k with
  | some l =>
    let (s1, recs) := s.followRecords (journalOf l.records).list
    { s1 with frame := { s1.frame with next := { header := headerOf l.header, records := recs } } }
  | none => { s with frame := { s.frame with next := { header := s.makeHeader k 0 s.tableEmpty, records := [] } } }

/-- The engine takes over (R409): its next tick is a sequencer's, with the list it holds. -/
def State.takeOver (s : State) : State :=
  let s1 := s.adoptList
  let first := s.frame.frameNo + 1
  let m := s1.mirror
  let s2 := { s1 with
    frame := { s1.frame with timerExpired := true }
    mirror := { m with takeover := first, portA := m.portA.alone, lists := [], ticks := [], datas := [] } }
  s2.startEpoch first

/-- The engine becomes sequencer by formation (R419). -/
def State.formSequencer (s : State) : State := s.startEpoch (s.frame.frameNo + 2)

/-! ### Failed neighbours (R407, R409) -/

/-- The first live engine along the neighbours that engines last reported. -/
def State.liveAlong (s : State) (up : Bool) : Nat → Nat → Option Nat
  | 0, _ => none
  | n + 1, pos =>
    if pos = 0xFFFF ∨ pos = s.position then none
    else match s.heardOf pos with
      | none => none
      | some h => if h.serves then some pos else s.liveAlong up n (if up then h.hb.upPos else h.hb.downPos)

/-- The engine after a failed neighbour in one direction. -/
def State.pastFailed (s : State) (up : Bool) (pos : Nat) : Option Nat :=
  (s.heardOf pos).bind fun h => s.liveAlong up 256 (if up then h.hb.upPos else h.hb.downPos)

/-- An engine that has become tail publishes and commits without acknowledgement (R409). -/
def State.becomeTail (s : State) : State :=
  let s1 := { s with mirror := { s.mirror with join := if s.mirror.donorJoin then none else s.mirror.join, detaching := false
                                               outFrame := max s.mirror.outFrame (s.frame.frameNo - 1) } }
  (s1.advanceCommit (s.frame.frameNo - 1)).publish

/-- The downstream neighbour has failed: port B turns to the next live engine, or the engine becomes tail. -/
def State.downFailed (s : State) : State :=
  let b := s.mirror.portB
  match s.pastFailed false b.peer with
  | some x => (s.setMirrorPort true (b.turn x true true))
  | none => (s.setMirrorPort true b.alone).becomeTail

/-- The upstream neighbour has failed: the engine takes over from a sequencer, and turns port A past any other. With no live engine
left upstream it waits. -/
def State.upFailed (s : State) : State :=
  let a := s.mirror.portA
  if a.lastRole = 1 then s.takeOver
  else match s.pastFailed true a.peer with
    | some x =>
      let s1 := s.setMirrorPort false (a.turn x true false)
      s1.sendMirror false 4 s.frame.frameNo s1.ackPayload
    | none => s

/-- A join ends before the joiner has the donor's state: it returns to the state it was in. -/
def State.endJoin (s : State) : State :=
  match s.mirror.join with
  | some j => if j.donor then s else { s with mirror := { s.mirror with state := j.prior, join := none, drainAsked := false, portA := s.mirror.portA.alone } }
  | none => s

/-- The neighbour on a port is declared failed (R407). `detached` says that it is fenced by DETACH, which makes the engine sequencer. -/
def State.declareFailed (s : State) (portB detached : Bool) : State :=
  let p := s.mirror.port portB
  if p.peer = 0xFFFF ∨ p.failed ∨ s.frozen then s
  else
    let s1 := (s.setMirrorPort portB { p with failed := true }).raise 0x0051 2 p.peer
    if s1.mirror.state = 2 then s1.endJoin
    else if !s1.inChain then s1
    else if portB then s1.downFailed
    else if detached then s1.takeOver else s1.upFailed

/-- PATH_SILENCE_TIMEOUT (R407). -/
def execPathSilenceTimeout (down t1s : Bool) (s : State) : Host.Outcome State Fault Refusal :=
  let p := s.mirror.port down
  .next (if p.peer = 0xFFFF ∨ p.failed ∨ !s.mirrored ∨ !(s.inChain ∨ s.mirror.state = 2) ∨ s.frozen then s
    else
      let q := if t1s then { p with t1sLive := false } else { p with mirLive := false }
      let silent (h : Heard) : Heard := if h.pos = p.peer then { h with live := false } else h
      let s1 := s.setMirrorPort down q
      let s2 := if t1s then { s1 with mirror := { s1.mirror with heard := s1.mirror.heard.map silent } } else s1
      if !q.t1sLive ∧ !q.mirLive then s2.declareFailed down false
      else if q.lostRaised then s2
      else (s2.setMirrorPort down { q with lostRaised := true }).raise 0x0050 1 p.peer)

/-! ### What every heartbeat block says (R402, R407 to R413) -/

/-- A value of EPOCH has been seen: a sequencer below it is deposed; an engine that forms takes none (R408, R410, R419). -/
def State.seeEpoch (s : State) (e : Nat) : State :=
  if s.mirror.state = 6 ∨ e ≤ s.mirror.epoch ∨ s.frozen then s
  else if s.mirror.state = 4 then s.fence 3
  else { s with mirror := { s.mirror with epoch := e } }

/-- A block of a neighbour arrived on a path. -/
def MirrorPort.arrive (p : MirrorPort) (t1s : Bool) (hb : Sys2Proof.Heartbeat) : MirrorPort :=
  let q := if t1s then { p with t1sLive := true } else { p with mirLive := true }
  { q with lostRaised := q.lostRaised && !(q.t1sLive && q.mirLive), health := hb.health, lastRole := if hb.role = 5 then q.lastRole else hb.role }

/-- DRAIN of the downstream neighbour: its rise asks this engine to drain, its fall ends that (R417). -/
def State.takeDrain (s : State) (hb : Sys2Proof.Heartbeat) : State :=
  let b := s.mirror.portB
  let d := hb.flags.getLsbD 6
  if d = b.drain then s
  else { s with mirror := { s.mirror with portB := { b with drain := d }, drainAsked := d } }

/-- A neighbour's heartbeat block on one of the two paths. -/
def State.takeBlock (s : State) (portB t1s : Bool) (hb : Sys2Proof.Heartbeat) : State :=
  let p := s.mirror.port portB
  if p.failed then s
  else
    let s1 := s.setMirrorPort portB (p.arrive t1s hb)
    let s2 := if portB then s1.takeDrain hb else s1
    if hb.flags.getLsbD 5 && hb.toPos == s.position then s2.fence 4
    else if hb.role = 5 then s2.declareFailed portB false
    else s2

/-- COMMITTED_FRAME of the sequencer (R393). -/
def State.takeCommitted (s : State) (hb : Sys2Proof.Heartbeat) : State :=
  if hb.role = 1 ∧ s.mirror.epoch ≤ hb.epoch then { s with mirror := { s.mirror with seqCommitted := max s.mirror.seqCommitted hb.committed } } else s

/-! ### Messages down the chain (R390, R403) -/

/-- The engine takes the messages of the frames it executes from upstream. -/
def State.follows (s : State) : Bool := s.mirror.state == 3 && s.hears false

/-- A LIST or TICK that begins an epoch names its first frame; an engine that has executed that frame already holds what the new
sequencer lacks, and is deposed (R410, R420). -/
def State.takeFeed (s : State) (hdr : Sys2Proof.MirrorHeader) : State :=
  if s.mirror.feedEpoch < hdr.epoch then
    let resumed := s.mirror.resumes && hdr.frameNo == s.frame.frameNo
    if hdr.frameNo ≤ s.frame.frameNo && !resumed then s.fence 3
    else { s with mirror := { s.mirror with feedEpoch := hdr.epoch, epochStart := some hdr.frameNo } }
  else s

/-- A message from upstream is taken: its link numbers, its EPOCH and its place in the chain. `none` when it is dropped. -/
def State.fromUpstream (s : State) (hdr : Sys2Proof.MirrorHeader) (feed : Bool) : Option State :=
  if !s.follows then none
  else
    let s1 := s.receive false hdr.segs (some hdr.linkAck)
    if hdr.epoch < s.mirror.epoch then some s1
    else
      let s2 := s1.seeEpoch hdr.epoch
      some (if feed then s2.takeFeed hdr else s2)

/-- The message is of the epoch in force, and the engine still follows. -/
def State.accepts (s : State) (hdr : Sys2Proof.MirrorHeader) : Bool := s.mirror.state == 3 && decide (s.mirror.epoch ≤ hdr.epoch)

/-! ### Reserved fields (R8, R399) -/

/-- Bytes of a body that are reserved and not zero. -/
def bytesSet (b : List Byte) (i n : Nat) : Bool := (sliceBytes b i n).any fun x => x != 0

/-- Reserved fields of a record of R353, R284 and R373. -/
def recordReserved (r : RawRecord) : Bool :=
  r.type == 0 || decide (6 < r.type) || !fits r.flags 1 || (r.flags == 1 && r.type != 6)
    || (match r.type with
      | 1 => bytesSet r.body 1 1 || bytesSet r.body 4 4 || descReserved (BitVec.ofNat 192 (fieldNat r.body 8 24))
      | 2 => !fits (fieldNat r.body 5 1) 3 || bytesSet r.body 7 1
          || (List.range (fieldNat r.body 3 1)).any fun i => bytesSet r.body (16 + 24 * i + 1) 7
      | 3 => !fits (fieldNat r.body 0 2) 12 || !fits (fieldNat r.body 3 1) 1 || bytesSet r.body 12 4
      | 6 => bytesSet r.body 3 5 || bytesSet r.body 14 2
      | _ => false)

def recordsReserved (bs : List Byte) : Bool := (recordsOf bs).any recordReserved

/-- Reserved fields of a LIST payload: of its frame header (R44) and of its records. -/
def listMessageReserved (l : Sys2Proof.FrameList) : Bool :=
  !fits (fieldNat l.header 20 2) 2 || bytesSet l.header 22 2 || recordsReserved l.records

/-- A message with a reserved field that is not zero: its frames are dropped and counted (R8). -/
def State.dropMessage (s : State) (segs : Nat) : State :=
  { s with mirror := { s.mirror with framesDropped := (s.mirror.framesDropped + segs) % 2 ^ 48 } }

/-- Reset records of a list that has arrived: RESET_STATE of their instances reads 2 (R311). -/
def State.noteResets (s : State) (k : Nat) (recs : List ListRecord) : State :=
  let rs := (recs.filter fun r => r.reset && decide (r.inst < 64)).map fun r => r.inst
  let mark (i : Fin 64) : Instance :=
    let x := s.host.insts[i]
    if rs.contains i.val && decide (x.resetState < 2) then { x with resetState := 2 } else x
  { s with mirror := { s.mirror with listedResets := s.mirror.listedResets ++ rs.map fun i => (k, i) }
           host := { s.host with insts := Vector.ofFn mark } }

/-- LIST (R390, R403): it waits for its tick and goes on down the chain. -/
def execListMessage (hdr : Sys2Proof.MirrorHeader) (list : Sys2Proof.FrameList) (s : State) : Host.Outcome State Fault Refusal :=
  .next (if s.follows && listMessageReserved list then s.dropMessage hdr.segs
    else match s.fromUpstream hdr true with
    | none => s
    | some s1 =>
      if !s1.accepts hdr then s1
      else
        let s2 := { s1 with mirror := { s1.mirror with lists := insertK s1.mirror.lists hdr.frameNo list } }
        let s3 := (s2.noteResets hdr.frameNo (journalOf list.records).list).endResetWaits
        s3.sendDown 1 hdr.frameNo (list.header ++ list.records))

/-- The bytes of a TICK payload (R403). -/
def tickBytes (t : Sys2Proof.TickPayload) : List Byte :=
  heartbeatBytes t.hb ++ leBytes 6 t.digestFrame ++ [0, 0] ++ t.digest ++ leBytes 4 (recordsOf t.records).length ++ List.replicate 4 0 ++ t.records

/-- TICK (R390, R403). It stands for the heartbeat of the upstream neighbour on the mirror path, whichever engine wrote it (R406). -/
def execTickMessage (hdr : Sys2Proof.MirrorHeader) (msg : Sys2Proof.TickPayload) (s : State) : Host.Outcome State Fault Refusal :=
  .next (if s.follows && (msg.hb.flags.getLsbD 7 || recordsReserved msg.records) then s.dropMessage hdr.segs
    else match s.fromUpstream hdr true with
    | none => s
    | some s1 =>
      if !s1.accepts hdr then s1
      else
        let s2 := { s1 with mirror := { s1.mirror with ticks := insertK s1.mirror.ticks hdr.frameNo msg } }
        let s3 := (s2.sendDown 2 hdr.frameNo (tickBytes msg)).takeCommitted msg.hb
        let a := s3.mirror.portA
        if msg.hb.position = a.peer then s3.takeBlock false false msg.hb
        else
          let q := { a with mirLive := true, lostRaised := a.lostRaised && !a.t1sLive }
          let s4 := s3.setMirrorPort false q
          if msg.hb.flags.getLsbD 5 && msg.hb.toPos == s.position then s4.fence 4 else s4)

/-- The bytes of DATA records (R353). -/
def dataBytes (rs : List Sys2Proof.DataRecord) : List Byte :=
  rs.flatMap fun r => cocoonRecord 6 r.pcc (dataBody r.slot r.source r.offset r.data)

/-- DATA (R390): a record of a frame the engine has begun reaches its entry at once, and one of a later frame waits. -/
def execDataMessage (hdr : Sys2Proof.MirrorHeader) (recs : List Sys2Proof.DataRecord) (s : State) : Host.Outcome State Fault Refusal :=
  .next (match s.fromUpstream hdr false with
    | none => s
    | some s1 =>
      if !s1.accepts hdr then s1
      else
        let s2 := s1.sendDown 3 hdr.frameNo (dataBytes recs)
        if hdr.frameNo ≤ s2.frame.frameNo ∧ !s2.mirror.resumes then recs.foldl (fun (s : State) r => s.takeData r) s2
        else { s2 with mirror := { s2.mirror with datas := s2.mirror.datas ++ recs.map fun r => (hdr.frameNo, r) } })

/-! ### ACK (R394 to R396, R404, R408, R412) -/

/-- The digest an ACK reports is compared with this engine's own of the same frame. -/
def State.compareAck (s : State) (msg : Sys2Proof.AckPayload) : State :=
  match lookup? s.mirror.digests msg.digestFrame with
  | none => s
  | some d =>
    if d = msg.digest then s
    else s.diverge msg.digestFrame (match lookup? s.mirror.sentHealth (msg.digestFrame + 1) with
      | some h => decide (h < msg.hb.health)
      | none => false)

/-- Reset requests of downstream (R394): a sequencer takes each as a reset of the instance, a follower passes them on. -/
def State.takeResets (s : State) (req : BitVec 64) : State :=
  let take (i : Fin 64) : Instance :=
    let x := s.host.insts[i]
    if req.getLsbD i.val && x.resetState == 0 then { x with resetState := 1 } else x
  if s.mirror.state = 4 then { s with host := { s.host with insts := Vector.ofFn take } }
  else { s with mirror := { s.mirror with downReset := req } }

/-- The lease is extended by an ACK that reaches a list the last one did not (R408). -/
def State.extendLease (s : State) (recv : Nat) : State :=
  let m := s.mirror
  { s with mirror := { m with leaseValid := m.leaseValid || (m.state == 4 && !m.detaching && decide (m.downRecv < recv)), downRecv := max m.downRecv recv } }

/-- A neighbour that is new after a repair is sent every message of the frames it lacks (R409). -/
def State.catchUp (s : State) (recv : Nat) : State :=
  let b := s.mirror.portB
  if b.fresh then (s.setMirrorPort true { b with fresh := false }).resendFrom (recv + 1) else s

/-- The ACK of the downstream neighbour of a settled chain. -/
def State.settleAck (s : State) (msg : Sys2Proof.AckPayload) : State :=
  let s1 := { s with mirror := { s.mirror with downAck := msg.ack, outFrame := msg.out } }
  (((s1.extendLease msg.recv).takeResets msg.resetReq).catchUp msg.recv).compareAck msg

/-- A joiner that reports ROLE 3 takes over as tail (R418). -/
def State.finishJoin (s : State) : State :=
  if s.mirror.donorJoin then ({ s with mirror := { s.mirror with join := none, drainAsked := false } }).raise 0x0056 0 0 else s

/-- What the ACK says of frames. -/
def State.takeAck (s : State) (msg : Sys2Proof.AckPayload) : State :=
  if s.mirror.donorJoin && msg.hb.role != 3 then (s.takeResets msg.resetReq).compareAck msg
  else
    let s1 := (s.finishJoin).settleAck msg
    if s1.frozen then s1 else ((s1.advanceCommit (s1.frame.frameNo - 1)).publish).trimHistory

/-- ACK (R404). -/
def execAckMessage (hdr : Sys2Proof.MirrorHeader) (msg : Sys2Proof.AckPayload) (s : State) : Host.Outcome State Fault Refusal :=
  .next (if !s.hears true ∨ !s.inChain then s
    else
      let s1 := ((s.receive true hdr.segs (some hdr.linkAck)).seeEpoch hdr.epoch).takeBlock true false msg.hb
      if s1.frozen ∨ s1.mirror.portB.peer ≠ s.mirror.portB.peer then s1 else s1.takeAck msg)

/-! ### The lease and the commands of the manager (R408, R413, R422) -/

/-- LEASE_EXPIRY (R408). -/
def execLeaseExpiry (s : State) : Host.Outcome State Fault Refusal :=
  .next (if s.mirror.state = 4 then { s with mirror := { s.mirror with leaseValid := false } } else s)

/-- MIRROR_CMD DETACH (R413): the downstream neighbour is asked to fence, and the lease stays expired until it reports ROLE 5. -/
def State.mirrorDetach (s : State) : State :=
  if s.mirror.state ≠ 4 ∨ s.mirror.portB.peer = 0xFFFF then s
  else
    let s1 := { s with mirror := { s.mirror with detaching := true, leaseValid := false } }
    (s1.sendHeartbeats true).sendT1s (s1.heartbeat s1.mirror.portB true)

def execMirrorCmdDetach (s : State) : Host.Outcome State Fault Refusal := .next s.mirrorDetach

/-- MIRROR_CMD FENCE (R413). -/
def execMirrorCmdFence (s : State) : Host.Outcome State Fault Refusal := .next (s.fence 5)

end Sys2Proof.Machine
end

