-- ==== Sys2Proof/Machine/Join.lean ====
section
/-! DEFINITION. Heartbeats and FENCE as they arrive (R406, R407), joining (R417, R418) and formation (R419). -/

namespace Sys2Proof.Machine

/-! ### Asking to join (R405, R417) -/

/-- DEVICE_NAME: the ordering code (R4, R456). -/
def deviceName (e384 : Bool) : List Byte := asciiBytes (if e384 then "TQ48-384-E" else "TQ48-192-E")

/-- Pads or cuts bytes to a length. -/
def fitBytes (n : Nat) (l : List Byte) : List Byte := (l ++ List.replicate n 0).take n

/-- The first 16 bytes of the verified firmware digest (R405, R478). -/
def State.firmwareMark (s : State) : List Byte := match s.boot.firmware with
  | some f => sliceBytes f.header 84 16
  | none => List.replicate 16 0

/-- The JOIN_REQ of this engine. -/
def State.joinRequest (s : State) : Sys2Proof.JoinRequest :=
  { name := fitBytes 16 (deviceName s.e384), firmware := s.firmwareMark, persistBase := s.od 0x3400 1, mode := s.od 0x5000 1 }

def joinRequestBytes (r : Sys2Proof.JoinRequest) : List Byte :=
  fitBytes 16 r.name ++ fitBytes 16 r.firmware ++ leBytes 1 r.persistBase ++ leBytes 1 r.mode ++ List.replicate 14 0

/-- The tail that the heartbeats name: the engine of ROLE 3, or of ROLE 1 with no downstream neighbour. -/
def State.joinTail (s : State) : Option Nat :=
  (s.mirror.heard.find? fun h => h.live && (h.hb.role == 3 || (h.hb.role == 1 && h.hb.downPos == 0xFFFF))).map fun h => h.pos

/-- JOIN_REQ goes to the tail once it is known and port A is up; MIRROR_PRIMARY becomes 0 (R386). -/
def State.askJoin (s : State) : State :=
  match s.mirror.join, s.joinTail with
  | some j, some d =>
    if j.donor || j.asked || s.mirror.state != 2 || !s.mirror.portA.up then s
    else
      let s1 := { s with mirror := { s.mirror with portA := s.mirror.portA.turn d true false, join := some { j with asked := true } } }
      (s1.setPrimary 0).sendMirror false 7 0 (joinRequestBytes s1.joinRequest)
  | _, _ => s

def newJoin (donor : Bool) (prior : Nat) : Join :=
  { donor := donor, round := 0, dirty := [], failures := 0, prior := prior, asked := false, resume := false, provisional := false }

/-- Nothing of this engine's own execution is left. -/
def State.dropWork (s : State) : State :=
  { s with
    work := [], held := []
    host := { s.host with changes := [], batches := [] }
    tiles := s.tiles.map fun (x : Tile) => { x with ctxs := [], yielded := true, merge := [], ran := [], beats := 0, records := 0 }
    frame := { s.frame with timerExpired := false, merging := false, mergeDone := true, overran := false, sums := zeroSums, squashing := [] }
    persist := { s.persist with staged := emptyStaged } }

/-- MIRROR_CMD JOIN (R417): a solo, detached or fenced engine begins to join. -/
def State.mirrorJoin (s : State) : State :=
  let m := s.mirror
  if !s.mirrored || !(m.state == 0 || m.state == 1 || m.state == 5) || s.boot.stage != 6 || s.pins.testFenced || decide (2 ≤ s.moth.state) then s
  else
    let s1 := s.dropWork
    ({ s1 with mirror := { s1.mirror with state := 2, join := some (newJoin false m.state), drainAsked := false, portB := m.portB.alone } }).askJoin

def execMirrorCmdJoin (s : State) : Host.Outcome State Fault Refusal := .next s.mirrorJoin

/-! ### The donor (R405, R417) -/

/-- The code that refuses a request, 0 for none (R401). -/
def State.joinCode (s : State) (r : Sys2Proof.JoinRequest) : Nat :=
  let own := s.joinRequest
  if r.name ≠ own.name then 1
  else if r.firmware ≠ own.firmware then 2
  else if r.persistBase ≠ own.persistBase then 3
  else if r.mode ≠ own.mode then 4
  else if s.persist.state < 5 then 5
  else if s.mirror.join.isSome then 6
  else 0

/-- Slots of every valid descriptor. -/
def State.describedSlots (s : State) : List Nat :=
  (s.host.descs.filter fun p => descKind p.2 != 0).flatMap fun p => (List.range (descSlots p.2).2).map fun i => (descSlots p.2).1 + i

/-- A refusal goes out on port B, which keeps its neighbour. -/
def State.refuseJoin (s : State) (code : Nat) : State :=
  let msg : MirrorMsg := { portB := true, type := 0x0A, epoch := s.mirror.epoch, frameNo := 0, payload := leBytes 2 code }
  { s with mirror := { s.mirror with msgsTx := (s.mirror.msgsTx + 1) % 2 ^ 48, sent := s.mirror.sent ++ [msg] } }

/-- The tail becomes donor of a joiner, answers it and copies every slot of every valid descriptor. -/
def State.acceptJoin (s : State) (pos : Nat) : State :=
  let b := { s.mirror.portB.turn pos true false with rxSeq := 1 }
  let s1 := { s with mirror := { s.mirror with portB := b, join := some (newJoin true s.mirror.state) } }
  (s1.sendMirror true 0x0A 0 [0, 0]).sendCopies s1.describedSlots

/-- JOIN_REQ (R417): only the tail, or the donor of a join in progress, answers. -/
def execJoinReq (pos : Nat) (req : Sys2Proof.JoinRequest) (s : State) : Host.Outcome State Fault Refusal :=
  let inRoster := (rosterOf (s.od 0x5010 1)).any fun r => r.1 == pos
  .next (if !s.mirrored ∨ !s.mirror.portB.up ∨ !s.inChain ∨ s.frozen ∨ !inRoster ∨ pos = s.position
      ∨ !(s.mirror.portB.peer = 0xFFFF ∨ s.mirror.donorJoin) then s
    else
      let s1 := { s with mirror := { s.mirror with msgsRx := (s.mirror.msgsRx + 1) % 2 ^ 48 } }
      if s.joinCode req = 0 then s1.acceptJoin pos else s1.refuseJoin (s.joinCode req))

/-! ### The joiner (R417) -/

/-- The engine has asked, and hears its donor. -/
def State.joining (s : State) : Bool :=
  s.mirror.state == 2 && s.hears false && (match s.mirror.join with
    | some j => !j.donor && j.asked
    | none => false)

/-- JOIN_REPLY (R401, R417). -/
def execJoinReply (code : Nat) (s : State) : Host.Outcome State Fault Refusal :=
  .next (if !s.joining then s
    else
      let s1 := s.receive false 1 none
      if code = 0 then s1 else (s1.endJoin).raise 0x0055 1 code)

/-- COPY (R405, R417): the slot is written when its CRC agrees; otherwise the donor sends it again. -/
def execCopyMessage (slot : Nat) (data : List Byte) (crc : BitVec 64) (s : State) : Host.Outcome State Fault Refusal :=
  .next (if !s.joining ∨ openSlots s.e384 ≤ slot then s
    else
      let s1 := s.receive false 117 none
      if data.length = slotBytes ∧ crc64 data = crc.toNat then s1.writeSlot slot data else s1)

/-- The joiner has the state of tick J: it is a provisional tail, and goes on from step 5 of tick J (R417, R418). -/
def State.beginFollowing (s : State) (frame : Nat) (st : Sys2Proof.JoinStatePayload) : State :=
  let m := s.mirror
  let j := { newJoin false m.state with asked := true, resume := true, provisional := true }
  { s with
    frame := { s.frame with frameNo := frame, timeBase := st.tstamp, timeFraction := 0, digest := st.digest }
    mem := { s.mem with allResident := true, flipped := [], lost := [], dirty := [], heat := [] }
    persist := { s.persist with
      set := none, state := 8, formatWaiting := true, chrysalis := none, waiting := [], open_ := [], committed := frame - 1, byChrys := []
      lateRaised := [], restoreStatus := 0, due := false, dueSince := 0, chrysBytes := 0, demand := [], map := [] }
    mirror := { m with
      state := 3, join := some j, feedEpoch := m.epoch, epochStart := none, lists := [], ticks := [], datas := [], history := []
      digests := [(frame - 1, st.digest)], sentHealth := [], downAck := 0, downRecv := 0, seqCommitted := 0, drainAsked := false
      resetReq := 0, downReset := 0 } }

/-- JOIN_STATE (R405, R417). -/
def execJoinState (frame : Nat) (st : Sys2Proof.JoinStatePayload) (s : State) : Host.Outcome State Fault Refusal :=
  .next (if !s.joining then s
    else
      let n := 54 + st.descs.length + st.tables.length + st.entries.length
      let s1 := (s.receive false (max 1 (ceilDiv n 8992)) none).dropWork
      let s2 := s1.install (descRecords (st.descs.length / 32) st.descs) (tableRecords (countTables st.tables.length st.tables) st.tables)
        (entryRecords (st.entries.length / 48) st.entries)
      s2.beginFollowing frame st)

/-- JOIN_DRAIN_TIMEOUT (R417): the sequencer lists again and the join returns to step 3; a joiner fences at its third failure. -/
def execJoinDrainTimeout (s : State) : Host.Outcome State Fault Refusal :=
  .next (if !s.mirror.drainAsked ∨ s.frozen then s
    else
      let s1 := { s with mirror := { s.mirror with drainAsked := false } }
      match s.mirror.join with
      | some j =>
        if j.donor then { s1 with mirror := { s1.mirror with join := some { j with round := 0 } } }
        else
          let s2 := { s1 with mirror := { s1.mirror with join := some { j with failures := j.failures + 1 } } }
          if j.failures + 1 = 3 then s2.fence 8 else s2
      | none => s1)

/-! ### Formation (R419) -/

/-- The four values by which forming engines are ranked. -/
def formRank (hb : Sys2Proof.Heartbeat) : List Nat :=
  [hb.epoch, hb.frameNo, if hb.flags.getLsbD 0 then 1 else 0, 65535 - hb.position]

/-- The greater value wins at the first that differs. -/
def ranksAbove : List Nat → List Nat → Bool
  | a :: l, b :: r => decide (b < a) || (a == b && ranksAbove l r)
  | _, _ => false

/-- The heartbeat of a forming engine. -/
def State.formHeartbeat (s : State) : Sys2Proof.Heartbeat :=
  { s.heartbeat s.mirror.portB false with frameNo := s.mirror.formFrame }

/-- Positions of the other engines of the roster. -/
def State.others (s : State) : List Nat := ((rosterOf (s.od 0x5010 1)).map fun r => r.1).filter fun p => p != s.position

/-- The engine ranks first among the forming engines it hears. -/
def State.ranksFirst (s : State) : Bool :=
  s.mirror.heard.all fun h => h.hb.role != 6 || ranksAbove (formRank s.formHeartbeat) (formRank h.hb)

/-- The first two cases of the table of R419. -/
def State.formCheck (s : State) : State :=
  if s.mirror.state ≠ 6 then s
  else if s.mirror.heard.any fun h => h.hb.role == 1 then { s with mirror := { s.mirror with state := 1 } }
  else if (s.others.all fun p => s.mirror.heard.any fun h => h.pos == p && h.hb.role == 6) && s.ranksFirst then s.formSequencer
  else s

/-- FORMING_HEARTBEAT_TIMER (R419). -/
def execFormingHeartbeatTimer (s : State) : Host.Outcome State Fault Refusal :=
  .next (if s.mirror.state ≠ 6 then s else (s.sendT1s s.formHeartbeat).formCheck)

/-- FORM_WAIT_EXPIRY (R419). -/
def execFormWaitExpiry (s : State) : Host.Outcome State Fault Refusal :=
  .next (if s.mirror.state = 6 ∧ s.od 0x5000 2 = 1 ∧ s.ranksFirst then (s.formSequencer).raise 0x0057 1 0 else s)

/-- MIRROR_CMD FORM (R419, R422). -/
def State.mirrorForm (s : State) : State := if s.mirror.state = 6 then (s.formSequencer).raise 0x0057 1 0 else s

def execMirrorCmdForm (s : State) : Host.Outcome State Fault Refusal := .next s.mirrorForm

/-! ### Heartbeats and FENCE (R406, R407, R409, R413) -/

/-- What an engine last reported on 10BASE-T1S. -/
def State.keepHeard (s : State) (hb : Sys2Proof.Heartbeat) : State :=
  { s with mirror := { s.mirror with heard := (s.mirror.heard.filter fun h => h.pos != hb.position) ++ [{ pos := hb.position, hb := hb, live := true }] } }

/-- A heartbeat on 10BASE-T1S. -/
def State.hearT1s (s : State) (hb : Sys2Proof.Heartbeat) : State :=
  if !s.pins.auxClk || !s.others.contains hb.position then s
  else
    let s1 := s.keepHeard hb
    if s1.frozen then s1
    else
      let s2 := (if s1.mirror.state = 4 ∧ hb.role = 6 then s1 else s1.seeEpoch hb.epoch).takeCommitted hb
      if s2.frozen then s2
      else
        let s3 := match s2.portOf hb.position with
          | some portB => s2.takeBlock portB true hb
          | none => s2
        s3.formCheck.askJoin

/-- A HEARTBEAT message on the mirror path; of a neighbour declared failed only ROLE and EPOCH are read. -/
def State.hearMirror (s : State) (hb : Sys2Proof.Heartbeat) : State :=
  match s.portOf hb.position with
  | none => s
  | some portB =>
    let p := s.mirror.port portB
    if s.frozen ∨ !p.up then s
    else if p.failed then s.seeEpoch hb.epoch
    else
      let s1 := ((s.receive portB 1 none).seeEpoch hb.epoch).takeCommitted hb
      if s1.frozen then s1 else s1.takeBlock portB false hb

/-- HEARTBEAT_MESSAGE (R406). -/
def execHeartbeatMessage (t1s : Bool) (hb : Sys2Proof.Heartbeat) (s : State) : Host.Outcome State Fault Refusal :=
  .next (if !s.mirrored ∨ s.boot.stage ≠ 6 then s else if t1s then s.hearT1s hb else s.hearMirror hb)

/-- FENCE_MESSAGE (R407, R409, R413). -/
def execFenceMessage (hb : Sys2Proof.Heartbeat) (reason : Nat) (s : State) : Host.Outcome State Fault Refusal :=
  .next (match s.portOf hb.position with
    | none => s
    | some portB =>
      if !s.hears portB then s
      else
        let gone (h : Heard) : Heard := if h.pos = hb.position then { h with hb := { h.hb with role := 5 } } else h
        let s1 := (s.receive portB 1 none).seeEpoch hb.epoch
        let s2 := { s1 with mirror := { s1.mirror with heard := s1.mirror.heard.map gone } }
        s2.declareFailed portB (!portB && reason == 4))

/-- OVERRUN_HEARTBEAT_TIMER (R406): between ticks, on both ports or on 10BASE-T1S. A fenced engine sends on 10BASE-T1S (R413). A joiner,
which has no ticks, sends on both; when it begins to ask for the drain the spec does not say, so that is a free value (DESIGN CHOICE, assumption 66). -/
def execOverrunHeartbeatTimer (t1s : Bool) (s : State) : Host.Outcome State Fault Refusal :=
  let joiner := s.mirror.state == 2
  let due := (s.inChain && !s.frozen) || joiner || (t1s && s.mirror.state == 5)
  .next (if !s.mirrored ∨ !due ∨ (s.mirror.state = 4 ∧ !s.frame.overran) then s
    else
      let (v, s1) := s.fresh
      let s2 := if joiner && s.joining && v % 2 == 1 then { s1 with mirror := { s1.mirror with drainAsked := true } } else s
      if t1s then s2.sendT1s (s2.heartbeat s2.mirror.portB s2.mirror.detaching) else s2.sendHeartbeats s2.mirror.detaching)

end Sys2Proof.Machine
end

