-- ==== Sys2Proof/Machine/Values.lean ====
section
/-! DEFINITION. Reading and writing dictionary objects (R445 to R456): every read-only value, and the writes that are commands. -/

namespace Sys2Proof.Machine

/-! ### Records and headers that objects hold -/

/-- An event record (R464). -/
def Event.bytes (e : Event) : List Byte :=
  leBytes 4 e.seq ++ leBytes 2 e.code ++ leBytes 1 e.severity ++ [0] ++ leBytes 6 e.frame ++ leBytes 6 e.time.toNat ++ leBytes 2 e.location
    ++ leBytes 6 e.detail ++ leBytes 2 e.arg ++ [0, 0]

/-- EVENT_LOG: record n at byte 32 × (n mod 256). -/
def eventLogBytes (l : List Event) : List Byte :=
  (List.range 256).flatMap fun i => match l.find? fun e => e.seq % 256 == i with
    | some e => e.bytes
    | none => List.replicate 32 0

/-- TABLE_STATUS of a table (R223). -/
def tableStatus (t : KmaTable) (held : Nat) : List Byte :=
  let flag (b : Bool) (i : Nat) : Nat := if b then 2 ^ i else 0
  leBytes 1 (1 + flag t.ordered 1 + flag t.unique 2 + flag t.dict 3 + flag (decide (t.tag < 0x4000)) 4)
    ++ leBytes 1 t.bankset ++ leBytes 1 t.span.length ++ leBytes 1 t.perBank ++ leBytes 4 t.limit ++ leBytes 4 held
    ++ leBytes 8 ((t.spilled.map fun p => 2 ^ p).sum)
    ++ ((List.range 24).map fun i => BitVec.ofNat 8 (t.span.getD i 0xFF))
    ++ leBytes 4 t.rebalances ++ leBytes 4 t.dictId ++ List.replicate 12 0

/-- The hole map of an ordered table (R209). -/
def State.holeMap (s : State) (t : KmaTable) : List Byte :=
  let n := 64 * t.extents.length
  let held := (s.tableEntries t.inst t.tag).map fun p => p.1
  (List.range (n / 8)).map fun b => BitVec.ofNat 8 (((List.range 8).map fun i => if held.contains (t.position (8 * b + i)) then 2 ^ i else 0).sum)

/-- The table that TABLE_SELECT names. -/
def State.selectedTable (s : State) : Option KmaTable :=
  let v := s.od 0x3410 1
  s.table? (bitsOf v 5 0) (bitsOf v 20 6)

/-- CHANNEL_STATUS (R246). -/
def State.channelStatus (s : State) (c : Fin 48) : Nat :=
  let x := s.dram.channels[c]
  if !channelPresent s.e384 c.val then 0
  else min 255 x.ueLines.length * 2 ^ 24 + x.debt * 2 ^ 10 + x.limband * 2 ^ 8 + x.rate * 2 ^ 6 + x.low * 2 ^ 4
    + (if x.payback then 8 else 0) + x.state

/-- The header of a profile copy (R469). -/
def profileHeader (p : Nat) (c : ProfileCopy) : List Byte :=
  let len (r : Nat × Nat) : Nat := match objRow (r.1 / 256) (r.1 % 256) with
    | some o => 8 * ceilDiv (6 + (bytesOfValue o.ty r.2).length) 8
    | none => 0
  asciiBytes "TQ48PROF" ++ leBytes 2 1 ++ leBytes 1 p ++ [0] ++ leBytes 4 c.records.length ++ leBytes 4 (c.records.map len).sum
    ++ leBytes 6 c.generation ++ List.replicate 6 0

/-- Slots not yet resident (R378). -/
def State.slotsAbsent (s : State) : Nat :=
  if s.persist.state < 2 then 0 else if s.mem.allResident then s.mem.flipped.length else slotCount s.e384 - s.mem.flipped.length

/-- LINK_STATE (R422). -/
def State.linkState (s : State) : Nat :=
  let b (x : Bool) (i : Nat) : Nat := if x then 2 ^ i else 0
  let m := s.mirror
  b m.portA.up 0 + b m.portB.up 1 + b m.portA.mirLive 2 + b m.portA.t1sLive 3 + b m.portB.mirLive 4 + b m.portB.t1sLive 5

/-! ### Numbers that const and ro objects read -/

def State.identityNat (s : State) (index sub : Nat) : Nat :=
  match index, sub with
  | 0x1000, 0 => 0x4E590001
  | 0x1010, 1 => s.host.linkSpeed
  | 0x1010, 2 => s.host.linkWidth
  | 0x1018, 1 => if s.e384 then 0x00480384 else 0x00480192
  | 0x1018, 2 => Config.serial.toNat
  | 0x1018, 3 => Config.built.toNat
  | 0x1020, 7 => Config.t1sMac.toNat
  | 0x1022, 1 => s.bdp.requests
  | 0x1022, 2 => s.bdp.errors
  | 0x1022, 3 => s.bdp.dropped
  | 0x1022, 4 => s.events.unsent
  | 0x1240, 2 => ((List.range 64).map fun i => if h : i < 64 then (if s.host.insts[i].mailbox.outFull then 2 ^ i else 0) else 0).sum
  | _, _ => 0

def State.frameNat (s : State) (index sub : Nat) : Nat :=
  match index, sub with
  | 0x2000, 4 => if s.frame.header.quota = 0 then quotaOf s.e384 (s.od 0x2000 1) (s.od 0x2000 2) (s.od 0x2000 3) else s.frame.header.quota
  | 0x2000, 5 => if s.e384 then 100 else 50
  | 0x2002, 1 => s.frame.frameNo
  | 0x2002, 2 => s.frame.header.tstamp.toNat
  | 0x2003, 1 => s.frame.overrunCount
  | 0x2003, 2 => s.frame.overrunMax
  | 0x2005, 1 => s.dict.refusals
  | 0x2005, 2 => s.dict.refuseCode
  | 0x2005, 3 => s.dict.refuseFrame
  | 0x2005, 4 => s.dict.refuseMask
  | 0x2011, 1 => s.host.doorbellsIgnored
  | 0x2011, 2 => s.host.ringErrors
  | 0x2011, 3 => s.host.listed
  | 0x2011, 4 => s.host.refused
  | 0x2011, 5 => s.host.irqHeldCount
  | _, _ => 0

def State.memoryNat (s : State) (index sub : Nat) : Nat :=
  match index, sub with
  | 0x3001, 1 => slotCount s.e384
  | 0x3004, 1 => s.dram.corrected
  | 0x3004, 2 => s.dram.uncorrectable
  | 0x3004, 3 => s.dram.scrubPasses
  | 0x3004, 4 => s.dram.scrubLastS
  | 0x3004, 5 => s.dram.partialWrites
  | 0x3004, 6 => s.dram.rawHolds
  | 0x3004, 7 => s.dram.paybacks
  | 0x3004, 8 => s.dram.lastUeAddr
  | 0x3100, 2 => s.cache.state
  | 0x3105, 1 => s.cache.hits
  | 0x3105, 2 => s.cache.recalls
  | 0x3105, 3 => s.cache.misses
  | 0x3105, 4 => s.cache.fills
  | 0x3105, 5 => s.cache.noWay
  | 0x3105, 6 => s.cache.invalidated
  | 0x3105, 7 => s.cache.sramCorrected
  | 0x3105, 8 => s.cache.sramInvalidated
  | 0x3400, 2 => s.kma.verifyDiscards
  | 0x3400, 3 => s.kma.scanRewrites
  | 0x3400, 4 => s.kma.rebalances
  | 0x3400, 5 => s.kma.eccCorrected
  | 0x3400, 6 => s.kma.spills
  | _, _ => 0

def State.persistNat (s : State) (index sub : Nat) : Nat :=
  match index, sub with
  | 0x4003, 1 => s.persist.state
  | 0x4003, 2 => s.persist.committed
  | 0x4003, 3 => (s.persist.set.map fun p => p.chrysFrame).getD 0
  | 0x4003, 4 => (s.persist.set.map fun p => p.chrysNo).getD 0
  | 0x4003, 5 => (s.persist.set.map fun p => 100 * s.ringUse / p.jringBlocks).getD 0
  | 0x4003, 6 => s.slotsAbsent
  | 0x4003, 7 => s.persist.replayFrames
  | 0x4003, 8 => s.persist.restoreStatus
  | 0x4003, 9 => s.mem.lost.length
  | 0x4800, 1 => 13 - (s.digest.handles.filter fun p => p.2.holds).length
  | 0x4800, 2 => s.digest.busyWaits
  | 0x4800, 3 => s.digest.queue.length
  | 0x4800, 4 => s.digest.messages
  | 0x4800, 5 => s.digest.compares
  | _, _ => 0

def State.mirrorNat (s : State) (index sub : Nat) : Nat :=
  match index, sub with
  | 0x5000, 4 => s.mirror.state
  | 0x5000, 5 => s.linkState
  | 0x5000, 6 => s.mirror.epoch
  | 0x5000, 8 => s.mirror.takeover
  | 0x5002, 1 => s.mirror.msgsTx
  | 0x5002, 2 => s.mirror.msgsRx
  | 0x5002, 3 => s.mirror.retransmits
  | 0x5002, 4 => s.mirror.divergences
  | 0x5002, 5 => s.mirror.framesDropped
  | 0x5002, 6 => if s.mirror.state = 4 then min 65535 (s.frame.frameNo + 1 - s.ackFrame) else 0
  | 0x5003, 1 => Config.macA.toNat
  | 0x5003, 2 => Config.macB.toNat
  | 0x7000, 1 => s.health.score
  | 0x7000, 2 => s.health.faults.toNat
  | 0x7000, 3 => s.health.selftestPasses
  | 0x7000, 4 => s.health.postponed
  | 0x7010, 1 => s.events.seq
  | _, _ => 0

/-- A temperature in 1/16 °C as a 48-bit two's complement value. -/
def temp48 (code : Nat) : Nat := (code + 2 ^ 48 - 1024) % 2 ^ 48

def State.mothNat (s : State) (index sub : Nat) : Nat :=
  match index, sub with
  | 0x6000, 1 => s.moth.state
  | 0x6000, 2 => s.moth.wakeSource
  | 0x6000, 3 => s.moth.dozeCount
  | 0x6000, 4 => s.moth.dozeRefusal
  | 0x6005, 1 => temp48 s.hottestDie
  | 0x6005, 2 => s.moth.band
  | 0x6005, 3 => temp48 s.hottestStack
  | 0x6007, 1 => s.mover.errPulses
  | 0x6008, 1 => s.moth.powerIn
  | 0x6101, 1 => ((List.range 64).map fun r => if s.moth.asserted r then 2 ^ r else 0).sum
  | 0x8000, 2 => s.profiles.active
  | 0x8000, 3 => s.profiles.state
  | 0x8000, 4 => s.profiles.result
  | 0x8000, 5 => s.boot.profsel
  | _, _ => 0

/-- Objects of a run of indices, one for each instance, and those of a run of subindices. -/
def State.arrayNat (s : State) (index sub : Nat) : Nat :=
  if h : 0x2140 ≤ index ∧ index < 0x2180 then
    let x := s.host.insts[index - 0x2140]
    if sub = 1 then x.resetState else if sub = 2 then x.resets else x.squashed
  else if h : 0x7100 ≤ index ∧ index < 0x7140 then
    let x := s.host.insts[index - 0x7100]
    if sub = 1 then x.overloadFrames else x.overloadAge
  else if h : index = 0x3002 ∧ 1 ≤ sub ∧ sub ≤ 48 then s.channelStatus ⟨sub - 1, by omega⟩
  else if h : index = 0x3003 ∧ 1 ≤ sub ∧ sub ≤ 12 then
    if channelPresent s.e384 (4 * (sub - 1)) then s.dram.stackBand[sub - 1] else 0xFF
  else if index = 0x3401 then (s.freeExtents false (sub - 1)).length + 65536 * (s.freeExtents true (sub - 1)).length
  else if index = 0x4802 then s.contextsHeld (sub - 1)
  else if index = 0x6003 then s.channelValue (sub - 1)
  else if h : 0x1200 < index ∧ index < 0x1240 then
    let m := s.host.insts[index - 0x1200].mailbox
    if sub = 2 then m.outMsg.toNat else (if m.outFull then 1 else 0) + if m.inFull then 2 else 0
  else 0

/-- The value of a const or ro object whose length is fixed and short. -/
def State.roNat (s : State) (index sub : Nat) : Nat :=
  s.identityNat index sub + s.frameNat index sub + s.memoryNat index sub + s.persistNat index sub + s.mirrorNat index sub
    + s.mothNat index sub + s.arrayNat index sub

/-- The bytes of a const or ro object. -/
def State.roBytes (s : State) (r : ObjRow) (index sub : Nat) : List Byte :=
  if index = 0x1008 then deviceName s.e384
  else if index = 0x1009 then asciiBytes "B1"
  else if index = 0x100A then match s.boot.firmware with
    | some f => ((sliceBytes f.header 20 64).reverse.dropWhile fun b => b == 0).reverse
    | none => []
  else if index = 0x100B then match s.boot.firmware with
    | some f => sliceBytes f.header 84 48
    | none => []
  else if index = 0x3410 ∧ sub = 2 then match s.selectedTable with
    | some t => tableStatus t (s.tableEntries t.inst t.tag).length
    | none => []
  else if index = 0x3410 ∧ sub = 3 then match s.selectedTable with
    | some t => if t.ordered then s.holeMap t else []
    | none => []
  else if index = 0x4801 then (List.range 256).map fun i => BitVec.ofNat 8 (s.keyAt i).length
  else if index = 0x7010 ∧ sub = 2 then eventLogBytes s.events.log
  else if 0x8001 ≤ index ∧ index ≤ 0x8004 then match s.profileCopy? (index - 0x8001) with
    | some (_, c) => profileHeader (index - 0x8001) c
    | none => List.replicate 32 0
  else leBytes r.ty.bytes (s.roNat index sub)

/-! ### Reads (R446 to R448) -/

/-- The value of a writable object: in effect, or pending for a shadow read. -/
def State.rwValue (s : State) (r : ObjRow) (index sub : Nat) (shadow : Bool) : Nat :=
  if index = 0x2004 then s.timeNow.toNat
  else if !shadow then s.od index sub
  else match r.latch with
    | .frame => s.odNext index sub
    | .reset => (lookup? s.dict.resetShadow (odKey index sub)).getD (s.od index sub)
    | .immediate => s.od index sub

/-- A read of TIME_BASE draws a free value. -/
def State.afterRead (s : State) (index : Nat) : State := if index = 0x2004 then s.fresh.2 else s

/-- A read of an object: its type code and bytes, or an error. -/
def State.readObject (s : State) (index sub : Nat) (shadow bdp : Bool) : Except Nat (Nat × List Byte) :=
  match objRow index sub with
  | some r =>
    if r.acc = .wo then .error OdError.writeOnly
    else if r.window && bdp then .error OdError.notPermitted
    else if r.acc = .rw then .ok (r.ty.code, bytesOfValue r.ty (s.rwValue r index sub shadow))
    else .ok (r.ty.code, s.roBytes r index sub)
  | none => if sub = 0 ∧ maxSub index ≠ 0 then .ok (ObjType.u8.code, leBytes 1 (maxSub index)) else .error OdError.noObject

/-! ### Profile commands (R470, R471) -/

/-- The copy of a profile that a save writes, and its generation: the one that is not in use. -/
def State.saveTarget (s : State) (p : Nat) : Nat × Nat :=
  match s.profileCopy? p with
  | some (i, c) => (2 * p + (1 - i), c.generation + 1)
  | none => (2 * p, 1)

/-- LOAD waits for its quiescent tick; without a valid copy it ends at once. -/
def State.profileLoad (s : State) (p : Nat) : State :=
  match s.profileCopy? p with
  | some _ => { s with profiles := { s.profiles with state := 1, target := p, result := 0 } }
  | none => { s with profiles := { s.profiles with target := p, result := 0x0010 } }

/-- SAVE takes the values in effect, and those of the reset shadow; DEFAULTS takes every default. -/
def State.profileWrite (s : State) (p : Nat) (defaults : Bool) : State :=
  let value (x : Nat × Nat × ObjRow) : Nat :=
    if defaults then odDefault s.e384 x.1 x.2.1
    else if x.2.2.latch = .reset then (lookup? s.dict.resetShadow (odKey x.1 x.2.1)).getD (s.od x.1 x.2.1)
    else s.od x.1 x.2.1
  let recs := sortBy (fun (a b : Nat × Nat) => decide (a.1 < b.1)) (profileObjects.map fun x => (odKey x.1 x.2.1, value x))
  let (copy, gen) := s.saveTarget p
  { s with profiles := { s.profiles with state := 2, target := p, result := 0, writing := some (copy, { generation := gen, records := recs }) } }

/-- A profile command can be accepted. -/
def State.profileFree (s : State) (p : Nat) : Bool := s.profiles.state == 0 && decide (p < 4)

/-- PROFILE_LOAD (R471). -/
def execProfileLoad (p : Nat) (s : State) : Host.Outcome State Fault Refusal := .next (if s.profileFree p then s.profileLoad p else s)

/-- PROFILE_SAVE (R471). -/
def execProfileSave (p : Nat) (s : State) : Host.Outcome State Fault Refusal := .next (if s.profileFree p then s.profileWrite p false else s)

/-- PROFILE_DEFAULTS (R471). -/
def execProfileDefaults (p : Nat) (s : State) : Host.Outcome State Fault Refusal := .next (if s.profileFree p then s.profileWrite p true else s)

/-- PROFILE_FLASH_WRITE_DONE (R469, R471): the copy written is valid, or, when the write failed, is not. -/
def execProfileFlashWriteDone (ok : Bool) (s : State) : Host.Outcome State Fault Refusal :=
  .next (match s.profiles.writing with
    | none => s
    | some (i, c) =>
      let others := s.profiles.copies.filter fun x => x.1 != i
      { s with profiles := { s.profiles with
          state := 0, writing := none, result := if ok then 0 else 0x0011, copies := if ok then insertK others i c else others } })

/-! ### Writes (R447, R449) -/

/-- A write of an object of which the write is the command, after the checks on its value. -/
def State.writeCommand (s : State) (index sub v : Nat) : Except Nat State :=
  if index = 0x4002 then
    match v with
    | 1 => .ok { s with persist := { s.persist with formatWaiting := true } }
    | 2 => .ok (s.markDue s.frame.frameNo)
    | 3 => .ok s.keyLoaded
    | _ => .error OdError.valueRange
  else if index = 0x5000 then
    match v with
    | 1 => .ok s.mirrorJoin
    | 2 => .ok s.mirrorDetach
    | 3 => .ok (s.fence 5)
    | 4 => if s.mirror.state = 6 then .ok s.mirrorForm else .error OdError.valueRange
    | _ => .error OdError.valueRange
  else if index = 0x6001 then
    match v with
    | 1 => .ok s.mothDoze
    | 2 => .ok (s.wake 2)
    | 3 => .ok s.mothRestart
    | _ => .error OdError.valueRange
  else if index = 0x8000 then
    let p := v % 256
    if 4 ≤ p ∨ !(v / 256 == 1 || v / 256 == 2 || v / 256 == 3) then .error OdError.valueRange
    else if s.profiles.state ≠ 0 then .error OdError.busy
    else .ok (if v / 256 = 1 then s.profileLoad p else s.profileWrite p (v / 256 == 3))
  else if h : 0x1200 < index ∧ index < 0x1240 then
    let i : Fin 64 := ⟨index - 0x1200, by omega⟩
    if sub = 4 then .ok (s.fromAck i (v == 1))
    else if s.host.insts[i].mailbox.inFull then .error OdError.mailboxFull
    else .ok (s.toTenant i (BitVec.ofNat 512 v))
  else .ok s

/-- A write over BDP that BDP_WRITE 0 lets through: MOTH_CMD WAKE and RESTART (R456). -/
def wakesOrRestarts (index sub : Nat) (bs : List Byte) : Bool := index == 0x6001 && sub == 1 && (bs == [2] || bs == [3])

/-- A write of an object (R449), by its latch class (R47). -/
def State.writeObject (s : State) (index sub : Nat) (bs : List Byte) (bdp : Bool) : Except Nat State :=
  match objRow index sub with
  | none => .error (if sub = 0 ∧ maxSub index ≠ 0 then OdError.readOnly else OdError.noObject)
  | some r =>
    if r.acc = .ro ∨ r.acc = .const then .error OdError.readOnly
    else if bdp && (r.window || (s.od 0x1021 2 == 0 && !wakesOrRestarts index sub bs)) then .error OdError.notPermitted
    else if valueError r index sub bs ≠ OdError.ok then .error (valueError r index sub bs)
    else
      let v := valueOf r.ty bs
      if r.acc = .wo then s.writeCommand index sub v
      else match r.latch with
        | .immediate => .ok (s.applyImmediate index sub v)
        | .frame => if s.profiles.state = 1 then .error OdError.profilePending else .ok (s.shadowSet index sub v)
        | .reset => .ok (s.resetSet index sub v)

end Sys2Proof.Machine
end

