-- ==== Sys2Proof/Machine/Bdp.lean ====
section
/-! DEFINITION. BDP (R457 to R465): requests, segmented transfers and event frames. -/

namespace Sys2Proof.Machine

/-- Firmware runs and the dictionary is filled (R476). -/
def State.dictLive (s : State) : Bool := s.boot.firmware.isSome && decide (3 ≤ s.boot.stage)

/-- The 10BASE-T1S port answers: Moth does in every state but 0 (R465), and the firmware in that one; without AUX_CLK the port is silent
(R498). -/
def State.bdpLive (s : State) : Bool := s.pins.auxClk && (s.moth.state != 0 || s.dictLive)

/-- The frame is one that R458 drops: a group address, a wrong VERSION or BODY_LEN, or a TYPE that is reserved or only the engine's. -/
def bdpBad (f : Sys2Proof.BdpFrame) : Bool :=
  f.version != 1 || decide (f.body.length < f.bodyLen) || !(f.type == 1 || f.type == 3 || f.type == 5)

/-- A request for this engine. -/
def bdpMine (f : Sys2Proof.BdpFrame) (type : Nat) : Bool := f.dest == Config.t1sMac && !bdpBad f && !f.queueFull && f.type == type

/-- The first octet of an address says that it names a group. -/
def groupAddress (a : BitVec 48) : Bool := a.getLsbD 0

/-- BDP_FRAME_DROP (R457, R458): a request to a group, a malformed one, or one that finds the receive queue full. -/
def execBdpFrameDrop (f : Sys2Proof.BdpFrame) (s : State) : Host.Outcome State Fault Refusal :=
  .next (if !s.bdpLive ∨ !(groupAddress f.dest || (f.dest == Config.t1sMac && (bdpBad f || f.queueFull))) then s
    else { s with bdp := { s.bdp with dropped := (s.bdp.dropped + 1) % 2 ^ 48 } })

/-! ### Frames (R6, R457) -/

/-- The 16 bytes of a BDP header. -/
def BdpReply.header (r : BdpReply) : List Byte :=
  [1] ++ leBytes 1 r.type ++ leBytes 1 ((if r.more then 1 else 0) + if r.shadow then 2 else 0) ++ [0] ++ leBytes 2 r.transId
    ++ leBytes 2 r.body.length ++ leBytes 2 r.index ++ leBytes 1 r.sub ++ leBytes 1 r.dataType ++ leBytes 2 r.error ++ [0, 0]

/-- A BDP frame as it leaves. -/
def BdpReply.frame (r : BdpReply) : List Byte := etherFrame r.dest.toNat Config.t1sMac.toNat 0x88B5 (r.header ++ r.body)

/-- A heartbeat on 10BASE-T1S: an unsolicited frame to every node (R406, R459). -/
def heartbeatFrame (h : Sys2Proof.Heartbeat) : List Byte :=
  BdpReply.frame { dest := BitVec.allOnes 48, type := 0x11, more := false, shadow := false, transId := 0, index := 0, sub := 0, dataType := 0,
                   error := 0, body := heartbeatBytes h }

/-! ### Responses -/

/-- A transfer is known by requester, TRANS_ID, INDEX and SUBINDEX (R462). -/
def bdpKey (f : Sys2Proof.BdpFrame) : BitVec 48 × Nat × Nat × Nat := (f.src, f.transId, f.index, f.subindex)

def BdpTransfer.key (t : BdpTransfer) : BitVec 48 × Nat × Nat × Nat := (t.src, t.transId, t.index, t.sub)

def State.transfer? (s : State) (f : Sys2Proof.BdpFrame) (write : Bool) : Option BdpTransfer :=
  s.bdp.transfers.find? fun t => t.key == bdpKey f && t.write == write

def State.dropTransfer (s : State) (f : Sys2Proof.BdpFrame) : State :=
  { s with bdp := { s.bdp with transfers := s.bdp.transfers.filter fun t => t.key != bdpKey f } }

def State.setTransfer (s : State) (t : BdpTransfer) : State :=
  { s with bdp := { s.bdp with transfers := (s.bdp.transfers.filter fun x => x.key != t.key) ++ [t] } }

/-- The type code a response carries: the object's. -/
def typeCodeOf (index sub : Nat) : Nat := match objRow index sub with
  | some r => r.ty.code
  | none => if sub = 0 ∧ maxSub index ≠ 0 then ObjType.u8.code else 0

/-- A request has been executed: its response leaves, and is kept for its requester (R462). -/
def State.respond (s : State) (f : Sys2Proof.BdpFrame) (type : Nat) (more : Bool) (error : Nat) (body : List Byte) : State :=
  let r : BdpReply :=
    { dest := f.src, type := type, more := more, shadow := false, transId := f.transId, index := f.index, sub := f.subindex,
      dataType := typeCodeOf f.index f.subindex, error := error, body := if error = 0 then body else [] }
  { s with bdp := { s.bdp with
      sent := s.bdp.sent ++ [r], requests := (s.bdp.requests + 1) % 2 ^ 48
      errors := if error = 0 then s.bdp.errors else (s.bdp.errors + 1) % 2 ^ 48
      kept := ((f.src, f, [r]) :: s.bdp.kept.filter fun k => k.1 != f.src).take 16 } }

/-- The kept response that answers a request: the same frame again, or the TRANS_ID again in a request that is not of a segmented
transfer (R462). -/
def State.keptFor (s : State) (f : Sys2Proof.BdpFrame) : Option (List BdpReply) :=
  (s.bdp.kept.find? fun k => k.1 == f.src && k.2.1.transId == f.transId
    && (k.2.1 == f || !((s.bdp.transfers.any fun t => t.key == bdpKey f) || s.bdp.abandoned.any fun a => a.1 == bdpKey f))).map fun k => k.2.2

/-- Moth answers BDP itself for its own objects, and every other request with an error (R465). -/
def State.mothError (s : State) (index : Nat) : Nat :=
  if s.moth.state = 0 ∨ (0x6000 ≤ index ∧ index < 0x7000) then OdError.ok
  else if s.moth.state < 4 then OdError.dozing else OdError.powerDown

/-- Reserved fields of a request, and a DATA_TYPE that is not the object's (R458). -/
def requestReserved (f : Sys2Proof.BdpFrame) : Bool :=
  let flags := if f.type = 1 then f.flags &&& 0xFC else f.flags &&& 0xFE
  flags != 0 || f.reserved != 0 || f.reserved2 != 0 || f.error != 0
    || (f.dataType != 0 && typeCodeOf f.index f.subindex != 0 && f.dataType != typeCodeOf f.index f.subindex)

/-- The error that ends a request before its own effect: Moth's, a reserved field, or that its transfer was abandoned. -/
def State.requestError (s : State) (f : Sys2Proof.BdpFrame) : Nat × State :=
  if s.mothError f.index ≠ 0 then (s.mothError f.index, s)
  else if requestReserved f then (OdError.reservedField, s)
  else match s.bdp.abandoned.find? fun a => a.1 == bdpKey f with
    | some a => (a.2, { s with bdp := { s.bdp with abandoned := s.bdp.abandoned.filter fun x => x.1 != bdpKey f } })
    | none => (OdError.ok, s)

/-! ### Reads (R460) -/

/-- A READ_RSP body. -/
def readBody (total offset : Nat) (bs : List Byte) : List Byte := leBytes 4 total ++ leBytes 4 offset ++ bs

/-- The next segment of a snapshot. -/
def State.nextSegment (s : State) (f : Sys2Proof.BdpFrame) (t : BdpTransfer) : State :=
  let seg := (t.bytes.drop t.next).take 1024
  let n := t.next + seg.length
  let s1 := if n < t.total then s.setTransfer { t with next := n } else s.dropTransfer f
  s1.respond f 2 (decide (n < t.total)) 0 (readBody t.total t.next seg)

/-- A read that begins: at once, or with a snapshot. -/
def State.firstRead (s : State) (f : Sys2Proof.BdpFrame) : State :=
  match s.readObject f.index f.subindex (f.flags.getLsbD 1) true with
  | .error e => s.respond f 2 false e []
  | .ok (_, bs) =>
    if bs.length ≤ 1024 then ((s.afterRead f.index).dropTransfer f).respond f 2 false 0 (readBody bs.length 0 bs)
    else if 4 ≤ (s.dropTransfer f).bdp.transfers.length then s.respond f 2 false OdError.busy []
    else
      (s.dropTransfer f).nextSegment f
        { src := f.src, transId := f.transId, index := f.index, sub := f.subindex, write := false, total := bs.length, bytes := bs, next := 0 }

/-- A READ_REQ is executed. -/
def State.serveRead (s : State) (f : Sys2Proof.BdpFrame) : State :=
  let (e, s1) := s.requestError f
  let offset := fieldNat (f.body.take f.bodyLen) 0 4
  if e ≠ 0 then s1.respond f 2 false e []
  else if offset = 0 then s1.firstRead f
  else match s1.transfer? f false with
    | none => s1.respond f 2 false OdError.segSequence []
    | some t => if t.next = offset then s1.nextSegment f t else s1.respond f 2 false OdError.segSequence []

/-! ### Writes (R461) -/

/-- The whole value has arrived: it is accepted as one write, or refused. -/
def State.finishWrite (s : State) (f : Sys2Proof.BdpFrame) (total : Nat) (bs : List Byte) : State :=
  if bs.length ≠ total then s.respond f 4 false OdError.typeLength []
  else match s.writeObject f.index f.subindex bs true with
    | .error e => s.respond f 4 false e []
    | .ok t => t.respond f 4 false 0 (leBytes 4 total)

/-- A segment joins the bytes collected. -/
def State.collect (s : State) (f : Sys2Proof.BdpFrame) (t : BdpTransfer) (bs : List Byte) : State :=
  let n := t.next + bs.length
  if f.flags.getLsbD 0 then (s.setTransfer { t with bytes := t.bytes ++ bs, next := n }).respond f 4 false 0 (leBytes 4 n)
  else (s.dropTransfer f).finishWrite f t.total (t.bytes ++ bs)

/-- A WRITE_REQ is executed. -/
def State.serveWrite (s : State) (f : Sys2Proof.BdpFrame) : State :=
  let (e, s1) := s.requestError f
  let body := f.body.take f.bodyLen
  let total := fieldNat body 0 4
  let offset := fieldNat body 4 4
  let bs := body.drop 8
  if e ≠ 0 then s1.respond f 4 false e []
  else match s1.transfer? f true with
    | some t => if t.next = offset ∧ t.total = total then s1.collect f t bs else (s1.dropTransfer f).respond f 4 false OdError.segSequence []
    | none =>
      if offset ≠ 0 then s1.respond f 4 false OdError.segSequence []
      else if f.flags.getLsbD 0 ∧ 4 ≤ s1.bdp.transfers.length then s1.respond f 4 false OdError.busy []
      else
        s1.collect f
          { src := f.src, transId := f.transId, index := f.index, sub := f.subindex, write := true, total := total, bytes := [], next := 0 } bs

/-! ### The commands -/

/-- A request arrives: the kept response answers one that is repeated. -/
def State.serveBdp (s : State) (f : Sys2Proof.BdpFrame) (serve : State → State) : State :=
  match s.keptFor f with
  | some rs => { s with bdp := { s.bdp with sent := s.bdp.sent ++ rs } }
  | none => serve s

/-- BDP_READ_REQ (R460). -/
def execBdpReadReq (f : Sys2Proof.BdpFrame) (s : State) : Host.Outcome State Fault Refusal :=
  .next (if s.bdpLive && bdpMine f 1 then s.serveBdp f fun t => t.serveRead f else s)

/-- BDP_WRITE_REQ (R461). -/
def execBdpWriteReq (f : Sys2Proof.BdpFrame) (s : State) : Host.Outcome State Fault Refusal :=
  .next (if s.bdpLive && bdpMine f 3 then s.serveBdp f fun t => t.serveWrite f else s)

/-- A transfer is abandoned, and its next request will fail with an error. -/
def State.abandon? (s : State) (k : BitVec 48 × Nat × Nat × Nat) (error : Nat) : State :=
  if s.bdp.transfers.any fun t => t.key == k then
    { s with bdp := { s.bdp with transfers := s.bdp.transfers.filter fun t => t.key != k
                                 abandoned := (s.bdp.abandoned.filter fun a => a.1 != k) ++ [(k, error)] } }
  else s

/-- BDP_ABORT (R462): answered with an empty ABORT; with a reserved field set it does nothing else (R8, R458). -/
def execBdpAbort (f : Sys2Proof.BdpFrame) (s : State) : Host.Outcome State Fault Refusal :=
  .next (if !s.bdpLive || !bdpMine f 5 then s
    else if requestReserved f then s.respond f 5 false OdError.reservedField []
    else (s.abandon? (bdpKey f) OdError.segAborted).respond f 5 false 0 [])

/-- SEGMENT_TRANSFER_TIMEOUT (R462) of the n-th open transfer. -/
def execSegmentTransferTimeout (n : Nat) (s : State) : Host.Outcome State Fault Refusal :=
  .next (match s.bdp.transfers[n]? with
    | some t => s.abandon? t.key OdError.segTimeout
    | none => s)

/-- EVENT_FRAME_SEND (R464): the oldest record queued leaves in an EVENT frame to EVENT_DEST. -/
def execEventFrameSend (s : State) : Host.Outcome State Fault Refusal :=
  .next (match s.events.queue with
    | [] => s
    | e :: rest =>
      if !s.pins.auxClk then s
      else
        let r : BdpReply :=
          { dest := BitVec.ofNat 48 (s.od 0x1021 1), type := 0x10, more := false, shadow := false, transId := 0, index := 0, sub := 0,
            dataType := 0, error := 0, body := e.bytes }
        { s with events := { s.events with queue := rest }, bdp := { s.bdp with sent := s.bdp.sent ++ [r] } })

end Sys2Proof.Machine
end

