-- ==== Sys2Proof/Machine/DataClass.lean ====
section
/-! DEFINITION. The data-class, mask and system-register instructions (R177). -/

namespace Sys2Proof.Machine

/-- Compare to mask (R144): bits of disabled lanes of Km are unchanged. -/
def compareToMask (c : Ctx) (kn km : Fin 4) (cond : BitVec 4) (g : Fin 4 → LaneOut) : Ctx :=
  (dataLanes c kn none g).setK km
    (packMask fun n => if c.enabled kn n then condHolds cond (flagNibble (laneFlags c.fl n) (g n)) else (c.getK km).getLsbD n.val)

/-- Dd := Da (R177). -/
def execMovd (t : Fin 64) (f : BitVec 40) (s : State) : Host.Outcome State Fault Refusal :=
  .next (simple t 0x20 f (zeros f 29 25 && zeros f 22 0) (fun c => dataLanes c (fK f 23) (some (fD f 35)) fun n => laneLogic (c.getD (fD f 30))[n]) s)

/-- Dd := imm in every enabled lane (R177). -/
def execMovdi (t : Fin 64) (f : BitVec 40) (s : State) : Host.Outcome State Fault Refusal :=
  .next (simple t 0x21 f (zeros f 34 30 && zeros f 27 22) (fun c => dataLanes c (fK f 28) (some (fD f 35)) fun _ => laneLogic (fImm f 0 22)) s)

/-- Broadcasts Aa into every enabled lane of Dd; no flags (R177). -/
def execBcst (t : Fin 64) (f : BitVec 40) (s : State) : Host.Outcome State Fault Refusal :=
  .next (simple t 0x22 f (zeros f 30 22 && zeros f 19 0) (fun c => c.setD (fD f 35) (quad fun n => if c.enabled (fK f 20) n then c.getA (fA f 31) else (c.getD (fD f 35))[n])) s)

/-- Ad := one lane of Da (R177). -/
def execMovad (t : Fin 64) (f : BitVec 40) (s : State) : Host.Outcome State Fault Refusal :=
  .next (simple t 0x23 f (zeros f 39 31 && zeros f 21 20 && zeros f 17 0) (fun c => c.setA (fA f 27) ((c.getD (fD f 22))[fK f 18])) s)

/-- Lane n of Dd := lane imm[2n+1:2n] of Da (R177). -/
def execPerm (t : Fin 64) (f : BitVec 40) (s : State) : Host.Outcome State Fault Refusal :=
  .next (simple t 0x24 f (zeros f 27 8) (fun c => dataLanes c (fK f 28) (some (fD f 35)) fun n => laneLogic ((c.getD (fD f 30))[fK f (2 * n.val)])) s)

/-- Ad := FL, XS or LX, zero-extended (R177). -/
def execGets (t : Fin 64) (f : BitVec 40) (s : State) : Host.Outcome State Fault Refusal :=
  .next (simple t 0x25 f (zeros f 35 32 && decide (fNat f 30 2 < 3) && zeros f 29 0) (fun c => c.setA (fA f 36) (match fNat f 30 2 with
    | 0 => c.fl.setWidth 48
    | 1 => c.xs.setWidth 48
    | _ => c.lx.setWidth 48)) s)

/-- Writes FL, or ORs into XS or LX; not masked (R177). -/
def execPuts (t : Fin 64) (f : BitVec 40) (s : State) : Host.Outcome State Fault Refusal :=
  .next (simple t 0x26 f (zeros f 39 36 && decide (fNat f 30 2 < 3) && zeros f 29 0) (fun c => match fNat f 30 2 with
    | 0 => { c with fl := (c.getA (fA f 32)).setWidth 16 }
    | 1 => { c with xs := c.xs ||| (c.getA (fA f 32)).setWidth 4 }
    | _ => { c with lx := c.lx ||| (c.getA (fA f 32)).setWidth 8 }) s)

/-- Clears the bits of XS or LX where the immediate is 1 (R177). -/
def execClrs (t : Fin 64) (f : BitVec 40) (s : State) : Host.Outcome State Fault Refusal :=
  .next (simple t 0x27 f (zeros f 39 32 && zeros f 21 0 && (fNat f 30 2 == 2 || (fNat f 30 2 == 1 && zeros f 29 26))) (fun c => match fNat f 30 2 with
    | 1 => { c with xs := c.xs &&& ~~~(f.extractLsb' 22 4) }
    | _ => { c with lx := c.lx &&& ~~~(f.extractLsb' 22 8) }) s)

/-- Lane-wise Da + Db (R177). -/
def execAdd (t : Fin 64) (f : BitVec 40) (s : State) : Host.Outcome State Fault Refusal :=
  .next (simple t 0x28 f (zeros f 22 0) (fun c => dataLanes c (fK f 23) (some (fD f 35)) fun n => laneAdd (c.getD (fD f 30))[n] (c.getD (fD f 25))[n] false) s)

/-- Lane-wise Da + imm (R177). -/
def execAddi (t : Fin 64) (f : BitVec 40) (s : State) : Host.Outcome State Fault Refusal :=
  .next (simple t 0x29 f (zeros f 27 22) (fun c => dataLanes c (fK f 28) (some (fD f 35)) fun n => laneAdd (c.getD (fD f 30))[n] (fImm f 0 22) false) s)

/-- Lane-wise Da + Db + C (R177). -/
def execAdc (t : Fin 64) (f : BitVec 40) (s : State) : Host.Outcome State Fault Refusal :=
  .next (simple t 0x2A f (zeros f 22 0) (fun c => dataLanes c (fK f 23) (some (fD f 35)) fun n => laneAdd (c.getD (fD f 30))[n] (c.getD (fD f 25))[n] (c.carry n)) s)

/-- Lane-wise Da - Db (R177). -/
def execSub (t : Fin 64) (f : BitVec 40) (s : State) : Host.Outcome State Fault Refusal :=
  .next (simple t 0x2B f (zeros f 22 0) (fun c => dataLanes c (fK f 23) (some (fD f 35)) fun n => laneSub (c.getD (fD f 30))[n] (c.getD (fD f 25))[n]) s)

/-- Lane-wise Da - imm (R177). -/
def execSubi (t : Fin 64) (f : BitVec 40) (s : State) : Host.Outcome State Fault Refusal :=
  .next (simple t 0x2C f (zeros f 27 22) (fun c => dataLanes c (fK f 28) (some (fD f 35)) fun n => laneSub (c.getD (fD f 30))[n] (fImm f 0 22)) s)

/-- Lane-wise 0 - Da (R177). -/
def execNeg (t : Fin 64) (f : BitVec 40) (s : State) : Host.Outcome State Fault Refusal :=
  .next (simple t 0x2D f (zeros f 29 25 && zeros f 22 0) (fun c => dataLanes c (fK f 23) (some (fD f 35)) fun n => laneSub 0 (c.getD (fD f 30))[n]) s)

/-- Flags of Da - Db only (R177). -/
def execCmp (t : Fin 64) (f : BitVec 40) (s : State) : Host.Outcome State Fault Refusal :=
  .next (simple t 0x2E f (zeros f 39 35 && zeros f 22 0) (fun c => dataLanes c (fK f 23) (none) fun n => laneSub (c.getD (fD f 30))[n] (c.getD (fD f 25))[n]) s)

/-- Flags of Da - imm only (R177). -/
def execCmpi (t : Fin 64) (f : BitVec 40) (s : State) : Host.Outcome State Fault Refusal :=
  .next (simple t 0x2F f (zeros f 39 35 && zeros f 27 22) (fun c => dataLanes c (fK f 28) (none) fun n => laneSub (c.getD (fD f 30))[n] (fImm f 0 22)) s)

/-- Low 48 bits of the signed product (R177). -/
def execMul (t : Fin 64) (f : BitVec 40) (s : State) : Host.Outcome State Fault Refusal :=
  .next (simple t 0x30 f (zeros f 22 0) (fun c => dataLanes c (fK f 23) (some (fD f 35)) fun n => laneMul (c.getD (fD f 30))[n] (c.getD (fD f 25))[n]) s)

/-- Low 48 bits of the unsigned product (R177). -/
def execMulu (t : Fin 64) (f : BitVec 40) (s : State) : Host.Outcome State Fault Refusal :=
  .next (simple t 0x31 f (zeros f 22 0) (fun c => dataLanes c (fK f 23) (some (fD f 35)) fun n => laneMulu (c.getD (fD f 30))[n] (c.getD (fD f 25))[n]) s)

/-- High 48 bits of the signed product (R177). -/
def execMulh (t : Fin 64) (f : BitVec 40) (s : State) : Host.Outcome State Fault Refusal :=
  .next (simple t 0x32 f (zeros f 22 0) (fun c => dataLanes c (fK f 23) (some (fD f 35)) fun n => laneMulh (c.getD (fD f 30))[n] (c.getD (fD f 25))[n]) s)

/-- High 48 bits of the unsigned product (R177). -/
def execMulhu (t : Fin 64) (f : BitVec 40) (s : State) : Host.Outcome State Fault Refusal :=
  .next (simple t 0x33 f (zeros f 22 0) (fun c => dataLanes c (fK f 23) (some (fD f 35)) fun n => laneMulhu (c.getD (fD f 30))[n] (c.getD (fD f 25))[n]) s)

/-- Signed quotient rounded toward zero (R177). -/
def execDiv (t : Fin 64) (f : BitVec 40) (s : State) : Host.Outcome State Fault Refusal :=
  .next (simple t 0x34 f (zeros f 22 0) (fun c => dataLanes c (fK f 23) (some (fD f 35)) fun n => laneDiv (c.getD (fD f 30))[n] (c.getD (fD f 25))[n]) s)

/-- Unsigned quotient (R177). -/
def execDivu (t : Fin 64) (f : BitVec 40) (s : State) : Host.Outcome State Fault Refusal :=
  .next (simple t 0x35 f (zeros f 22 0) (fun c => dataLanes c (fK f 23) (some (fD f 35)) fun n => laneDivu (c.getD (fD f 30))[n] (c.getD (fD f 25))[n]) s)

/-- Signed remainder with the sign of Da (R177). -/
def execRem (t : Fin 64) (f : BitVec 40) (s : State) : Host.Outcome State Fault Refusal :=
  .next (simple t 0x36 f (zeros f 22 0) (fun c => dataLanes c (fK f 23) (some (fD f 35)) fun n => laneRem (c.getD (fD f 30))[n] (c.getD (fD f 25))[n]) s)

/-- Unsigned remainder (R177). -/
def execRemu (t : Fin 64) (f : BitVec 40) (s : State) : Host.Outcome State Fault Refusal :=
  .next (simple t 0x37 f (zeros f 22 0) (fun c => dataLanes c (fK f 23) (some (fD f 35)) fun n => laneRemu (c.getD (fD f 30))[n] (c.getD (fD f 25))[n]) s)

/-- Lane-wise and (R177). -/
def execAnd (t : Fin 64) (f : BitVec 40) (s : State) : Host.Outcome State Fault Refusal :=
  .next (simple t 0x38 f (zeros f 22 0) (fun c => dataLanes c (fK f 23) (some (fD f 35)) fun n => laneLogic ((c.getD (fD f 30))[n] &&& (c.getD (fD f 25))[n])) s)

/-- Lane-wise or (R177). -/
def execOr (t : Fin 64) (f : BitVec 40) (s : State) : Host.Outcome State Fault Refusal :=
  .next (simple t 0x39 f (zeros f 22 0) (fun c => dataLanes c (fK f 23) (some (fD f 35)) fun n => laneLogic ((c.getD (fD f 30))[n] ||| (c.getD (fD f 25))[n])) s)

/-- Lane-wise exclusive or (R177). -/
def execXor (t : Fin 64) (f : BitVec 40) (s : State) : Host.Outcome State Fault Refusal :=
  .next (simple t 0x3A f (zeros f 22 0) (fun c => dataLanes c (fK f 23) (some (fD f 35)) fun n => laneLogic ((c.getD (fD f 30))[n] ^^^ (c.getD (fD f 25))[n])) s)

/-- Lane-wise Da & ~Db (R177). -/
def execAndn (t : Fin 64) (f : BitVec 40) (s : State) : Host.Outcome State Fault Refusal :=
  .next (simple t 0x3B f (zeros f 22 0) (fun c => dataLanes c (fK f 23) (some (fD f 35)) fun n => laneLogic ((c.getD (fD f 30))[n] &&& ~~~(c.getD (fD f 25))[n])) s)

/-- Lane-wise ~Da (R177). -/
def execNot (t : Fin 64) (f : BitVec 40) (s : State) : Host.Outcome State Fault Refusal :=
  .next (simple t 0x3C f (zeros f 29 25 && zeros f 22 0) (fun c => dataLanes c (fK f 23) (some (fD f 35)) fun n => laneLogic (~~~(c.getD (fD f 30))[n])) s)

/-- Lane-wise and with imm (R177). -/
def execAndi (t : Fin 64) (f : BitVec 40) (s : State) : Host.Outcome State Fault Refusal :=
  .next (simple t 0x3D f (zeros f 27 22) (fun c => dataLanes c (fK f 28) (some (fD f 35)) fun n => laneLogic ((c.getD (fD f 30))[n] &&& (fImm f 0 22))) s)

/-- Lane-wise or with imm (R177). -/
def execOri (t : Fin 64) (f : BitVec 40) (s : State) : Host.Outcome State Fault Refusal :=
  .next (simple t 0x3E f (zeros f 27 22) (fun c => dataLanes c (fK f 28) (some (fD f 35)) fun n => laneLogic ((c.getD (fD f 30))[n] ||| (fImm f 0 22))) s)

/-- Lane-wise exclusive or with imm (R177). -/
def execXori (t : Fin 64) (f : BitVec 40) (s : State) : Host.Outcome State Fault Refusal :=
  .next (simple t 0x3F f (zeros f 27 22) (fun c => dataLanes c (fK f 28) (some (fD f 35)) fun n => laneLogic ((c.getD (fD f 30))[n] ^^^ (fImm f 0 22))) s)

/-- Lane-wise shift or rotate by the same lane of Db (R148) (R177). -/
def execShl (t : Fin 64) (f : BitVec 40) (s : State) : Host.Outcome State Fault Refusal :=
  .next (simple t 0x40 f (zeros f 22 0) (fun c => dataLanes c (fK f 23) (some (fD f 35)) fun n => laneLogic (shl (c.getD (fD f 30))[n] (countOf (c.getD (fD f 25))[n]))) s)

/-- Lane-wise shift or rotate by an immediate (R148) (R177). -/
def execShli (t : Fin 64) (f : BitVec 40) (s : State) : Host.Outcome State Fault Refusal :=
  .next (simple t 0x45 f (zeros f 27 8) (fun c => dataLanes c (fK f 28) (some (fD f 35)) fun n => laneLogic (shl (c.getD (fD f 30))[n] (fNat f 0 8))) s)

/-- Lane-wise shift or rotate by the same lane of Db (R148) (R177). -/
def execShr (t : Fin 64) (f : BitVec 40) (s : State) : Host.Outcome State Fault Refusal :=
  .next (simple t 0x41 f (zeros f 22 0) (fun c => dataLanes c (fK f 23) (some (fD f 35)) fun n => laneLogic (shr (c.getD (fD f 30))[n] (countOf (c.getD (fD f 25))[n]))) s)

/-- Lane-wise shift or rotate by an immediate (R148) (R177). -/
def execShri (t : Fin 64) (f : BitVec 40) (s : State) : Host.Outcome State Fault Refusal :=
  .next (simple t 0x46 f (zeros f 27 8) (fun c => dataLanes c (fK f 28) (some (fD f 35)) fun n => laneLogic (shr (c.getD (fD f 30))[n] (fNat f 0 8))) s)

/-- Lane-wise shift or rotate by the same lane of Db (R148) (R177). -/
def execSar (t : Fin 64) (f : BitVec 40) (s : State) : Host.Outcome State Fault Refusal :=
  .next (simple t 0x42 f (zeros f 22 0) (fun c => dataLanes c (fK f 23) (some (fD f 35)) fun n => laneLogic (sar (c.getD (fD f 30))[n] (countOf (c.getD (fD f 25))[n]))) s)

/-- Lane-wise shift or rotate by an immediate (R148) (R177). -/
def execSari (t : Fin 64) (f : BitVec 40) (s : State) : Host.Outcome State Fault Refusal :=
  .next (simple t 0x47 f (zeros f 27 8) (fun c => dataLanes c (fK f 28) (some (fD f 35)) fun n => laneLogic (sar (c.getD (fD f 30))[n] (fNat f 0 8))) s)

/-- Lane-wise shift or rotate by the same lane of Db (R148) (R177). -/
def execRol (t : Fin 64) (f : BitVec 40) (s : State) : Host.Outcome State Fault Refusal :=
  .next (simple t 0x43 f (zeros f 22 0) (fun c => dataLanes c (fK f 23) (some (fD f 35)) fun n => laneLogic (rol (c.getD (fD f 30))[n] (countOf (c.getD (fD f 25))[n]))) s)

/-- Lane-wise shift or rotate by an immediate (R148) (R177). -/
def execRoli (t : Fin 64) (f : BitVec 40) (s : State) : Host.Outcome State Fault Refusal :=
  .next (simple t 0x48 f (zeros f 27 8) (fun c => dataLanes c (fK f 28) (some (fD f 35)) fun n => laneLogic (rol (c.getD (fD f 30))[n] (fNat f 0 8))) s)

/-- Lane-wise shift or rotate by the same lane of Db (R148) (R177). -/
def execRor (t : Fin 64) (f : BitVec 40) (s : State) : Host.Outcome State Fault Refusal :=
  .next (simple t 0x44 f (zeros f 22 0) (fun c => dataLanes c (fK f 23) (some (fD f 35)) fun n => laneLogic (ror (c.getD (fD f 30))[n] (countOf (c.getD (fD f 25))[n]))) s)

/-- Lane-wise shift or rotate by an immediate (R148) (R177). -/
def execRori (t : Fin 64) (f : BitVec 40) (s : State) : Host.Outcome State Fault Refusal :=
  .next (simple t 0x49 f (zeros f 27 8) (fun c => dataLanes c (fK f 28) (some (fD f 35)) fun n => laneLogic (ror (c.getD (fD f 30))[n] (fNat f 0 8))) s)

/-- Lane-wise minimum or maximum (R177). -/
def execMin (t : Fin 64) (f : BitVec 40) (s : State) : Host.Outcome State Fault Refusal :=
  .next (simple t 0x4A f (zeros f 22 0) (fun c => dataLanes c (fK f 23) (some (fD f 35)) fun n => laneLogic (sMin (c.getD (fD f 30))[n] (c.getD (fD f 25))[n])) s)

/-- Lane-wise minimum or maximum (R177). -/
def execMax (t : Fin 64) (f : BitVec 40) (s : State) : Host.Outcome State Fault Refusal :=
  .next (simple t 0x4B f (zeros f 22 0) (fun c => dataLanes c (fK f 23) (some (fD f 35)) fun n => laneLogic (sMax (c.getD (fD f 30))[n] (c.getD (fD f 25))[n])) s)

/-- Lane-wise minimum or maximum (R177). -/
def execMinu (t : Fin 64) (f : BitVec 40) (s : State) : Host.Outcome State Fault Refusal :=
  .next (simple t 0x4C f (zeros f 22 0) (fun c => dataLanes c (fK f 23) (some (fD f 35)) fun n => laneLogic (uMin (c.getD (fD f 30))[n] (c.getD (fD f 25))[n])) s)

/-- Lane-wise minimum or maximum (R177). -/
def execMaxu (t : Fin 64) (f : BitVec 40) (s : State) : Host.Outcome State Fault Refusal :=
  .next (simple t 0x4D f (zeros f 22 0) (fun c => dataLanes c (fK f 23) (some (fD f 35)) fun n => laneLogic (uMax (c.getD (fD f 30))[n] (c.getD (fD f 25))[n])) s)

/-- Selects Da or Db per lane by mask Km, which may be K0 (R177). -/
def execSel (t : Fin 64) (f : BitVec 40) (s : State) : Host.Outcome State Fault Refusal :=
  .next (simple t 0x4E f (zeros f 20 0) (fun c => dataLanes c (fK f 23) (some (fD f 35)) fun n => laneLogic (if c.enabled (fK f 21) n then (c.getD (fD f 30))[n] else (c.getD (fD f 25))[n])) s)

/-- Leading zero bits of Da (R177). -/
def execClz (t : Fin 64) (f : BitVec 40) (s : State) : Host.Outcome State Fault Refusal :=
  .next (simple t 0x4F f (zeros f 29 25 && zeros f 22 0) (fun c => dataLanes c (fK f 23) (some (fD f 35)) fun n => laneLogic (BitVec.ofNat 48 (clz (c.getD (fD f 30))[n]))) s)

/-- One bits of Da (R177). -/
def execPopc (t : Fin 64) (f : BitVec 40) (s : State) : Host.Outcome State Fault Refusal :=
  .next (simple t 0x50 f (zeros f 29 25 && zeros f 22 0) (fun c => dataLanes c (fK f 23) (some (fD f 35)) fun n => laneLogic (BitVec.ofNat 48 (popc (c.getD (fD f 30))[n]))) s)

/-- Writes the condition of each enabled lane into Km and sets FL as compare does (R144). -/
def execCmpk (t : Fin 64) (f : BitVec 40) (s : State) : Host.Outcome State Fault Refusal :=
  .next (simple t 0x52 f (zeros f 39 35 && !zeros f 22 21 && decide (fNat f 17 4 < 14) && zeros f 16 0) (fun c => compareToMask c (fK f 23) (fK f 21) (f.extractLsb' 17 4) fun n => laneSub (c.getD (fD f 30))[n] (c.getD (fD f 25))[n]) s)

/-- Writes the condition of each enabled lane into Km and sets FL as compare does (R144). -/
def execCmpki (t : Fin 64) (f : BitVec 40) (s : State) : Host.Outcome State Fault Refusal :=
  .next (simple t 0x53 f (zeros f 39 35 && !zeros f 27 26 && decide (fNat f 22 4 < 14)) (fun c => compareToMask c (fK f 28) (fK f 26) (f.extractLsb' 22 4) fun n => laneSub (c.getD (fD f 30))[n] (fImm f 0 22)) s)

/-- Mask logic within 4 bits (R177). -/
def execKand (t : Fin 64) (f : BitVec 40) (s : State) : Host.Outcome State Fault Refusal :=
  .next (simple t 0x54 f (!zeros f 39 38 && zeros f 33 0) (fun c => c.setK (fK f 38) (c.getK (fK f 36) &&& c.getK (fK f 34))) s)

/-- Mask logic within 4 bits (R177). -/
def execKor (t : Fin 64) (f : BitVec 40) (s : State) : Host.Outcome State Fault Refusal :=
  .next (simple t 0x55 f (!zeros f 39 38 && zeros f 33 0) (fun c => c.setK (fK f 38) (c.getK (fK f 36) ||| c.getK (fK f 34))) s)

/-- Mask logic within 4 bits (R177). -/
def execKandn (t : Fin 64) (f : BitVec 40) (s : State) : Host.Outcome State Fault Refusal :=
  .next (simple t 0x56 f (!zeros f 39 38 && zeros f 33 0) (fun c => c.setK (fK f 38) (c.getK (fK f 36) &&& ~~~c.getK (fK f 34))) s)

/-- Mask logic within 4 bits (R177). -/
def execKxor (t : Fin 64) (f : BitVec 40) (s : State) : Host.Outcome State Fault Refusal :=
  .next (simple t 0x57 f (!zeros f 39 38 && zeros f 33 0) (fun c => c.setK (fK f 38) (c.getK (fK f 36) ^^^ c.getK (fK f 34))) s)

/-- Km := ~Ka within 4 bits (R177). -/
def execKnot (t : Fin 64) (f : BitVec 40) (s : State) : Host.Outcome State Fault Refusal :=
  .next (simple t 0x58 f (!zeros f 39 38 && zeros f 35 0) (fun c => c.setK (fK f 38) (~~~c.getK (fK f 36))) s)

/-- Km := imm[3:0] (R177). -/
def execKmov (t : Fin 64) (f : BitVec 40) (s : State) : Host.Outcome State Fault Refusal :=
  .next (simple t 0x59 f (!zeros f 39 38 && zeros f 37 26 && zeros f 21 0) (fun c => c.setK (fK f 38) (f.extractLsb' 22 4)) s)

/-- Km := Aa[3:0] (R177). -/
def execKset (t : Fin 64) (f : BitVec 40) (s : State) : Host.Outcome State Fault Refusal :=
  .next (simple t 0x5A f (!zeros f 39 38 && zeros f 37 34 && zeros f 29 0) (fun c => c.setK (fK f 38) ((c.getA (fA f 30)).setWidth 4)) s)

/-- Ad := Ka, zero-extended (R177). -/
def execKget (t : Fin 64) (f : BitVec 40) (s : State) : Host.Outcome State Fault Refusal :=
  .next (simple t 0x5B f (zeros f 39 38 && zeros f 35 30 && zeros f 25 0) (fun c => c.setA (fA f 26) ((c.getK (fK f 36)).setWidth 48)) s)

/-- Flag branch: the condition in every enabled lane, combined by the summary ANY, ALL or L0 (R145). -/
def execBrf (t : Fin 64) (f : BitVec 40) (s : State) : Host.Outcome State Fault Refusal :=
  .next (branch t 0x5C f (zeros f 31 14 && decide (fNat f 36 4 < 14) && decide (fNat f 34 2 < 3))
    (fun c =>
      let holds (n : Fin 4) : Bool := condHolds (f.extractLsb' 36 4) (laneFlags c.fl n)
      match fNat f 34 2 with
      | 0 => (c.lanes (fK f 32)).any holds
      | 1 => (c.lanes (fK f 32)).all holds
      | _ => holds 0) s)

end Sys2Proof.Machine
end

