-- ==== Sys2Proof/Machine/HealthRows.lean ====
section
/-! DEFINITION. Health (R414 to R416), the tile hang (R38) and the links between the dies (R16). -/

namespace Sys2Proof.Machine

/-- TILE_HANG_TIMEOUT (R38): a tile that works, and is not in a demand-restore wait, charges no beat. -/
def execTileHangTimeout (t : Fin 64) (s : State) : Host.Outcome State Fault Refusal :=
  .next (match s.head? t with
    | none => s
    | some c =>
      if !s.executing || s.tiles[t].yielded || c.waiting.isSome then s
      else s.fatal 1 (location 3 1 t.val))

/-- A part has passed: the kernel is complete after parts 0 to 63 in order. -/
def Tile.passPart (x : Tile) (part : Nat) : Tile :=
  let n := if part = 0 then 1 else if x.selfPart = part then part + 1 else 0
  if n = 64 then { x with selfDue := x.selfDue.drop 1, selfPart := 0, selfAge := 0, selfLate := false }
  else { x with selfDue := x.selfDue.drop 1, selfPart := n }

/-- SELFTEST_PART (R414): in the idle time of a tile that has yielded, the part due runs. -/
def execSelftestPart (t : Fin 64) (sigOk : Bool) (s : State) : Host.Outcome State Fault Refusal :=
  let x := s.tiles[t]
  .next (match x.selfDue with
    | [] => s
    | part :: _ =>
      if !s.serving || !x.yielded then s
      else if !sigOk then s.fatal 0 (location 3 1 t.val)
      else
        let y := x.passPart part
        let s1 := s.setTile t y
        if part = 63 ∧ x.selfPart = 63 then
          { s1 with health := { s1.health with selftestPasses := (s1.health.selftestPasses + 1) % 2 ^ 48 } }
        else s1)

/-- SELFTEST_LATE (R414): the bit follows at the next evaluation. -/
def execSelftestLate (t : Fin 64) (s : State) : Host.Outcome State Fault Refusal :=
  .next (if 8192 < s.tiles[t].selfAge then s.setTile t { s.tiles[t] with selfLate := true } else s)

/-- MARGIN_CHECK (R415): the smallest eye opening of the lanes of each port group, in percent of a unit interval. -/
def execMarginCheck (mirrorPct hostPct persistPct : Nat) (s : State) : Host.Outcome State Fault Refusal :=
  .next { s with health := { s.health with margins := (mirrorPct, hostPct, persistPct) } }

/-- Those of some frames that lie in the last 2^20 (R416). -/
def State.recent (s : State) (fs : List Nat) : List Nat := fs.filter fun f => decide (s.frame.frameNo < f + 2 ^ 20)

/-- One path to a neighbour is silent and the other is not (R407). -/
def MirrorPort.halfSilent (p : MirrorPort) : Bool := p.peer != 0xFFFF && !p.failed && p.mirLive != p.t1sLive

/-- The conditions of the bits that are not latched (R416). -/
def State.healthCondition (s : State) (bit : Nat) : Bool :=
  let low := s.od 0x7001 1
  match bit with
  | 4 => s.dram.channels.toList.any fun x => !x.ueLines.isEmpty
  | 5 => decide (10000 < (s.recent s.health.corrections).length)
  | 6 => s.health.hardRow
  | 7 => !s.kma.poisoned.isEmpty
  | 8 => !(s.recent s.health.cacheUes).isEmpty
  | 9 => s.persist.state != 6 && (match s.persist.set with
    | some p => p.mode == 1 && (maskPorts p.portMask).any fun m => s.persist.ports[m].state == 3
    | none => false)
  | 10 => s.persist.state == 6
  | 11 => decide (s.health.margins.1 < low)
  | 12 => decide (s.health.margins.2.1 < low)
  | 13 => decide (s.health.margins.2.2 < low)
  | 14 => s.mirror.portA.halfSilent || s.mirror.portB.halfSilent
  | 15 => (List.finRange 12).any fun m => stackPresent s.e384 m.val && s.dram.stackBand[m] == 2
  | 16 => s.moth.band != 1
  | 17 => s.dram.channels.toList.any fun x => x.scrubLate
  | 18 => s.tiles.toList.any fun x => x.selfLate
  | 19 => s.health.commitLate
  | 20 => decide (s.persist.state < 5)
  | _ => false

/-- Bits that stay until reset. -/
def latchedBits : BitVec 48 := 0x20000F

/-- HEALTH_FAULTS after an evaluation. -/
def State.evaluated (s : State) : BitVec 48 :=
  (List.range 22).foldl (fun (f : BitVec 48) b => if s.healthCondition b then f ||| ((1 : BitVec 48) <<< b) else f) (s.health.faults &&& latchedBits)

/-- HEALTH_EVALUATION (R416): at a tick whose FRAME_NO is a multiple of 1,024. -/
def execHealthEvaluation (s : State) : Host.Outcome State Fault Refusal :=
  .next (if !s.serving || s.frame.frameNo % 1024 != 0 then s
    else
      let s1 := s.setFaults s.evaluated
      { s1 with health := { s1.health with corrections := s1.recent s1.health.corrections, cacheUes := s1.recent s1.health.cacheUes } })

/-- LINK_RETRY_LIMIT (R16). -/
def execLinkRetryLimit (link : Sys2Proof.DieLink) (s : State) : Host.Outcome State Fault Refusal :=
  let (loc, s1) := s.linkLocation link
  .next (s1.fatal 2 loc)

end Sys2Proof.Machine
end

