-- ==== Sys2Proof/Machine/Registers.lean ====
section
/-! DEFINITION. The dictionary window (R466, R467), and writes to registers that have no command of their own (R9, R268 to R270, R288,
R301, R330, R336, R345). -/

namespace Sys2Proof.Machine

/-! ### The dictionary window -/

def State.setSlot (s : State) (n : Fin 8) (x : DwSlot) : State := { s with window := s.window.set n x }

/-- W2 is served: firmware runs and the hub is powered (R466, R476). -/
def State.windowLive (s : State) : Bool := s.dictLive && s.moth.pwrgood && decide (s.moth.state ≠ 2) && decide (s.moth.state ≠ 3)

/-- OP of DW_REQ. -/
def DwSlot.op (x : DwSlot) : Nat := (x.req.extractLsb' 40 8).toNat

/-- The request has its outcome: an error, or bytes read into the value buffer. -/
def DwSlot.answer (x : DwSlot) (error : Nat) (bs : List Byte) : DwSlot :=
  { x with error := error, resultLen := bs.length, buffer := putBytes x.buffer 0 bs }

/-- GO: the request enters the serializer (R450), and its outcome is shown when it is done. -/
def State.dwGo (s : State) (n : Fin 8) (irq : Bool) : State :=
  let x := s.window[n]
  let index := (x.req.extractLsb' 24 16).toNat
  let sub := (x.req.extractLsb' 16 8).toNat
  let len := (x.req.extractLsb' 0 16).toNat
  let y := { x with state := 1, irq := irq, error := 0, resultLen := 0 }
  if !s.windowLive || x.state == 1 then s
  else if x.op = 1 ∨ x.op = 2 then match s.readObject index sub (x.op == 2) false with
    | .error e => s.setSlot n (y.answer e [])
    | .ok (_, bs) => (s.afterRead index).setSlot n (y.answer 0 bs)
  else if x.op = 3 then match s.writeObject index sub ((List.range len).map fun i => sparseRead x.buffer i) false with
    | .error e => s.setSlot n (y.answer e [])
    | .ok t => t.setSlot n (y.answer 0 [])
  else s.setSlot n (y.answer OdError.reservedField [])

/-- DW_READ (R467): GO with OP 0x01 in DW_REQ. -/
def execDwRead (slot : Fin 8) (irq : Bool) (s : State) : Host.Outcome State Fault Refusal :=
  .next (if s.window[slot].op = 1 then s.dwGo slot irq else s)

/-- DW_READ_SHADOW (R448, R467): OP 0x02. -/
def execDwReadShadow (slot : Fin 8) (irq : Bool) (s : State) : Host.Outcome State Fault Refusal :=
  .next (if s.window[slot].op = 2 then s.dwGo slot irq else s)

/-- DW_WRITE (R449, R467): OP 0x03. -/
def execDwWrite (slot : Fin 8) (irq : Bool) (s : State) : Host.Outcome State Fault Refusal :=
  .next (if s.window[slot].op = 3 then s.dwGo slot irq else s)

/-- DW_REQUEST_DONE (R467). -/
def execDwRequestDone (slot : Fin 8) (s : State) : Host.Outcome State Fault Refusal :=
  let x := s.window[slot]
  .next (if x.state ≠ 1 then s
    else
      let s1 := s.setSlot slot { x with state := 2, irq := false }
      if x.irq then s1.raiseVector 0 x.vector.toNat else s1)

/-- Bytes that a write carries at an offset (R9): with `high` they lie four bytes on. -/
def writeBytes (off : Nat) (acc : RegAccess) (v : BitVec 64) : List (Nat × Byte) :=
  let at_ (o : Nat) (l : List Byte) : List (Nat × Byte) := l.zipIdx.map fun p => (o + p.2, p.1)
  match acc with
  | .qword => at_ off (leBytes 8 v.toNat)
  | .low => at_ off (leBytes 4 v.toNat)
  | .high => at_ (off + 4) (leBytes 4 v.toNat)
  | .other => at_ off (leBytes 1 v.toNat)

/-- A write to a request slot: its registers, or its value buffer, which takes accesses of any size. An access of another size is taken
as one byte, the only other size whose bytes the command names. -/
def State.writeW2 (s : State) (off : Nat) (acc : RegAccess) (v : BitVec 64) : State :=
  if h : off / 65536 < 8 then
    let n : Fin 8 := ⟨off / 65536, h⟩
    let o := off % 65536
    let x := s.window[n]
    if !s.windowLive || x.state == 1 then s
    else if o = 0 then s.setSlot n { x with req := regWrite x.req acc v }
    else if o = 8 then (if acc = .qword ∧ v.getLsbD 0 then s.dwGo n (v.getLsbD 1) else s)
    else if o = 0x18 then s.setSlot n { x with vector := (regWrite (x.vector.setWidth 48) acc v).setWidth 6 }
    else if 0x100 ≤ o then
      let put (b : Sparse 8) (p : Nat × Byte) : Sparse 8 := if 0x100 ≤ p.1 ∧ p.1 < 0x8100 then sparseWrite b (p.1 - 0x100) p.2 else b
      s.setSlot n { x with buffer := (writeBytes o acc v).foldl put x.buffer }
    else s
  else s

/-! ### MSI-X tables (R268, R288) -/

/-- The vectors of a function. -/
def vectorsOf (fn : Fin 64) : Nat := if fn.val = 0 then 64 else 32

/-- A vector's mask bit takes a value; a pending message of a vector that opens is sent. -/
def State.maskVector (s : State) (fn : Fin 64) (vec : Nat) (on : Bool) : State :=
  let f := s.host.fns[fn]
  let bit := (1 : BitVec 64) <<< vec
  if on then s.setFn fn { f with vectorMask := f.vectorMask ||| bit }
  else (s.setFn fn { f with vectorMask := f.vectorMask &&& ~~~bit }).sendPending fn

/-- A configuration write (R264, R288, R291): the fields that no command of their own writes. Enabling MSI-X or clearing the function mask
sends what is pending. -/
def State.writeConfig (s : State) (fn : Fin 64) (field : Sys2Proof.ConfigField) (v : BitVec 64) : State :=
  let f := s.host.fns[fn]
  let on := v.getLsbD 0
  match field with
  | .relaxedOrdering => s.setFn fn { f with relaxed := on }
  | .maxPayload => if 2 < v.toNat then s else s.setFn fn { f with maxPayload := v.setWidth 3 }
  | .maxReadRequest => if 5 < v.toNat then s else s.setFn fn { f with maxRead := v.setWidth 3 }
  | .pmeEnable => s.setFn fn { f with pmeEn := on }
  | .msixEnable => (s.setFn fn { f with msixEnable := on }).sendPending fn
  | .functionMask => (s.setFn fn { f with functionMask := on }).sendPending fn
  | .other off => s.setFn fn { f with config := sparseWrite f.config off (v.setWidth 32) }
  | .pmeStatus | .busMaster | .powerState | .vfEnable | .numVfs | .totalVfs | .initialVfs | .firstVfOffset | .vfStride | .vfMigration
  | .supportedPageSizes => s

/-- What a configuration field reads (R264, R294): the SR-IOV values lie on the physical function. -/
def State.readConfig (s : State) (fn : Fin 64) (field : Sys2Proof.ConfigField) : Nat :=
  let f := s.host.fns[fn]
  let bit (b : Bool) : Nat := if b then 1 else 0
  let pf (n : Nat) : Nat := if fn.val = 0 then n else 0
  match field with
  | .relaxedOrdering => bit f.relaxed
  | .maxPayload => f.maxPayload.toNat
  | .maxReadRequest => f.maxRead.toNat
  | .pmeEnable => bit f.pmeEn
  | .pmeStatus => bit f.pmeStatus
  | .msixEnable => bit f.msixEnable
  | .functionMask => bit f.functionMask
  | .busMaster => bit f.busMaster
  | .powerState => if f.d3hot then 3 else 0
  | .vfEnable => pf (bit s.host.vfEnable)
  | .numVfs => pf s.host.numVfs
  | .totalVfs | .initialVfs => pf 63
  | .firstVfOffset | .vfStride => pf 1
  | .vfMigration => 0
  | .supportedPageSizes => pf 1
  | .other off => (sparseRead f.config off).toNat

/-- A write to the MSI-X table: message address, message data, vector control. -/
def State.writeW4 (s : State) (fn : Fin 64) (off : Nat) (acc : RegAccess) (v : BitVec 64) : State :=
  let vec := off / 16
  if vectorsOf fn ≤ vec ∨ acc = .other then s
  else
    let f := s.host.fns[fn]
    let old := sparseRead f.msixTable vec
    let bytes := (writeBytes (off % 16) acc v).filter fun p => decide (p.1 < 12)
    let put (x : BitVec 96) (p : Nat × Byte) : BitVec 96 :=
      (x &&& ~~~((0xFF : BitVec 96) <<< (8 * p.1))) ||| ((p.2.setWidth 96) <<< (8 * p.1))
    let s1 := { s with host := { s.host with fns := s.host.fns.set fn { f with msixTable := sparseWrite f.msixTable vec (bytes.foldl put old) } } }
    let ctrl := (writeBytes (off % 16) acc v).find? fun p => p.1 == 12
    match ctrl with
    | some p => s1.maskVector fn vec (p.2.getLsbD 0)
    | none => s1

/-! ### The function page -/

/-- OUT_MSG takes six bytes, OUT_MSG10 four; ignored while OUT_FULL is 1 (R301). -/
def State.writeOutMsg (s : State) (fn : Fin 64) (n : Nat) (acc : RegAccess) (v : BitVec 64) : State :=
  let m := s.host.insts[fn].mailbox
  if m.outFull then s
  else
    let mask : Word := if n = 10 then 0xFFFFFFFF else 0xFFFFFFFFFFFF
    let x := regWrite (m.outMsg.extractLsb' (48 * n) 48) acc v &&& mask
    let kept := m.outMsg &&& ~~~((mask.setWidth 512) <<< (48 * n))
    s.setMailbox fn { m with outMsg := kept ||| ((x.setWidth 512) <<< (48 * n)) }

/-- Mailbox registers of an instance's function page (R301). -/
def State.writeMailbox (s : State) (fn : Fin 64) (off : Nat) (acc : RegAccess) (v : BitVec 64) : State :=
  let m := s.host.insts[fn].mailbox
  if fn.val = 0 ∨ acc = .other then s
  else if off ≤ 0x150 then s.writeOutMsg fn ((off - 0x100) / 8) acc v
  else if off = 0x1C0 then (if acc ≠ .high ∧ v.getLsbD 2 then s.setMailbox fn { m with outReject := false } else s)
  else if off = 0x1C8 then
    let old : Word := (m.inVector.setWidth 48) ||| (if m.inIrqEn then 0x40 else 0)
    let x := regWrite old acc v
    s.setMailbox fn { m with inIrqEn := x.getLsbD 6, inVector := x.extractLsb' 0 6 }
  else s

/-- Digest handle registers that are not commands (R336, R337): DG_CTRL without exactly one command, and DG_LAST_CNT. -/
def State.writeHandle (s : State) (fn : Fin 64) (h : Nat) (off : Nat) (acc : RegAccess) (v : BitVec 64) : State :=
  let n := 16 * fn.val + h
  let x := s.handle n
  let w : Word := v.setWidth 48
  let cmd := w.extractLsb' 0 4
  if off = 0 then
    if acc ≠ .qword ∨ cmd = 1 ∨ cmd = 2 ∨ cmd = 4 ∨ cmd = 8 then s
    else
      let y := x.ctrl w
      s.setHandle n (if cmd = 0 then y else y.note 1)
  else if off = 0x18 then s.setHandle n { x with lastCnt := (regWrite (BitVec.ofNat 48 x.lastCnt) acc v).toNat % 8 }
  else s

/-- The function page of an instance (R270). Digest and key-store registers close while the instance is reset (R346). -/
def State.writePage (s : State) (fn : Fin 64) (off : Nat) (acc : RegAccess) (v : BitVec 64) : State :=
  if acc = .other then s
  else if 0x100 ≤ off ∧ off < 0x200 then s.writeMailbox fn off acc v
  else if s.portClosed fn then s
  else if off = 0x200 then
    let p := s.keyPort fn
    s.setKeyPort fn { p with slot := (regWrite (BitVec.ofNat 48 p.slot) acc v).toNat % 256 }
  else if 0x300 ≤ off ∧ off < 0xF00 then s.writeHandle fn ((off - 0x300) / 0xC0) ((off - 0x300) % 0xC0) acc v
  else s

/-! ### The physical function's W0 -/

/-- CH_CTRL of a Mover channel (R330): SHARE above 1,024 and BURST 0b111 leave their fields. -/
def State.writeChCtrl (s : State) (ch : Fin 32) (acc : RegAccess) (v : BitVec 64) : State :=
  let x := s.mover.channels[ch]
  let b (on : Bool) (i : Nat) : Nat := if on then 2 ^ i else 0
  let old := x.share * 2 ^ 16 + x.burst * 2 ^ 8 + x.prio * 4 + b x.pause 1 + b x.disable 0
  let w := regWrite (BitVec.ofNat 48 old) acc v
  let share := (w.extractLsb' 16 11).toNat
  let burst := (w.extractLsb' 8 3).toNat
  if acc = .other ∨ acc = .high then s
  else
    let y := { x with share := if share ≤ 1024 then share else x.share, burst := if burst = 7 then x.burst else burst,
                      prio := (w.extractLsb' 2 3).toNat }
    ((s.setChannel ch y).chPause ch (w.getLsbD 1)).chDisable ch (w.getLsbD 0)

/-- W0 of the physical function, beyond its function page and ring contexts, which have a command of their own (R269). -/
def State.writeW0 (s : State) (off : Nat) (acc : RegAccess) (v : BitVec 64) : State :=
  if off < 0x1000 then s.writePage 0 off acc v
  else if 0x2000000 ≤ off ∧ off < 0x2002000 then
    let n := (off - 0x2000000) / 0x100
    if g : n < 32 then (if (off - 0x2000000) % 0x100 = 0 then s.writeChCtrl ⟨n, g⟩ acc v else s) else s
  else s

/-- REGISTER_WRITE (R9): a write to a register that has no command of its own. A register whose write is another command (a doorbell, a
ring context, a digest command, MODULE_RESET and the like) is not written by this one. -/
def execRegisterWrite (fn : Fin 64) (win : Sys2Proof.Window) (off : Nat) (acc : RegAccess) (v : BitVec 64) (s : State) :
    Host.Outcome State Fault Refusal :=
  .next (if !s.exists? fn || !s.moth.pwrgood then s
    else match win with
      | .w0 => if fn.val = 0 then s.writeW0 off acc v else if off < 0x1000 then s.writePage fn off acc v else s
      | .functionPage => if off < 0x1000 then s.writePage fn off acc v else s
      | .w2 => if fn.val = 0 then s.writeW2 off acc v else s
      | .w4 => s.writeW4 fn off acc v
      | .config f => s.writeConfig fn f v)

end Sys2Proof.Machine
end

