-- ==== Sys2Proof/Machine/Tap.lean ====
section
/-! DEFINITION. The test access port (R499, R500). -/

namespace Sys2Proof.Machine

/-- The TAP runs only while PWRGOOD is asserted. -/
def State.tapRuns (s : State) : Bool := s.moth.pwrgood

/-- An instruction reaches the update stage: the test outputs are functional, driven from the boundary register, floating or held. -/
def State.tapTake (s : State) (opcode : BitVec 8) (mode pulse : Nat) : State :=
  { s with pins := { s.pins with tapInstr := opcode, testMode := mode, trainPulse := pulse } }

/-- An instruction that takes the pins: the engine fences with reason 1 and stays fenced until a module reset. -/
def State.tapFence (s : State) (opcode : BitVec 8) (mode pulse : Nat) : State :=
  let s1 := s.tapTake opcode mode pulse
  ({ s1 with pins := { s1.pins with testFenced := true } }).fence 1

/-- EXTEST: the outputs are driven from the update latches. -/
def execExtest (s : State) : Host.Outcome State Fault Refusal := .next (if s.tapRuns then s.tapFence 0x00 1 0 else s)

/-- EXTEST_PULSE (IEEE 1149.6). -/
def execExtestPulse (s : State) : Host.Outcome State Fault Refusal := .next (if s.tapRuns then s.tapFence 0x10 1 1 else s)

/-- EXTEST_TRAIN (IEEE 1149.6). -/
def execExtestTrain (s : State) : Host.Outcome State Fault Refusal := .next (if s.tapRuns then s.tapFence 0x11 1 2 else s)

/-- HIGHZ: the outputs float. -/
def execHighz (s : State) : Host.Outcome State Fault Refusal := .next (if s.tapRuns then s.tapFence 0x04 2 0 else s)

/-- CLAMP: the outputs are held from the update latches. -/
def execClamp (s : State) : Host.Outcome State Fault Refusal := .next (if s.tapRuns then s.tapFence 0x05 3 0 else s)

/-- The value of the device identification register. -/
def idcodeOf (e384 : Bool) : BitVec 32 := if e384 then 0x1483056F else 0x1483156F

/-- What the TAP shifts out with IDCODE selected. -/
def State.tapIdcode (s : State) : Option (BitVec 32) := if s.pins.tapInstr = 0x01 then some (idcodeOf s.e384) else none

/-- IDCODE. -/
def execIdcode (s : State) : Host.Outcome State Fault Refusal := .next (if s.tapRuns then s.tapTake 0x01 0 0 else s)

/-- SAMPLE/PRELOAD: the pins are captured, and the update latches take what was shifted in. -/
def execSamplePreload (pins preload : BitVec 180) (s : State) : Host.Outcome State Fault Refusal :=
  let t := s.tapTake 0x02 0 0
  .next (if s.tapRuns then { t with pins := { t.pins with boundary := pins, preload := preload } } else s)

/-- BYPASS, and every opcode that names no other instruction. -/
def execBypass (opcode : BitVec 8) (s : State) : Host.Outcome State Fault Refusal :=
  .next (if !s.tapRuns || [0x00, 0x01, 0x02, 0x04, 0x05, 0x10, 0x11].contains opcode.toNat then s else s.tapTake opcode 0 0)

/-- The test logic is reset: IDCODE is selected. -/
def State.tapReset (s : State) : State := s.tapTake 0x01 0 0

/-- TAP_RESET: five TCK cycles with TMS high. -/
def execTapReset (s : State) : Host.Outcome State Fault Refusal := .next (if s.tapRuns then s.tapReset else s)

/-- TRST_N (R473): the test logic only. -/
def execTrstN (s : State) : Host.Outcome State Fault Refusal := .next s.tapReset

end Sys2Proof.Machine
end

