-- ==== Sys2Proof/Machine/Dispatch.lean ====
section
/-! DEFINITION. The meaning of every command: one arm per row of the opcode table. -/

namespace Sys2Proof.Machine

def exec (i : Instr) (s : State) : Host.Outcome State Fault Refusal :=
  match i with
  | .frameTimerExpiry => Sys2Proof.Machine.execFrameTimerExpiry s
  | .tick elapsedUs => Sys2Proof.Machine.execTick elapsedUs s
  | .leaseExpiry => Sys2Proof.Machine.execLeaseExpiry s
  | .frameMerge => Sys2Proof.Machine.execFrameMerge s
  | .tileHangTimeout t => Sys2Proof.Machine.execTileHangTimeout t s
  | .selftestPart t sigOk => Sys2Proof.Machine.execSelftestPart t sigOk s
  | .selftestLate t => Sys2Proof.Machine.execSelftestLate t s
  | .healthEvaluation => Sys2Proof.Machine.execHealthEvaluation s
  | .marginCheck mirrorPct hostPct persistPct => Sys2Proof.Machine.execMarginCheck mirrorPct hostPct persistPct s
  | .mova t f => Sys2Proof.Machine.execMova t f s
  | .movi t f => Sys2Proof.Machine.execMovi t f s
  | .movh t f => Sys2Proof.Machine.execMovh t f s
  | .adda t f => Sys2Proof.Machine.execAdda t f s
  | .addai t f => Sys2Proof.Machine.execAddai t f s
  | .suba t f => Sys2Proof.Machine.execSuba t f s
  | .nega t f => Sys2Proof.Machine.execNega t f s
  | .shla t f => Sys2Proof.Machine.execShla t f s
  | .shra t f => Sys2Proof.Machine.execShra t f s
  | .sara t f => Sys2Proof.Machine.execSara t f s
  | .shlai t f => Sys2Proof.Machine.execShlai t f s
  | .shrai t f => Sys2Proof.Machine.execShrai t f s
  | .sarai t f => Sys2Proof.Machine.execSarai t f s
  | .bra t f => Sys2Proof.Machine.execBra t f s
  | .brai t f => Sys2Proof.Machine.execBrai t f s
  | .jmp t f => Sys2Proof.Machine.execJmp t f s
  | .call t f => Sys2Proof.Machine.execCall t f s
  | .jmpr t f => Sys2Proof.Machine.execJmpr t f s
  | .ftime t f => Sys2Proof.Machine.execFtime t f s
  | .movd t f => Sys2Proof.Machine.execMovd t f s
  | .movdi t f => Sys2Proof.Machine.execMovdi t f s
  | .bcst t f => Sys2Proof.Machine.execBcst t f s
  | .movad t f => Sys2Proof.Machine.execMovad t f s
  | .perm t f => Sys2Proof.Machine.execPerm t f s
  | .gets t f => Sys2Proof.Machine.execGets t f s
  | .puts t f => Sys2Proof.Machine.execPuts t f s
  | .clrs t f => Sys2Proof.Machine.execClrs t f s
  | .add t f => Sys2Proof.Machine.execAdd t f s
  | .addi t f => Sys2Proof.Machine.execAddi t f s
  | .adc t f => Sys2Proof.Machine.execAdc t f s
  | .sub t f => Sys2Proof.Machine.execSub t f s
  | .subi t f => Sys2Proof.Machine.execSubi t f s
  | .neg t f => Sys2Proof.Machine.execNeg t f s
  | .cmp t f => Sys2Proof.Machine.execCmp t f s
  | .cmpi t f => Sys2Proof.Machine.execCmpi t f s
  | .mul t f => Sys2Proof.Machine.execMul t f s
  | .mulu t f => Sys2Proof.Machine.execMulu t f s
  | .mulh t f => Sys2Proof.Machine.execMulh t f s
  | .mulhu t f => Sys2Proof.Machine.execMulhu t f s
  | .div t f => Sys2Proof.Machine.execDiv t f s
  | .divu t f => Sys2Proof.Machine.execDivu t f s
  | .rem t f => Sys2Proof.Machine.execRem t f s
  | .remu t f => Sys2Proof.Machine.execRemu t f s
  | .and t f => Sys2Proof.Machine.execAnd t f s
  | .or t f => Sys2Proof.Machine.execOr t f s
  | .xor t f => Sys2Proof.Machine.execXor t f s
  | .andn t f => Sys2Proof.Machine.execAndn t f s
  | .not t f => Sys2Proof.Machine.execNot t f s
  | .andi t f => Sys2Proof.Machine.execAndi t f s
  | .ori t f => Sys2Proof.Machine.execOri t f s
  | .xori t f => Sys2Proof.Machine.execXori t f s
  | .shl t f => Sys2Proof.Machine.execShl t f s
  | .shr t f => Sys2Proof.Machine.execShr t f s
  | .sar t f => Sys2Proof.Machine.execSar t f s
  | .rol t f => Sys2Proof.Machine.execRol t f s
  | .ror t f => Sys2Proof.Machine.execRor t f s
  | .shli t f => Sys2Proof.Machine.execShli t f s
  | .shri t f => Sys2Proof.Machine.execShri t f s
  | .sari t f => Sys2Proof.Machine.execSari t f s
  | .roli t f => Sys2Proof.Machine.execRoli t f s
  | .rori t f => Sys2Proof.Machine.execRori t f s
  | .min t f => Sys2Proof.Machine.execMin t f s
  | .max t f => Sys2Proof.Machine.execMax t f s
  | .minu t f => Sys2Proof.Machine.execMinu t f s
  | .maxu t f => Sys2Proof.Machine.execMaxu t f s
  | .sel t f => Sys2Proof.Machine.execSel t f s
  | .clz t f => Sys2Proof.Machine.execClz t f s
  | .popc t f => Sys2Proof.Machine.execPopc t f s
  | .cmpk t f => Sys2Proof.Machine.execCmpk t f s
  | .cmpki t f => Sys2Proof.Machine.execCmpki t f s
  | .kand t f => Sys2Proof.Machine.execKand t f s
  | .kor t f => Sys2Proof.Machine.execKor t f s
  | .kandn t f => Sys2Proof.Machine.execKandn t f s
  | .kxor t f => Sys2Proof.Machine.execKxor t f s
  | .knot t f => Sys2Proof.Machine.execKnot t f s
  | .kmov t f => Sys2Proof.Machine.execKmov t f s
  | .kset t f => Sys2Proof.Machine.execKset t f s
  | .kget t f => Sys2Proof.Machine.execKget t f s
  | .brf t f => Sys2Proof.Machine.execBrf t f s
  | .xadd t f => Sys2Proof.Machine.execXadd t f s
  | .xaddu t f => Sys2Proof.Machine.execXaddu t f s
  | .xmac t f => Sys2Proof.Machine.execXmac t f s
  | .xmacu t f => Sys2Proof.Machine.execXmacu t f s
  | .xmin t f => Sys2Proof.Machine.execXmin t f s
  | .xmax t f => Sys2Proof.Machine.execXmax t f s
  | .xcnt t f => Sys2Proof.Machine.execXcnt t f s
  | .xfromd t f => Sys2Proof.Machine.execXfromd t f s
  | .xtod t f => Sys2Proof.Machine.execXtod t f s
  | .ldw t f => Sys2Proof.Machine.execLdw t f s
  | .stw t f => Sys2Proof.Machine.execStw t f s
  | .ldq t f => Sys2Proof.Machine.execLdq t f s
  | .stq t f => Sys2Proof.Machine.execStq t f s
  | .gath t f => Sys2Proof.Machine.execGath t f s
  | .ldp t f => Sys2Proof.Machine.execLdp t f s
  | .stp t f => Sys2Proof.Machine.execStp t f s
  | .ldpq t f => Sys2Proof.Machine.execLdpq t f s
  | .stpq t f => Sys2Proof.Machine.execStpq t f s
  | .gathp t f => Sys2Proof.Machine.execGathp t f s
  | .lget t f => Sys2Proof.Machine.execLget t f s
  | .lput t f => Sys2Proof.Machine.execLput t f s
  | .pfill t f => Sys2Proof.Machine.execPfill t f s
  | .wcmp t f => Sys2Proof.Machine.execWcmp t f s
  | .dscan t f => Sys2Proof.Machine.execDscan t f s
  | .dscanf t f => Sys2Proof.Machine.execDscanf t f s
  | .dscann t f => Sys2Proof.Machine.execDscann t f s
  | .ksrch t f => Sys2Proof.Machine.execKsrch t f s
  | .kcont t f => Sys2Proof.Machine.execKcont t f s
  | .kins t f => Sys2Proof.Machine.execKins t f s
  | .kagg t f => Sys2Proof.Machine.execKagg t f s
  | .kdrn t f => Sys2Proof.Machine.execKdrn t f s
  | .srun t f => Sys2Proof.Machine.execSrun t f s
  | .smrg t f => Sys2Proof.Machine.execSmrg t f s
  | .sdlv t f => Sys2Proof.Machine.execSdlv t f s
  | .chand t f => Sys2Proof.Machine.execChand t f s
  | .qpt t f => Sys2Proof.Machine.execQpt t f s
  | .endStage t f => Sys2Proof.Machine.execEndStage t f s
  | .nop t f => Sys2Proof.Machine.execNop t f s
  | .brk t f => Sys2Proof.Machine.execBrk t f s
  | .tget t f => Sys2Proof.Machine.execTget t f s
  | .txa t f => Sys2Proof.Machine.execTxa t f s
  | .txd t f => Sys2Proof.Machine.execTxd t f s
  | .tretry t f => Sys2Proof.Machine.execTretry t f s
  | .tskip t f => Sys2Proof.Machine.execTskip t f s
  | .tend t f => Sys2Proof.Machine.execTend t f s
  | .divx t f => Sys2Proof.Machine.execDivx t f s
  | .divxu t f => Sys2Proof.Machine.execDivxu t f s
  | .rscl t f => Sys2Proof.Machine.execRscl t f s
  | .rsclx t f => Sys2Proof.Machine.execRsclx t f s
  | .undefinedOpcode t w => Sys2Proof.Machine.execUndefinedOpcode t w s
  | .unitResultArrival t n => Sys2Proof.Machine.execUnitResultArrival t n s
  | .pipelineEntry r entry => Sys2Proof.Machine.execPipelineEntry r entry s
  | .codecEncode slot input valid => Sys2Proof.Machine.execCodecEncode slot input valid s
  | .codecDecode slot input => Sys2Proof.Machine.execCodecDecode slot input s
  | .codecUnitGrant encoder => Sys2Proof.Machine.execCodecUnitGrant encoder s
  | .codecJobFinish slot => Sys2Proof.Machine.execCodecJobFinish slot s
  | .nopEntry r entry => Sys2Proof.Machine.execNopEntry r entry s
  | .tableCreate slot => Sys2Proof.Machine.execTableCreate slot s
  | .tableClear slot => Sys2Proof.Machine.execTableClear slot s
  | .tableDestroy slot => Sys2Proof.Machine.execTableDestroy slot s
  | .tableLoad slot records => Sys2Proof.Machine.execTableLoad slot records s
  | .setDescriptor slot => Sys2Proof.Machine.execSetDescriptor slot s
  | .squash slot => Sys2Proof.Machine.execSquash slot s
  | .sqDoorbell fn r size => Sys2Proof.Machine.execSqDoorbell fn r size s
  | .cqDoorbell fn r size => Sys2Proof.Machine.execCqDoorbell fn r size s
  | .indexBlockReadComplete cq r res => Sys2Proof.Machine.execIndexBlockReadComplete cq r res s
  | .entryReadComplete r entry desc => Sys2Proof.Machine.execEntryReadComplete r entry desc s
  | .imageReadComplete r image => Sys2Proof.Machine.execImageReadComplete r image s
  | .ringContextWrite cq r word acc v => Sys2Proof.Machine.execRingContextWrite cq r word acc v s
  | .modTimerExpiry r => Sys2Proof.Machine.execModTimerExpiry r s
  | .functionPowerStateChange fn d3hot => Sys2Proof.Machine.execFunctionPowerStateChange fn d3hot s
  | .busMasterEnableChange fn enable => Sys2Proof.Machine.execBusMasterEnableChange fn enable s
  | .linkStateChange link => Sys2Proof.Machine.execLinkStateChange link s
  | .pmeResend fn => Sys2Proof.Machine.execPmeResend fn s
  | .functionLevelReset fn => Sys2Proof.Machine.execFunctionLevelReset fn s
  | .vfEnableChange enable numVfs => Sys2Proof.Machine.execVfEnableChange enable numVfs s
  | .hotReset linkDown => Sys2Proof.Machine.execHotReset linkDown s
  | .outDoorbellSend fn acc v => Sys2Proof.Machine.execOutDoorbellSend fn acc v s
  | .inAck fn acc v => Sys2Proof.Machine.execInAck fn acc v s
  | .toTenant inst msg => Sys2Proof.Machine.execToTenant inst msg s
  | .fromAck inst ack => Sys2Proof.Machine.execFromAck inst ack s
  | .chAppend ch acc v => Sys2Proof.Machine.execChAppend ch acc v s
  | .descriptorFetch ch => Sys2Proof.Machine.execDescriptorFetch ch s
  | .burstStart => Sys2Proof.Machine.execBurstStart s
  | .pacingIntervalExpiry ch => Sys2Proof.Machine.execPacingIntervalExpiry ch s
  | .burstReadComplete ch res => Sys2Proof.Machine.execBurstReadComplete ch res s
  | .chPause ch on => Sys2Proof.Machine.execChPause ch on s
  | .chDisable ch on => Sys2Proof.Machine.execChDisable ch on s
  | .chErrorClear ch => Sys2Proof.Machine.execChErrorClear ch s
  | .dgOpen fn h v => Sys2Proof.Machine.execDgOpen fn h v s
  | .dgAbort fn h v => Sys2Proof.Machine.execDgAbort fn h v s
  | .dgClose fn h v => Sys2Proof.Machine.execDgClose fn h v s
  | .dgCompare fn h v => Sys2Proof.Machine.execDgCompare fn h v s
  | .compareDone fn h => Sys2Proof.Machine.execCompareDone fn h s
  | .dgData fn h v => Sys2Proof.Machine.execDgData fn h v s
  | .dgKeymsg fn h v => Sys2Proof.Machine.execDgKeymsg fn h v s
  | .dgLast fn h v => Sys2Proof.Machine.execDgLast fn h v s
  | .digestFinishComplete fn h => Sys2Proof.Machine.execDigestFinishComplete fn h s
  | .dgExpect fn h v => Sys2Proof.Machine.execDgExpect fn h v s
  | .ksData fn v => Sys2Proof.Machine.execKsData fn v s
  | .ksCommit fn v => Sys2Proof.Machine.execKsCommit fn v s
  | .cocoonAcknowledged frame => Sys2Proof.Machine.execCocoonAcknowledged frame s
  | .commitTimeout => Sys2Proof.Machine.execCommitTimeout s
  | .chrysalisWriteAck => Sys2Proof.Machine.execChrysalisWriteAck s
  | .chrysalisComplete => Sys2Proof.Machine.execChrysalisComplete s
  | .ssdCommandTimeout p => Sys2Proof.Machine.execSsdCommandTimeout p s
  | .ssdCommandError p => Sys2Proof.Machine.execSsdCommandError p s
  | .ssdLinkDown p => Sys2Proof.Machine.execSsdLinkDown p s
  | .smartLogPoll p => Sys2Proof.Machine.execSmartLogPoll p s
  | .format => Sys2Proof.Machine.execFormat s
  | .chrysalisSoon => Sys2Proof.Machine.execChrysalisSoon s
  | .keyReady => Sys2Proof.Machine.execKeyReady s
  | .restore rd => Sys2Proof.Machine.execRestore rd s
  | .keyReadyTimeout => Sys2Proof.Machine.execKeyReadyTimeout s
  | .cocoonReplay bytes => Sys2Proof.Machine.execCocoonReplay bytes s
  | .slotFetchComplete slot data => Sys2Proof.Machine.execSlotFetchComplete slot data s
  | .listMessage hdr list => Sys2Proof.Machine.execListMessage hdr list s
  | .tickMessage hdr msg => Sys2Proof.Machine.execTickMessage hdr msg s
  | .dataMessage hdr recs => Sys2Proof.Machine.execDataMessage hdr recs s
  | .ackMessage hdr msg => Sys2Proof.Machine.execAckMessage hdr msg s
  | .heartbeatMessage t1s hb => Sys2Proof.Machine.execHeartbeatMessage t1s hb s
  | .fenceMessage hb reason => Sys2Proof.Machine.execFenceMessage hb reason s
  | .joinReq pos req => Sys2Proof.Machine.execJoinReq pos req s
  | .copyMessage slot data crc => Sys2Proof.Machine.execCopyMessage slot data crc s
  | .joinState frame st => Sys2Proof.Machine.execJoinState frame st s
  | .joinReply code => Sys2Proof.Machine.execJoinReply code s
  | .linkack portB linkAck => Sys2Proof.Machine.execLinkack portB linkAck s
  | .followerTick elapsedUs => Sys2Proof.Machine.execFollowerTick elapsedUs s
  | .retransmitTimeout portB => Sys2Proof.Machine.execRetransmitTimeout portB s
  | .linkackTimer portB => Sys2Proof.Machine.execLinkackTimer portB s
  | .overrunHeartbeatTimer t1s => Sys2Proof.Machine.execOverrunHeartbeatTimer t1s s
  | .pathSilenceTimeout down t1s => Sys2Proof.Machine.execPathSilenceTimeout down t1s s
  | .joinDrainTimeout => Sys2Proof.Machine.execJoinDrainTimeout s
  | .formingHeartbeatTimer => Sys2Proof.Machine.execFormingHeartbeatTimer s
  | .formWaitExpiry => Sys2Proof.Machine.execFormWaitExpiry s
  | .mirrorCmdJoin => Sys2Proof.Machine.execMirrorCmdJoin s
  | .mirrorCmdDetach => Sys2Proof.Machine.execMirrorCmdDetach s
  | .mirrorCmdFence => Sys2Proof.Machine.execMirrorCmdFence s
  | .mirrorCmdForm => Sys2Proof.Machine.execMirrorCmdForm s
  | .powerOn => Sys2Proof.Machine.execPowerOn s
  | .vinOn => Sys2Proof.Machine.execVinOn s
  | .railUpTimeout => Sys2Proof.Machine.execRailUpTimeout s
  | .powerupRetryTimer => Sys2Proof.Machine.execPowerupRetryTimer s
  | .pwrgood => Sys2Proof.Machine.execPwrgood s
  | .powerFail rule => Sys2Proof.Machine.execPowerFail rule s
  | .pfRestartExpiry => Sys2Proof.Machine.execPfRestartExpiry s
  | .vinOff => Sys2Proof.Machine.execVinOff s
  | .railFault channel => Sys2Proof.Machine.execRailFault channel s
  | .thermalBand => Sys2Proof.Machine.execThermalBand s
  | .thermalTrip channel => Sys2Proof.Machine.execThermalTrip channel s
  | .stackHot stack => Sys2Proof.Machine.execStackHot stack s
  | .ruleAssert rule => Sys2Proof.Machine.execRuleAssert rule s
  | .ruleRelease rule => Sys2Proof.Machine.execRuleRelease rule s
  | .ruleWrite rule v => Sys2Proof.Machine.execRuleWrite rule v s
  | .mothCmdDoze => Sys2Proof.Machine.execMothCmdDoze s
  | .dozeEntry => Sys2Proof.Machine.execDozeEntry s
  | .ssdShutdownTimeout => Sys2Proof.Machine.execSsdShutdownTimeout s
  | .dozeLinkWaitExpiry => Sys2Proof.Machine.execDozeLinkWaitExpiry s
  | .mothCmdWake => Sys2Proof.Machine.execMothCmdWake s
  | .mothCmdRestart => Sys2Proof.Machine.execMothCmdRestart s
  | .dozeTimerExpiry => Sys2Proof.Machine.execDozeTimerExpiry s
  | .wakeSchedule ok dozeMs => Sys2Proof.Machine.execWakeSchedule ok dozeMs s
  | .perstNAssert => Sys2Proof.Machine.execPerstNAssert s
  | .moduleReset acc v => Sys2Proof.Machine.execModuleReset acc v s
  | .trstN => Sys2Proof.Machine.execTrstN s
  | .bringupStart profsel => Sys2Proof.Machine.execBringupStart profsel s
  | .firmwareVerify a b => Sys2Proof.Machine.execFirmwareVerify a b s
  | .memoryTrainingComplete failed => Sys2Proof.Machine.execMemoryTrainingComplete failed s
  | .startupSelftestComplete mismatch => Sys2Proof.Machine.execStartupSelftestComplete mismatch s
  | .sysRefclkLoss => Sys2Proof.Machine.execSysRefclkLoss s
  | .pexRefclkLoss => Sys2Proof.Machine.execPexRefclkLoss s
  | .mirRefclkLoss => Sys2Proof.Machine.execMirRefclkLoss s
  | .auxClkLoss => Sys2Proof.Machine.execAuxClkLoss s
  | .auxClkReturn => Sys2Proof.Machine.execAuxClkReturn s
  | .hostLinkTraining speed width => Sys2Proof.Machine.execHostLinkTraining speed width s
  | .refreshIntervalExpiry c => Sys2Proof.Machine.execRefreshIntervalExpiry c s
  | .refreshUnit c idle => Sys2Proof.Machine.execRefreshUnit c idle s
  | .mr4Readout stack readings => Sys2Proof.Machine.execMr4Readout stack readings s
  | .recalibration c => Sys2Proof.Machine.execRecalibration c s
  | .scrubVisit c o => Sys2Proof.Machine.execScrubVisit c o s
  | .scrubLate c => Sys2Proof.Machine.execScrubLate c s
  | .memoryReadReturn ma who bursts => Sys2Proof.Machine.execMemoryReadReturn ma who bursts s
  | .writeQueueDrain c => Sys2Proof.Machine.execWriteQueueDrain c s
  | .partialWrite ma data who => Sys2Proof.Machine.execPartialWrite ma data who s
  | .verifyScanRow b differs => Sys2Proof.Machine.execVerifyScanRow b differs s
  | .cacheEnableWrite on => Sys2Proof.Machine.execCacheEnableWrite on s
  | .cacheDrainComplete => Sys2Proof.Machine.execCacheDrainComplete s
  | .holdWrite on => Sys2Proof.Machine.execHoldWrite on s
  | .timeBaseWrite v => Sys2Proof.Machine.execTimeBaseWrite v s
  | .bdpReadReq f => Sys2Proof.Machine.execBdpReadReq f s
  | .bdpWriteReq f => Sys2Proof.Machine.execBdpWriteReq f s
  | .bdpAbort f => Sys2Proof.Machine.execBdpAbort f s
  | .bdpFrameDrop f => Sys2Proof.Machine.execBdpFrameDrop f s
  | .segmentTransferTimeout n => Sys2Proof.Machine.execSegmentTransferTimeout n s
  | .eventFrameSend => Sys2Proof.Machine.execEventFrameSend s
  | .dwRead slot irq => Sys2Proof.Machine.execDwRead slot irq s
  | .dwReadShadow slot irq => Sys2Proof.Machine.execDwReadShadow slot irq s
  | .dwWrite slot irq => Sys2Proof.Machine.execDwWrite slot irq s
  | .dwRequestDone slot => Sys2Proof.Machine.execDwRequestDone slot s
  | .profileLoad p => Sys2Proof.Machine.execProfileLoad p s
  | .profileSave p => Sys2Proof.Machine.execProfileSave p s
  | .profileDefaults p => Sys2Proof.Machine.execProfileDefaults p s
  | .profileFlashWriteDone ok => Sys2Proof.Machine.execProfileFlashWriteDone ok s
  | .extest => Sys2Proof.Machine.execExtest s
  | .idcode => Sys2Proof.Machine.execIdcode s
  | .samplePreload pins preload => Sys2Proof.Machine.execSamplePreload pins preload s
  | .highz => Sys2Proof.Machine.execHighz s
  | .clamp => Sys2Proof.Machine.execClamp s
  | .extestPulse => Sys2Proof.Machine.execExtestPulse s
  | .extestTrain => Sys2Proof.Machine.execExtestTrain s
  | .bypass opcode => Sys2Proof.Machine.execBypass opcode s
  | .tapReset => Sys2Proof.Machine.execTapReset s
  | .registerWrite fn win off acc v => Sys2Proof.Machine.execRegisterWrite fn win off acc v s
  | .linkRetryLimit link => Sys2Proof.Machine.execLinkRetryLimit link s
  | .hostReadTimeout ch => Sys2Proof.Machine.execHostReadTimeout ch s
  | .msixUnmask fn vec => Sys2Proof.Machine.execMsixUnmask fn vec s
  | .pmeStatusClear fn => Sys2Proof.Machine.execPmeStatusClear fn s
  | .perstNDeassert => Sys2Proof.Machine.execPerstNDeassert s
  | .mirrorPortLinkChange portB up => Sys2Proof.Machine.execMirrorPortLinkChange portB up s
  | .mirrorFrameDrop portB f => Sys2Proof.Machine.execMirrorFrameDrop portB f s
  | .ssdReady p id => Sys2Proof.Machine.execSsdReady p id s
  | .ssdReadyTimeout p => Sys2Proof.Machine.execSsdReadyTimeout p s
  | .ssdShutdownComplete p => Sys2Proof.Machine.execSsdShutdownComplete p s
  | .channelSample ch raw => Sys2Proof.Machine.execChannelSample ch raw s

end Sys2Proof.Machine
end

