-- ==== Sys2Proof/Machine/RegRead.lean ====
section
/-! DEFINITION. What a read of a hub register returns (R9, R10): the Read columns of the register maps (R268 to R274, R288, R301, R330,
R331, R336, R345, R383, R466, R475, R467). A read changes nothing. -/

namespace Sys2Proof.Machine

def bit (b : Bool) (i : Nat) : Nat := if b then 2 ^ i else 0

/-! ### Rings (R273, R274) -/

def RingWords.word (w : RingWords) (i : Nat) : Nat := match i with
  | 0 => w.base.toNat
  | 1 => w.idx.toNat
  | 2 => w.hi.toNat
  | _ => w.config.toNat

def SqRing.word (x : SqRing) (i : Nat) : Nat :=
  if i < 4 then x.written.word i
  else if i = 4 then bit (x.pending != 0) 16 + x.ready.length % 256 * 2 ^ 8 + x.error % 16 * 2 ^ 4 + x.state % 4
  else if i = 5 then x.listed
  else 0

def CqRing.word (x : CqRing) (i : Nat) : Nat :=
  if i < 4 then x.written.word i
  else if i = 4 then bit (x.pending != 0) 34 + bit x.irqHeld 33 + x.irqCount % 256 * 2 ^ 25 + x.reserved % 2 ^ 17 * 2 ^ 8
    + x.error % 16 * 2 ^ 4 + x.state % 4
  else if i = 5 then x.count
  else 0

/-! ### The function page (R270, R301, R336, R345) -/

/-- FN_STATUS. -/
def fnStatus (fn : Fin 64) : Nat := bit (fn.val == 0) 6 + fn.val

def Mailbox.word (m : Mailbox) (o : Nat) : Nat :=
  if o < 0x58 then (m.outMsg.extractLsb' (48 * (o / 8)) 48).toNat
  else if 0x60 ≤ o ∧ o < 0xB8 then (m.inMsg.extractLsb' (48 * ((o - 0x60) / 8)) 48).toNat
  else if o = 0xC0 then bit m.outReject 2 + bit m.inFull 1 + bit m.outFull 0
  else if o = 0xC8 then bit m.inIrqEn 6 + m.inVector.toNat
  else 0

def Handle.word (x : Handle) (o : Nat) : Nat :=
  if o = 0 then x.destSlot * 2 ^ 40 + x.keyLen * 2 ^ 33 + bit x.toKey 32 + x.keySlot * 2 ^ 16 + bit x.hmac 7 + x.alg * 2 ^ 4
  else if o = 8 then x.err * 2 ^ 24 + (if 2 ≤ x.state then x.ctx * 2 ^ 20 else 0) + bit x.matched 16 + bit x.cmpDone 15 + x.state
  else if o = 0x18 then x.lastCnt
  else if 0x28 ≤ o ∧ o < 0x80 then fieldNat x.result (6 * ((o - 0x28) / 8)) 6
  else if o = 0x88 then x.count
  else 0

def KeyPort.word (p : KeyPort) (o : Nat) : Nat :=
  if o = 0 then p.slot else if o = 0x18 then p.err * 2 ^ 8 + p.buffer.length else 0

/-- BOOT_STATUS and RESET_CAUSE (R475), which the physical function alone has. -/
def Boot.word (b : Boot) (o : Nat) : Nat :=
  if o = 0x20 then (if b.stage = 7 then b.code * 2 ^ 16 else 0) + b.bank * 2 ^ 8 + b.stage else if o = 0x28 then b.cause else 0

def State.pageWord (s : State) (fn : Fin 64) (o : Nat) : Nat :=
  if o = 0x10 then fnStatus fn
  else if 0x20 ≤ o ∧ o < 0x30 then (if fn.val = 0 then s.boot.word o else 0)
  else if 0x100 ≤ o ∧ o < 0x200 then (if fn.val = 0 then 0 else (s.host.insts[fn].mailbox).word (o - 0x100))
  else if 0x200 ≤ o ∧ o < 0x220 then (s.keyPort fn).word (o - 0x200)
  else if 0x300 ≤ o ∧ o < 0xF00 then (s.handle (16 * fn.val + (o - 0x300) / 0xC0)).word ((o - 0x300) % 0xC0)
  else 0

/-! ### The Mover and the persist controller (R330, R331, R383) -/

/-- STATE of CH_STATUS: idle, active, paused, disabled. -/
def MvChannel.status (x : MvChannel) : Nat :=
  if x.disable then 3 else if x.cur.isSome then 1 else if x.pause then 2 else if x.next.isSome || !x.queue.isEmpty then 1 else 0

/-- HOLDWAIT: the host read that the channel is on waits for its function (R324). -/
def State.holdWait (s : State) (x : MvChannel) : Bool := match x.cur with
  | some d => d.srcSpace == 0 && s.hostHeld d.inst && decide (0 < x.remain)
  | none => false

def State.channelWord (s : State) (ch : Fin 32) (o : Nat) : Nat :=
  let x := s.mover.channels[ch]
  if o = 0 then x.share * 2 ^ 16 + x.burst * 2 ^ 8 + x.prio * 4 + bit x.pause 1 + bit x.disable 0
  else if o = 8 then bit (decide (8 ≤ x.queue.length)) 11 + x.queue.length * 2 ^ 7 + x.inflight.length * 2 ^ 4 + bit (s.holdWait x) 3 + x.status
  else if o = 0x10 then x.curReg
  else if o = 0x18 then x.remain
  else if o = 0x20 then x.errTag * 2 ^ 32 + bit x.errValid 28 + x.errCause * 2 ^ 24 + x.errCount
  else if o = 0x28 then x.errDesc
  else if o = 0x30 then x.bytes
  else 0

def State.moverWord (s : State) (o : Nat) : Nat :=
  if o = 0 then s.holdBytes else if o = 8 then s.heldDescs else if o = 0x10 then s.mover.holdLost else 0

def PersistPort.word (p : PersistPort) (o : Nat) : Nat :=
  if o = 0 then p.failReason * 2 ^ 24 + p.queues * 2 ^ 8 + bit p.vwc 3 + p.state
  else if o = 8 then p.writes
  else if o = 0x10 then p.reads
  else if o = 0x18 then p.errors
  else 0

/-- The word of a hub register in the physical function's W0 (R269). -/
def State.w0Word (s : State) (o : Nat) : Nat :=
  if o < 0x1000 then s.pageWord 0 o
  else if 0x100000 ≤ o ∧ o < 0x140000 then (s.sq ((o - 0x100000) / 64)).word (o % 64 / 8)
  else if 0x140000 ≤ o ∧ o < 0x180000 then (s.cq ((o - 0x140000) / 64)).word (o % 64 / 8)
  else if 0x2000000 ≤ o ∧ o < 0x2002000 then
    let n := (o - 0x2000000) / 0x100
    if h : n < 32 then s.channelWord ⟨n, h⟩ ((o - 0x2000000) % 0x100) else 0
  else if 0x2002000 ≤ o ∧ o < 0x2002018 then s.moverWord (o - 0x2002000)
  else if 0x2010000 ≤ o ∧ o < 0x2010100 then
    let n := (o - 0x2010000) / 0x40
    if h : n < 4 then (s.persist.ports[n]).word (o % 0x40) else 0
  else 0

/-! ### Windows W2 and W4 (R288, R466, R467) -/

/-- A byte of a word at offset i of its 8 bytes: bits 63 to 48 read as zero (R9). -/
def wordByte (w i : Nat) : Byte := if i < 6 then BitVec.ofNat 8 (w >>> (8 * i)) else 0

def DwSlot.word (x : DwSlot) (o : Nat) : Nat :=
  if o = 0 then x.req.toNat
  else if o = 0x10 then x.resultLen * 2 ^ 18 + x.error * 4 + x.state
  else if o = 0x18 then x.vector.toNat
  else 0

def State.w2Byte (s : State) (o : Nat) : Byte :=
  if h : o / 65536 < 8 then
    let x := s.window[o / 65536]
    let p := o % 65536
    if 0x100 ≤ p then (if p < 0x8100 then sparseRead x.buffer (p - 0x100) else 0) else wordByte (x.word (p - p % 8)) (p % 8)
  else if 0x80000 ≤ o ∧ o < 0x82000 then
    match s.events.windowLog.reverse.find? fun (e : Event) => e.seq % 256 == (o - 0x80000) / 32 with
    | some e => e.bytes.getD (o % 32) 0
    | none => 0
  else if 0xF0000 ≤ o ∧ o < 0xF0004 then BitVec.ofNat 8 (s.events.seq >>> (8 * (o % 8)))
  else 0

def State.w4Byte (s : State) (fn : Fin 64) (o : Nat) : Byte :=
  let f := s.host.fns[fn]
  if o < 16 * vectorsOf fn then
    let i := o % 16
    if i < 12 then (sparseRead f.msixTable (o / 16)).extractLsb' (8 * i) 8
    else if i = 12 then (if f.vectorMask.getLsbD (o / 16) then 1 else 0)
    else 0
  else if 0x2000 ≤ o ∧ o < 0x2000 + vectorsOf fn / 8 then f.pba.extractLsb' (8 * (o - 0x2000)) 8
  else 0

/-- A byte that a read of a window returns; outside the registers of the window it is zero (R268). -/
def State.readByte (s : State) (fn : Fin 64) (win : Sys2Proof.Window) (o : Nat) : Byte :=
  match win with
  | .w0 => if fn.val = 0 then wordByte (s.w0Word (o - o % 8)) (o % 8) else if o < 0x1000 then wordByte (s.pageWord fn (o - o % 8)) (o % 8) else 0
  | .functionPage => if o < 0x1000 then wordByte (s.pageWord fn (o - o % 8)) (o % 8) else 0
  | .w2 => if fn.val = 0 then s.w2Byte o else 0
  | .w4 => s.w4Byte fn o
  | .config field => (leBytes 8 (s.readConfig fn field)).getD o 0

/-- A read of any size: the addressed bytes (R9). -/
def State.readWindow (s : State) (fn : Fin 64) (win : Sys2Proof.Window) (off size : Nat) : List Byte :=
  (List.range size).map fun i => s.readByte fn win (off + i)

end Sys2Proof.Machine
end

