-- ==== Sys2Proof/WellFormed.lean ====
section
/-! DEFINITION. Well-formed commands: operands whose values the spec's fields can carry. The meanings are total on every operand; what is
checked here is what an Ethernet frame, a register access or a host read can hold. -/

namespace Sys2Proof

/-- A value fits a U16, or a U48. -/
def isU16 (n : Nat) : Bool := decide (n < 65536)

def isU48 (n : Nat) : Bool := decide (n < 2 ^ 48)

/-- A size a host access can have (R9, R270). -/
def sizeOk (n : Nat) : Bool := n == 1 || n == 2 || n == 4 || n == 8

/-- Bytes that, when there are any, have a given number. -/
def optLength (x : Option (List Byte)) (n : Nat) : Bool := match x with
  | some l => l.length == n
  | none => true

/-- The mirror header (R399): a message travels in at least one Ethernet frame. -/
def MirrorHeader.wf (h : MirrorHeader) : Bool := isU16 h.senderPos && isU48 h.epoch && isU48 h.frameNo && decide (1 ≤ h.segs)

/-- LIST (R403): a 24-byte frame header, then records of whole 8-byte units (R353). -/
def FrameList.wf (l : FrameList) : Bool := l.header.length == 24 && l.records.length % 8 == 0

/-- The heartbeat block (R402): fields within their widths, HEALTH at most 1,000, ROLE a named value. -/
def Heartbeat.wf (h : Heartbeat) : Bool :=
  isU48 h.epoch && isU16 h.position && decide (h.role ≤ 6) && !h.flags.getLsbD 7 && decide (h.health ≤ 1000) && isU48 h.faults
    && isU48 h.frameNo && isU48 h.committed && isU16 h.upPos && isU16 h.downPos && isU16 h.toPos

/-- TICK (R403). -/
def TickPayload.wf (t : TickPayload) : Bool := t.hb.wf && isU48 t.digestFrame && t.digest.length == 32 && t.records.length % 8 == 0

/-- A DATA record (R353): 65,536 bytes of input at most, of which a compacted form can be longer. -/
def DataRecord.wf (r : DataRecord) : Bool := isU16 r.slot && decide (r.source < 256) && isU48 r.offset && decide (r.data.length ≤ 131072)

/-- ACK (R404). -/
def AckPayload.wf (a : AckPayload) : Bool :=
  a.hb.wf && isU48 a.recv && isU48 a.exec && isU48 a.ack && isU48 a.out && isU48 a.digestFrame && a.digest.length == 32

/-- JOIN_REQ (R405). -/
def JoinRequest.wf (r : JoinRequest) : Bool :=
  r.name.length == 16 && r.firmware.length == 16 && decide (r.persistBase < 256) && decide (r.mode < 256)

/-- JOIN_STATE (R405): whole descriptor and entry records. -/
def JoinStatePayload.wf (j : JoinStatePayload) : Bool := j.digest.length == 32 && j.descs.length % 32 == 0 && j.entries.length % 48 == 0

/-- Superblocks of P0 to P3, one block each (R370). -/
def RestoreRead.wf (r : RestoreRead) : Bool :=
  r.superblocks.all fun m => decide (m.1 < 4) && optLength m.2.1 4096 && optLength m.2.2 4096

/-- A firmware bank (R478). -/
def FirmwareBank.wf (b : FirmwareBank) : Bool := b.header.length == 512 && decide (b.body.length ≤ 4193792)

/-- A BDP frame (R457): fields within their widths. -/
def BdpFrame.wf (f : BdpFrame) : Bool :=
  decide (f.version < 256) && decide (f.type < 256) && isU16 f.transId && isU16 f.bodyLen && isU16 f.index && decide (f.subindex < 256)
    && decide (f.dataType < 256) && isU16 f.error && decide (f.body.length ≤ 1500)

/-- Bytes of a window (R268). -/
def Window.size : Window → Nat
  | .w0 => 67108864
  | .functionPage => 4096
  | .w2 => 1048576
  | .w4 => 16384
  | .config _ => 4096

/-- A command is well formed. -/
def Instr.wf : Instr → Bool
  | .frameTimerExpiry => true
  | .tick _ => true
  | .leaseExpiry => true
  | .frameMerge => true
  | .tileHangTimeout _ => true
  | .selftestPart _ _ => true
  | .selftestLate _ => true
  | .healthEvaluation => true
  | .marginCheck mirrorPct hostPct persistPct => decide (mirrorPct ≤ 100) && decide (hostPct ≤ 100) && decide (persistPct ≤ 100)
  | .mova _ _ => true
  | .movi _ _ => true
  | .movh _ _ => true
  | .adda _ _ => true
  | .addai _ _ => true
  | .suba _ _ => true
  | .nega _ _ => true
  | .shla _ _ => true
  | .shra _ _ => true
  | .sara _ _ => true
  | .shlai _ _ => true
  | .shrai _ _ => true
  | .sarai _ _ => true
  | .bra _ _ => true
  | .brai _ _ => true
  | .jmp _ _ => true
  | .call _ _ => true
  | .jmpr _ _ => true
  | .ftime _ _ => true
  | .movd _ _ => true
  | .movdi _ _ => true
  | .bcst _ _ => true
  | .movad _ _ => true
  | .perm _ _ => true
  | .gets _ _ => true
  | .puts _ _ => true
  | .clrs _ _ => true
  | .add _ _ => true
  | .addi _ _ => true
  | .adc _ _ => true
  | .sub _ _ => true
  | .subi _ _ => true
  | .neg _ _ => true
  | .cmp _ _ => true
  | .cmpi _ _ => true
  | .mul _ _ => true
  | .mulu _ _ => true
  | .mulh _ _ => true
  | .mulhu _ _ => true
  | .div _ _ => true
  | .divu _ _ => true
  | .rem _ _ => true
  | .remu _ _ => true
  | .and _ _ => true
  | .or _ _ => true
  | .xor _ _ => true
  | .andn _ _ => true
  | .not _ _ => true
  | .andi _ _ => true
  | .ori _ _ => true
  | .xori _ _ => true
  | .shl _ _ => true
  | .shr _ _ => true
  | .sar _ _ => true
  | .rol _ _ => true
  | .ror _ _ => true
  | .shli _ _ => true
  | .shri _ _ => true
  | .sari _ _ => true
  | .roli _ _ => true
  | .rori _ _ => true
  | .min _ _ => true
  | .max _ _ => true
  | .minu _ _ => true
  | .maxu _ _ => true
  | .sel _ _ => true
  | .clz _ _ => true
  | .popc _ _ => true
  | .cmpk _ _ => true
  | .cmpki _ _ => true
  | .kand _ _ => true
  | .kor _ _ => true
  | .kandn _ _ => true
  | .kxor _ _ => true
  | .knot _ _ => true
  | .kmov _ _ => true
  | .kset _ _ => true
  | .kget _ _ => true
  | .brf _ _ => true
  | .xadd _ _ => true
  | .xaddu _ _ => true
  | .xmac _ _ => true
  | .xmacu _ _ => true
  | .xmin _ _ => true
  | .xmax _ _ => true
  | .xcnt _ _ => true
  | .xfromd _ _ => true
  | .xtod _ _ => true
  | .ldw _ _ => true
  | .stw _ _ => true
  | .ldq _ _ => true
  | .stq _ _ => true
  | .gath _ _ => true
  | .ldp _ _ => true
  | .stp _ _ => true
  | .ldpq _ _ => true
  | .stpq _ _ => true
  | .gathp _ _ => true
  | .lget _ _ => true
  | .lput _ _ => true
  | .pfill _ _ => true
  | .wcmp _ _ => true
  | .dscan _ _ => true
  | .dscanf _ _ => true
  | .dscann _ _ => true
  | .ksrch _ _ => true
  | .kcont _ _ => true
  | .kins _ _ => true
  | .kagg _ _ => true
  | .kdrn _ _ => true
  | .srun _ _ => true
  | .smrg _ _ => true
  | .sdlv _ _ => true
  | .chand _ _ => true
  | .qpt _ _ => true
  | .endStage _ _ => true
  | .nop _ _ => true
  | .brk _ _ => true
  | .tget _ _ => true
  | .txa _ _ => true
  | .txd _ _ => true
  | .tretry _ _ => true
  | .tskip _ _ => true
  | .tend _ _ => true
  | .divx _ _ => true
  | .divxu _ _ => true
  | .rscl _ _ => true
  | .rsclx _ _ => true
  | .undefinedOpcode _ _ => true
  | .unitResultArrival _ _ => true
  | .pipelineEntry _ _ => true
  | .codecEncode _ _ _ => true
  | .codecDecode _ _ => true
  | .codecUnitGrant _ => true
  | .codecJobFinish _ => true
  | .nopEntry _ _ => true
  | .tableCreate _ => true
  | .tableClear _ => true
  | .tableDestroy _ => true
  | .tableLoad _ _ => true
  | .setDescriptor _ => true
  | .squash _ => true
  | .sqDoorbell _ _ size => sizeOk size
  | .cqDoorbell _ _ size => sizeOk size
  | .indexBlockReadComplete _ _ _ => true
  | .entryReadComplete _ _ _ => true
  | .imageReadComplete _ _ => true
  | .ringContextWrite _ _ _ _ _ => true
  | .modTimerExpiry _ => true
  | .functionPowerStateChange _ _ => true
  | .busMasterEnableChange _ _ => true
  | .linkStateChange _ => true
  | .pmeResend _ => true
  | .functionLevelReset _ => true
  | .vfEnableChange _ n => decide (n ≤ 63)
  | .hotReset _ => true
  | .outDoorbellSend _ _ _ => true
  | .inAck _ _ _ => true
  | .toTenant _ _ => true
  | .fromAck _ _ => true
  | .chAppend _ _ _ => true
  | .descriptorFetch _ => true
  | .burstStart => true
  | .pacingIntervalExpiry _ => true
  | .burstReadComplete _ _ => true
  | .chPause _ _ => true
  | .chDisable _ _ => true
  | .chErrorClear _ => true
  | .dgOpen _ _ _ => true
  | .dgAbort _ _ _ => true
  | .dgClose _ _ _ => true
  | .dgCompare _ _ _ => true
  | .compareDone _ _ => true
  | .dgData _ _ _ => true
  | .dgKeymsg _ _ _ => true
  | .dgLast _ _ _ => true
  | .digestFinishComplete _ _ => true
  | .dgExpect _ _ _ => true
  | .ksData _ _ => true
  | .ksCommit _ _ => true
  | .cocoonAcknowledged frame => isU48 frame
  | .commitTimeout => true
  | .chrysalisWriteAck => true
  | .chrysalisComplete => true
  | .ssdCommandTimeout _ => true
  | .ssdCommandError _ => true
  | .ssdLinkDown _ => true
  | .smartLogPoll _ => true
  | .format => true
  | .chrysalisSoon => true
  | .keyReady => true
  | .restore rd => rd.wf
  | .keyReadyTimeout => true
  | .cocoonReplay bytes => bytes.length % 4096 == 0
  | .slotFetchComplete slot data => decide (slot < 380928) && optLength data 1048576
  | .listMessage hdr list => hdr.wf && list.wf
  | .tickMessage hdr msg => hdr.wf && msg.wf
  | .dataMessage hdr recs => hdr.wf && recs.all DataRecord.wf
  | .ackMessage hdr msg => hdr.wf && msg.wf
  | .heartbeatMessage _ hb => hb.wf
  | .fenceMessage hb reason => hb.wf && decide (1 ≤ reason) && decide (reason ≤ 8)
  | .joinReq pos req => isU16 pos && req.wf
  | .copyMessage slot data _ => decide (slot < 2 ^ 32) && data.length == 1048576
  | .joinState frame st => isU48 frame && st.wf
  | .joinReply code => decide (code ≤ 6)
  | .linkack _ _ => true
  | .followerTick _ => true
  | .retransmitTimeout _ => true
  | .linkackTimer _ => true
  | .overrunHeartbeatTimer _ => true
  | .pathSilenceTimeout _ _ => true
  | .joinDrainTimeout => true
  | .formingHeartbeatTimer => true
  | .formWaitExpiry => true
  | .mirrorCmdJoin => true
  | .mirrorCmdDetach => true
  | .mirrorCmdFence => true
  | .mirrorCmdForm => true
  | .powerOn => true
  | .vinOn => true
  | .railUpTimeout => true
  | .powerupRetryTimer => true
  | .pwrgood => true
  | .powerFail _ => true
  | .pfRestartExpiry => true
  | .vinOff => true
  | .railFault channel => decide (2 ≤ channel) && decide (channel ≤ 13)
  | .thermalBand => true
  | .thermalTrip channel => decide (16 ≤ channel) && decide (channel ≤ 43)
  | .stackHot _ => true
  | .ruleAssert _ => true
  | .ruleRelease _ => true
  | .ruleWrite _ _ => true
  | .mothCmdDoze => true
  | .dozeEntry => true
  | .ssdShutdownTimeout => true
  | .dozeLinkWaitExpiry => true
  | .mothCmdWake => true
  | .mothCmdRestart => true
  | .dozeTimerExpiry => true
  | .wakeSchedule _ _ => true
  | .perstNAssert => true
  | .moduleReset _ _ => true
  | .trstN => true
  | .bringupStart _ => true
  | .firmwareVerify a b => a.wf && b.wf
  | .memoryTrainingComplete _ => true
  | .startupSelftestComplete _ => true
  | .sysRefclkLoss => true
  | .pexRefclkLoss => true
  | .mirRefclkLoss => true
  | .auxClkLoss => true
  | .auxClkReturn => true
  | .hostLinkTraining speed width => decide (speed ≤ 5) && decide (width ≤ 16)
  | .refreshIntervalExpiry _ => true
  | .refreshUnit _ _ => true
  | .mr4Readout _ readings => readings.all fun x => decide (x ≤ 255)
  | .recalibration _ => true
  | .scrubVisit _ _ => true
  | .scrubLate _ => true
  | .memoryReadReturn _ _ _ => true
  | .writeQueueDrain _ => true
  | .partialWrite _ data _ => !data.bytes.isEmpty && decide (data.bytes.length ≤ 192)
  | .verifyScanRow _ _ => true
  | .cacheEnableWrite _ => true
  | .cacheDrainComplete => true
  | .holdWrite _ => true
  | .timeBaseWrite _ => true
  | .bdpReadReq f => f.wf
  | .bdpWriteReq f => f.wf
  | .bdpAbort f => f.wf
  | .bdpFrameDrop f => f.wf
  | .segmentTransferTimeout n => decide (n < 4)
  | .eventFrameSend => true
  | .dwRead _ _ => true
  | .dwReadShadow _ _ => true
  | .dwWrite _ _ => true
  | .dwRequestDone _ => true
  | .profileLoad p => decide (p < 4)
  | .profileSave p => decide (p < 4)
  | .profileDefaults p => decide (p < 4)
  | .profileFlashWriteDone _ => true
  | .extest => true
  | .idcode => true
  | .samplePreload _ _ => true
  | .highz => true
  | .clamp => true
  | .extestPulse => true
  | .extestTrain => true
  | .bypass _ => true
  | .tapReset => true
  | .registerWrite _ win off _ _ => decide (off < win.size)
  | .linkRetryLimit _ => true
  | .hostReadTimeout _ => true
  | .msixUnmask _ _ => true
  | .pmeStatusClear _ => true
  | .perstNDeassert => true
  | .mirrorPortLinkChange _ _ => true
  | .mirrorFrameDrop _ _ => true
  | .ssdReady _ id => decide (id.queues ≤ 65535)
  | .ssdReadyTimeout _ => true
  | .ssdShutdownComplete _ => true
  | .channelSample _ _ => true

end Sys2Proof
end

