-- ==== Sys2Proof/Safety.lean ====
section
/-! DEFINITION. What a safe step and a safe run of the block are, in the terms the statements use. -/

namespace Sys2Proof

/-- The outcome of a step is a next state. -/
def answersNext (o : Host.Outcome Machine.State Machine.Fault Machine.Refusal) : Prop := ∃ t, o = .next t

/-- Every command waiting in the queue is well formed. -/
def queueWf (s : Machine.State) : Bool := s.pending.all Instr.wf

/-- A state whose next step is safe: it answers a next state. -/
def safeStep (s : Machine.State) : Prop := answersNext (Machine.step s)

/-- Runs of n steps, each of which answers a next state. -/
inductive Run : Nat → Machine.State → Machine.State → Prop where
  | refl (s : Machine.State) : Run 0 s s
  | step {n : Nat} {s t u : Machine.State} : Machine.step s = .next t → Run n t u → Run (n + 1) s u

/-- The memory keeps its canonical form: addresses strictly rising and no zero byte listed. -/
abbrev memoryWf (s : Machine.State) : Prop := s.mem.wf = true

/-- Tile t takes the word w as its next instruction (R136, R185): it has an entry to run, no failure has overtaken it, and w is
the word at the PC, of its program or, in trap mode, of the trap region. -/
structure Runs (s : Machine.State) (t : Fin 64) (w : Word) (c : Machine.Ctx) (e : Machine.WorkEntry) (img : Machine.Image) :
    Prop where
  runner : s.runner t = some (c, e, img)
  ahead : s.overtaken t = false
  place : (c.trap = none → c.pc.toNat < 0x3C00) ∧ s.fetch c = w

/-- The instruction after this one exists: the tile is not at the last index of the trap region (R176). -/
def goesOn (c : Machine.Ctx) : Prop := c.trap = none ∨ c.pc ≠ 0x3FFF

/-- An access of a tile passes the tests of its selector (R69, R149): the image lists it in a fitting set, and its descriptor d is
in use and permits the access. -/
structure Opens (s : Machine.State) (e : Machine.WorkEntry) (img : Machine.Image) (store : Bool) (ea : Word) (d : BitVec 192) :
    Prop where
  listed : ∃ p ∈ img.sets, p.1 = Machine.selOf ea ∧ (store = true → p.2 = true)
  named : Machine.selOf ea ≠ 0
  descriptor : d = s.desc e.inst (Machine.selOf ea)
  valid : Machine.descKind d ≠ 0
  permitted : (if store then Machine.descWr d else Machine.descRd d) = true

/-- A line or header reads as it was written: it is not uncorrectable, and none of its symbols is in error, in memory or in the cache
(R235, R236, R261). -/
def LineGood (s : Machine.State) (l : Nat) : Prop :=
  l ∉ s.mem.poisoned ∧ (∀ p ∈ s.dram.errors, Machine.lineOf p.1 ≠ l) ∧ ∀ x ∈ s.cache.errors, x.ma ≠ l

/-- No error waits to be met: the cells and SRAM words of the array are as they were written, and no symbol of module memory is in error
(R210, R212, R235). -/
structure SoundStore (s : Machine.State) : Prop where
  cells : s.kma.cam = []
  words : s.kma.sram = []
  symbols : s.dram.errors = []

/-- A word at a span offset passes the other tests of an access (R55, R69, R114, R149), its slot is resident, and its line reads
as it was written. -/
structure WordThere (s : Machine.State) (c : Machine.Ctx) (store : Bool) (d : BitVec 192) (off : Nat) : Prop where
  within : off + 5 ≤ Machine.descLimit d
  formed : (Machine.descBase d + off) % Machine.slotBytes % 6 = 0
  inSegment : (Machine.descBase d + off) % Machine.slotBytes ≤ Machine.lineArea + 54
  resident : s.resident ((Machine.descBase d + off) / Machine.slotBytes) = true
  correct : LineGood s (Machine.lineOf (Machine.descBase d + off))
  mayStore : store = true → (Machine.descBase d + off) % Machine.slotBytes < Machine.lineArea
    ∧ c.rank * (Machine.descSegs d / c.tiles) * Machine.slotBytes ≤ off
    ∧ off < (c.rank + 1) * (Machine.descSegs d / c.tiles) * Machine.slotBytes

/-- The same for a line at a span offset (R55, R154). -/
structure LineThere (s : Machine.State) (c : Machine.Ctx) (store : Bool) (d : BitVec 192) (off : Nat) : Prop where
  within : off + 191 ≤ Machine.descLimit d
  formed : (Machine.descBase d + off) % Machine.slotBytes % 192 = 0
  inSegment : (Machine.descBase d + off) % Machine.slotBytes < Machine.lineArea
  resident : s.resident ((Machine.descBase d + off) / Machine.slotBytes) = true
  correct : LineGood s (Machine.lineOf (Machine.descBase d + off))
  mayStore : store = true → c.rank * (Machine.descSegs d / c.tiles) * Machine.slotBytes ≤ off
    ∧ off < (c.rank + 1) * (Machine.descSegs d / c.tiles) * Machine.slotBytes

/-! ### The blocks a SCAN skips (R92, R118): what its code must find before it declares a step -/

/-- A closed interval meets none of some intervals, in the order of a type. -/
def missesAll (ty : Nat) (lo hi : Word) (ivs : List (Word × Word)) : Bool :=
  ivs.all fun p => decide (Machine.ordVal ty hi < Machine.ordVal ty p.1) || decide (Machine.ordVal ty p.2 < Machine.ordVal ty lo)

/-- n interval lists from a word index of the constant block: column and intervals of each (R109). -/
def intervalsAt (img : Machine.Image) : Nat → Nat → List (Nat × List (Word × Word))
  | 0, _ => []
  | n + 1, i =>
    let w := (img.consts.getD i 0).toNat
    let cnt := bitsOf w 9 5
    (bitsOf w 4 0, (List.range cnt).map fun k => (img.consts.getD (i + 1 + 2 * k) 0, img.consts.getD (i + 2 + 2 * k) 0))
      :: intervalsAt img n (i + 1 + 2 * cnt)

/-- The interval lists of the FILTERs of a SCAN. -/
def scanIntervals (img : Machine.Image) (op : Nat) : List (Nat × List (Word × Word)) :=
  (img.ops.filter fun q => q.kind == 3 && q.inA == op).flatMap fun q =>
    intervalsAt img (bitsOf q.arg1 17 14) (bitsOf q.arg1 13 0)

/-- The selector whose extremes a column is tested by: its high component's, where it has one (R56, R109). -/
def testedSel (w : Word) : Nat :=
  if bitsOf w.toNat 35 24 = 0 then bitsOf w.toNat 11 0 else bitsOf w.toNat 35 24

/-- The intervals that a column of a segment takes part with: those of a DICT48 column only where they are a single value, unless its
dictionary is ORDERED (R62, R92). -/
def partIn (s : Machine.State) (inst slot : Nat) (ivs : List (Word × Word)) : Bool :=
  s.segHeader slot 4 1 % 16 != 6 || ivs.all (fun p => p.1 == p.2) ||
    match s.dictSpan inst (s.segHeader slot 36 4) with
    | some d => bitOf (s.segHeader (Machine.descBase d / Machine.slotBytes) 6 2) 2
    | none => false

/-- Block j of a SCAN is skipped: for one of its tested columns the extremes of the segment or of the block meet none of the intervals,
or every row of the block is null (R92, R118). -/
def skipsBlock (s : Machine.State) (e : Machine.WorkEntry) (img : Machine.Image) (op j : Nat) : Bool :=
  match img.ops[op]? with
  | none => false
  | some o => (scanIntervals img op).any fun p =>
    let d := s.desc e.inst (testedSel (img.consts.getD (bitsOf o.arg3 13 0 + p.1) 0))
    match (Machine.locateBlock s d j).found with
    | none => false
    | some (slot, k) =>
      let ty := s.segHeader slot 4 1 % 16
      let x := s.dirEntry slot k
      Machine.descKind d == 1 && partIn s e.inst slot p.2 &&
        (missesAll ty (BitVec.ofNat 48 (s.segHeader slot 42 6)) (BitVec.ofNat 48 (s.segHeader slot 48 6)) p.2
          || x.allNull || missesAll ty x.min x.max p.2)

/-- A quota point that declares the fetch of a block (STEP 1) declares none that is to be skipped. -/
def FetchesWhatPasses (s : Machine.State) (c : Machine.Ctx) (e : Machine.WorkEntry) (img : Machine.Image) (f : BitVec 40) : Prop :=
  Machine.fNat f 28 4 = 1 → skipsBlock s e img (Machine.fNat f 32 8) (c.getA (Machine.fA f 24)).toNat = false

/-- The newest record of the event log (R464). -/
def Recorded (u : Machine.State) (code severity loc detail arg : Nat) : Prop :=
  ∃ e, u.events.log.head? = some e ∧ e.code = code ∧ e.severity = severity ∧ e.location = loc ∧ e.detail = detail ∧ e.arg = arg

/-- The outcome of a table command (R221): `u` has the array of `t`, the 16-byte result has gone to the command's RESULT address, and
the command's entry has finished. -/
def ResultSent (s t u : Machine.State) (e : Machine.WorkEntry) (status limit held : Nat) : Prop :=
  u.kma = t.kma ∧ u.mem.bytes = s.mem.bytes
    ∧ (s.hostStopped e.inst = false → s.hostHeld e.inst = false → ∃ after, u.host.sent = s.host.sent ++
        .data e.inst (Machine.entryField e.desc 32 8)
          (Machine.leBytes 2 status ++ Machine.leBytes 4 limit ++ Machine.leBytes 4 held ++ List.replicate 6 0) false :: after)
    ∧ (∃ x ∈ u.work, x.slot = e.slot ∧ x.pos = e.pos ∧ x.finished = some (s.frame.frameNo, if status = 0 then x.late else status, 0))

/-- The commands that can move FRAME_NO: ticks, replayed cocoons, installed states, resets, wakes, and the object writes that lead to
one of them. -/
def movesFrame : Instr → Bool
  | .bdpWriteReq .. | .cocoonReplay .. | .dwRead .. | .dwReadShadow .. | .dwWrite .. | .followerTick .. | .joinState .. | .keyReady ..
  | .moduleReset .. | .mothCmdRestart | .perstNAssert | .pfRestartExpiry | .powerOn | .pwrgood | .registerWrite .. | .restore ..
  | .tick .. | .wakeSchedule .. => true
  | _ => false

/-- The commands that can change the KMA array or a byte of module memory, beside those that can move FRAME_NO: the stores of tiles, of
the Mover and of the codec, the runs of a SORT, the merge, the table commands, a squash, memory errors, installed slots, and the verify
scan. -/
def writesStore : Instr → Bool
  | .burstReadComplete .. | .codecEncode .. | .copyMessage .. | .firmwareVerify .. | .frameMerge | .lput .. | .memoryReadReturn ..
  | .partialWrite .. | .scrubVisit .. | .slotFetchComplete .. | .smrg .. | .squash .. | .srun .. | .stq .. | .stw .. | .tableClear ..
  | .tableCreate .. | .tableDestroy .. | .tableLoad .. | .verifyScanRow .. => true
  | _ => false

/-- The command names a line beyond the module memory of the ordering code (R53). -/
def beyondMemory (e384 : Bool) : Instr → Bool
  | .memoryReadReturn ma _ _ | .partialWrite ma _ _ => decide (Machine.slotCount e384 * Machine.slotBytes ≤ ma)
  | _ => false

end Sys2Proof
end

