-- ==== Sys2Proof/Certificates/Slice0/Obligations.lean ====
section
/-! DEFINITION. The statements about the block: what each command does, what it leaves alone, and what every step keeps. -/

section

open Sys2Proof Sys2Proof.Machine

/-- The address class (R43, R138, R139, R140, R176): each instruction of the class writes its one result to Ad and goes on; no
flag, mask, other register or memory byte changes. A shift by 48 or more is covered by the same formula. -/
def Obligations.AddressClassWritesItsResult : Prop :=
  ∀ r ∈ ([
      (.mova, 0x01, 0, 32, fun _ c f => c.getA (fA f 32)),
      (.movi, 0x02, 32, 4, fun _ _ f => BitVec.ofInt 48 (f.extractLsb' 0 32).toInt),
      (.movh, 0x03, 16, 20, fun _ c f =>
        BitVec.ofNat 48 ((f.extractLsb' 0 16).toNat * 2 ^ 32 + (c.getA (fA f 36)).toNat % 2 ^ 32)),
      (.adda, 0x04, 0, 28, fun _ c f => BitVec.ofNat 48 ((c.getA (fA f 32)).toNat + (c.getA (fA f 28)).toNat)),
      (.addai, 0x05, 0, 0, fun _ c f => BitVec.ofInt 48 ((c.getA (fA f 32)).toInt + (f.extractLsb' 0 32).toInt)),
      (.suba, 0x06, 0, 28, fun _ c f => BitVec.ofInt 48 ((c.getA (fA f 32)).toInt - (c.getA (fA f 28)).toInt)),
      (.nega, 0x07, 0, 32, fun _ c f => BitVec.ofNat 48 (2 ^ 48 - (c.getA (fA f 32)).toNat)),
      (.shla, 0x08, 0, 28, fun _ c f => BitVec.ofNat 48 ((c.getA (fA f 32)).toNat * 2 ^ ((c.getA (fA f 28)).toNat % 256))),
      (.shra, 0x09, 0, 28, fun _ c f => BitVec.ofNat 48 ((c.getA (fA f 32)).toNat / 2 ^ ((c.getA (fA f 28)).toNat % 256))),
      (.sara, 0x0A, 0, 28, fun _ c f => BitVec.ofInt 48 ((c.getA (fA f 32)).toInt / 2 ^ ((c.getA (fA f 28)).toNat % 256))),
      (.shlai, 0x0B, 8, 24, fun _ c f => BitVec.ofNat 48 ((c.getA (fA f 32)).toNat * 2 ^ (f.extractLsb' 0 8).toNat)),
      (.shrai, 0x0C, 8, 24, fun _ c f => BitVec.ofNat 48 ((c.getA (fA f 32)).toNat / 2 ^ (f.extractLsb' 0 8).toNat)),
      (.sarai, 0x0D, 8, 24, fun _ c f => BitVec.ofInt 48 ((c.getA (fA f 32)).toInt / 2 ^ (f.extractLsb' 0 8).toNat)),
      (.ftime, 0x15, 0, 36, fun s _ _ => s.frame.header.tstamp)] :
    List ((Fin 64 → BitVec 40 → Instr) × BitVec 8 × Nat × Nat × (State → Ctx → BitVec 40 → Word))),
  ∀ (s : State) (t : Fin 64) (f : BitVec 40) (c : Ctx) (e : WorkEntry) (img : Image),
    Runs s t (instrWord r.2.1 f) c e img → goesOn c → f.extractLsb' r.2.2.1 r.2.2.2.1 = 0 →
    exec (r.1 t f) s = .next (s.setHead t { c.setA (fA f 36) (r.2.2.2.2 s c f) with pc := c.pc + 1 })

/-- The flag branch BRF (R145, R177): its condition is tested in the lanes its mask enables, from the flags of each, and the lane
results are combined under ANY, ALL or L0. The PC becomes the target when the branch is taken and the next index when it is not;
FL and everything else stay. -/
def Obligations.FlagBranchesFollowTheirLanes : Prop :=
  ∀ r ∈ ([(0, fun _ z _ _ => z), (1, fun _ z _ _ => !z), (2, fun n _ _ v => n != v), (3, fun n _ _ v => n == v),
        (4, fun n z _ v => !z && (n == v)), (5, fun n z _ v => z || (n != v)), (6, fun _ _ c _ => !c), (7, fun _ _ c _ => c),
        (8, fun _ z c _ => c && !z), (9, fun _ z c _ => !c || z), (10, fun n _ _ _ => n), (11, fun n _ _ _ => !n),
        (12, fun _ _ _ v => v), (13, fun _ _ _ v => !v)] : List (BitVec 4 × (Bool → Bool → Bool → Bool → Bool))),
    ∀ (s : State) (t : Fin 64) (f : BitVec 40) (c : Ctx) (e : WorkEntry) (img : Image), f.extractLsb' 36 4 = r.1 →
      Runs s t (instrWord 0x5C f) c e img → f.extractLsb' 14 18 = 0 → (f.extractLsb' 34 2).toNat < 3 →
      ∀ b : Bool,
        (let lane (n : Fin 4) : Bool := r.2 (c.fl.getLsbD (4 * n.val + 3)) (c.fl.getLsbD (4 * n.val + 2)) (c.fl.getLsbD (4 * n.val + 1))
          (c.fl.getLsbD (4 * n.val))
        (b = true ↔ if (f.extractLsb' 34 2).toNat = 0 then ∃ n, c.enabled (fK f 32) n = true ∧ lane n = true
          else if (f.extractLsb' 34 2).toNat = 1 then ∀ n, c.enabled (fK f 32) n = true → lane n = true else lane 0 = true)) →
        (if b then c.trap = none → (fTarget f).toNat < 0x3C00 else goesOn c) →
        exec (.brf t f) s = .next (s.setHead t { c with pc := if b then fTarget f else c.pc + 1 })

/-- The branches of the address class (R140, R176): BRA compares two A registers, BRAI an A register with a sign-extended
immediate, and the PC becomes the target when the condition holds; JMP and CALL go to their target, CALL leaving the index after
it, zero-extended, in A15; JMPR goes to the low 14 bits of its A register, and takes the PC trap when a higher bit is set. -/
def Obligations.AddressBranchesReachTheirTarget : Prop :=
  (∀ r ∈ ([(0, fun a b => decide (a = b)), (1, fun a b => decide (a ≠ b)), (2, fun a b => decide (a.toInt < b.toInt)),
        (3, fun a b => decide (b.toInt ≤ a.toInt)), (4, fun a b => decide (a.toNat < b.toNat)), (5, fun a b => decide (b.toNat ≤ a.toNat))] :
      List (BitVec 3 × (Word → Word → Bool))),
    ∀ (s : State) (t : Fin 64) (f : BitVec 40) (c : Ctx) (e : WorkEntry) (img : Image), f.extractLsb' 37 3 = r.1 →
      (∀ b : Bool, b = r.2 (c.getA (fA f 33)) (c.getA (fA f 29)) → Runs s t (instrWord 0x10 f) c e img → f.extractLsb' 14 15 = 0 →
        (if b then c.trap = none → (fTarget f).toNat < 0x3C00 else goesOn c) →
        exec (.bra t f) s = .next (s.setHead t { c with pc := if b then fTarget f else c.pc + 1 }))
      ∧ ∀ b : Bool, b = r.2 (c.getA (fA f 33)) (BitVec.ofInt 48 (f.extractLsb' 14 19).toInt) → Runs s t (instrWord 0x11 f) c e img →
        (if b then c.trap = none → (fTarget f).toNat < 0x3C00 else goesOn c) →
        exec (.brai t f) s = .next (s.setHead t { c with pc := if b then fTarget f else c.pc + 1 }))
  ∧ ∀ (s : State) (t : Fin 64) (f : BitVec 40) (c : Ctx) (e : WorkEntry) (img : Image),
    (Runs s t (instrWord 0x12 f) c e img → f.extractLsb' 14 26 = 0 → (c.trap = none → (fTarget f).toNat < 0x3C00) →
      exec (.jmp t f) s = .next (s.setHead t { c with pc := fTarget f }))
    ∧ (Runs s t (instrWord 0x13 f) c e img → f.extractLsb' 14 26 = 0 → (c.trap = none → (fTarget f).toNat < 0x3C00) →
      exec (.call t f) s = .next (s.setHead t { c.setA 15 (BitVec.ofNat 48 (c.pc.toNat + 1)) with pc := fTarget f }))
    ∧ (∀ target : BitVec 14, Runs s t (instrWord 0x14 f) c e img → f.extractLsb' 0 36 = 0 →
      (c.getA (fA f 36)).toNat = target.toNat → (c.trap = none → target.toNat < 0x3C00) →
      exec (.jmpr t f) s = .next (s.setHead t { c with pc := target }))
    ∧ (Runs s t (instrWord 0x14 f) c e img → f.extractLsb' 0 36 = 0 → (c.getA (fA f 36)).extractLsb' 14 34 ≠ 0 →
      (c.trap = none → exec (.jmpr t f) s = .next (s.setHead t { c with
        trap := some { status := 0x0204, tpc := c.pc, tcause := 4, tinst := instrWord 0x14 f, taddr := c.getA (fA f 36), tinfo := 0,
                       ta := Vector.replicate 8 0, td := Vector.replicate 4 (quadOf 0) }
        pc := 0x3C40 }))
      ∧ ∀ r, c.trap = some r → exec (.jmpr t f) s = .next (s.tileFail t c 0x0204 r.tpc.toNat))

/-- What a data-class instruction leaves (R141, R142, R143, R147): an enabled lane takes its result, its four flags, and sets its
LX bits for an overflow and for a zero divisor; a disabled lane keeps all of these; nothing else of the tile changes. -/
def Obligations.DataClassLanesAndFlags : Prop :=
  ∀ (c : Ctx) (kn : Fin 4) (dst : Option (Fin 32)) (g : Fin 4 → LaneOut),
    (∀ n : Fin 4, c.enabled kn n = true →
      (∀ d, dst = some d → ((dataLanes c kn dst g).getD d)[n] = (g n).r)
      ∧ (dataLanes c kn dst g).fl.getLsbD (4 * n.val + 3) = decide ((g n).r.toInt < 0)
      ∧ (dataLanes c kn dst g).fl.getLsbD (4 * n.val + 2) = decide ((g n).r.toNat = 0)
      ∧ (dataLanes c kn dst g).fl.getLsbD (4 * n.val + 1) = ((g n).c).getD (c.fl.getLsbD (4 * n.val + 1))
      ∧ (dataLanes c kn dst g).fl.getLsbD (4 * n.val) = (g n).v
      ∧ (dataLanes c kn dst g).lx.getLsbD n.val = (c.lx.getLsbD n.val || (g n).dz)
      ∧ (dataLanes c kn dst g).lx.getLsbD (4 + n.val) = (c.lx.getLsbD (4 + n.val) || (g n).v))
    ∧ (∀ n : Fin 4, c.enabled kn n = false →
      (∀ d, ((dataLanes c kn dst g).getD d)[n] = (c.getD d)[n])
      ∧ (∀ j, j < 4 → (dataLanes c kn dst g).fl.getLsbD (4 * n.val + j) = c.fl.getLsbD (4 * n.val + j))
      ∧ (dataLanes c kn dst g).lx.getLsbD n.val = c.lx.getLsbD n.val
      ∧ (dataLanes c kn dst g).lx.getLsbD (4 + n.val) = c.lx.getLsbD (4 + n.val))
    ∧ (∀ d, dst ≠ some d → (dataLanes c kn dst g).getD d = c.getD d)
    ∧ ∃ d fl lx, dataLanes c kn dst g = { c with d := d, fl := fl, lx := lx }

/-- The lane-wise instructions of two D registers (R142, R148, R177, R184): result and flags of each, from the numbers the operand
lanes hold. Divisors of zero and the one quotient out of range are among the cases. -/
def Obligations.LanewiseInstructionsOfTwoRegisters : Prop :=
  ∀ r ∈ ([
      (.add, 0x28, fun _ a b => ⟨BitVec.ofNat 48 (a.toNat + b.toNat), some (decide (2 ^ 48 ≤ a.toNat + b.toNat)),
        decide (a.toInt + b.toInt < -2 ^ 47 ∨ 2 ^ 47 ≤ a.toInt + b.toInt), false⟩),
      (.adc, 0x2A, fun k a b => ⟨BitVec.ofNat 48 (a.toNat + b.toNat + k.toNat), some (decide (2 ^ 48 ≤ a.toNat + b.toNat + k.toNat)),
        decide (a.toInt + b.toInt + k.toNat < -2 ^ 47 ∨ 2 ^ 47 ≤ a.toInt + b.toInt + k.toNat), false⟩),
      (.sub, 0x2B, fun _ a b => ⟨BitVec.ofInt 48 (a.toInt - b.toInt), some (decide (b.toNat ≤ a.toNat)),
        decide (a.toInt - b.toInt < -2 ^ 47 ∨ 2 ^ 47 ≤ a.toInt - b.toInt), false⟩),
      (.mul, 0x30, fun _ a b => ⟨BitVec.ofNat 48 (a.toNat * b.toNat), none,
        decide (a.toInt * b.toInt < -2 ^ 47 ∨ 2 ^ 47 ≤ a.toInt * b.toInt), false⟩),
      (.mulu, 0x31, fun _ a b => ⟨BitVec.ofNat 48 (a.toNat * b.toNat), none, decide (2 ^ 48 ≤ a.toNat * b.toNat), false⟩),
      (.mulh, 0x32, fun _ a b => ⟨(a.signExtend 96 * b.signExtend 96).extractLsb' 48 48, none, false, false⟩),
      (.mulhu, 0x33, fun _ a b => ⟨(a.setWidth 96 * b.setWidth 96).extractLsb' 48 48, none, false, false⟩),
      (.div, 0x34, fun _ a b => ⟨if b.toNat = 0 then 0 else a.sdiv b, none, decide (a.toInt = -2 ^ 47 ∧ b.toInt = -1), decide (b.toNat = 0)⟩),
      (.divu, 0x35, fun _ a b => ⟨if b.toNat = 0 then 0 else a / b, none, false, decide (b.toNat = 0)⟩),
      (.rem, 0x36, fun _ a b => ⟨if b.toNat = 0 then a else a.srem b, none, decide (a.toInt = -2 ^ 47 ∧ b.toInt = -1), decide (b.toNat = 0)⟩),
      (.remu, 0x37, fun _ a b => ⟨if b.toNat = 0 then a else a % b, none, false, decide (b.toNat = 0)⟩),
      (.and, 0x38, fun _ a b => ⟨a &&& b, none, false, false⟩),
      (.or, 0x39, fun _ a b => ⟨a ||| b, none, false, false⟩),
      (.xor, 0x3A, fun _ a b => ⟨a ^^^ b, none, false, false⟩),
      (.andn, 0x3B, fun _ a b => ⟨a ^^^ (a &&& b), none, false, false⟩),
      (.shl, 0x40, fun _ a b => ⟨BitVec.ofNat 48 (a.toNat * 2 ^ (b.toNat % 256)), none, false, false⟩),
      (.shr, 0x41, fun _ a b => ⟨BitVec.ofNat 48 (a.toNat / 2 ^ (b.toNat % 256)), none, false, false⟩),
      (.sar, 0x42, fun _ a b => ⟨BitVec.ofInt 48 (a.toInt / 2 ^ (b.toNat % 256)), none, false, false⟩),
      (.rol, 0x43, fun _ a b => ⟨a.rotateLeft (b.toNat % 256), none, false, false⟩),
      (.ror, 0x44, fun _ a b => ⟨a.rotateRight (b.toNat % 256), none, false, false⟩),
      (.min, 0x4A, fun _ a b => ⟨BitVec.ofInt 48 (min a.toInt b.toInt), none, false, false⟩),
      (.max, 0x4B, fun _ a b => ⟨BitVec.ofInt 48 (max a.toInt b.toInt), none, false, false⟩),
      (.minu, 0x4C, fun _ a b => ⟨BitVec.ofNat 48 (min a.toNat b.toNat), none, false, false⟩),
      (.maxu, 0x4D, fun _ a b => ⟨BitVec.ofNat 48 (max a.toNat b.toNat), none, false, false⟩)] :
    List ((Fin 64 → BitVec 40 → Instr) × BitVec 8 × (Bool → Word → Word → LaneOut))),
  ∀ (s : State) (t : Fin 64) (f : BitVec 40) (c : Ctx) (e : WorkEntry) (img : Image),
    Runs s t (instrWord r.2.1 f) c e img → goesOn c → f.extractLsb' 0 23 = 0 →
    exec (r.1 t f) s = .next (s.setHead t { dataLanes c (fK f 23) (some (fD f 35)) (fun n =>
      r.2.2 (c.fl.getLsbD (4 * n.val + 1)) (c.getD (fD f 30))[n] (c.getD (fD f 25))[n]) with pc := c.pc + 1 })

/-- The lane-wise instructions of a D register and an immediate (R148, R171, R177): the same results and flags, with the 22-bit
immediate sign-extended, or the low eight bits as a shift count. -/
def Obligations.LanewiseInstructionsWithAnImmediate : Prop :=
  (∀ r ∈ ([
      (.addi, 0x29, fun a b => ⟨BitVec.ofNat 48 (a.toNat + b.toNat), some (decide (2 ^ 48 ≤ a.toNat + b.toNat)),
        decide (a.toInt + b.toInt < -2 ^ 47 ∨ 2 ^ 47 ≤ a.toInt + b.toInt), false⟩),
      (.subi, 0x2C, fun a b => ⟨BitVec.ofInt 48 (a.toInt - b.toInt), some (decide (b.toNat ≤ a.toNat)),
        decide (a.toInt - b.toInt < -2 ^ 47 ∨ 2 ^ 47 ≤ a.toInt - b.toInt), false⟩),
      (.andi, 0x3D, fun a b => ⟨a &&& b, none, false, false⟩),
      (.ori, 0x3E, fun a b => ⟨a ||| b, none, false, false⟩),
      (.xori, 0x3F, fun a b => ⟨a ^^^ b, none, false, false⟩)] :
    List ((Fin 64 → BitVec 40 → Instr) × BitVec 8 × (Word → Word → LaneOut))),
    ∀ (s : State) (t : Fin 64) (f : BitVec 40) (c : Ctx) (e : WorkEntry) (img : Image),
      Runs s t (instrWord r.2.1 f) c e img → goesOn c → f.extractLsb' 22 6 = 0 →
      exec (r.1 t f) s = .next (s.setHead t { dataLanes c (fK f 28) (some (fD f 35)) (fun n =>
        r.2.2 (c.getD (fD f 30))[n] (BitVec.ofInt 48 (f.extractLsb' 0 22).toInt)) with pc := c.pc + 1 }))
  ∧ (∀ r ∈ ([
      (.shli, 0x45, fun a k => BitVec.ofNat 48 (a.toNat * 2 ^ k)),
      (.shri, 0x46, fun a k => BitVec.ofNat 48 (a.toNat / 2 ^ k)),
      (.sari, 0x47, fun a k => BitVec.ofInt 48 (a.toInt / 2 ^ k)),
      (.roli, 0x48, fun a k => a.rotateLeft k),
      (.rori, 0x49, fun a k => a.rotateRight k)] : List ((Fin 64 → BitVec 40 → Instr) × BitVec 8 × (Word → Nat → Word))),
    ∀ (s : State) (t : Fin 64) (f : BitVec 40) (c : Ctx) (e : WorkEntry) (img : Image),
      Runs s t (instrWord r.2.1 f) c e img → goesOn c → f.extractLsb' 8 20 = 0 →
      exec (r.1 t f) s = .next (s.setHead t { dataLanes c (fK f 28) (some (fD f 35)) (fun n =>
        ⟨r.2.2 (c.getD (fD f 30))[n] (f.extractLsb' 0 8).toNat, none, false, false⟩) with pc := c.pc + 1 }))
  ∧ ∀ (s : State) (t : Fin 64) (f : BitVec 40) (c : Ctx) (e : WorkEntry) (img : Image),
      Runs s t (instrWord 0x21 f) c e img → goesOn c → f.extractLsb' 22 6 = 0 → f.extractLsb' 30 5 = 0 →
      exec (.movdi t f) s = .next (s.setHead t { dataLanes c (fK f 28) (some (fD f 35)) (fun _ =>
        ⟨BitVec.ofInt 48 (f.extractLsb' 0 22).toInt, none, false, false⟩) with pc := c.pc + 1 })

/-- The data-class instructions of one D register, PERM and SEL (R142, R177): MOVD, NEG, NOT, CLZ (leading zeros, 48 for a zero
word), POPC (one bits), PERM (lane n takes the lane its two bits name), and SEL (each lane from Da or Db by mask Km). -/
def Obligations.OneOperandAndSelectingInstructions : Prop :=
  ∀ (s : State) (t : Fin 64) (f : BitVec 40) (c : Ctx) (e : WorkEntry) (img : Image), goesOn c →
    (∀ r ∈ ([
        (.movd, 0x20, fun a => ⟨a, none, false, false⟩),
        (.neg, 0x2D, fun a => ⟨BitVec.ofInt 48 (-a.toInt), some (decide (a.toNat = 0)), decide (a.toInt = -2 ^ 47), false⟩),
        (.not, 0x3C, fun a => ⟨BitVec.ofNat 48 (2 ^ 48 - 1 - a.toNat), none, false, false⟩),
        (.clz, 0x4F, fun a => ⟨BitVec.ofNat 48 (if a.toNat = 0 then 48 else 47 - a.toNat.log2), none, false, false⟩),
        (.popc, 0x50, fun a => ⟨BitVec.ofNat 48 ((List.range 48).countP fun i => a.getLsbD i), none, false, false⟩)] :
      List ((Fin 64 → BitVec 40 → Instr) × BitVec 8 × (Word → LaneOut))),
      Runs s t (instrWord r.2.1 f) c e img → f.extractLsb' 25 5 = 0 → f.extractLsb' 0 23 = 0 →
      exec (r.1 t f) s = .next (s.setHead t { dataLanes c (fK f 23) (some (fD f 35)) (fun n =>
        r.2.2 (c.getD (fD f 30))[n]) with pc := c.pc + 1 }))
    ∧ (Runs s t (instrWord 0x24 f) c e img → f.extractLsb' 8 20 = 0 → ∀ g : Fin 4 → Fin 4,
        (∀ n, (g n).val = (f.extractLsb' 0 8).toNat / 4 ^ n.val % 4) →
        exec (.perm t f) s = .next (s.setHead t { dataLanes c (fK f 28) (some (fD f 35)) (fun n =>
          ⟨(c.getD (fD f 30))[g n], none, false, false⟩) with pc := c.pc + 1 }))
    ∧ (Runs s t (instrWord 0x4E f) c e img → f.extractLsb' 0 21 = 0 →
        exec (.sel t f) s = .next (s.setHead t { dataLanes c (fK f 23) (some (fD f 35)) (fun n =>
          ⟨if c.enabled (fK f 21) n then (c.getD (fD f 30))[n] else (c.getD (fD f 25))[n], none, false, false⟩) with pc := c.pc + 1 }))

/-- Moves between register files and the status registers (R177): BCST copies an A register into the enabled lanes, MOVAD takes
one lane, GETS reads FL, XS or LX, PUTS writes FL or sets bits of XS or LX, CLRS clears bits of XS or LX; no flag follows. -/
def Obligations.MovesBetweenRegisterFiles : Prop :=
  ∀ (s : State) (t : Fin 64) (f : BitVec 40) (c : Ctx) (e : WorkEntry) (img : Image), goesOn c →
    (Runs s t (instrWord 0x22 f) c e img → f.extractLsb' 22 9 = 0 → f.extractLsb' 0 20 = 0 → 
        exec (.bcst t f) s = .next (s.setHead t { c.setD (fD f 35) (quad fun n =>
          if c.enabled (fK f 20) n then c.getA (fA f 31) else (c.getD (fD f 35))[n]) with pc := c.pc + 1 }))
    ∧ (Runs s t (instrWord 0x23 f) c e img → f.extractLsb' 31 9 = 0 → f.extractLsb' 20 2 = 0 → f.extractLsb' 0 18 = 0 →
        exec (.movad t f) s = .next (s.setHead t { c.setA (fA f 27) (c.getD (fD f 22))[fK f 18] with pc := c.pc + 1 }))
    ∧ (Runs s t (instrWord 0x25 f) c e img → f.extractLsb' 32 4 = 0 → f.extractLsb' 0 30 = 0 →
        ∀ r ∈ [(0, c.fl.toNat), (1, c.xs.toNat), (2, c.lx.toNat)], f.extractLsb' 30 2 = r.1 →
        exec (.gets t f) s = .next (s.setHead t { c.setA (fA f 36) (BitVec.ofNat 48 r.2) with pc := c.pc + 1 }))
    ∧ (Runs s t (instrWord 0x26 f) c e img → f.extractLsb' 36 4 = 0 → f.extractLsb' 0 30 = 0 →
        let a := c.getA (fA f 32)
        (f.extractLsb' 30 2 = 0 → exec (.puts t f) s = .next (s.setHead t { c with fl := a.extractLsb' 0 16, pc := c.pc + 1 }))
        ∧ (f.extractLsb' 30 2 = 1 → exec (.puts t f) s = .next (s.setHead t { c with xs := c.xs ||| a.extractLsb' 0 4, pc := c.pc + 1 }))
        ∧ (f.extractLsb' 30 2 = 2 → exec (.puts t f) s = .next (s.setHead t { c with lx := c.lx ||| a.extractLsb' 0 8, pc := c.pc + 1 })))
    ∧ (Runs s t (instrWord 0x27 f) c e img → f.extractLsb' 32 8 = 0 → f.extractLsb' 0 22 = 0 →
        (f.extractLsb' 30 2 = 1 → f.extractLsb' 26 4 = 0 → exec (.clrs t f) s =
          .next (s.setHead t { c with xs := c.xs &&& ~~~(f.extractLsb' 22 4), pc := c.pc + 1 }))
        ∧ (f.extractLsb' 30 2 = 2 → exec (.clrs t f) s =
          .next (s.setHead t { c with lx := c.lx &&& ~~~(f.extractLsb' 22 8), pc := c.pc + 1 })))

/-- The compares (R144, R177): CMP and CMPI set the flags of Da minus the operand and write no D register; CMPK and CMPKI set the
same flags and write the condition of each enabled lane into Km, whose other bits stay. -/
def Obligations.ComparesSetFlagsAndMasks : Prop :=
  ∀ (s : State) (t : Fin 64) (f : BitVec 40) (c : Ctx) (e : WorkEntry) (img : Image), goesOn c → f.extractLsb' 35 5 = 0 →
    let out (a b : Word) : LaneOut := ⟨BitVec.ofInt 48 (a.toInt - b.toInt), some (decide (b.toNat ≤ a.toNat)),
      decide (a.toInt - b.toInt < -2 ^ 47 ∨ 2 ^ 47 ≤ a.toInt - b.toInt), false⟩
    let da (n : Fin 4) : Word := (c.getD (fD f 30))[n]
    let db (n : Fin 4) : Word := (c.getD (fD f 25))[n]
    let im : Word := BitVec.ofInt 48 (f.extractLsb' 0 22).toInt
    let test (cond : BitVec 4) (a b : Word) : Bool :=
      let x := a.toInt - b.toInt
      ([decide (a = b), decide (a ≠ b), decide (a.toInt < b.toInt), decide (b.toInt ≤ a.toInt), decide (b.toInt < a.toInt),
        decide (a.toInt ≤ b.toInt), decide (a.toNat < b.toNat), decide (b.toNat ≤ a.toNat), decide (b.toNat < a.toNat),
        decide (a.toNat ≤ b.toNat), (BitVec.ofInt 48 x).msb, !(BitVec.ofInt 48 x).msb, decide (x < -2 ^ 47 ∨ 2 ^ 47 ≤ x),
        decide (-2 ^ 47 ≤ x ∧ x < 2 ^ 47)] : List Bool).getD cond.toNat false
    (Runs s t (instrWord 0x2E f) c e img → f.extractLsb' 0 23 = 0 →
        exec (.cmp t f) s = .next (s.setHead t { dataLanes c (fK f 23) none (fun n => out (da n) (db n)) with pc := c.pc + 1 }))
    ∧ (Runs s t (instrWord 0x2F f) c e img → f.extractLsb' 22 6 = 0 →
        exec (.cmpi t f) s = .next (s.setHead t { dataLanes c (fK f 28) none (fun n => out (da n) im) with pc := c.pc + 1 }))
    ∧ (Runs s t (instrWord 0x52 f) c e img → f.extractLsb' 21 2 ≠ 0 → (f.extractLsb' 17 4).toNat < 14 → f.extractLsb' 0 17 = 0 →
        ∀ m : BitVec 4, (∀ n : Fin 4, m.getLsbD n.val = if c.enabled (fK f 23) n then test (f.extractLsb' 17 4) (da n) (db n)
            else (c.getK (fK f 21)).getLsbD n.val) →
        exec (.cmpk t f) s = .next (s.setHead t { (dataLanes c (fK f 23) none fun n => out (da n) (db n)).setK (fK f 21) m with
          pc := c.pc + 1 }))
    ∧ (Runs s t (instrWord 0x53 f) c e img → f.extractLsb' 26 2 ≠ 0 → (f.extractLsb' 22 4).toNat < 14 →
        ∀ m : BitVec 4, (∀ n : Fin 4, m.getLsbD n.val = if c.enabled (fK f 28) n then test (f.extractLsb' 22 4) (da n) im
            else (c.getK (fK f 26)).getLsbD n.val) →
        exec (.cmpki t f) s = .next (s.setHead t { (dataLanes c (fK f 28) none fun n => out (da n) im).setK (fK f 26) m with
          pc := c.pc + 1 }))

/-- The mask instructions (R143, R177): a mask register other than K0 takes its four bits; KGET reads one into an A register. -/
def Obligations.MaskInstructionsWriteTheirRegister : Prop :=
  ∀ (s : State) (t : Fin 64) (f : BitVec 40) (c : Ctx) (e : WorkEntry) (img : Image), goesOn c →
    (f.extractLsb' 38 2 ≠ 0 →
      (∀ r ∈ ([(.kand, 0x54, fun a b => a && b), (.kor, 0x55, fun a b => a || b), (.kandn, 0x56, fun a b => a && !b),
          (.kxor, 0x57, fun a b => a != b)] : List ((Fin 64 → BitVec 40 → Instr) × BitVec 8 × (Bool → Bool → Bool))),
        Runs s t (instrWord r.2.1 f) c e img → f.extractLsb' 0 34 = 0 → ∀ m : BitVec 4,
        (∀ i, i < 4 → m.getLsbD i = r.2.2 ((c.getK (fK f 36)).getLsbD i) ((c.getK (fK f 34)).getLsbD i)) →
        exec (r.1 t f) s = .next (s.setHead t { c.setK (fK f 38) m with pc := c.pc + 1 }))
      ∧ (Runs s t (instrWord 0x58 f) c e img → f.extractLsb' 0 36 = 0 → ∀ m : BitVec 4,
          (∀ i, i < 4 → m.getLsbD i = !(c.getK (fK f 36)).getLsbD i) →
          exec (.knot t f) s = .next (s.setHead t { c.setK (fK f 38) m with pc := c.pc + 1 }))
      ∧ (Runs s t (instrWord 0x59 f) c e img → f.extractLsb' 26 12 = 0 → f.extractLsb' 0 22 = 0 →
          exec (.kmov t f) s = .next (s.setHead t { c.setK (fK f 38) (f.extractLsb' 22 4) with pc := c.pc + 1 }))
      ∧ (Runs s t (instrWord 0x5A f) c e img → f.extractLsb' 34 4 = 0 → f.extractLsb' 0 30 = 0 →
          exec (.kset t f) s = .next (s.setHead t { c.setK (fK f 38) ((c.getA (fA f 30)).extractLsb' 0 4) with pc := c.pc + 1 })))
    ∧ (Runs s t (instrWord 0x5B f) c e img → f.extractLsb' 38 2 = 0 → f.extractLsb' 30 6 = 0 → f.extractLsb' 0 26 = 0 →
        exec (.kget t f) s = .next (s.setHead t { c.setA (fA f 26) (BitVec.ofNat 48 (c.getK (fK f 36)).toNat) with pc := c.pc + 1 }))

/-- The accumulator class (R146, R178): each enabled lane of Xd takes the exact result clamped to a signed 96-bit number, and sets
its XS bit when the clamp changed it; XFROMD and XTOD move a D pair, the even register in bits 47 to 0. -/
def Obligations.AccumulatorClassSaturates : Prop :=
  (∀ r ∈ ([
      (.xadd, 0x60, 24, 5, fun x a _ => x.toInt + a.toInt),
      (.xaddu, 0x61, 24, 5, fun x a _ => x.toInt + a.toNat),
      (.xmac, 0x62, 0, 22, fun x a b => x.toInt + a.toInt * b.toInt),
      (.xmacu, 0x63, 0, 22, fun x a b => x.toInt + (a.toNat * b.toNat : Nat)),
      (.xmin, 0x64, 24, 5, fun x a _ => if x.toInt ≤ a.toInt then x.toInt else a.toInt),
      (.xmax, 0x65, 24, 5, fun x a _ => if x.toInt ≤ a.toInt then a.toInt else x.toInt),
      (.xcnt, 0x66, 24, 10, fun x _ _ => x.toInt + 1)] :
    List ((Fin 64 → BitVec 40 → Instr) × BitVec 8 × Nat × Nat × (DWord → Word → Word → Int))),
    ∀ (s : State) (t : Fin 64) (f : BitVec 40) (c : Ctx) (e : WorkEntry) (img : Image),
      Runs s t (instrWord r.2.1 f) c e img → goesOn c → f.extractLsb' r.2.2.1 r.2.2.2.1 = 0 → f.extractLsb' 0 22 = 0 →
      let v (n : Fin 4) : Int := r.2.2.2.2 (c.getX (fX f 34))[n] (c.getD (fD f 29))[n] (c.getD (fD f 24))[n]
      exec (r.1 t f) s = .next (s.setHead t { c.setX (fX f 37) (Vector.ofFn fun n =>
          if c.enabled (fK f 22) n then BitVec.ofInt 96 (max (-2 ^ 95) (min (2 ^ 95 - 1) (v n))) else (c.getX (fX f 37))[n]) with
        xs := c.xs ||| packMask (fun n => c.enabled (fK f 22) n && decide (v n < -2 ^ 95 ∨ 2 ^ 95 ≤ v n))
        pc := c.pc + 1 }))
  ∧ ∀ (s : State) (t : Fin 64) (f : BitVec 40) (c : Ctx) (e : WorkEntry) (img : Image), goesOn c →
      f.extractLsb' 24 6 = 0 → f.extractLsb' 0 22 = 0 →
      (Runs s t (instrWord 0x67 f) c e img → f.extractLsb' 34 3 = 0 →
        exec (.xfromd t f) s = .next (s.setHead t { c.setX (fX f 37) (Vector.ofFn fun n =>
          if c.enabled (fK f 22) n then
            BitVec.ofNat 96 ((c.getD (fD f 29 + 1))[n].toNat * 2 ^ 48 + (c.getD (fD f 29))[n].toNat)
          else (c.getX (fX f 37))[n]) with pc := c.pc + 1 }))
      ∧ (Runs s t (instrWord 0x68 f) c e img → f.extractLsb' 37 3 = 0 →
        exec (.xtod t f) s = .next (s.setHead t { (c.setD (fD f 29) (quad fun n =>
            if c.enabled (fK f 22) n then BitVec.ofNat 48 (c.getX (fX f 34))[n].toNat else (c.getD (fD f 29))[n])).setD (fD f 29 + 1)
            (quad fun n => if c.enabled (fK f 22) n then BitVec.ofNat 48 ((c.getX (fX f 34))[n].toNat / 2 ^ 48)
              else (c.getD (fD f 29 + 1))[n]) with pc := c.pc + 1 }))

/-- The emulated instructions outside trap mode (R183): DIVX and DIVXU divide an accumulator lane toward zero, and a zero divisor
gives 0 and LX.DZ; RSCL and RSCLX multiply by a power of ten, or divide by one rounding half away from zero. -/
def Obligations.EmulatedInstructionsCompleteAtTheNextIndex : Prop :=
  ∀ (s : State) (t : Fin 64) (f : BitVec 40) (c : Ctx) (e : WorkEntry) (img : Image), c.trap = none →
    let clamp (v : Int) : DWord := BitVec.ofInt 96 (max (-2 ^ 95) (min (2 ^ 95 - 1) v))
    let beyond (v : Int) : Bool := decide (v < -2 ^ 95 ∨ 2 ^ 95 ≤ v)
    let half (a : Int) (d : Nat) : Int := a.sign * ((2 * a.natAbs + d) / (2 * d) : Nat)
    let scale (a n : Int) : Int := if 0 ≤ n then a * 10 ^ n.toNat else half a (10 ^ n.natAbs)
    (∀ r ∈ ([(.divx, 0xC0, fun a => a.toInt), (.divxu, 0xC1, fun a => a.toNat)] :
        List ((Fin 64 → BitVec 40 → Instr) × BitVec 8 × (Word → Int))),
      Runs s t (instrWord r.2.1 f) c e img → f.extractLsb' 24 5 = 0 → f.extractLsb' 0 22 = 0 →
      let d (n : Fin 4) : Int := r.2.2 (c.getD (fD f 29))[n]
      let v (n : Fin 4) : Int := if d n = 0 then 0 else (c.getX (fX f 34))[n].toInt.tdiv (d n)
      exec (r.1 t f) s = .next (s.setHead t { c.setX (fX f 37) (Vector.ofFn fun n =>
          if c.enabled (fK f 22) n then clamp (v n) else (c.getX (fX f 37))[n]) with
        xs := c.xs ||| packMask (fun n => c.enabled (fK f 22) n && beyond (v n))
        lx := c.lx ||| (packMask fun n => c.enabled (fK f 22) n && decide (d n = 0)).setWidth 8
        pc := c.pc + 1 }))
    ∧ (Runs s t (instrWord 0xC2 f) c e img → f.extractLsb' 6 22 = 0 →
        let p := (f.extractLsb' 0 6).toInt
        (-18 : Int) ≤ p ∧ p ≤ 18 →
        let v (n : Fin 4) : Int := scale (c.getD (fD f 30))[n].toInt p
        exec (.rscl t f) s = .next (s.setHead t { dataLanes c (fK f 28) (some (fD f 35)) (fun n =>
          ⟨BitVec.ofInt 48 (v n), none, decide (0 ≤ p ∧ (v n < -2 ^ 47 ∨ 2 ^ 47 ≤ v n)), false⟩) with pc := c.pc + 1 }))
    ∧ (Runs s t (instrWord 0xC3 f) c e img → f.extractLsb' 24 10 = 0 → f.extractLsb' 0 16 = 0 →
        let p := (f.extractLsb' 16 6).toInt
        (-18 : Int) ≤ p ∧ p ≤ 18 →
        let v (n : Fin 4) : Int := scale (c.getX (fX f 34))[n].toInt p
        exec (.rsclx t f) s = .next (s.setHead t { c.setX (fX f 37) (Vector.ofFn fun n =>
            if c.enabled (fK f 22) n then clamp (v n) else (c.getX (fX f 37))[n]) with
          xs := c.xs ||| packMask (fun n => c.enabled (fK f 22) n && beyond (v n))
          pc := c.pc + 1 }))

/-- LDW, LDQ and GATH (R69, R149, R179): with every enabled word readable (its line as it was written: R235, R236, R261), the destination takes the words at the computed addresses
and the tile goes on. Memory keeps every byte; outside the tile only the cache, the DRAM queues and the heat counts change. -/
def Obligations.LoadsReadTheComputedWords : Prop :=
  ∀ (s : State) (t : Fin 64) (f : BitVec 40) (c : Ctx) (e : WorkEntry) (img : Image), goesOn c →
    let reads (i : Instr) (after : Ctx) : Prop := ∃ u, exec i s = .next u ∧ u.tiles = (s.setHead t after).tiles
      ∧ u.mem = { s.mem with heat := u.mem.heat } ∧ u = { s with tiles := u.tiles, mem := u.mem, cache := u.cache, dram := u.dram }
    let ea : Word := c.getA (fA f 31) + BitVec.ofInt 48 (f.extractLsb' 0 29).toInt
    let each (n : Fin 4) : Word := c.getA (fA f 31) + BitVec.ofNat 48 (6 * (c.getD (fD f 26))[n].toNat)
    (Runs s t (instrWord 0x70 f) c e img → f.extractLsb' 39 1 = 0 → f.extractLsb' 29 2 = 0 →
      let d := s.desc e.inst (selOf ea)
      Opens s e img false ea d → WordThere s c false d (offOf ea) →
      reads (.ldw t f) { c.setA (fA f 35) (s.wordAt (descBase d + offOf ea)) with pc := c.pc + 1 })
    ∧ (Runs s t (instrWord 0x72 f) c e img →
      let d := s.desc e.inst (selOf ea)
      (∀ n, c.enabled (fK f 29) n = true → Opens s e img false ea d ∧ WordThere s c false d (offOf ea + 6 * n.val)) →
      reads (.ldq t f) { c.setD (fD f 35) (quad fun n => if c.enabled (fK f 29) n then s.wordAt (descBase d + offOf ea + 6 * n.val)
        else (c.getD (fD f 35))[n]) with pc := c.pc + 1 })
    ∧ (Runs s t (instrWord 0x74 f) c e img → f.extractLsb' 0 24 = 0 →
      (∀ n, c.enabled (fK f 24) n = true → Opens s e img false (each n) (s.desc e.inst (selOf (each n)))
        ∧ WordThere s c false (s.desc e.inst (selOf (each n))) (offOf (each n))) →
      reads (.gath t f) { c.setD (fD f 35) (quad fun n => if c.enabled (fK f 24) n then
          s.wordAt (descBase (s.desc e.inst (selOf (each n))) + offOf (each n)) else (c.getD (fD f 35))[n]) with pc := c.pc + 1 })

/-- STW and STQ (R69, R114, R149, R179): with every enabled word writable, the six bytes of each word land at its computed address,
least significant first, every other byte of memory stays, the slots become dirty, and the tile goes on with its registers as
they were; beside the memory, its queues, the mirror's list of dirty slots and the frame's sums nothing changes. -/
def Obligations.StoresWriteOnlyTheComputedBytes : Prop :=
  ∀ (s : State) (t : Fin 64) (f : BitVec 40) (c : Ctx) (e : WorkEntry) (img : Image), goesOn c →
    let ea : Word := c.getA (fA f 31) + BitVec.ofInt 48 (f.extractLsb' 0 29).toInt
    let d := s.desc e.inst (selOf ea)
    let writes (i : Instr) (word : Nat → Option Word) : Prop := memoryWf s → ∃ u, exec i s = .next u
      ∧ u.tiles = (s.setHead t { c with pc := c.pc + 1 }).tiles
      ∧ (∀ k, k < 4 → ∀ w, word k = some w →
        u.mem.dirty.contains ((descBase d + offOf ea + 6 * k) / slotBytes) = true)
      ∧ (∀ k, k < 4 → ∀ w, word k = some w → ∀ j, j < 6 →
        u.byteAt (descBase d + offOf ea + 6 * k + j) = w.extractLsb' (8 * j) 8)
      ∧ (∀ a : Nat, (∀ k, k < 4 → (word k).isSome = true →
          a < descBase d + offOf ea + 6 * k ∨ descBase d + offOf ea + 6 * k + 6 ≤ a) → u.byteAt a = s.byteAt a)
      ∧ u.mem = { s.mem with bytes := u.mem.bytes, dirty := u.mem.dirty }
      ∧ u = { s with tiles := u.tiles, mem := u.mem, dram := u.dram, cache := u.cache, mirror := u.mirror,
                     frame := { s.frame with sums := u.frame.sums } }
    (Runs s t (instrWord 0x71 f) c e img → f.extractLsb' 39 1 = 0 → f.extractLsb' 29 2 = 0 →
      Opens s e img true ea d → WordThere s c true d (offOf ea) →
      writes (.stw t f) fun k => if k = 0 then some (c.getA (fA f 35)) else none)
    ∧ (Runs s t (instrWord 0x73 f) c e img →
      (∀ n, c.enabled (fK f 29) n = true → Opens s e img true ea d ∧ WordThere s c true d (offOf ea + 6 * n.val)) →
      writes (.stq t f) fun k => if h : k < 4 then
        (if c.enabled (fK f 29) ⟨k, h⟩ then some (c.getD (fD f 35))[k] else none) else none)

/-- The scratchpad instructions (R150, R152, R179): with every index a scratchpad word that awaits no result, LDP, LDPQ and GATHP
read the words at the exact sums of base and offset, STP and STPQ write them in the order of the lanes, and the tile goes on. -/
def Obligations.ScratchpadAccessesReachTheirWords : Prop :=
  ∀ (s : State) (t : Fin 64) (f : BitVec 40) (c : Ctx) (e : WorkEntry) (img : Image), goesOn c →
    (c.getA (fA f 31)).toNat < 2 ^ 17 →
    let i := (c.getA (fA f 31)).toNat + (f.extractLsb' 12 17).toNat
    let free (j : Nat) : Prop := j < 98304 ∧ c.spBusy j 1 = false
    (Runs s t (instrWord 0x75 f) c e img → f.extractLsb' 39 1 = 0 → f.extractLsb' 29 2 = 0 → f.extractLsb' 0 12 = 0 → free i →
      exec (.ldp t f) s = .next (s.setHead t { c.setA (fA f 35) (c.spRead i) with pc := c.pc + 1 }))
    ∧ (Runs s t (instrWord 0x76 f) c e img → f.extractLsb' 39 1 = 0 → f.extractLsb' 29 2 = 0 → f.extractLsb' 0 12 = 0 → free i →
      exec (.stp t f) s = .next (s.setHead t { c.spWrite i (c.getA (fA f 35)) with pc := c.pc + 1 }))
    ∧ (Runs s t (instrWord 0x77 f) c e img → f.extractLsb' 0 12 = 0 → (∀ n, c.enabled (fK f 29) n = true → free (i + n.val)) →
      exec (.ldpq t f) s = .next (s.setHead t { c.setD (fD f 35) (quad fun n =>
        if c.enabled (fK f 29) n then c.spRead (i + n.val) else (c.getD (fD f 35))[n]) with pc := c.pc + 1 }))
    ∧ (Runs s t (instrWord 0x78 f) c e img → f.extractLsb' 0 12 = 0 → (∀ n, c.enabled (fK f 29) n = true → free (i + n.val)) →
      let put (n : Fin 4) (x : Ctx) : Ctx := if c.enabled (fK f 29) n then x.spWrite (i + n.val) (c.getD (fD f 35))[n] else x
      exec (.stpq t f) s = .next (s.setHead t { put 3 (put 2 (put 1 (put 0 c))) with pc := c.pc + 1 }))
    ∧ (Runs s t (instrWord 0x79 f) c e img → f.extractLsb' 0 24 = 0 →
      let x (n : Fin 4) : Nat := (c.getA (fA f 31)).toNat + (c.getD (fD f 26))[n].toNat
      (∀ n, c.enabled (fK f 24) n = true → free (x n)) →
      exec (.gathp t f) s = .next (s.setHead t { c.setD (fD f 35) (quad fun n =>
        if c.enabled (fK f 24) n then c.spRead (x n) else (c.getD (fD f 35))[n]) with pc := c.pc + 1 }))

/-- The stores of words and bytes (R6, R53, R136): a store in its canonical form (keys rising, no zero listed) keeps it under a
write, reads back what was written, and reads everywhere else as before; a key nothing has written reads as zero, which for module
memory is the model's own choice (assumption 3). -/
def Obligations.WrittenValuesReadBackAndOthersStay : Prop :=
  ∀ (w : Nat) (m : Sparse w) (i : Nat) (v : BitVec w), sparseWf m = true →
    sparseWf (sparseWrite m i v) = true ∧ sparseRead (sparseWrite m i v) i = v
    ∧ (∀ j, j ≠ i → sparseRead (sparseWrite m i v) j = sparseRead m j) ∧ ∀ j, sparseRead ([] : Sparse w) j = 0

/-- The block repeats of lines and words (R153, R154, R157, R180). The count register, or IMAX when it is smaller and not zero, says
how many lines LGET and LPUT move between memory and scratchpad; pointers and count step on with each line, the memory pointer
over the header at a segment's end. LGET leaves every byte of memory; LPUT writes exactly the lines it names. PFILL writes the four
lanes of its pattern over and over into the next words, at most IMAX quads. WCMP steps both pointers to the first pair of words
that differs, or past the runs, and sets lane 0 of FL as a compare of that pair, or as one of equals. Iterations that the execution
has made before a demand-restore wait count toward IMAX (R153; log entry 142). -/
def Obligations.BlockRepeatsMoveFillAndCompare : Prop :=
  (∀ (s : State) (t : Fin 64) (f : BitVec 40) (c : Ctx) (e : WorkEntry) (img : Image), c.trap = none →
    f.extractLsb' 15 13 = 0 → f.extractLsb' 0 7 = 0 → fA f 36 ≠ fA f 32 → fA f 36 ≠ fA f 28 → fA f 32 ≠ fA f 28 →
    let n := (c.getA (fA f 28)).toNat
    let m := if (f.extractLsb' 7 8).toNat = 0 then n else min n ((f.extractLsb' 7 8).toNat - c.ran)
    ((f.extractLsb' 7 8).toNat = 0 → c.ran + n ≤ 98304) →
    let next (x : Word) : Word := if x.toNat % 2 ^ 20 = 0x0FFF00 then x + 256 else x + 192
    (Runs s t (instrWord 0x80 f) c e img →
      let d := s.desc e.inst (selOf (c.getA (fA f 36)))
      let at' (k : Nat) : Word := k.repeat next (c.getA (fA f 36))
      let sp := (c.getA (fA f 32)).toNat
      sp + 32 * m ≤ 98304 → c.spBusy sp (32 * m) = false →
      (∀ k, k < m → Opens s e img false (at' k) d ∧ LineThere s c false d (offOf (at' k))) →
      ∃ u, exec (.lget t f) s = .next u ∧ u.mem = { s.mem with heat := u.mem.heat }
        ∧ u = { s with tiles := u.tiles, mem := u.mem, cache := u.cache, dram := u.dram }
        ∧ u.tiles = (s.setHead t { ((((List.range m).foldl (fun (x : Ctx) k => x.spPut (sp + 32 * k)
            ((List.range 32).map fun i => s.wordAt (descBase d + offOf (at' k) + 6 * i))) c).setA (fA f 36) (at' m)).setA
            (fA f 32) (BitVec.ofNat 48 (sp + 32 * m))).setA (fA f 28) (BitVec.ofNat 48 (n - m)) with ran := 0, pc := c.pc + 1 }).tiles)
    ∧ (Runs s t (instrWord 0x81 f) c e img → memoryWf s →
      let d := s.desc e.inst (selOf (c.getA (fA f 32)))
      let at' (k : Nat) : Word := k.repeat next (c.getA (fA f 32))
      let sp := (c.getA (fA f 36)).toNat
      sp + 32 * m ≤ 98304 → c.spBusy sp (32 * m) = false →
      (∀ k, k < m → Opens s e img true (at' k) d ∧ LineThere s c true d (offOf (at' k))) →
      ∃ u, exec (.lput t f) s = .next u
        ∧ u.mem = { s.mem with bytes := u.mem.bytes, dirty := u.mem.dirty }
        ∧ u = { s with tiles := u.tiles, mem := u.mem, dram := u.dram, cache := u.cache, mirror := u.mirror,
                       frame := { s.frame with sums := u.frame.sums } }
        ∧ (∀ k, k < m → ∀ i, i < 32 → ∀ j, j < 6 →
            u.byteAt (descBase d + offOf (at' k) + 6 * i + j) = (c.spRead (sp + 32 * k + i)).extractLsb' (8 * j) 8)
        ∧ (∀ a : Nat, (∀ k, k < m → a < descBase d + offOf (at' k) ∨ descBase d + offOf (at' k) + 192 ≤ a) → u.byteAt a = s.byteAt a)
        ∧ u.tiles = (s.setHead t { (((c.setA (fA f 36) (BitVec.ofNat 48 (sp + 32 * m))).setA (fA f 32) (at' m)).setA (fA f 28)
            (BitVec.ofNat 48 (n - m))) with ran := 0, pc := c.pc + 1 }).tiles))
  ∧ ∀ (s : State) (t : Fin 64) (f : BitVec 40) (c : Ctx) (e : WorkEntry) (img : Image), c.trap = none →
    let n := (c.getA (fA f 28)).toNat
    (Runs s t (instrWord 0x82 f) c e img → f.extractLsb' 36 4 = 0 → f.extractLsb' 15 8 = 0 → f.extractLsb' 0 7 = 0 →
      fA f 32 ≠ fA f 28 →
      let m := if (f.extractLsb' 7 8).toNat = 0 then n else min n (4 * ((f.extractLsb' 7 8).toNat - c.ran))
      ((f.extractLsb' 7 8).toNat = 0 → c.ran + n ≤ 98304) →
      let sp := (c.getA (fA f 32)).toNat
      sp + m ≤ 98304 → c.spBusy sp m = false →
      exec (.pfill t f) s = .next (s.setHead t { ((c.spPut sp ((List.range m).map fun i =>
        (c.getD (fD f 23)).toList.getD (i % 4) 0)).setA (fA f 32) (BitVec.ofNat 48 (sp + m))).setA (fA f 28) (BitVec.ofNat 48 (n - m))
        with ran := 0, pc := c.pc + 1 }))
    ∧ (Runs s t (instrWord 0x83 f) c e img → f.extractLsb' 0 28 = 0 → fA f 36 ≠ fA f 32 → fA f 36 ≠ fA f 28 → fA f 32 ≠ fA f 28 →
      let a := (c.getA (fA f 36)).toNat
      let b := (c.getA (fA f 32)).toNat
      n ≠ 0 → c.ran + n ≤ 98304 → a + n ≤ 98304 → b + n ≤ 98304 → c.spBusy a n = false → c.spBusy b n = false →
      ∀ k, k ≤ n → (∀ i, i < k → c.spRead (a + i) = c.spRead (b + i)) → (k < n → c.spRead (a + k) ≠ c.spRead (b + k)) →
      let x := (c.spRead (a + k)).toInt - (c.spRead (b + k)).toInt
      let flags : BitVec 4 := if k = n then 6 else
        BitVec.ofBool (BitVec.ofInt 48 x).msb ++ 0#1 ++ BitVec.ofBool (decide ((c.spRead (b + k)).toNat ≤ (c.spRead (a + k)).toNat))
          ++ BitVec.ofBool (decide (x < -2 ^ 47 ∨ 2 ^ 47 ≤ x))
      exec (.wcmp t f) s = .next (s.setHead t { ((c.setA (fA f 36) (BitVec.ofNat 48 (a + k))).setA (fA f 32)
        (BitVec.ofNat 48 (b + k))).setA (fA f 28) (BitVec.ofNat 48 (n - k)) with
          fl := c.fl.extractLsb' 4 12 ++ flags
          ran := 0
          pc := c.pc + 1 }))
    ∧ (Runs s t (instrWord 0x83 f) c e img → f.extractLsb' 0 28 = 0 → fA f 36 ≠ fA f 32 → fA f 36 ≠ fA f 28 → fA f 32 ≠ fA f 28 →
      n = 0 → exec (.wcmp t f) s = .next (s.setHead t { c with pc := c.pc + 1 }))

/-- DSCAN, DSCANF and DSCANN on a whole block (R80 to R86, R155, R156): with a sound header, every line of the block readable, and
groups that decode to the values vs, the block is delivered group by group (vector words and Dd but for DSCANN, mask bits cleared
but for DSCAN), Ac holds the end of the last group and the number of values, and memory keeps every byte. -/
def Obligations.BlockScansDeliverTheDecodedValues : Prop :=
  ∀ (s : State) (t : Fin 64) (f : BitVec 40) (c : Ctx) (e : WorkEntry) (img : Image), c.trap = none → c.pending = [] →
    ∀ r ∈ ([(.dscan, 0x84, 0, 23, true, false), (.dscanf, 0x85, 0, 15, true, true), (.dscann, 0x86, 0, 15, false, true)] :
      List ((Fin 64 → BitVec 40 → Instr) × BitVec 8 × Nat × Nat × Bool × Bool)),
    let vec := r.2.2.2.2.1
    let filter := r.2.2.2.2.2
    Runs s t (instrWord r.2.1 f) c e img → f.extractLsb' r.2.2.1 r.2.2.2.1 = 0 → (vec = false → f.extractLsb' 23 5 = 0) →
    ([fA f 36, fA f 32, fA f 28] ++ if filter then [fA f 19, fA f 15] else []).Nodup →
    let ab := c.getA (fA f 36)
    let ad := (c.getA (fA f 32)).toNat
    let aq := (c.getA (fA f 19)).toNat
    let am := (c.getA (fA f 15)).toNat
    let d := s.desc e.inst (selOf ab)
    let ma := descBase d + offOf ab
    let h := parsePcc (s.bytesAt ma 12)
    c.getA (fA f 28) = 0 → Opens s e img false ab d → descKind d = 1 →
    ma % slotBytes + 12 + h.encLen ≤ lineArea →
    (∀ i, ma % slotBytes / 192 ≤ i → i ≤ (ma % slotBytes + 11 + h.encLen) / 192 →
      ma % slotBytes % 192 ≤ offOf ab ∧ LineThere s c false d (offOf ab - ma % slotBytes % 192 + 192 * (i - ma % slotBytes / 192))) →
    h.ok = true → directoryCheck s (ma / slotBytes) (ma % slotBytes) h = none →
    (vec = true → ad + h.n ≤ 98304) → (filter = true → aq + 63 ≤ 98304 ∧ am + (h.n + 47) / 48 ≤ 98304) →
    ∀ vs len, decodeBlock h (s.bytesAt (ma + 12) h.encLen) = (vs, len, true) →
    ∃ u, exec (r.1 t f) s = .next u ∧ u.mem = { s.mem with heat := u.mem.heat }
      ∧ u = { s with tiles := u.tiles, mem := u.mem, cache := u.cache, dram := u.dram }
      ∧ u.tiles = (s.setHead t { ((groups64 h.n vs).zipIdx.foldl (fun (x : Ctx) g =>
          let y := deliver { vec := vec, filter := filter } (fA f 32) (fD f 23) g.1 x
          if filter then clearMask y am (64 * g.2) (inIntervals h.ty (scratchIntervals x aq)) g.1 else y) c).setA (fA f 28)
            (BitVec.ofNat 48 ((12 + len) * 65536 + h.n)) with pc := c.pc + 1 }).tiles

/-- KSRCH, KCONT and KDRN (R118, R152, R181, R197, R198, R211, R212, R216): with a table that has not ended, regions inside the
scratchpad that await nothing, and no poisoned entry met, the instruction completes with one pending result per enabled lane (one
for KDRN), which holds the words of its record; UNIT_RESULT_ARRIVAL then writes them and ends the wait. Lane after lane, the matches
are first held against the shadow copy: each that it does not bear out is counted. With no lane enabled nothing is searched. -/
def Obligations.SearchesAndDrainsLeaveTheirResultsPending : Prop :=
  (∀ (s : State) (t : Fin 64) (f : BitVec 40) (c : Ctx) (e : WorkEntry) (img : Image), c.trap = none →
    let a := (c.getA (uAp f)).toNat
    let key (n : Fin 4) : DWord := (c.getD (uDb f))[n] ++ (c.getD (uDa f))[n]
    let key' (n : Fin 4) : DWord := c.spRead (a + 8 * n.val + 7) ++ c.spRead (a + 8 * n.val + 6)
    let skips (n : Fin 4) : Bool := (c.spRead (a + 8 * n.val)).getLsbD 12
    let next (n : Fin 4) : Nat :=
      (c.spRead (a + 8 * n.val)).toNat / 2 ^ 14 % 4 * 65536 + (c.spRead (a + 8 * n.val)).toNat / 2 ^ 32 + 1
    let lanes := (List.finRange 4).filter fun n => c.enabled (uKn f) n
    let place (ws : List Word) (n : Fin 4) : Pending :=
      { first := a + 8 * n.val, len := 8, words := ws.zipIdx.map fun p => (a + 8 * n.val + p.2, p.1), carafe := false }
    (operator img (uOp f) [5, 7]).isSome = true → f.extractLsb' 0 8 = 0 →
    (lanes = [] → f.extractLsb' 18 8 = 0 →
        (Runs s t (instrWord 0x90 f) c e img → exec (.ksrch t f) s = .next (s.setHead t { c with pc := c.pc + 1 }))
        ∧ (Runs s t (instrWord 0x91 f) c e img → f.extractLsb' 30 10 = 0 →
          exec (.kcont t f) s = .next (s.setHead t { c with pc := c.pc + 1 })))
    ∧ ∀ tb, s.table? e.inst (tableTag e img (uOp f)) = some tb → tb.ended = false →
      let seen (k : Fin 4 → DWord) (skip : Fin 4 → Bool) (n : Fin 4) : State :=
        (lanes.filter fun m => decide (m ≤ n) && !skip m).foldl (fun (u : State) m => u.verify tb (k m)) s
      ((∀ n ∈ lanes, a + 8 * n.val + 8 ≤ 98304 ∧ c.spBusy (a + 8 * n.val) 8 = false) →
        (Runs s t (instrWord 0x90 f) c e img → f.extractLsb' 18 8 = 0 →
          let at' (n : Fin 4) : State := seen key (fun _ => false) n
          (∀ n ∈ lanes, (at' n).search t tb (key n) ≠ .poisoned) →
          exec (.ksrch t f) s = .next ((at' 3).setHead t { c with
            pending := c.pending ++ lanes.map fun n => place (match (at' n).search t tb (key n) with
              | .matched ms exact => resultRecord (key n) ms exact (min 1 ms.length)
              | _ => spillRecord (key n)) n
            pc := c.pc + 1 }))
        ∧ (Runs s t (instrWord 0x91 f) c e img → f.extractLsb' 30 10 = 0 → f.extractLsb' 18 8 = 0 →
          let at' (n : Fin 4) : State := seen key' skips n
          (∀ n ∈ lanes, skips n = false → (at' n).search t tb (key' n) ≠ .poisoned) →
          exec (.kcont t f) s = .next ((at' 3).setHead t { c with
            pending := c.pending ++ lanes.map fun n => place (if skips n then [] else
              match (at' n).search t tb (key' n) with
              | .matched ms exact => resultRecord (key' n) ms exact (if next n ≤ ms.length then next n else 0)
              | _ => spillRecord (key' n)) n
            pc := c.pc + 1 })))
      ∧ (Runs s t (instrWord 0x94 f) c e img → f.extractLsb' 30 10 = 0 → f.extractLsb' 22 4 = 0 → f.extractLsb' 16 2 = 0 →
          a + 24577 ≤ 98304 → c.spBusy a 24577 = false →
          let mine := (s.tableEntries tb.inst tb.tag).filter fun p => decide (tb.ordinal p.1 / 512 = (c.getA (uAr f)).toNat)
          let read := mine.foldl (fun (u : State) p => u.readEntry p.1) s
          (∀ p ∈ mine, p.1 ∉ read.kma.poisoned) →
          exec (.kdrn t f) s = .next (read.setHead t { c with
            pending := c.pending ++ [{ first := a, len := 24577, words := drainWords a (mine.map fun p => p.2), carafe := false }]
            pc := c.pc + 1 }))
      ∧ ∀ (n : Nat) (p : Pending), s.head? t = some c → c.pending[n]? = some p → p.carafe = false →
          exec (.unitResultArrival t n) s = .next (s.setHead t { p.words.foldl (fun (x : Ctx) w => x.spWrite w.1 w.2) c with
            pending := c.pending.eraseIdx n }))
  ∧ ∀ (s : State) (tb : KmaTable) (k : DWord), tb.ordered = false → s.kma.verifyDiscards < 2 ^ 48 →
    (s.verify tb k).kma.verifyDiscards = (s.kma.verifyDiscards + s.kma.cam.countP fun p =>
      (tb.banksOf k).contains (p.1 / 8192) && p.2.sees (tb.wanted k) && camImage (s.kma.shadow p.1) != tb.wanted k) % 2 ^ 48

/-- KINS and KAGG (R122, R125, R159, R181, R203, R217): within the records its quota point allowed, KINS issues one insert record
per enabled lane, and KAGG one update per lane or, with a local table, adds the lane's row to its group, makes a group, or evicts
the earliest one as a record; in a round in which the operator does not act, neither does anything but go on. -/
def Obligations.InsertsAndAggregatesIssueTheirRecords : Prop :=
  ∀ (s : State) (t : Fin 64) (f : BitVec 40) (c : Ctx) (e : WorkEntry) (img : Image), c.trap = none →
    let a := (c.getA (uAp f)).toNat
    let key (n : Fin 4) : DWord := (c.getD (uDb f))[n] ++ (c.getD (uDa f))[n]
    let lanes := (List.finRange 4).filter fun n => c.enabled (uKn f) n
    let rec' (k : RecordKind) : MergeRecord := { slot := c.slot, op := uOp f, kind := k }
    let issued (ks : List RecordKind) (x : Ctx) : State :=
      (s.setTile t { s.tiles[t] with merge := s.tiles[t].merge ++ ks.map rec' }).setHead t
        { x with allowed := c.allowed - ks.length, pc := c.pc + 1 }
    f.extractLsb' 0 8 = 0 → f.extractLsb' 18 8 = 0 →
    (∀ o, operator img (uOp f) [5] = some o → Runs s t (instrWord 0x92 f) c e img →
      (∀ n ∈ lanes, a + 4 * n.val + 4 ≤ 98304 ∧ c.spBusy (a + 4 * n.val) 4 = false) →
      let payload (n : Fin 4) : Quad := quad fun i => if i.val < (o.arg2 / 2 ^ 17) % 8 then c.spRead (a + 4 * n.val + i.val) else 0
      if acts s e img (uOp f) then ∀ tb, s.table? e.inst (tableTag e img (uOp f)) = some tb → lanes.length ≤ c.allowed →
        (tb.dict = true → ∀ n ∈ lanes, dictIssue s e img tb (payload n) = .issue) →
        exec (.kins t f) s = .next (issued (lanes.map fun n => .insert (key n) 0 (payload n)) c)
      else exec (.kins t f) s = .next (s.setHead t { c with pc := c.pc + 1 }))
    ∧ ∀ o, operator img (uOp f) [7] = some o → Runs s t (instrWord 0x93 f) c e img →
      (∀ n ∈ lanes, a + 5 * n.val + 5 ≤ 98304 ∧ c.spBusy (a + 5 * n.val) 5 = false) →
      let src (n : Fin 4) : Quad := quad fun i => c.spRead (a + 5 * n.val + i.val)
      let valid (n : Fin 4) : BitVec 4 := (c.spRead (a + 5 * n.val + 4)).extractLsb' 0 4
      let slots := (o.arg3 / 2 ^ 16) % 2 ^ 13
      let fold (n : Fin 4) (g : Group) : Group := { g with rows := g.rows ++ [(src n, valid n)] }
      let step (p : List Group × List RecordKind) (n : Fin 4) : List Group × List RecordKind :=
        let fresh : Group := { key := key n, rows := [(src n, valid n)] }
        if p.1.any fun g => g.key == key n then (p.1.map fun g => if g.key = key n then fold n g else g, p.2)
        else if p.1.length < slots then (p.1 ++ [fresh], p.2)
        else match p.1 with
          | [] => p
          | g :: r => (r ++ [fresh], p.2 ++ [.group g])
      let after := lanes.foldl step (c.localGroups (uOp f), [])
      if acts s e img (uOp f) then
        (slots = 0 → lanes.length ≤ c.allowed →
          exec (.kagg t f) s = .next (issued (lanes.map fun n => .update (key n) (src n) (valid n)) c))
        ∧ (slots ≠ 0 → after.2.length ≤ c.allowed →
          exec (.kagg t f) s = .next (issued after.2 (if lanes = [] then c else c.setLocal (uOp f) after.1)))
      else exec (.kagg t f) s = .next (s.setHead t { c with pc := c.pc + 1 })

/-- SRUN, SMRG and SDLV (R105, R126, R127, R181): SRUN leaves its elements sorted as a run of the entry, cut to LIMIT, in its room of
the rank part in the first half of RUN_SEL; SMRG makes one merge step from one half to the other and leaves a finished sort as it is;
SDLV sends the next elements to the operator's vectors, and counts them. The words read and written are in resident slots, their
lines as they were written; no other byte of memory changes. Where a run lies in its part is the model's choice (log entry 144). -/
def Obligations.SortInstructionsFormMergeAndDeliverRuns : Prop :=
  ∀ (s : State) (t : Fin 64) (f : BitVec 40) (c : Ctx) (e : WorkEntry) (img : Image), c.trap = none → memoryWf s →
    let a := (c.getA (uAp f)).toNat
    let n := (c.getA (uAc f)).toNat
    let there (l : List Nat) : Prop := ∀ x ∈ l, s.resident (x / slotBytes) = true ∧ LineGood s (lineOf x)
    let opens (store : Bool) (r : RunSpace) : Prop := Opens s e img store (BitVec.ofNat 48 (r.sel * 2 ^ 36)) r.desc
    let stored (u : State) (r : RunSpace) (half b : Nat) (es : List (List Word)) : Prop :=
      (∀ k x, es[k]? = some x → ∀ i w, x[i]? = some w → ∀ j, j < 6 →
        u.byteAt (r.at half (b + r.bytes k + 6 * i) + j) = w.extractLsb' (8 * j) 8)
      ∧ ∀ y : Nat, (∀ x ∈ r.words half b es.length, y < x ∨ x + 6 ≤ y) → u.byteAt y = s.byteAt y
    let rest (u : State) : Prop := u.mem = { s.mem with bytes := u.mem.bytes, dirty := u.mem.dirty, heat := u.mem.heat }
      ∧ u = { s with tiles := u.tiles, work := u.work, mem := u.mem, dram := u.dram, cache := u.cache, mirror := u.mirror,
                     frame := { s.frame with sums := u.frame.sums } }
    f.extractLsb' 0 8 = 0 → f.extractLsb' 30 10 = 0 → f.extractLsb' 16 2 = 0 →
    (∀ o, operator img (uOp f) [8] = some o →
      let r := runSpace s e o
      let w := 3 + o.arg2 / 2 ^ 17 % 8
      descBase r.desc % slotBytes = 0 →
      (Runs s t (instrWord 0x95 f) c e img → 1 ≤ n → n ≤ 64 → a + n * w ≤ 98304 → c.spBusy a (n * w) = false → opens true r →
        let run := e.earlierRuns (uOp f) c.rank + (c.getA (uAr f)).toNat
        let b := c.rank * (r.half / c.tiles * 1048512) + run * 64 * w * 6
        (run + 1) * 64 * w * 6 ≤ r.half / c.tiles * 1048512 → acts s e img (uOp f) = true → there (r.words 0 b n) →
        let raw (i : Nat) : List Word := (c.spWords (a + i * w) w).modify 2 (roundOrigin e.round)
        ∃ es : List (List Word), es.Perm ((List.range n).map raw) ∧ es.Pairwise (fun x y => elemLt y x = false)
          ∧ (let kept := if o.arg3 = 0 then es else es.take o.arg3
             let x : SortRun := { op := uOp f, round := e.round, rank := c.rank, run := run, byte := b, count := kept.length }
             ∃ u, exec (.srun t f) s = .next u ∧ u.tiles = (s.setHead t { c with pc := c.pc + 1 }).tiles
              ∧ u.work = (s.updEntry c.slot fun q =>
                  { q with runs := q.runs.filter (fun y => !(y.op == x.op && y.rank == x.rank && y.run == x.run)) ++ [x] }).work
              ∧ stored u r 0 b kept ∧ rest u))
      ∧ (Runs s t (instrWord 0x96 f) c e img → f.extractLsb' 18 8 = 0 → a + 16 ≤ 98304 → c.spBusy a 16 = false → opens true r → opens false r →
        let x := e.sortState (uOp f)
        (x.ready = true → exec (.smrg t f) s = .next (s.setHead t { c with pc := c.pc + 1 }))
        ∧ (x.ready = false → (x.cur + ((x.src ++ x.next).map fun p => p.2).sum) * w * 6 ≤ r.half * 1048512 →
          let step := x.mergeStep r o.arg3 s
          there ((x.src.take 8).flatMap fun p => r.words x.half p.1 (min 64 p.2)) →
          there (r.words (1 - x.half) (x.written * w * 6) step.1.length) →
          ∃ u, exec (.smrg t f) s = .next u ∧ u.tiles = (s.setHead t { c with pc := c.pc + 1 }).tiles
            ∧ u.work = (s.updEntry c.slot fun y => y.setSort step.2).work
            ∧ stored u r (1 - x.half) (x.written * w * 6) step.1 ∧ rest u)))
    ∧ ∀ o, operator img (uOp f) [1] = some o → o.flags % 4 = 2 → Runs s t (instrWord 0x97 f) c e img → f.extractLsb' 18 4 = 0 →
      ∀ q, img.ops[o.inA]? = some q →
      let vec := o.arg4 % 2 ^ 17
      1 ≤ n → n ≤ 4096 → a + 16 ≤ 98304 → vec + 24576 ≤ 98304 → c.spBusy a 16 = false → c.spBusy vec 24576 = false →
      let x := e.sortState o.inA
      let r := runSpace s e q
      opens false r →
      let k := if x.ready then min n ((x.src.headD (0, 0)).2 - x.delivered) else 0
      let b := (x.src.headD (0, 0)).1 + r.bytes x.delivered
      there (r.words x.half b k) →
      ∃ u, exec (.sdlv t f) s = .next u ∧ u.mem = { s.mem with heat := u.mem.heat }
        ∧ u = { s with tiles := u.tiles, work := u.work, mem := u.mem, dram := u.dram, cache := u.cache }
        ∧ u.work = (s.updEntry c.slot fun y => y.setSort { x with delivered := x.delivered + k }).work
        ∧ u.tiles = (s.setHead t { c with
            pending := c.pending ++
              [{ first := vec, len := 24576, words := deliverWords vec a (q.arg2 / 2 ^ 17 % 8) (r.elems s x.half b k), carafe := false },
               { first := a + 15, len := 1, words := [], carafe := false }]
            pc := c.pc + 1 }).tiles

/-- CHAND (R128 to R132, R181, R411): a Carafe that is well sized and has a place is numbered, its header is filled in, and it is
queued for the Mover on the channel of the tile's group with the address that its operator gives, its words pending until the
Mover has read them. A Carafe for a work span opens its selector (R105), and one that lies there has its segment header changed at the
merge. -/
def Obligations.CarafeHandOffQueuesOneDescriptor : Prop :=
  ∀ (s : State) (t : Fin 64) (f : BitVec 40) (c : Ctx) (e : WorkEntry) (img : Image) (o : ImageOp), c.trap = none →
    Runs s t (instrWord 0x98 f) c e img → f.extractLsb' 0 8 = 0 → f.extractLsb' 30 10 = 0 → f.extractLsb' 16 6 = 0 →
    operator img (uOp f) [9] = some o →
    let a := (c.getA (uAp f)).toNat
    let n := (c.getA (uAc f)).toNat
    let raw := ((c.spWords a (ceilDiv n 6)).flatMap fun w => leBytes 6 w.toNat).take n
    let seq := lookupD e.seqs t.val 0
    let bs := fillHeader raw e.round s.frame.frameNo seq t.val c.rank n (entryField e.entry 8 6)
    let ch : Fin 32 := ⟨t.val / 8, by omega⟩
    a + ceilDiv n 6 ≤ 98304 → c.spBusy a (ceilDiv n 6) = false → 64 ≤ n → n % 64 = 0 → n ≤ 6 * (o.arg3 / 2 ^ 17 % 2 ^ 17) →
    acts s e img (uOp f) = true → (∀ x, e.fail = some x → c.qpos < x.pos) →
    (o.arg1 % 2 ^ 12 ≠ 0 → ∃ d, Opens s e img true (BitVec.ofNat 48 (o.arg1 % 2 ^ 12 * 2 ^ 36)) d) → s.mover.channels[ch].disable = false →
    s.mover.channels[ch].queue.length < 8 →
    ∀ p, placeCarafe s c e o (uOp f) n (fieldNat raw 4 2) = .ok p →
    (o.arg1 % 2 ^ 12 = 0 → p.space = 0 ∧ p.header = none ∧
      p.dst = entryField e.entry 24 8 + (c.rank + c.tiles * e.cursor (uOp f) c.rank 0) * entryField e.entry 32 4)
    ∧ ∃ u, exec (.chand t f) s = .next u ∧ ∃ e', u.entry? c.slot = some e' ∧ ∃ c', u.head? t = some c'
      ∧ e'.carafes = e.carafes + 1 ∧ lookupD e'.seqs t.val 0 = seq + 1 ∧ e'.out = e.out ++ [(c.qpos, t.val, crc64 bs)]
      ∧ c'.pc = c.pc + 1 ∧ c'.a = c.a ∧ c'.d = c.d ∧ c'.x = c.x ∧ c'.k = c.k ∧ c'.fl = c.fl
      ∧ c'.sp = (c.spPut a (wordsOfBytes c a bs)).sp
      ∧ c'.pending = c.pending ++ [{ first := a, len := ceilDiv n 6, words := [], carafe := true }]
      ∧ u.tiles[t].merge = s.tiles[t].merge ++ (p.header.map fun k => ({ slot := c.slot, op := uOp f, kind := k } : MergeRecord)).toList
      ∧ (∃ m, u.mover.channels[ch].queue = s.mover.channels[ch].queue ++ [.own
          { ma := m, next := 0, srcSpace := 2, dstSpace := p.space, evtRd := true, evtWr := true, ro := true,
            src := t.val * 2 ^ 17 + a, dst := p.dst, len := n, inst := e.inst, tag := e.slot, entry := some e.slot }])
      ∧ u = { s with tiles := u.tiles, work := u.work, mover := u.mover, free := u.free }

/-- QPT (R30, R134, R158, R159): when nothing is pending, the operator fits the step, and the step's charge and records fit what is
left of QUOTA and MERGE_ALLOW, both counters of the tile take the step and it goes on, a flush step (STEP 0xA) with the group that its
local table created first as a record (R125); when they do not fit, the tile yields at the quota point. The charges of the steps with a fixed rule are as R134 gives them. -/
def Obligations.QuotaPointsChargeTheStep : Prop :=
  ∀ (s : State) (t : Fin 64) (f : BitVec 40) (c : Ctx) (e : WorkEntry) (img : Image) (o : ImageOp), c.trap = none →
    Runs s t (instrWord 0xA0 f) c e img → f.extractLsb' 0 24 = 0 →
    let op := (f.extractLsb' 32 8).toNat
    let step := (f.extractLsb' 28 4).toNat
    let n := (c.getA (fA f 24)).toNat
    let x := s.tiles[t]
    qptKind img op step = true → img.ops[op]? = some o → c.pending = [] → checkedFailure c = none → (∀ y, e.fail = some y → x.beats < y.pos) →
    let cut := if step = 10 then (c.localGroups op).take 1 else []
    let c1 := if cut = [] then c else c.setLocal op ((c.localGroups op).drop 1)
    (∀ beats records, chargeOf s c e img op step n o = .cost beats records → beats ≤ 256 →
      (x.beats + beats ≤ s.frame.header.quota → x.records + records ≤ s.frame.header.mergeAllow →
        exec (.qpt t f) s = .next ((s.setTile t { x with
            beats := x.beats + beats
            records := x.records + records
            merge := x.merge ++ cut.map fun g => ({ slot := c.slot, op := op, kind := .group g } : MergeRecord) }).setHead t { c1 with
          qpos := x.beats
          allowed := records - cut.length
          checked := decide (step = 5 ∧ o.kind = 4 ∧ o.flags % 2 = 1)
          probed := probedAfter c img op step n
          pc := c.pc + 1 }))
      ∧ (s.frame.header.quota < x.beats + beats ∨ s.frame.header.mergeAllow < x.records + records →
        exec (.qpt t f) s = .next (s.setTile t { x with yielded := true })))
    ∧ (step = 0 → chargeOf s c e img op step n o = .cost 2 0)
    ∧ (step = 2 → 1 ≤ n → n ≤ 512 → chargeOf s c e img op step n o = .cost (4 + (n + 7) / 8) 0)
    ∧ (step = 5 → n ≤ 4096 → chargeOf s c e img op step n o = .cost (1 + (o.cycles * ((n + 3) / 4) + 15) / 16) 0)
    ∧ (step = 8 → n ≤ 4 → chargeOf s c e img op step n o = .cost (max 1 ((o.cycles + 15) / 16)) n)

/-- END (R113, R125, R161): when nothing is pending, no failure stands and the counters can take a quota point per local group, the
groups are flushed as records, operator by operator, the tile has done its part of the stage, and it goes on with its next entry
or yields. The local tables name different operators, which KAGG keeps so. -/
def Obligations.EndFlushesTheGroupsAndFinishesThePart : Prop :=
  (∀ (c : Ctx) (op : Nat) (gs : List Group), (c.locals.map fun l => l.op).Nodup → ((c.setLocal op gs).locals.map fun l => l.op).Nodup)
  ∧ ∀ (s : State) (t : Fin 64) (c : Ctx) (e : WorkEntry) (img : Image), c.trap = none → Runs s t (instrWord 0xA1 0) c e img →
    c.pending = [] → checkedFailure c = none → e.fail = none → (c.locals.map fun l => l.op).Nodup →
    let x := s.tiles[t]
    let recs := (sortBy (fun (a b : LocalTable) => decide (a.op < b.op)) c.locals).flatMap fun l => l.groups.map fun g => ({ slot := c.slot, op := l.op, kind := .group g } : MergeRecord)
    let g := recs.length
    x.beats + g ≤ s.frame.header.quota → x.records + g ≤ s.frame.header.mergeAllow →
    exec (.endStage t 0) s = .next ((s.updEntry c.slot fun y => { y with done := y.done ++ [t.val] }).setTile t { x with
      beats := x.beats + g
      records := x.records + g
      merge := x.merge ++ recs
      ctxs := (match x.ctxs.drop 1 with
        | [] => []
        | d :: r => { d with qpos := x.beats + g } :: r)
      ran := x.ran ++ [(c.slot, if g = 0 then c.qpos else x.beats + g - 1)]
      yielded := (x.ctxs.drop 1).isEmpty })

/-- NOP, BRK and the instructions of trap mode (R166, R167, R169, R182): NOP goes on; BRK goes on when the entry has no DEBUG, and
takes the breakpoint trap when it has. TGET reads a trap register, TXA and TXD exchange a register with a private one, TRETRY and
TSKIP return to TPC or the index after it, and TEND ends the entry with the status of the trap, TPC in DETAIL. -/
def Obligations.NopBreakpointAndTrapMode : Prop :=
  (∀ (s : State) (t : Fin 64) (c : Ctx) (e : WorkEntry) (img : Image),
    (Runs s t (instrWord 0xA2 0) c e img → goesOn c → exec (.nop t 0) s = .next (s.setHead t { c with pc := c.pc + 1 }))
    ∧ (Runs s t (instrWord 0xA3 0) c e img → c.trap = none → e.entry.getLsbD 12 = false →
        exec (.brk t 0) s = .next (s.setHead t { c with pc := c.pc + 1 }))
    ∧ (Runs s t (instrWord 0xA3 0) c e img → c.trap = none → e.entry.getLsbD 12 = true →
        exec (.brk t 0) s = .next (s.setHead t { c with
          trap := some { status := 0x0205, tpc := c.pc, tcause := 5, tinst := instrWord 0xA3 0, taddr := 0, tinfo := 0,
                         ta := Vector.replicate 8 0, td := Vector.replicate 4 (quadOf 0) }
          pc := 0x3C50 })))
  ∧ ∀ (s : State) (t : Fin 64) (f : BitVec 40) (c : Ctx) (e : WorkEntry) (img : Image) (r : TrapRegs), c.trap = some r →
    let n := (f.extractLsb' 26 5).toNat
    (Runs s t (instrWord 0xB0 f) c e img → c.pc ≠ 0x3FFF → f.extractLsb' 31 5 = 0 → f.extractLsb' 0 26 = 0 →
        ∀ v ∈ [(0, r.tpc.setWidth 48), (1, r.tcause.setWidth 48), (2, r.tinst), (3, r.taddr), (4, r.tinfo)], n = v.1 →
        exec (.tget t f) s = .next (s.setHead t { c.setA (fA f 36) v.2 with pc := c.pc + 1 }))
    ∧ (Runs s t (instrWord 0xB1 f) c e img → c.pc ≠ 0x3FFF → f.extractLsb' 31 5 = 0 → f.extractLsb' 0 26 = 0 →
        ∀ i : Fin 8, n = 8 + i.val →
        exec (.txa t f) s = .next (s.setHead t { c.setA (fA f 36) r.ta[i] with
          trap := some { r with ta := r.ta.set i (c.getA (fA f 36)) }, pc := c.pc + 1 }))
    ∧ (Runs s t (instrWord 0xB2 f) c e img → c.pc ≠ 0x3FFF → f.extractLsb' 36 4 = 0 → f.extractLsb' 0 26 = 0 →
        ∀ i : Fin 4, n = 16 + i.val →
        exec (.txd t f) s = .next (s.setHead t { c.setD (fD f 31) r.td[i] with
          trap := some { r with td := r.td.set i (c.getD (fD f 31)) }, pc := c.pc + 1 }))
    ∧ (Runs s t (instrWord 0xB3 0) c e img → exec (.tretry t 0) s = .next (s.setHead t { c with trap := none, pc := r.tpc }))
    ∧ (Runs s t (instrWord 0xB4 0) c e img → exec (.tskip t 0) s = .next (s.setHead t { c with trap := none, pc := r.tpc + 1 }))
    ∧ (Runs s t (instrWord 0xB5 0) c e img → e.fail = none → ∃ u, exec (.tend t 0) s = .next u ∧ (u.tiles[t]).yielded = true
        ∧ u.work = s.work.map (fun y => if y.slot == c.slot then
            { y with fail := some (worseFailure y.fail { pos := c.qpos, tile := t.val, status := r.status, detail := r.tpc.toNat }) } else y))

/-- UNDEFINED_OPCODE (R166, R167, R174): an opcode outside the ranges the hardware defines takes the EMULATE trap: the trap registers
take their values and the tile goes on at index 0x3C10; in trap mode the entry ends with ILLEGAL_INSTRUCTION, TPC in DETAIL. -/
def Obligations.UndefinedOpcodesTakeTheEmulateTrap : Prop :=
  ∀ (s : State) (t : Fin 64) (w : Word) (c : Ctx) (e : WorkEntry) (img : Image), Runs s t w c e img →
    (∀ r ∈ [(0x01, 0x0D), (0x10, 0x15), (0x20, 0x50), (0x52, 0x5C), (0x60, 0x68), (0x70, 0x79), (0x80, 0x86), (0x90, 0x98),
      (0xA0, 0xA3), (0xB0, 0xB5)], w.toNat / 2 ^ 40 < r.1 ∨ r.2 < w.toNat / 2 ^ 40) →
    (c.trap = none → exec (.undefinedOpcode t w) s = .next (s.setHead t { c with
      trap := some { status := 0x0201, tpc := c.pc, tcause := 1, tinst := w, taddr := 0, tinfo := 0,
                     ta := Vector.replicate 8 0, td := Vector.replicate 4 (quadOf 0) }
      pc := 0x3C10 }))
    ∧ (∀ r, c.trap = some r → exec (.undefinedOpcode t w) s = .next (s.tileFail t c 0x0201 r.tpc.toNat))

/-- Reserved values (R139, R173, R174, R185): an instruction of the program with a bit set in a field its format leaves unused, a mask
destination K0, a condition or summary past the last, or a trap-only opcode, takes the EMULATE trap and writes nothing. -/
def Obligations.ReservedFieldsTakeTheEmulateTrap : Prop :=
  ∀ (s : State) (t : Fin 64) (f : BitVec 40) (c : Ctx) (e : WorkEntry) (img : Image), c.trap = none →
    let traps (i : Instr) (op : BitVec 8) : Prop := Runs s t (instrWord op f) c e img →
      exec i s = .next (s.setHead t { c with
        trap := some { status := 0x0201, tpc := c.pc, tcause := 1, tinst := instrWord op f, taddr := 0, tinfo := 0,
                       ta := Vector.replicate 8 0, td := Vector.replicate 4 (quadOf 0) }
        pc := 0x3C10 })
    (∀ r ∈ ([(.mova, 0x01, 0, 32), (.movi, 0x02, 32, 4), (.movh, 0x03, 16, 20), (.adda, 0x04, 0, 28), (.suba, 0x06, 0, 28),
        (.nega, 0x07, 0, 32), (.shla, 0x08, 0, 28), (.shra, 0x09, 0, 28), (.sara, 0x0A, 0, 28), (.shlai, 0x0B, 8, 24),
        (.shrai, 0x0C, 8, 24), (.sarai, 0x0D, 8, 24), (.bra, 0x10, 14, 15), (.jmp, 0x12, 14, 26), (.call, 0x13, 14, 26),
        (.jmpr, 0x14, 0, 36), (.ftime, 0x15, 0, 36), (.movd, 0x20, 0, 23), (.movdi, 0x21, 30, 5), (.bcst, 0x22, 0, 20),
        (.movad, 0x23, 31, 9), (.perm, 0x24, 8, 20), (.gets, 0x25, 0, 30), (.puts, 0x26, 0, 30), (.clrs, 0x27, 0, 22),
        (.add, 0x28, 0, 23), (.addi, 0x29, 22, 6), (.sub, 0x2B, 0, 23), (.cmp, 0x2E, 35, 5), (.mul, 0x30, 0, 23), (.div, 0x34, 0, 23),
        (.and, 0x38, 0, 23), (.shl, 0x40, 0, 23), (.shli, 0x45, 8, 20), (.min, 0x4A, 0, 23), (.sel, 0x4E, 0, 21), (.clz, 0x4F, 25, 5),
        (.cmpk, 0x52, 0, 17), (.kand, 0x54, 0, 34), (.kmov, 0x59, 26, 12), (.kget, 0x5B, 0, 26), (.brf, 0x5C, 14, 18),
        (.xadd, 0x60, 24, 5), (.xmac, 0x62, 0, 22), (.xtod, 0x68, 37, 3), (.ldw, 0x70, 29, 2), (.stw, 0x71, 29, 2), (.gath, 0x74, 0, 24),
        (.ldp, 0x75, 0, 12), (.stpq, 0x78, 0, 12), (.lget, 0x80, 15, 13), (.pfill, 0x82, 36, 4), (.wcmp, 0x83, 0, 28),
        (.dscan, 0x84, 0, 23), (.ksrch, 0x90, 18, 8), (.kdrn, 0x94, 30, 10), (.chand, 0x98, 16, 6), (.qpt, 0xA0, 0, 24),
        (.endStage, 0xA1, 0, 40), (.nop, 0xA2, 0, 40), (.brk, 0xA3, 0, 40)] :
      List ((Fin 64 → BitVec 40 → Instr) × BitVec 8 × Nat × Nat)), f.extractLsb' r.2.2.1 r.2.2.2 ≠ 0 → traps (r.1 t f) r.2.1)
    ∧ (∀ r ∈ ([(.kand, 0x54), (.kor, 0x55), (.kandn, 0x56), (.kxor, 0x57), (.knot, 0x58), (.kmov, 0x59), (.kset, 0x5A)] :
      List ((Fin 64 → BitVec 40 → Instr) × BitVec 8)), f.extractLsb' 38 2 = 0 → traps (r.1 t f) r.2)
    ∧ (6 ≤ (f.extractLsb' 37 3).toNat → traps (.bra t f) 0x10 ∧ traps (.brai t f) 0x11)
    ∧ (14 ≤ (f.extractLsb' 36 4).toNat ∨ (f.extractLsb' 34 2).toNat = 3 → traps (.brf t f) 0x5C)
    ∧ ∀ r ∈ ([(.tget, 0xB0), (.txa, 0xB1), (.txd, 0xB2), (.tretry, 0xB3), (.tskip, 0xB4), (.tend, 0xB5)] :
      List ((Fin 64 → BitVec 40 → Instr) × BitVec 8)), traps (r.1 t f) r.2

/-- The PC trap (R110, R140, R164, R176, R185): a program's fetch at index 0x3C00 or above, or a branch to one or to a register with
a higher bit set, takes cause 4 with the target in TADDR, and CALL writes no A15; in trap mode, going on past 0x3FFF ends the
entry with PC_RANGE. -/
def Obligations.PcTrapsStopAProgramAtTheTrapRegion : Prop :=
  ∀ (s : State) (t : Fin 64) (f : BitVec 40) (c : Ctx) (e : WorkEntry) (img : Image),
    let at4 (w addr : Word) : State := s.setHead t { c with
      trap := some { status := 0x0204, tpc := c.pc, tcause := 4, tinst := w, taddr := addr, tinfo := 0,
                     ta := Vector.replicate 8 0, td := Vector.replicate 4 (quadOf 0) }
      pc := 0x3C40 }
    (c.trap = none → s.runner t = some (c, e, img) → s.overtaken t = false → 0x3C00 ≤ c.pc.toNat →
      exec (.nop t f) s = .next (at4 (instrWord 0xA2 f) (c.pc.setWidth 48)) ∧ exec (.divx t f) s = .next (at4 (instrWord 0xC0 f) (c.pc.setWidth 48))
      ∧ exec (.endStage t f) s = .next (at4 (instrWord 0xA1 f) (c.pc.setWidth 48)))
    ∧ (c.trap = none → f.extractLsb' 14 26 = 0 → 0x3C00 ≤ (fTarget f).toNat →
      (Runs s t (instrWord 0x12 f) c e img → exec (.jmp t f) s = .next (at4 (instrWord 0x12 f) ((fTarget f).setWidth 48)))
      ∧ (Runs s t (instrWord 0x13 f) c e img → exec (.call t f) s = .next (at4 (instrWord 0x13 f) ((fTarget f).setWidth 48))))
    ∧ (c.trap = none → f.extractLsb' 0 36 = 0 → Runs s t (instrWord 0x14 f) c e img → 0x3C00 ≤ (c.getA (fA f 36)).toNat →
      exec (.jmpr t f) s = .next (at4 (instrWord 0x14 f) (c.getA (fA f 36))))
    ∧ ∀ r, c.trap = some r → c.pc = 0x3FFF → Runs s t (instrWord 0xA2 0) c e img →
      exec (.nop t 0) s = .next (s.tileFail t c 0x0204 r.tpc.toNat)

/-- Failed accesses of LDW and STW (R69, R149, R162, R164, R236, R308): the first failing test raises the segment trap with its number in
TINFO and bit 5 for a store; past the tests, a slot that is absent and not lost makes the tile wait for it and is asked for, or, for a
read-only entry of an instance that the next list resets, ends the tile's work of the frame; a lost one ends the entry. Nothing is
stored. -/
def Obligations.FailedAccessesTrapOrWait : Prop :=
  ∀ (s : State) (t : Fin 64) (f : BitVec 40) (c : Ctx) (e : WorkEntry) (img : Image), c.trap = none →
    f.extractLsb' 39 1 = 0 → f.extractLsb' 29 2 = 0 →
    ∀ r ∈ ([(.ldw, 0x70, false), (.stw, 0x71, true)] : List ((Fin 64 → BitVec 40 → Instr) × BitVec 8 × Bool)),
    Runs s t (instrWord r.2.1 f) c e img →
    let ea : Word := c.getA (fA f 31) + BitVec.ofInt 48 (f.extractLsb' 0 29).toInt
    let d := s.desc e.inst (selOf ea)
    let ma := descBase d + offOf ea
    let fails (n : Nat) : Prop := exec (r.1 t f) s = .next (s.setHead t { c with
      trap := some { status := 0x0202, tpc := c.pc, tcause := 2, tinst := instrWord r.2.1 f, taddr := ea,
                     tinfo := BitVec.ofNat 48 (n + if r.2.2 then 32 else 0), ta := Vector.replicate 8 0, td := Vector.replicate 4 (quadOf 0) }
      pc := 0x3C20 })
    ((∀ p ∈ img.sets, p.1 = selOf ea → r.2.2 = true ∧ p.2 = false) → fails 5)
    ∧ ((∃ p ∈ img.sets, p.1 = selOf ea ∧ (r.2.2 = true → p.2 = true)) →
      (descKind d = 0 → fails 1)
      ∧ (selOf ea ≠ 0 → descKind d ≠ 0 → (if r.2.2 then descWr d else descRd d) = false → fails 2)
      ∧ (Opens s e img r.2.2 ea d →
        (descLimit d < offOf ea + 5 → fails 3)
        ∧ (offOf ea + 5 ≤ descLimit d → ma % slotBytes % 6 ≠ 0 → fails 4)
        ∧ (offOf ea + 5 ≤ descLimit d → ma % slotBytes % 6 = 0 → ma % slotBytes ≤ lineArea + 54 →
          (r.2.2 = true → lineArea ≤ ma % slotBytes → fails 7)
          ∧ (r.2.2 = true → ma % slotBytes < lineArea → ¬ (c.rank * (descSegs d / c.tiles) * slotBytes ≤ offOf ea
              ∧ offOf ea < (c.rank + 1) * (descSegs d / c.tiles) * slotBytes) → fails 6)
          ∧ ((r.2.2 = true → ma % slotBytes < lineArea ∧ c.rank * (descSegs d / c.tiles) * slotBytes ≤ offOf ea
              ∧ offOf ea < (c.rank + 1) * (descSegs d / c.tiles) * slotBytes) → s.resident (ma / slotBytes) = false →
            (ma / slotBytes ∉ s.mem.lost → (e.writes = true ∨ s.resetNext e.inst = false) → ∃ u, exec (r.1 t f) s = .next u
              ∧ u.tiles = (s.setHead t { c with waiting := some (ma / slotBytes) }).tiles ∧ ma / slotBytes ∈ u.persist.demand
              ∧ u.mem = s.mem)
            ∧ (ma / slotBytes ∉ s.mem.lost → e.writes = false → s.resetNext e.inst = true →
              exec (r.1 t f) s = .next ((s.setHead t c).yieldTile t))
            ∧ (ma / slotBytes ∈ s.mem.lost → s.replaying = false → exec (r.1 t f) s = .next (s.tileFail t c 0x0602 0))))))

/-- The rings (R9, R272 to R278, R281, R282): a context write waits in the written word under its writable bits; a doorbell of the
owner makes the engine read the index block, any other is counted; an index block gives PRODUCER or CONSUMER, a ring that holds
more than its size or cannot be read takes STATE error; an entry read takes a place and waits in the ring, its image joins it; and wherever the
ring could read on but for a place, the completion ring's index block is read (R278). -/
def Obligations.RingCommandsActOnTheirRing : Prop :=
  ∀ (s : State) (r : Fin 4096),
    (∀ (cq : Bool) (w : Fin 8) (acc : RegAccess) (v : BitVec 64), w.val < 4 → acc ≠ .other →
      let new := fun (old : Word) => regWrite old acc v &&& ringMask cq w.val
      ∃ u, exec (.ringContextWrite cq r w acc v) s = .next u
        ∧ (cq = false → u = s.setSq r.val { s.sq r.val with
            written := (if w = 0 then { (s.sq r.val).written with base := new (s.sq r.val).written.base } else if w = 1 then { (s.sq r.val).written with idx := new (s.sq r.val).written.idx }
              else if w = 2 then { (s.sq r.val).written with hi := new (s.sq r.val).written.hi } else { (s.sq r.val).written with config := new (s.sq r.val).written.config })
            pending := (s.sq r.val).pending ||| (1 <<< w.val) })
        ∧ (cq = true → u = s.setCq r.val { s.cq r.val with
            written := (if w = 0 then { (s.cq r.val).written with base := new (s.cq r.val).written.base } else if w = 1 then { (s.cq r.val).written with idx := new (s.cq r.val).written.idx }
              else if w = 2 then { (s.cq r.val).written with hi := new (s.cq r.val).written.hi } else { (s.cq r.val).written with config := new (s.cq r.val).written.config })
            pending := (s.cq r.val).pending ||| (1 <<< w.val) }))
    ∧ (∀ (fn : Fin 64) (size : Nat), size = 4 ∨ size = 8 → s.resetting fn.val = false →
      ((s.sq r.val).inEffect.enable = true → (s.sq r.val).inEffect.inst = fn.val → (s.sq r.val).state = 1 →
        exec (.sqDoorbell fn r size) s = .next (s.setSq r.val { s.sq r.val with reading := (s.sq r.val).reading + 1 }))
      ∧ ((s.cq r.val).inEffect.enable = true → (s.cq r.val).inEffect.inst = fn.val → (s.cq r.val).state = 1 →
        exec (.cqDoorbell fn r size) s = .next (s.setCq r.val { s.cq r.val with reading := (s.cq r.val).reading + 1 }))
      ∧ ((s.sq r.val).inEffect.enable = false ∨ (s.sq r.val).inEffect.inst ≠ fn.val →
        exec (.sqDoorbell fn r size) s = .next { s with host := { s.host with doorbellsIgnored := s.host.doorbellsIgnored + 1 } }))
    ∧ (∀ p c : BitVec 32, (s.sq r.val).reading ≠ 0 → (s.sq r.val).state = 1 → s.hostHeld (s.sq r.val).inEffect.inst = false →
        s.hostStopped (s.sq r.val).inEffect.inst = false →
      let x := s.sq r.val
      let good := s.frontRead x.inEffect.inst 8 true
      (x.enabling = false → (p - x.consumer).toNat ≤ 2 ^ x.inEffect.log2 →
        exec (.indexBlockReadComplete false r (some (p, c))) s =
          .next ((good.setSq r.val { x with reading := 0, enabling := false, producer := p }).askPlace r.val))
      ∧ (x.enabling = true → (p - c).toNat ≤ 2 ^ x.inEffect.log2 →
        exec (.indexBlockReadComplete false r (some (p, c))) s =
          .next ((good.setSq r.val { x with reading := 0, enabling := false, producer := p, consumer := c, readPos := c }).askPlace r.val))
      ∧ (x.enabling = false → 2 ^ x.inEffect.log2 < (p - x.consumer).toNat →
        exec (.indexBlockReadComplete false r (some (p, c))) s = .next (good.sqError r.val 1))
      ∧ exec (.indexBlockReadComplete false r none) s = .next ((s.frontRead x.inEffect.inst 8 false).sqError r.val 2))
    ∧ (∀ p c : BitVec 32, (s.cq r.val).reading ≠ 0 → (s.cq r.val).state = 1 → s.hostHeld (s.cq r.val).inEffect.inst = false →
        s.hostStopped (s.cq r.val).inEffect.inst = false →
      let x := s.cq r.val
      let good := s.frontRead x.inEffect.inst 8 true
      let first := if x.enabling then c else x.producer
      ((first - c).toNat ≤ 2 ^ x.inEffect.log2 → exec (.indexBlockReadComplete true r (some (p, c))) s =
          .next (((good.setCq r.val { x with reading := 0, enabling := false, consumer := c, producer := first }).writeKept r.val).dueNow))
      ∧ (2 ^ x.inEffect.log2 < (first - c).toNat →
        exec (.indexBlockReadComplete true r (some (p, c))) s = .next (good.cqError r.val 1))
      ∧ exec (.indexBlockReadComplete true r none) s = .next ((s.frontRead x.inEffect.inst 8 false).cqError r.val 2))
    ∧ (∀ (entry : BitVec 512) (desc : Option (BitVec 512)), s.canRead r.val = true →
      let x := s.sq r.val
      let st := entryStatus x.inEffect.inst (some entry) desc
      let pipe := decide (st = 0 ∧ entry.toNat % 256 = 1)
      (pipe = true → ∃ n, s.imageStore = some n ∧ s.imageBytes + entryField entry 4 4 ≤ n) →
      (entry.getLsbD 8 = true → s.canReadWrites = true) → (entry.toNat % 256 = 1 → s.imageStore ≠ none) →
      let u := (((s.frontRead x.inEffect.inst (64 + if desc.isSome then 64 else 0) (st != Status.entryFetch)).setSq r.val { x with
          entries := x.entries ++ [{ index := x.readPos.toNat, entry := entry, desc := desc.getD 0, image := none, refuse := st, waitsImage := pipe }]
          readPos := x.readPos + 1 }).setCq x.inEffect.cq { s.cq x.inEffect.cq with reserved := (s.cq x.inEffect.cq).reserved + 1 }).askPlace r.val
      exec (.entryReadComplete r (some entry) desc) s = .next u
      ∧ (entry.toNat % 256 = 1 → desc = none → exec (.pipelineEntry r entry) s = .next u)
      ∧ (entry.toNat % 256 = 5 → desc = none → exec (.nopEntry r entry) s = .next u))
    ∧ ∀ (image : Option (List Byte)), (s.sq r.val).state = 1 → s.hostHeld (s.sq r.val).inEffect.inst = false →
        s.hostStopped (s.sq r.val).inEffect.inst = false →
      ∀ (before after : List ReadEntry) (y : ReadEntry), (s.sq r.val).entries = before ++ y :: after → (∀ z ∈ before, z.waitsImage = false) →
        y.waitsImage = true →
        let st := arrivedStatus s (s.sq r.val).inEffect.inst y.entry image
        exec (.imageReadComplete r image) s = .next ((s.frontRead (s.sq r.val).inEffect.inst (image.getD []).length image.isSome).setSq r.val { s.sq r.val with
          entries := before ++ { y with waitsImage := false, refuse := st, image := if st = 0 then image.map parseImage else none } :: after })

/-- Interrupts and function state (R265, R266, R288 to R291): an expired timer makes its ring's interrupt due, unless nothing it
counts has been published: then it waits for that; a function leaves or
enters D3hot or gains Bus Master Enable and its held accesses go on; unmasking a vector sends its pending message; PME is resent
until its status is cleared; training ends at the lesser speed, or leaves the link down with an event below eight lanes. -/
def Obligations.InterruptAndFunctionCommands : Prop :=
  ∀ (s : State) (fn : Fin 64),
    (∀ r : Fin 4096, (s.cq r.val).timer = true → s.irqBlocked (s.cq r.val).inEffect.inst = false →
      ((s.cq r.val).unseen = 0 → exec (.modTimerExpiry r) s = .next ((s.setCq r.val { s.cq r.val with
          irqCount := 0, irqHeld := false, timedOut := false, timer := false }).signalVector (s.cq r.val).inEffect.inst (s.cq r.val).inEffect.vector))
      ∧ ((s.cq r.val).irqCount ≠ 0 → (s.cq r.val).irqCount ≤ (s.cq r.val).unseen →
        exec (.modTimerExpiry r) s = .next (s.setCq r.val { s.cq r.val with timedOut := true, timer := false })))
    ∧ (∀ r : Fin 4096, (s.cq r.val).timer = true → s.irqBlocked (s.cq r.val).inEffect.inst = true → (s.cq r.val).irqHeld = false →
      ∃ u, exec (.modTimerExpiry r) s = .next u ∧ (u.cq r.val).irqHeld = true ∧ (u.cq r.val).timer = false
        ∧ u.host.irqHeldCount = s.host.irqHeldCount + 1)
    ∧ (exec (.functionPowerStateChange fn true) s = .next { s with host := { s.host with fns := s.host.fns.set fn { s.host.fns[fn] with d3hot := true } } })
    ∧ (∀ d3 : Bool, exec (.functionPowerStateChange fn d3) s =
        .next (({ s with host := { s.host with fns := s.host.fns.set fn { s.host.fns[fn] with d3hot := d3 } } }).resumeHost fn.val))
    ∧ (∀ on : Bool, exec (.busMasterEnableChange fn on) s =
        .next (({ s with host := { s.host with fns := s.host.fns.set fn { s.host.fns[fn] with busMaster := on } } }).resumeHost fn.val))
    ∧ (∀ link, exec (.linkStateChange link) s = .next (({ s with host := { s.host with
        link := link, linkSpeed := if link = LinkState.down then 0 else s.host.linkSpeed, linkWidth := if link = LinkState.down then 0 else s.host.linkWidth } }).sendHeldMsgs))
    ∧ (s.host.fns[fn].pmeStatus = true → s.resetting fn.val = false →
      exec (.pmeResend fn) s = .next { s with host := { s.host with sent := s.host.sent ++ [.pme fn.val] } })
    ∧ (s.host.fns[fn].pmeStatus = false → exec (.pmeResend fn) s = .next s)
    ∧ (exec (.pmeStatusClear fn) s = .next { s with host := { s.host with fns := s.host.fns.set fn { s.host.fns[fn] with pmeStatus := false } } })
    ∧ (∀ v : Fin 64, s.irqBlocked fn.val = false → s.host.fns[fn].functionMask = false → s.host.fns[fn].msixEnable = true → s.resetting fn.val = false →
      s.host.fns[fn].pba = (1 : BitVec 64) <<< v.val → s.host.link = .l0 →
      ∃ u, exec (.msixUnmask fn (some v)) s = .next u
        ∧ u.host.sent = s.host.sent ++ [.msix fn.val v.val (sparseRead s.host.fns[fn].msixTable v.val)]
        ∧ u.host.fns[fn].pba = 0 ∧ u.host.fns[fn].vectorMask = s.host.fns[fn].vectorMask &&& ~~~((1 : BitVec 64) <<< v.val))
    ∧ (s.pins.perstN = true → s.moth.pwrgood = true → ∀ speed width,
      (8 ≤ width → exec (.hostLinkTraining speed width) s = .next (({ s with host := { s.host with
          link := .l0, linkSpeed := min speed (s.od 0x1010 3), linkWidth := if width < 16 then 8 else 16 } }).sendHeldMsgs))
      ∧ (width < 8 → exec (.hostLinkTraining speed width) s =
          .next (({ s with host := { s.host with link := .down, linkSpeed := 0, linkWidth := 0 } }).raise 0x0021 2 0)))

/-- Mailboxes and instance resets (R295, R301 to R306, R311, R473): a message sets FULL and raises its vector, a second one meets
REJECT or is not taken, an acknowledge clears FULL; a reset of an instance clears its mailbox, masks its function, empties its
read-ahead and marks the reset in progress, and a reset of the physical function does so for every instance. -/
def Obligations.MailboxAndResetCommands : Prop :=
  ∀ (s : State) (fn : Fin 64), fn.val ≠ 0 →
    (∀ v : BitVec 64, v.getLsbD 0 = true →
      (s.host.insts[fn].mailbox.outFull = false → exec (.outDoorbellSend fn .qword v) s =
        .next ((s.setMailbox fn { s.host.insts[fn].mailbox with outFull := true }).raiseVector 0 (s.od 0x1240 1)))
      ∧ (s.host.insts[fn].mailbox.outFull = true → exec (.outDoorbellSend fn .qword v) s =
        .next (s.setMailbox fn { s.host.insts[fn].mailbox with outReject := true }))
      ∧ exec (.inAck fn .qword v) s = .next (s.setMailbox fn { s.host.insts[fn].mailbox with inFull := false }))
    ∧ (∀ msg : BitVec 512, s.host.insts[fn].mailbox.inFull = false →
      let t := s.setMailbox fn { s.host.insts[fn].mailbox with inMsg := msg, inFull := true }
      exec (.toTenant fn msg) s = .next (if s.host.insts[fn].mailbox.inIrqEn && decide (s.host.insts[fn].mailbox.inVector.toNat < 32)
        then t.raiseVector fn.val s.host.insts[fn].mailbox.inVector.toNat else t))
    ∧ exec (.fromAck fn true) s = .next (s.setMailbox fn { s.host.insts[fn].mailbox with outFull := false })
    ∧ (s.host.vfEnable = true → fn.val ≤ s.host.numVfs → ∃ u, exec (.functionLevelReset fn) s = .next u
      ∧ u.host.insts[fn].hostReset = true ∧ u.host.insts[fn].mailbox = emptyMailbox
      ∧ u.host.insts[fn].resetState = (if s.host.insts[fn].resetState = 0 then 1 else s.host.insts[fn].resetState)
      ∧ u.host.fns[fn].vectorMask = BitVec.allOnes 64 ∧ u.host.fns[fn].pba = 0
      ∧ u.mem = s.mem ∧ u.kma = s.kma ∧ ∀ i : Fin 64, i ≠ fn → u.host.insts[i] = s.host.insts[i])
    ∧ (∀ n, fn.val ≤ s.host.numVfs → s.host.vfEnable = true → ∃ u, exec (.vfEnableChange false n) s = .next u
      ∧ u.host.vfEnable = false ∧ u.host.numVfs = min 63 n ∧ u.host.insts[fn].hostReset = true)
    ∧ (∀ down : Bool, ∃ u, exec (.hotReset down) s = .next u ∧ u.host.vfEnable = false ∧ u.host.numVfs = 0
      ∧ u.host.insts[fn].hostReset = true ∧ u.host.insts[fn].mailbox = emptyMailbox ∧ u.host.link = (if down then .down else s.host.link))

/-- Table commands (R193, R194, R219 to R221): the command that is next in the merge acts on the table it names, sends its result record
and finishes its entry, whatever the state of the array; CLEAR empties its table and DESTROY releases it, and neither touches another
table; CREATE adds a table with no entries; LOAD spreads ascending records over an empty ordered table, as many as 15/16 of its limit
admit, and otherwise inserts its records one by one up to the first that fails. A command that names no table, or creates one that
exists, changes no array. -/
def Obligations.TableCommandsActOnTheirTable : Prop :=
  ∀ (s : State) (slot : Fin 256) (e : WorkEntry), tcArgument e.desc = false →
    let i := tcInst e.desc
    let h := tcHandle e.desc
    (∀ t st, e ∈ t.work → e.finished = none →
      (∀ tb, t.table? i h = some tb → ResultSent t t (t.tableResult e st) e st tb.limit (t.tableEntries i h).length)
      ∧ (t.table? i h = none → ResultSent t t (t.tableResult e st) e st 0 0))
    ∧ (∀ tb, s.table? i h = some tb →
      (s.nextCommand slot.val 3 2 = some e → ∃ u, exec (.tableClear slot) s = .next u ∧ ResultSent s (s.clearTable i h) u e 0 tb.limit 0
        ∧ u.tableEntries i h = [] ∧ u.kma.tables = s.kma.tables
        ∧ ∀ j g, ¬ (j = i ∧ g = h) → u.tableEntries j g = s.tableEntries j g)
      ∧ (s.nextCommand slot.val 3 3 = some e → ∃ u, exec (.tableDestroy slot) s = .next u ∧ ResultSent s (s.dropTable i h) u e 0 0 0
        ∧ u.tableEntries i h = [] ∧ u.table? i h = none
        ∧ ∀ j g, ¬ (j = i ∧ g = h) → u.tableEntries j g = s.tableEntries j g ∧ u.table? j g = s.table? j g)
      ∧ (s.nextCommand slot.val 3 1 = some e → ∃ u, exec (.tableCreate slot) s = .next u
        ∧ ResultSent s s u e Status.kmaExists tb.limit (s.tableEntries i h).length)
      ∧ (∀ bs, s.nextCommand slot.val 3 4 = some e → s.spanWait (s.tableSlots tb) = none → s.fromRecords = false →
          entryField e.desc 24 4 * 48 ≤ bs.length →
          ((List.range (entryField e.desc 24 4)).any fun k => !fits (fieldNat bs (48 * k + 12) 6) 16 || fieldNat bs (48 * k + 42) 6 != 0) = false →
        let n := entryField e.desc 24 4
        let es := (List.range n).map fun k => loadRecord i h (sliceBytes bs (48 * k) 48)
        let r := (s.frontRead e.inst (48 * n) true).stageData e.slot 2 (bs.take (48 * n))
        (tb.ordered = true → s.tableEntries i h = [] → ascending es = true → exec (.tableLoad slot (some bs)) s =
            .next ((r.spreadKeys tb (es.take (15 * tb.limit / 16))).tableResult e (if n ≤ 15 * tb.limit / 16 then 0 else Status.kmaFull)))
        ∧ (tb.ordered = true → s.tableEntries i h = [] → ascending es = false →
          ∃ u, exec (.tableLoad slot (some bs)) s = .next u ∧ ResultSent s s u e Status.kmaOrder tb.limit 0)
        ∧ (tb.ordered = false ∨ s.tableEntries i h ≠ [] → let p := State.each (State.loadOne i h) r es
          exec (.tableLoad slot (some bs)) s = .next (p.1.tableResult e p.2))))
    ∧ (s.table? i h = none →
      (s.nextCommand slot.val 3 2 = some e → ∃ u, exec (.tableClear slot) s = .next u ∧ ResultSent s s u e Status.kmaNoTable 0 0)
      ∧ (s.nextCommand slot.val 3 3 = some e → ∃ u, exec (.tableDestroy slot) s = .next u ∧ ResultSent s s u e Status.kmaNoTable 0 0)
      ∧ (s.nextCommand slot.val 3 1 = some e → tcFlag e.desc 2 = false →
          let cap := entryField e.desc 6 4
          s.replaying = false → 0 < cap → cap ≤ (if tcFlag e.desc 0 then 65536 else 196608) → 1 ≤ entryField e.desc 3 1 → entryField e.desc 3 1 ≤ 8 →
          ∃ u t, exec (.tableCreate slot) s = .next u ∧ u.kma = { s.kma with tables := s.kma.tables ++ [t] }
            ∧ t.inst = i ∧ t.tag = h ∧ t.ordered = tcFlag e.desc 0 ∧ t.unique = (tcFlag e.desc 1 || tcFlag e.desc 0)
            ∧ t.limit ≤ cap ∧ u.mem.bytes = s.mem.bytes ∧ u.table? i h = some t
            ∧ ResultSent s u u e 0 t.limit (s.tableEntries i h).length))

/-- The merge, a deferred descriptor and a squash (R40, R298, R305, R307): FRAME_MERGE completes once every tile has yielded, the jobs
that write spans are done and the slots it needs are resident: records apply one after another, tile by tile, those of a failed entry
not at all; every tile's records are gone, and table commands and descriptor changes follow or the merge is complete. Where the array
holds no cell or word in error, no record fails, no job has headers to write and no table has spilled, the array and module memory
are as the records leave them, a failed entry ends with its status, and an entry whose tiles are all done goes to its next stage. A
SET_DESCRIPTOR joins the shadow set; a SQUASH ends every other entry of its instance and disables its rings. -/
def Obligations.MergeSetDescriptorAndSquash : Prop :=
  ∀ (s : State),
    (s.executing = true → (∀ t : Fin 64, s.tiles[t].yielded = true) → s.spanJobsDone = true → s.mergeWait = none →
      ∃ u, exec .frameMerge s = .next u ∧ u.frame.frameNo = s.frame.frameNo ∧ (∀ t : Fin 64, u.tiles[t].merge = [])
        ∧ ((u.frame.merging = true ∧ u.outstanding ≠ none) ∨ (u.frame.merging = false ∧ u.frame.mergeDone = true))
        ∧ ∀ s1, s.kma.cam = [] → s.kma.sram = [] → s.applyRecords s.mergeRecords = .ok s1 → (∀ e ∈ s1.work, e.job = none) →
            (∀ t ∈ s1.kma.tables, t.spilled = []) →
          u.kma = s1.kma ∧ u.mem.bytes = s1.mem.bytes
          ∧ (∀ e f, e ∈ s1.work → e.fail = some f → e.finished = none → (∀ y ∈ s1.work, y.slot = e.slot → y = e) →
              ∃ x ∈ u.work, x.slot = e.slot ∧ x.finished = some (s.frame.frameNo, if f.status = 0 then e.late else f.status, f.detail))
          ∧ ∀ e img, e ∈ s1.work → e.fail = none → e.finished = none → e.active = true → e.image = some img →
              (∀ t ∈ img.stageTiles e.stage, t.val ∈ e.done) → (∀ y ∈ s1.work, y.slot = e.slot → y = e) →
              ∃ x ∈ u.work, x.slot = e.slot ∧ x.stage = e.stage + 1 ∧ x.active = false ∧ x.done = [])
    ∧ (s.mergeRecords = (List.finRange 64).flatMap fun t => s.tiles[t].merge)
    ∧ (∀ (a b : List MergeRecord) t, s.applyRecords a = .ok t → s.applyRecords (a ++ b) = t.applyRecords b)
    ∧ (∀ (r : MergeRecord) (e : WorkEntry), s.entry? r.slot = some e → e.fail.isSome = true → s.applyRecord r = .ok s)
    ∧ (∀ (slot : Fin 256) (e : WorkEntry), s.nextCommand slot.val 4 1 = some e →
      ∃ u, exec (.setDescriptor slot) s = .next u
        ∧ u.host.changes = s.host.changes ++ [{ slot := some e.slot, inst := entryField e.desc 1 1, selector := entryField e.desc 2 2,
                                                descriptor := BitVec.ofNat 192 (entryField e.desc 8 24) }]
        ∧ u.host.descs = s.host.descs ∧ u.kma = s.kma ∧ u.mem = s.mem)
    ∧ ∀ (slot : Fin 256) (e : WorkEntry) (n : Fin 64), (s.work.find? fun x => x.slot == slot.val && x.squashes) = some e →
      entryField e.desc 1 1 = n.val →
      ∃ u, exec (.squash slot) s = .next u ∧ u.host.insts[n].resetState = 3 ∧ (n.val, false) ∈ u.frame.squashing
        ∧ u.host.insts[n].squashed = (s.host.insts[n].squashed + (s.work.filter fun x => x.inst == n.val && x.finished.isNone).length) % 2 ^ 48
        ∧ u.mem.bytes = s.mem.bytes ∧ u.kma.tables = s.kma.tables
        ∧ (∀ h, 0x4000 ≤ h → s.table? n.val h ≠ none → u.tableEntries n.val h = [])
        ∧ (∀ x ∈ u.work, x.inst = n.val → x.finished.isSome = true)
        ∧ (∀ r, (s.sq r).inEffect.inst = n.val → (u.sq r).inEffect.enable = false)
        ∧ ∀ r, (s.cq r).inEffect.inst = n.val → (u.cq r).inEffect.enable = false

/-- The digest engine (R333 to R344): OPEN takes a context or waits for one, and latches the algorithm and the key; bytes join the
message in order; the last bytes start the finish, which delivers the digest or HMAC to the result or to a key slot; COMPARE matches
the expected bytes in full; ABORT starts a new message and CLOSE releases the context. Each acts on its own handle only. -/
def Obligations.DigestCommandsActOnTheirHandle : Prop :=
  ∀ (s : State) (fn : Fin 64) (h : Fin 16) (v : Word), s.portClosed fn = false →
    let n := 16 * fn.val + h.val
    let x := s.handle n
    let only := fun (u : State) => (∀ m, m ≠ n → u.handle m = s.handle m) ∧ u.mem = s.mem ∧ u.kma = s.kma ∧ u.host = s.host
    (v.extractLsb' 0 4 = 1#4 → x.state = 0 → 1 ≤ (x.ctrl v).alg → (x.ctrl v).alg ≤ 3 → (x.ctrl v).hmac = false →
      (∀ c, s.freeContext = some c → s.contextsHeld fn.val < s.contextQuota fn.val →
        ∃ u, exec (.dgOpen fn h v) s = .next u ∧ only u ∧ u.digest.keys = s.digest.keys ∧ u.digest.queue = s.digest.queue
          ∧ u.handle n = { (x.ctrl v).latch (x.ctrl v).alg none with err := 0, ctx := c })
      ∧ (s.freeContext = none →
        ∃ u, exec (.dgOpen fn h v) s = .next u ∧ only u ∧ u.digest.queue = s.digest.queue ++ [n] ∧ (u.handle n).state = 1
          ∧ u.digest.busyWaits = (s.digest.busyWaits + 1) % 2 ^ 48))
    ∧ (v.extractLsb' 0 4 = 1#4 → x.state = 0 → 1 ≤ (x.ctrl v).alg → (x.ctrl v).alg ≤ 3 → (x.ctrl v).hmac = true →
      let k := (x.ctrl v).keySlot
      (s.ownsKey fn.val k = false → ∃ u, exec (.dgOpen fn h v) s = .next u ∧ only u ∧ (u.handle n).state = 0 ∧ (u.handle n).err = 3)
      ∧ (s.ownsKey fn.val k = true → s.keyAt k = [] →
          ∃ u, exec (.dgOpen fn h v) s = .next u ∧ only u ∧ (u.handle n).state = 0 ∧ (u.handle n).err = 2)
      ∧ (s.ownsKey fn.val k = true → s.keyAt k ≠ [] → ∀ c, s.freeContext = some c → s.contextsHeld fn.val < s.contextQuota fn.val →
          ∃ u, exec (.dgOpen fn h v) s = .next u ∧ only u
            ∧ (u.handle n).state = 2 ∧ (u.handle n).ctx = c ∧ (u.handle n).ctxKey = some (s.keyAt k)))
    ∧ (v.extractLsb' 0 4 = 2#4 → x.state = 2 → s.digest.queue = [] → ∃ u, exec (.dgClose fn h v) s = .next u ∧ only u
      ∧ u.handle n = (x.ctrl v).release)
    ∧ (v.extractLsb' 0 4 = 4#4 → x.state = 2 ∨ x.state = 4 → ∃ u, exec (.dgAbort fn h v) s = .next u ∧ only u
      ∧ u.handle n = { (x.ctrl v).fresh with err := 0 })
    ∧ (v.extractLsb' 0 4 = 8#4 → x.state = 4 → ∃ u, exec (.dgCompare fn h v) s = .next u ∧ only u
      ∧ u.handle n = { x.ctrl v with comparing := true })
    ∧ (x.comparing = true → x.state = 4 → ∃ u, exec (.compareDone fn h) s = .next u ∧ only u
      ∧ (u.handle n).matched = (!x.resultToKey && decide (x.digest.length ≤ x.expected.length) && x.expected.take x.digest.length == x.digest)
      ∧ (u.handle n).cmpDone = true ∧ (u.handle n).expected = [] ∧ (u.handle n).comparing = false
      ∧ u.digest.compares = (s.digest.compares + 1) % 2 ^ 48)
    ∧ (x.state = 2 →
      (x.count + 6 < 2 ^ 48 → ∃ u, exec (.dgData fn h v) s = .next u ∧ only u
        ∧ u.handle n = { x with message := x.message ++ leBytes 6 v.toNat, count := x.count + 6 })
      ∧ (x.lastCnt < 7 → x.count + x.lastCnt < 2 ^ 48 → ∃ u, exec (.dgLast fn h v) s = .next u ∧ only u
        ∧ u.handle n = { x with message := x.message ++ (leBytes 6 v.toNat).take x.lastCnt, count := x.count + x.lastCnt, state := 3 })
      ∧ (x.expected.length ≤ 60 → ∃ u, exec (.dgExpect fn h v) s = .next u ∧ only u
        ∧ u.handle n = { x with expected := x.expected ++ leBytes 6 v.toNat })
      ∧ (let k := (v.extractLsb' 0 8).toNat
        s.ownsKey fn.val k = true → s.keyAt k ≠ [] → x.count + (s.keyAt k).length < 2 ^ 48 →
          ∃ u, exec (.dgKeymsg fn h v) s = .next u ∧ only u
            ∧ u.handle n = { x with message := x.message ++ s.keyAt k, count := x.count + (s.keyAt k).length }))
    ∧ (x.state < 2 → ∃ u, exec (.dgData fn h v) s = .next u ∧ only u ∧ u.handle n = x.note 1)
    ∧ (x.state = 3 → x.waiting = [] →
      let d := match x.ctxKey with
        | some k => hmacOf x.ctxAlg k x.message
        | none => hashOf x.ctxAlg x.message
      (x.toKey = false → ∃ u, exec (.digestFinishComplete fn h) s = .next u ∧ only u ∧ (u.handle n).result = d ∧ (u.handle n).digest = d
        ∧ (u.handle n).state = 4 ∧ u.digest.messages = (s.digest.messages + 1) % 2 ^ 48 ∧ u.digest.keys = s.digest.keys)
      ∧ (x.toKey = true → s.ownsKey fn.val x.destSlot = true → 0 < x.keyLen → x.keyLen ≤ d.length →
        ∃ u, exec (.digestFinishComplete fn h) s = .next u ∧ only u ∧ (u.handle n).result = [] ∧ (u.handle n).state = 4
          ∧ u.keyAt x.destSlot = d.take x.keyLen ∧ ∀ k, k ≠ x.destSlot → u.keyAt k = s.keyAt k))

/-- The key-load port (R345): KS_DATA gathers bytes, up to 66; KS_COMMIT stores the first LEN of them in the selected slot of the
instance's own range, and clears the buffer whatever the outcome. -/
def Obligations.KeyLoadPortStoresKeys : Prop :=
  ∀ (s : State) (fn : Fin 64) (v : Word), s.portClosed fn = false →
    let p := s.keyPort fn
    let len := (v.extractLsb' 0 7).toNat
    (p.buffer.length ≤ 60 → ∃ u, exec (.ksData fn v) s = .next u ∧ u.keyPort fn = { p with buffer := p.buffer ++ leBytes 6 v.toNat }
      ∧ u.digest.keys = s.digest.keys ∧ ∀ f, f ≠ fn → u.keyPort f = s.keyPort f)
    ∧ (60 < p.buffer.length → ∃ u, exec (.ksData fn v) s = .next u ∧ u.keyPort fn = { p with err := 1 })
    ∧ (len ≤ 64 → s.ownsKey fn.val p.slot = true → len ≤ p.buffer.length →
      ∃ u, exec (.ksCommit fn v) s = .next u ∧ u.keyAt p.slot = p.buffer.take len ∧ (u.keyPort fn).buffer = [] ∧ (u.keyPort fn).err = 0
        ∧ (∀ k, k ≠ p.slot → u.keyAt k = s.keyAt k) ∧ ∀ f, f ≠ fn → u.keyPort f = s.keyPort f)
    ∧ (64 < len ∨ s.ownsKey fn.val p.slot = false ∨ p.buffer.length < len →
      ∃ u, exec (.ksCommit fn v) s = .next u ∧ u.digest.keys = s.digest.keys ∧ (u.keyPort fn).buffer = []
        ∧ (u.keyPort fn).err = if 64 < len then 5 else if s.ownsKey fn.val p.slot = false then 3 else 1)

/-- The Mover (R313, R315 to R320, R326 to R330): an append joins a queue of channels 24 to 31; a good descriptor is taken up and a bad
one is abandoned with CAUSE 4; a burst starts within the burst size, a 4,096-byte host page and what remains; a burst whose read
returns is written, byte for byte, and the last one ends its descriptor; a failed read abandons it; the control bits act at once. -/
def Obligations.MoverCommandsMoveTheirChannel : Prop :=
  ∀ (s : State) (ch : Fin 32),
    let x := s.mover.channels[ch]
    (∀ v : BitVec 64, 24 ≤ ch.val → x.disable = false → x.queue.length < 8 →
      exec (.chAppend ch .qword v) s = .next (s.setChannel ch { x with queue := x.queue ++ [.ma (v.setWidth 48).toNat] }))
    ∧ (∀ v : BitVec 64, ch.val < 24 → exec (.chAppend ch .qword v) s = .next s)
    ∧ (∀ d r, x.canFetch = true → x.next = none → x.queue = .own d :: r →
      exec (.descriptorFetch ch) s = .next (s.setChannel ch ({ x with queue := r }.load d)))
    ∧ (∀ a r, x.canFetch = true → x.next = none → x.queue = .ma a :: r → descPlaceOk s.e384 a = true → (∀ l ∈ linesOf a 32, LineGood s l) →
      let bs := s.moduleBytes a 32
      let d := parseMover a bs
      let failed := fun (u : State) (cause : Nat) => u.mover.channels[ch].cur = none
        ∧ u.mover.channels[ch].errCount = min 65535 (x.errCount + 1) ∧ u.mover.errPulses = s.mover.errPulses + 1
        ∧ (x.errValid = false → u.mover.channels[ch].errValid = true ∧ u.mover.channels[ch].errCause = cause
            ∧ u.mover.channels[ch].errTag = d.tag ∧ u.mover.channels[ch].errDesc = a)
        ∧ u.mem.bytes = s.mem.bytes
      let inRange := rangeOk s.e384 d.srcSpace d.src d.len && rangeOk s.e384 d.dstSpace d.dst d.len
      (badDesc ch.val bs d = true → ∃ u, exec (.descriptorFetch ch) s = .next u ∧ failed u 4 ∧ u.mover.channels[ch].next = none
        ∧ u.mover.channels[ch].queue = r)
      ∧ (badDesc ch.val bs d = false → inRange = false → ∃ u, exec (.descriptorFetch ch) s = .next u ∧ failed u 5
        ∧ u.mover.channels[ch].next = (if d.next = 0 then r.head? else some (.ma d.next))
        ∧ u.mover.channels[ch].queue = if d.next = 0 then r.drop 1 else r)
      ∧ (badDesc ch.val bs d = false → inRange = true → (∀ y ∈ d.slots 0 d.len, s.resident y = true) →
        ∃ u, exec (.descriptorFetch ch) s = .next u
          ∧ u.mover.channels[ch] = { x with queue := (if d.next = 0 then r.drop 1 else r), next := (if d.next = 0 then r.head? else some (.ma d.next)),
                                            cur := some d, curReg := a, remain := d.len, inflight := [], mode := .leave }
          ∧ (∀ c, c ≠ ch → u.mover.channels[c] = s.mover.channels[c]) ∧ u.mem.bytes = s.mem.bytes))
    ∧ (∀ d, x.cur = some d → 0 < x.remain → x.remain ≤ d.len →
      (0 < nextBurst x d ∧ nextBurst x d ≤ x.remain ∧ nextBurst x d ≤ 64 * 2 ^ x.burst
        ∧ (d.srcSpace = 0 → (d.src + (d.len - x.remain)) % 4096 + nextBurst x d ≤ 4096)
        ∧ (d.dstSpace = 0 → (d.dst + (d.len - x.remain)) % 4096 + nextBurst x d ≤ 4096))
      ∧ (s.grant = some ch → ∃ u, exec .burstStart s = .next u ∧ u.mover.channels[ch] = { x with
          inflight := x.inflight ++ [{ off := d.len - x.remain, len := nextBurst x d }], remain := x.remain - nextBurst x d, paced := false }
        ∧ (∀ c, c ≠ ch → u.mover.channels[c] = s.mover.channels[c]) ∧ u.mem = s.mem ∧ u.host = s.host))
    ∧ (s.grant = none → exec .burstStart s = .next s)
    ∧ (exec (.pacingIntervalExpiry ch) s = .next (s.setChannel ch { x with paced := true }))
    ∧ (∀ on, exec (.chPause ch on) s = .next (s.setChannel ch { x with pause := on }))
    ∧ (exec (.chErrorClear ch) s = .next (s.setChannel ch { x with errValid := false, errTag := 0, errCause := 0 }))
    ∧ (ch.val < 16 ∨ 24 ≤ ch.val → exec (.chDisable ch false) s = .next (s.setChannel ch { x with disable := false }))
    ∧ (ch.val < 16 ∨ 24 ≤ ch.val → x.disable = false → x.next = none → x.queue = [] →
      ∃ u, exec (.chDisable ch true) s = .next u ∧ u.mover.channels[ch].disable = true ∧ u.mover.channels[ch].cur = none
        ∧ u.mover.channels[ch].inflight = [] ∧ u.mem = s.mem ∧ u.kma = s.kma ∧ (∀ c, c ≠ ch → u.mover.channels[c] = s.mover.channels[c])
        ∧ (x.cur = none → u.mover.errPulses = s.mover.errPulses)
        ∧ ∀ d, x.cur = some d → (d.evtRd || d.evtWr) = true → u.mover.errPulses = s.mover.errPulses + 1
          ∧ u.mover.channels[ch].errCount = min 65535 (x.errCount + 1) ∧ (x.errValid = false → u.mover.channels[ch].errCause = 6))
    ∧ (16 ≤ ch.val → ch.val ≤ 23 → ∀ on, exec (.chDisable ch on) s = .next s)
    ∧ (∀ d, x.cur = some d → d.srcSpace = 0 → x.inflight ≠ [] → ∃ u, exec (.hostReadTimeout ch) s = .next u
      ∧ u.mover.channels[ch].cur = none ∧ u.mover.channels[ch].next = x.next ∧ u.mover.channels[ch].inflight = []
      ∧ u.mover.channels[ch].errCount = min 65535 (x.errCount + 1) ∧ (x.errValid = false → u.mover.channels[ch].errCause = 1)
      ∧ u.mem.bytes = s.mem.bytes)

/-- Bursts of the Mover (R317, R321, R324, R325, R328): the bytes a read returns, from the host, module memory, a scratchpad or a port,
reach the destination of the burst: module memory, where no other byte changes, the host, the hold store while the function is held,
or a port; what the hold store has no room for is lost and counted; the descriptor ends with its last burst, and ends with CAUSE 1
when its host read fails or its instance is being reset. -/
def Obligations.BurstsCarryTheirBytes : Prop :=
  ∀ (s : State) (ch : Fin 32) (d : MoverDesc) (b : Burst) (r : List Burst) (res : BurstResult) (t : Fin 64) (c : Ctx),
    let x := s.mover.channels[ch]
    x.cur = some d → x.inflight = b :: r → s.frame.squashing = [] →
    let from_ := if d.srcSpace = 1 then s.moduleBytes (d.src + b.off) b.len
      else if d.srcSpace = 2 then
        (((List.range (ceilDiv (b.off % 6 + b.len) 6)).flatMap fun i => leBytes 6 (c.spRead (d.src % 2 ^ 17 + b.off / 6 + i)).toNat).drop (b.off % 6)).take b.len
      else sliceBytes (res.data.getD []) 0 b.len
    let good := if d.srcSpace = 1 then (∀ l ∈ linesOf (d.src + b.off) b.len, LineGood s l) ∧ (∀ y ∈ rangeSlots (d.src + b.off) b.len, s.gone y = false)
      else if d.srcSpace = 2 then res.lastBeatError = false ∧ d.src / 2 ^ 17 = t.val ∧ (match d.entry with
          | some slot => s.tiles[t].ctxs.find? fun (q : Ctx) => q.slot == slot
          | none => s.tiles[t].ctxs.head?) = some c
      else res.lastBeatError = false ∧ res.data.isSome = true ∧ (d.srcSpace = 0 → s.resetting d.inst = false)
    let done := r = [] ∧ x.remain = 0
    let ended := fun (u : State) => (done → u.mover.channels[ch].cur = none ∧ u.mover.channels[ch].next = x.next)
      ∧ (¬ done → u.mover.channels[ch].cur = some d ∧ u.mover.channels[ch].inflight = r)
    (good →
      (d.dstSpace = 1 → memoryWf s → (∀ l ∈ linesOf (d.dst + b.off) from_.length, LineGood s l) → ∃ u, exec (.burstReadComplete ch res) s = .next u
        ∧ (∀ i, (h : i < from_.length) → u.byteAt (d.dst + b.off + i) = from_[i])
        ∧ (∀ a, a < d.dst + b.off ∨ d.dst + b.off + from_.length ≤ a → u.byteAt a = s.byteAt a)
        ∧ u.host.descs = (s.moduleWrite (d.dst + b.off) from_).host.descs ∧ u.host.sent = s.host.sent ∧ ended u)
      ∧ (d.dstSpace = 3 → ∃ u, exec (.burstReadComplete ch res) s = .next u ∧ u.mover.ports = s.mover.ports ++ [(d.dst, from_)]
        ∧ u.mem.bytes = s.mem.bytes ∧ u.host.sent = s.host.sent ∧ ended u)
      ∧ (d.dstSpace = 0 → x.mode = .leave → s.hostStopped d.inst = false →
        (s.hostHeld d.inst = false → ∃ u, exec (.burstReadComplete ch res) s = .next u
          ∧ u.host.sent = s.host.sent ++ [.data d.inst (d.dst + b.off) from_ (d.ro && s.relaxes d.inst)] ∧ u.mem.bytes = s.mem.bytes ∧ ended u)
        ∧ (s.hostHeld d.inst = true → ch.val ≠ 16 →
          let fits := s.holdBytes + s.holdReserved + from_.length + (x.remain + (r.map fun y => y.len).sum) ≤ holdSize
          ∃ u, exec (.burstReadComplete ch res) s = .next u ∧ u.host.sent = s.host.sent ∧ u.mem.bytes = s.mem.bytes ∧ ended u
          ∧ (fits → ∃ last, u.host.heldWrites = s.host.heldWrites ++ [.inl { inst := d.inst, addr := d.dst + b.off, bytes := from_, relaxed := d.ro,
                                                                             mover := some (ch.val, d), last := last }]
              ∧ (last = true ↔ done) ∧ u.mover.holdLost = s.mover.holdLost)
          ∧ (¬ fits → u.host.heldWrites = s.host.heldWrites ∧ u.mover.holdLost = (s.mover.holdLost + 1) % 2 ^ 48))))
    ∧ (d.srcSpace = 0 → res.data = none ∨ s.resetting d.inst = true → ∃ u, exec (.burstReadComplete ch res) s = .next u
      ∧ u.mover.channels[ch].cur = none ∧ u.mover.channels[ch].next = x.next ∧ u.mem.bytes = s.mem.bytes ∧ u.host.sent = s.host.sent
      ∧ (x.errValid = false → u.mover.channels[ch].errCause = 1))

/-- Durability (R356 to R358, R361 to R364, R370, R371, R384): an acknowledged cocoon no longer waits and COMMITTED_FRAME moves up to the
last frame before the first open one; a late commit is reported once; once the writes of a chrysalis are acknowledged its superblock
goes to every serving member, and once those are acknowledged its set and map are in force and the frames before it are
committed; CHRYSALIS_SOON and FORMAT wait for their tick. -/
def Obligations.CommitFollowsCocoonsAndChrysalises : Prop :=
  ∀ (s : State),
    let p := s.persist
    (∀ f, (∃ c ∈ p.waiting, c.frame = f) → p.state ≠ 6 → s.frozen = false → s.needsAck = false →
      ∃ u, exec (.cocoonAcknowledged f) s = .next u
        ∧ u.persist.waiting = p.waiting.filter (fun c => c.frame != f) ∧ u.persist.open_ = p.open_.filter (· != f)
        ∧ u.persist.committed = max p.committed (match p.open_.filter (· != f) with
          | [] => s.frame.frameNo - 1
          | g :: _ => min (s.frame.frameNo - 1) (g - 1))
        ∧ u.persist.chrysalis = p.chrysalis ∧ u.persist.set = p.set ∧ u.mem = s.mem ∧ u.host = s.host)
    ∧ (∀ f r, p.open_ = f :: r → f ∉ p.lateRaised → s.od 0x5000 1 = 0 →
      exec .commitTimeout s = .next (({ s with persist := { p with lateRaised := p.lateRaised ++ [f] } }).raiseAt 0x0040 2 packageLocation f 0))
    ∧ (p.open_ = [] → s.needsAck = false → exec .commitTimeout s = .next s)
    ∧ (∀ c q, p.chrysalis = some c → p.set = some q → s.frozen = false → p.state ≠ 6 →
      (c.sealed = false → ∃ u, exec .chrysalisWriteAck s = .next u ∧ u.persist.chrysalis = some { c with sealed := true } ∧ u.persist.set = some q
        ∧ u.persist.sent = p.sent ++ ((maskPorts q.portMask).filter fun m => p.ports[m].state = 2).map fun m =>
          PersistWrite.superblock m.val (decide (c.no % 2 = 1)) ((c.newSet q).superblock (slotCount s.e384) s.writtenEpoch m
            (hmac256 s.journalKey (mapBytes (slotCount s.e384) c.no c.map)) (hmac256 s.journalKey c.manifest)))
      ∧ (c.sealed = true → ∃ u, exec .chrysalisComplete s = .next u ∧ u.persist.chrysalis = none ∧ u.persist.map = c.map
        ∧ u.persist.set = some { q with generation := q.generation + 1, chrysNo := c.no, chrysFrame := c.frame,
                                        jposStart := c.jposStart, mapSel := 1 - q.mapSel }
        ∧ (∀ f ∈ u.persist.open_, c.frame ≤ f) ∧ c.frame - 1 ≤ u.persist.committed ∧ p.committed ≤ u.persist.committed
        ∧ u.mem = s.mem ∧ u.kma = s.kma))
    ∧ exec .chrysalisSoon s = .next (s.markDue s.frame.frameNo)
    ∧ exec .format s = .next { s with persist := { p with formatWaiting := true } }

/-- The SSDs (R365 to R367, R383): an initialising SSD that meets R366 is accepted; every other outcome fails its port with the
FAIL_REASON of its cause, counts the error where a command failed, and leaves the array and the committed frames alone. -/
def Obligations.SsdEventsSetTheirPort : Prop :=
  ∀ (s : State) (p : Fin 4),
    let x := s.persist.ports[p]
    let failed := fun (u : State) (reason errors : Nat) => u.persist.ports[p].state = 3 ∧ u.persist.ports[p].failReason = reason
      ∧ u.persist.ports[p].errors = errors ∧ u.kma = s.kma ∧ u.mem.bytes = s.mem.bytes ∧ u.persist.committed = s.persist.committed
    (∀ id : SsdIdentity, x.state = 1 →
      (s.ssdReason p id = 0 → ∃ u, exec (.ssdReady p id) s = .next u
        ∧ u.persist.ports[p] = { x with state := 2, queues := min 4 id.queues, vwc := id.vwc, blocks := id.blocks }
        ∧ (∀ q, q ≠ p → u.persist.ports[q] = s.persist.ports[q]) ∧ u.mem = s.mem ∧ u.kma = s.kma)
      ∧ (id.active = false ∨ id.lbaBytes ≠ 4096 ∨ id.metadata = true → ∃ u, exec (.ssdReady p id) s = .next u ∧ failed u 3 x.errors)
      ∧ (id.active = true → id.lbaBytes = 4096 → id.metadata = false → id.mdtsBytes < 131072 ∨ id.mqes < 63 →
        ∃ u, exec (.ssdReady p id) s = .next u ∧ failed u 4 x.errors)
      ∧ (id.active = true → id.lbaBytes = 4096 → id.metadata = false → 131072 ≤ id.mdtsBytes → 63 ≤ id.mqes →
        id.blocks < s.blocksNeeded p id.superblock → ∃ u, exec (.ssdReady p id) s = .next u ∧ failed u 5 x.errors))
    ∧ (x.state = 1 → ∃ u, exec (.ssdReadyTimeout p) s = .next u ∧ failed u 2 x.errors)
    ∧ (x.state = 1 ∨ x.state = 2 →
      (∃ u, exec (.ssdLinkDown p) s = .next u ∧ failed u 1 x.errors)
      ∧ (∃ u, exec (.ssdCommandTimeout p) s = .next u ∧ failed u 6 (min 65535 (x.errors + 1)))
      ∧ (∃ u, exec (.ssdCommandError p) s = .next u ∧ failed u 7 (min 65535 (x.errors + 1))))
    ∧ (∀ q, x.state = 2 → s.persist.set = some q → q.mode = 0 → q.portMask.testBit p.val = true → s.persist.state = 5 →
      ∃ u, exec (.ssdLinkDown p) s = .next u ∧ u.persist.state = 6 ∧ u.persist.chrysalis = none)
    ∧ exec (.smartLogPoll p) s = .next s

/-- Restore, replay and slots (R376 to R380, R384): from the newest valid copy of one set, with enough members and both seals good, the
set, the map, the tables and the frame number are reinstated, every slot is absent and replay begins at JPOS_START; it waits for a key
that the manager loads; with no valid copy the engine serves with no set; copies of two sets, a seal that does not match, and a key
that does not come end restore with their status; a good cocoon is executed as its frame, and a
bad one ends replay; a slot whose copy has the CRC of its map entry becomes resident with those bytes, a slot that was zero
becomes resident with zeros, and a slot without a good copy stays absent. -/
def Obligations.RestoreReplaysAndFetches : Prop :=
  ∀ (s : State),
    (∀ rd : RestoreRead, s.boot.stage = 4 → s.persist.state = 1 → s.frozen = false → (∀ p : Fin 4, s.persist.ports[p].state ≠ 1) →
      (s.validCopies rd = [] → ∃ u, exec (.restore rd) s = .next u ∧ u.persist.state = 8 ∧ u.persist.restoreStatus = Status.restoreNoSet
        ∧ u.persist.set = none ∧ u.boot.stage = 6 ∧ u.mem.allResident = true ∧ u.mem.flipped = [])
      ∧ (∀ b c, b ∈ s.validCopies rd → c ∈ s.validCopies rd → b.set.setId ≠ c.set.setId →
        ∃ u, exec (.restore rd) s = .next u ∧ u.boot.stage = 7 ∧ u.boot.code = Status.restoreSetMismatch
          ∧ u.persist.restoreStatus = Status.restoreSetMismatch ∧ u.mem = s.mem ∧ u.kma = s.kma)
      ∧ (∀ b m f, newestCopy (s.validCopies rd) = some b → (∀ c ∈ s.validCopies rd, c.set.setId = b.set.setId) →
          tooFew b.set.mode b.set.portMask (s.validCopies rd) = false → rd.map = some m → rd.manifest = some f →
        let map := m.take (4096 + 32 * slotCount s.e384)
        let man := f.take (fieldNat f 38 6)
        let key := (s.deriveKey b.set.label).journalKey
        (s.od 0x4000 5 = 1 → s.persist.keyReady = false → ∃ u, exec (.restore rd) s = .next u ∧ u.boot.stage = 5
          ∧ u.persist.restoreRead = some rd ∧ u.persist.state = 1 ∧ u.mem = s.mem ∧ u.kma = s.kma)
        ∧ (s.od 0x4000 5 ≠ 1 ∨ s.persist.keyReady = true →
          (hmac256 key map = b.mapSeal → hmac256 key man = b.manifestSeal → ∃ u, exec (.restore rd) s = .next u
            ∧ u.replaying = true ∧ u.persist.restoreStatus = 0 ∧ u.persist.set = some b.set ∧ u.persist.nextJpos = b.set.jposStart
            ∧ u.persist.committed = b.set.chrysFrame - 1 ∧ u.frame.frameNo = fieldNat man 14 6 ∧ u.frame.mergeDone = true
            ∧ u.frame.timeBase = BitVec.ofNat 48 (fieldNat man 20 6)
            ∧ u.persist.map = ((List.range (slotCount s.e384)).filterMap fun i =>
                let e := mapEntryOf (sliceBytes map (4096 + 32 * i) 32)
                if e.present then some (i, e) else none)
            ∧ u.kma.tables = tableRecords (fieldNat man 30 4) (man.drop (fieldNat man 50 6))
            ∧ (∀ d ∈ u.host.descs, d.2.getLsbD 99 = true) ∧ (∀ x, x < openSlots s.e384 → u.resident x = false) ∧ u.mem.bytes = s.mem.bytes)
          ∧ (hmac256 key map ≠ b.mapSeal ∨ hmac256 key man ≠ b.manifestSeal → ∃ u, exec (.restore rd) s = .next u ∧ u.boot.stage = 7
            ∧ u.boot.code = Status.restoreKey ∧ u.persist.restoreStatus = Status.restoreKey ∧ u.mem = s.mem ∧ u.kma = s.kma))))
    ∧ (s.persist.restoreRead = none → exec .keyReady s = .next { s with persist := { s.persist with keyReady := true } })
    ∧ (s.boot.stage = 5 → s.frozen = false → exec .keyReadyTimeout s = .next (s.failRestore Status.restoreKey))
    ∧ (s.boot.stage ≠ 5 → exec .keyReadyTimeout s = .next s)
    ∧ (∀ p bytes, s.persist.set = some p → s.replaying = true → s.frame.mergeDone = true →
      (s.cocoonGood p bytes = true → ∃ u, exec (.cocoonReplay bytes) s = .next u ∧ u.frame.frameNo = fieldNat bytes 8 6)
      ∧ (s.cocoonGood p bytes = false → s.persist.replayPrev = none → ∃ u, exec (.cocoonReplay bytes) s = .next u
        ∧ u.frame.frameNo = s.frame.frameNo ∧ u.boot.stage = 6 ∧ u.work = [] ∧ u.held = [] ∧ u.mem.bytes = s.mem.bytes))
    ∧ ∀ p (slot : Nat) (data : Option (List Byte)), s.persist.set = some p → s.resident slot = false → s.mem.lost.contains slot = false →
      slot < openSlots s.e384 → s.serving = true ∨ s.replaying = true → memoryWf s →
      let placed := fun (u : State) (at_ : Nat → Byte) => u.resident slot = true ∧ slot ∉ u.persist.demand
        ∧ (∀ i, i < slotBytes → u.byteAt (slot * slotBytes + i) = at_ i)
        ∧ (∀ a, a < slot * slotBytes ∨ (slot + 1) * slotBytes ≤ a → u.byteAt a = s.byteAt a)
        ∧ ∀ (t : Fin 64) (c : Ctx), c ∈ u.tiles[t].ctxs → c.waiting ≠ some slot
      (lookup? s.persist.map slot = none → ∃ u, exec (.slotFetchComplete slot data) s = .next u ∧ placed u fun _ => 0)
      ∧ (∀ e, lookup? s.persist.map slot = some e →
        (e.zero = true → ∃ u, exec (.slotFetchComplete slot data) s = .next u ∧ placed u fun _ => 0)
        ∧ (∀ bs, data = some bs → e.zero = false → e.unit ≠ 0xFFFFFFFF → bs.length = slotBytes → crc64 bs = e.crc →
          ∃ u, exec (.slotFetchComplete slot data) s = .next u ∧ placed u fun i => bs.getD i 0)
        ∧ (e.zero = false → e.unit ≠ 0xFFFFFFFF → (∀ bs, data = some bs → crc64 bs ≠ e.crc) → ∃ u, exec (.slotFetchComplete slot data) s = .next u
          ∧ slot ∈ u.mem.lost ∧ u.mem.bytes = s.mem.bytes
          ∧ (s.replaying = true → slot ∈ s.persist.demand → u.boot.stage = 7 ∧ u.boot.code = Status.restoreSegmentLost)))

/-- Bring-up and clocks (R243, R473 to R476, R478, R479, R498): each step of bring-up acts only at its stage; the valid firmware bank
of higher ROLLBACK runs, and with none bring-up fails; a channel or a unit that fails stops it, and a unit fences the engine; a
clock that is lost brings down what runs on it. -/
def Obligations.BringUpGoesStageByStage : Prop :=
  ∀ (s : State),
    (∀ p : Fin 4, s.boot.stage = 0 → s.moth.pwrgood = true → s.frozen = false → (s.boot.cause = 2 → s.pins.perstN = true) →
      exec (.bringupStart p) s = .next { s with boot := { s.boot with stage := 1, profsel := p.val } })
    ∧ (∀ a b : FirmwareBank, s.boot.stage = 1 → s.frozen = false →
      (bankValid a = false → bankValid b = false → exec (.firmwareVerify a b) s = .next (((s.hashFirmware a).hashFirmware b).failBoot Status.bootFwFail))
      ∧ (bankValid a = true ∨ bankValid b = true →
        let n := if bankValid b = false then 0 else if bankValid a = false then 1
          else if fieldNat a.header 12 4 < fieldNat b.header 12 4 then 1 else 0
        ∃ u, exec (.firmwareVerify a b) s = .next u ∧ u.boot.stage = 3 ∧ u.boot.bank = n ∧ u.boot.firmware = some (if n = 1 then b else a)
          ∧ u.boot.library = Config.library (if n = 1 then b else a).body
          ∧ u.persist.state = 1 ∧ u.dict.resetShadow = [] ∧ u.mem = s.mem
          ∧ (∀ c : Fin 48, channelPresent s.e384 c.val = true → u.dram.channels[c].state = 1)
          ∧ (∀ c : Fin 48, channelPresent s.e384 c.val = false → u.dram.channels[c] = s.dram.channels[c])
          ∧ (s.profileCopy? s.boot.profsel = none → u.profiles.active = 0xFF ∧ u.dict.vals = s.dict.resetShadow)
          ∧ (∀ k c, s.profileCopy? s.boot.profsel = some (k, c) → u.profiles.active = s.boot.profsel)))
    ∧ (∀ failed : List (Fin 48), s.boot.stage = 3 → s.boot.trained = false → s.frozen = false →
      ((∀ c ∈ failed, channelPresent s.e384 c.val = false) → ∃ u, exec (.memoryTrainingComplete failed) s = .next u ∧ u.boot.trained = true
        ∧ u.boot.stage = 3 ∧ ∀ c : Fin 48, channelPresent s.e384 c.val = true → u.dram.channels[c].state = 2)
      ∧ (∀ c ∈ failed, channelPresent s.e384 c.val = true → ∃ u, exec (.memoryTrainingComplete failed) s = .next u ∧ u.boot.stage = 7
        ∧ u.boot.code = Status.memTrainFail ∧ u.dram.channels[c].state = 3 ∧ u.boot.trained = false))
    ∧ (∀ bad : List SelftestUnit, s.boot.stage = 3 → s.boot.trained = true → s.frozen = false →
      (bad = [] → exec (.startupSelftestComplete bad) s = .next { s with boot := { s.boot with tested := true, stage := 4 } })
      ∧ (bad ≠ [] → ∃ u, exec (.startupSelftestComplete bad) s = .next u ∧ u.boot.stage = 7 ∧ u.boot.code = Status.selftestFail
        ∧ u.mirror.state = 5 ∧ u.health.faults.getLsbD 21 = true ∧ u.mem = s.mem ∧ u.kma = s.kma))
    ∧ (∃ u, exec .sysRefclkLoss s = .next u ∧ u.pins.sysRefclk = false ∧ u.mirror.state = 5 ∧ u.mem = s.mem ∧ u.kma = s.kma)
    ∧ (∃ u, exec .pexRefclkLoss s = .next u ∧ u.pins.pexRefclk = false ∧ u.host.link = .down ∧ u.host.vfEnable = false
      ∧ u.mem = s.mem ∧ u.kma = s.kma)
    ∧ (∃ u, exec .mirRefclkLoss s = .next u ∧ u.pins.mirRefclk = false ∧ u.mirror.portA.up = false ∧ u.mirror.portB.up = false
      ∧ u = { s with pins := u.pins, mirror := u.mirror })
    ∧ (s.pins.auxClk = true → ∃ u, exec .auxClkLoss s = .next u ∧ u.pins.auxClk = false ∧ u.frame = s.frame
      ∧ Recorded u 0x0030 2 (location 2 9 10) 1 0)
    ∧ (s.pins.auxClk = false → ∃ u, exec .auxClkReturn s = .next u ∧ u.pins.auxClk = true ∧ u.frame = s.frame
      ∧ Recorded u 0x0030 2 (location 2 9 10) 2 0)

/-- Resets and power (R430, R434, R435, R473, R475): after POWER_ON and after a module reset every unit of the engine is as after reset,
and a module reset keeps TIME_BASE and the objects of Moth; power comes up by VIN, rails and PWRGOOD, and a failed power-up is tried
three times; a power failure freezes and fences the engine, and its memory and array stay. -/
def Obligations.ResetsAndPowerUp : Prop :=
  ∀ (s : State),
    let r := State.reset
    let engine := fun (u : State) => u.e384 = s.e384 ∧ u.work = [] ∧ u.held = [] ∧ u.tiles = r.tiles ∧ u.mem = r.mem ∧ u.dram = r.dram
      ∧ u.cache = r.cache ∧ u.kma = r.kma ∧ u.host = r.host ∧ u.digest = r.digest ∧ u.persist = r.persist ∧ u.mirror = r.mirror
      ∧ u.health = r.health ∧ u.window = r.window ∧ u.bdp = r.bdp ∧ u.profiles.copies = s.profiles.copies
    (∃ u, exec .powerOn s = .next u ∧ engine u ∧ u.moth = r.moth ∧ u.dict = r.dict ∧ u.events = r.events ∧ u.frame = r.frame ∧ u.boot = r.boot
      ∧ u.pending = s.pending)
    ∧ (∀ v : BitVec 64, v.extractLsb' 0 16 = 0xD1CE#16 → ∃ u, exec (.moduleReset .qword v) s = .next u ∧ engine u ∧ u.boot.stage = 0 ∧ u.boot.cause = 6
      ∧ u.frame = { r.frame with timeBase := s.frame.timeBase, timeFraction := s.frame.timeFraction } ∧ u.events.log = []
      ∧ u.dict.vals = s.dict.vals.filter (fun p => p.1 / 2 ^ 20 == 6) ∧ u.dict.resetShadow = s.dict.resetShadow ∧ u.dict.shadow = []
      ∧ u.moth.state = 0 ∧ u.moth.power = s.moth.power ∧ u.pending = s.pending)
    ∧ (∀ (acc : RegAccess) (v : BitVec 64), v.extractLsb' 0 16 ≠ 0xD1CE#16 ∨ acc ≠ .qword → exec (.moduleReset acc v) s = .next s)
    ∧ (s.moth.power = 1 → exec .vinOn s = .next { s with moth := { s.moth with power := 2 } })
    ∧ (s.moth.power = 2 → ∃ u, exec .railUpTimeout s = .next u ∧ u.moth.retries = s.moth.retries + 1 ∧ u.moth.pwrgood = false
      ∧ u.moth.power = (if s.moth.retries < 2 then 4 else 5) ∧ (∃ ch, 2 ≤ ch ∧ ch < 14 ∧ Recorded u 0x0061 3 packageLocation 0 ch)
      ∧ u.mem = s.mem ∧ u.kma = s.kma)
    ∧ (s.moth.power = 4 → exec .powerupRetryTimer s = .next { s with moth := { s.moth with power := 2 } })
    ∧ (s.moth.power = 2 → s.moth.state < 4 → exec .pwrgood s = .next { s with moth := { s.moth with power := 3, pwrgood := true, retries := 0 } })
    ∧ (s.moth.power = 2 → 4 ≤ s.moth.state → ∃ u, exec .pwrgood s = .next u ∧ engine u ∧ u.boot.cause = 3 ∧ u.moth.power = 3 ∧ u.moth.pwrgood = true
      ∧ u.moth.state = 0)
    ∧ (∀ rule : Fin 3, s.moth.fired.contains (rule.val, 0, true) = true → ∃ u, exec (.powerFail rule) s = .next u ∧ u.moth.pwrgood = false
      ∧ u.moth.powerFail = true ∧ u.moth.state = max 4 s.moth.state ∧ u.mirror.state = 5 ∧ u.persist.state = 7 ∧ u.persist.chrysalis = none
      ∧ u.persist.waiting = [] ∧ (∀ p : Fin 4, u.persist.ports[p].state ≠ 2) ∧ u.mem = s.mem ∧ u.kma = s.kma
      ∧ ∃ e ∈ u.events.log, e.code = 0x0060 ∧ e.severity = 3 ∧ e.arg = rule.val)
    ∧ (s.moth.powerFail = true → s.moth.power = 3 → ∃ u, exec .vinOff s = .next u ∧ u.moth.power = 6 ∧ u.moth.pwrgood = false ∧ u.host.link = .down
      ∧ u.mirror.portA.up = false ∧ u.mirror.portB.up = false ∧ u.mem = s.mem)
    ∧ (s.moth.state = 4 → s.moth.power = 3 ∨ s.moth.power = 6 → s.od 0x6002 1 + 300 < 4 * s.channelValue 0 → 3100 < s.channelValue 1 →
      s.moth.asserted 3 = false → s.moth.asserted 6 = false → s.moth.asserted 9 = false → ∃ u, exec .pfRestartExpiry s = .next u ∧ engine u
        ∧ u.boot.cause = 3 ∧ u.moth.state = 0 ∧ u.moth.powerFail = false ∧ (s.moth.power = 6 → u.moth.power = 1))

/-- Rules of Moth (R428, R429, R434, R436, R437): a rule that has fired raises its event with its argument; a rail fault and a thermal
trip take the power-fail event first, and the trip leaves the module in MOTH_STATE 5, from which only a restart with every sensor
below 100 °C leads. -/
def Obligations.RulesRaiseTheirEvents : Prop :=
  ∀ (s : State),
    (∀ stack : Fin 12, s.moth.fired.contains (8, 32 + stack.val, true) = true →
      exec (.stackHot stack) s = .next ((s.takeFired (8, 32 + stack.val, true)).raise 0x0064 1 stack.val))
    ∧ (∀ rule : Fin 64, 16 ≤ rule.val →
      (s.moth.fired.contains (rule.val, 0, true) = true →
        exec (.ruleAssert rule) s = .next ((s.takeFired (rule.val, 0, true)).raise 0x0065 0 rule.val))
      ∧ (s.moth.fired.contains (rule.val, 0, false) = true →
        exec (.ruleRelease rule) s = .next ((s.takeFired (rule.val, 0, false)).raise 0x0066 0 rule.val))
      ∧ (s.moth.fired.contains (rule.val, 0, true) = false → exec (.ruleAssert rule) s = .next s)
      ∧ (s.moth.fired.contains (rule.val, 0, false) = false → exec (.ruleRelease rule) s = .next s))
    ∧ (∀ f, (s.moth.fired.find? fun f => f.1 == 4 || f.1 == 5 || f.1 == 7) = some f → ∃ u, exec .thermalBand s = .next u
      ∧ u.moth.band = (if s.moth.asserted 5 then 3 else if s.moth.asserted 4 then 2 else if s.moth.asserted 7 then 0 else 1)
      ∧ u.moth.fired = s.moth.fired.erase f ∧ Recorded u 0x0062 1 packageLocation 0 u.moth.band)
    ∧ (∀ ch, s.moth.fired.contains (3, ch, true) = true → ∃ u, exec (.railFault ch) s = .next u ∧ Recorded u 0x0061 3 packageLocation 0 ch
      ∧ u.moth.pwrgood = false ∧ u.moth.powerFail = true ∧ u.mirror.state = 5 ∧ u.persist.state = 7 ∧ u.host.link = .down
      ∧ u.moth.retries = s.moth.retries + 1 ∧ u.mem = s.mem ∧ u.kma = s.kma)
    ∧ (∀ ch, 9 ≤ ch → s.moth.fired.contains (9, ch, true) = true ∧ ch < 16 ∨ s.moth.fired.contains (9, ch, true) = true ∧ 32 ≤ ch →
      ∃ u, exec (.thermalTrip ch) s = .next u ∧ Recorded u 0x0063 3 packageLocation 0 ch ∧ u.moth.state = 5 ∧ u.moth.power = 6
        ∧ u.moth.pwrgood = false ∧ u.mirror.state = 5 ∧ u.persist.state = 7 ∧ u.mem = s.mem ∧ u.kma = s.kma)
    ∧ (s.moth.state = 5 → s.coolEnough = true → ∃ u, exec .mothCmdRestart s = .next u ∧ u.moth.state = 0 ∧ u.moth.power = 1 ∧ u.boot.cause = 4
      ∧ u.boot.stage = 0 ∧ u.mem = State.reset.mem ∧ u.e384 = s.e384)
    ∧ (s.moth.state ≠ 5 ∨ s.coolEnough = false → exec .mothCmdRestart s = .next s)

/-- Doze (R438 to R441, R465) and PERST_N (R473, R488): a request is granted only to a solo engine whose memory is resident, and a
refused one is recorded with its code; entry shuts the SSDs down, waits for the host, and then gates the module; a wake cancels an
entry or starts the schedule, which restarts the channels, the SSDs and the frames, or resets the module when it fails; PERST_N
resets the module in MOTH_STATE 0 and is kept for the wake in doze. -/
def Obligations.DozeEntryAndWake : Prop :=
  ∀ (s : State),
    (s.mirror.state < 2 ∨ s.mirror.state = 5 ∨ 7 ≤ s.mirror.state → 5 ≤ s.persist.state → s.moth.state = 0 →
      exec .mothCmdDoze s = .next { s with moth := { s.moth with state := 1, dozeStep := 1 }, bdp := { s.bdp with transfers := [] } })
    ∧ (∀ code, s.dozeCode = code → code ≠ 0 → ∃ u, exec .mothCmdDoze s = .next u ∧ u.moth.dozeRefusal = code ∧ u.moth.state = s.moth.state
      ∧ Recorded u 0x0067 1 packageLocation 0 code)
    ∧ (s.dozeCode = if s.mirror.state ∈ [2, 3, 4, 6] then 1 else if s.persist.state < 5 then 2 else if 4 ≤ s.moth.state then 4
        else if s.moth.state ≠ 0 then 5 else 0)
    ∧ (s.moth.state = 1 → s.moth.dozeStep = 2 → ∃ u, exec .dozeEntry s = .next u
      ∧ (∀ p : Fin 4, u.persist.ports[p].shutting = (s.persist.ports[p].shutting || decide (s.persist.ports[p].state = 2)))
      ∧ u.moth.dozeStep = (if ∃ p : Fin 4, u.persist.ports[p].shutting = true then 3 else 4) ∧ u.mem = s.mem ∧ u.kma = s.kma)
    ∧ (s.moth.state = 1 → s.moth.dozeStep = 4 → s.hostAsleep = true → ∃ u, exec .dozeEntry s = .next u ∧ u.moth.state = 2
      ∧ u.moth.dozeCount = (s.moth.dozeCount + 1) % 2 ^ 48 ∧ Recorded u 0x0068 0 packageLocation 0 0 ∧ u.mem = s.mem ∧ u.kma = s.kma
      ∧ u.cache.sets = [] ∧ u.digest.handles = [] ∧ u.digest.keys = s.digest.keys ∧ u.persist = s.persist
      ∧ ∀ c : Fin 48, u.dram.channels[c].state = if s.dram.channels[c].state = 2 then 4 else s.dram.channels[c].state)
    ∧ (s.moth.state = 1 → s.moth.dozeStep = 4 → s.hostAsleep = false → exec .dozeEntry s = .next s)
    ∧ (∀ p : Fin 4, s.persist.ports[p].shutting = true → ∃ u, exec (.ssdShutdownComplete p) s = .next u
      ∧ u.persist.ports = s.persist.ports.set p { s.persist.ports[p] with shutting := false }
      ∧ u.moth.dozeStep = (if s.moth.dozeStep = 3 ∧ (∀ q : Fin 4, u.persist.ports[q].shutting = false) then 4 else s.moth.dozeStep))
    ∧ (s.moth.dozeStep = 3 → ∃ u, exec .ssdShutdownTimeout s = .next u ∧ u.moth.dozeStep = 4
      ∧ ∀ p : Fin 4, u.persist.ports[p].shutting = false ∧ u.moth.shutLate.getLsbD p.val = (s.moth.shutLate.getLsbD p.val || s.persist.ports[p].shutting))
    ∧ (s.moth.dozeStep = 4 → s.hostAsleep = false → ∃ u, exec .dozeLinkWaitExpiry s = .next u ∧ u.moth.state = 0 ∧ u.moth.dozeStep = 0
      ∧ u.moth.dozeRefusal = 3 ∧ Recorded u 0x0067 1 packageLocation 0 3 ∧ ∀ p : Fin 4, s.persist.ports[p].state = 2 → u.persist.ports[p].state = 1)
    ∧ (s.moth.state = 2 → exec .mothCmdWake s = .next { s with moth := { s.moth with state := 3, wakeSource := 2 } })
    ∧ (s.moth.state = 1 → ∃ u, exec .mothCmdWake s = .next u ∧ u.moth.state = 0 ∧ u.moth.dozeStep = 0 ∧ u.mem = s.mem ∧ u.kma = s.kma)
    ∧ (s.moth.state = 0 → exec .mothCmdWake s = .next s)
    ∧ (s.moth.state = 2 → s.od 0x6001 2 ≠ 0 → exec .dozeTimerExpiry s = .next { s with moth := { s.moth with state := 3, wakeSource := 3 } })
    ∧ (s.od 0x6001 2 = 0 → exec .dozeTimerExpiry s = .next s)
    ∧ (∀ ms : Nat, s.moth.state = 3 → ∃ u, exec (.wakeSchedule true ms) s = .next u ∧ u.moth.state = 0
      ∧ u.frame.timeBase = s.frame.timeBase + BitVec.ofNat 48 ms ∧ u.frame.frameNo = s.frame.frameNo ∧ u.frame.timerExpired = true
      ∧ u.frame.mergeDone = true ∧ (∀ c : Fin 48, s.dram.channels[c].state = 4 → u.dram.channels[c].state = 2)
      ∧ (∀ p : Fin 4, s.persist.ports[p].state = 2 → u.persist.ports[p].state = 1) ∧ u.mem = s.mem ∧ u.kma = s.kma)
    ∧ (∀ ms : Nat, s.moth.state = 3 → ∃ u, exec (.wakeSchedule false ms) s = .next u ∧ u.boot.stage = 0 ∧ u.boot.cause = 5 ∧ u.mem = State.reset.mem)
    ∧ (s.moth.state = 0 → ∃ u, exec .perstNAssert s = .next u ∧ u.pins.perstN = false ∧ u.boot.stage = 0 ∧ u.boot.cause = 2
      ∧ u.mem = State.reset.mem ∧ u.frame.timeBase = s.frame.timeBase)
    ∧ (s.moth.state = 1 ∨ s.moth.state = 2 →
      exec .perstNAssert s = .next { s with pins := { s.pins with perstN := false }, moth := { s.moth with perstInDoze := true } })
    ∧ (s.moth.perstInDoze = true → s.moth.state = 2 → exec .perstNDeassert s = .next { s with
        pins := { s.pins with perstN := true }, moth := { s.moth with perstInDoze := false, state := 3, wakeSource := 1 } })
    ∧ (s.moth.perstInDoze = false → exec .perstNDeassert s = .next { s with pins := { s.pins with perstN := true } })

/-- Health (R16, R38, R414, R415, R416): a tile hang, a self-test mismatch and a link at its retry limit latch their bit, raise the fatal
event with their location and fence the engine; a self-test part that passes is done, and the last of 64 counts a pass; at an
evaluation tick every bit that is not latched follows its condition, and the score is 0 with a fatal bit and else 1,000 less the
penalties. -/
def Obligations.HealthFollowsItsChecks : Prop :=
  ∀ (s : State),
    let fatal := fun (u : State) (bit loc : Nat) => u.mirror.state = 5 ∧ u.health.faults.getLsbD bit = true
      ∧ (s.mirror.state ≠ 5 → u.health.faults.getLsbD 21 = true) ∧ u.health.score = 0
      ∧ (∃ e ∈ u.events.log, e.code = 0x0030 ∧ e.severity = 3 ∧ e.location = loc) ∧ u.mem = s.mem ∧ u.kma = s.kma ∧ u.work = s.work
    (∀ (t : Fin 64) (c : Ctx), s.head? t = some c → s.executing = true → s.tiles[t].yielded = false → c.waiting = none →
      ∃ u, exec (.tileHangTimeout t) s = .next u ∧ fatal u 1 (location 3 1 t.val) ∧ u.tiles = s.tiles)
    ∧ (∀ (t : Fin 64), s.head? t = none ∨ s.executing = false ∨ s.tiles[t].yielded = true ∨ (∃ c, s.head? t = some c ∧ c.waiting ≠ none) →
      exec (.tileHangTimeout t) s = .next s)
    ∧ (∀ (t : Fin 64) (ok : Bool), s.tiles[t].selfDue = [] ∨ s.serving = false ∨ s.tiles[t].yielded = false →
      exec (.selftestPart t ok) s = .next s)
    ∧ (∀ (t : Fin 64) (part : Nat) (rest : List Nat), s.tiles[t].selfDue = part :: rest → s.serving = true → s.tiles[t].yielded = true →
      (∃ u, exec (.selftestPart t false) s = .next u ∧ fatal u 0 (location 3 1 t.val))
      ∧ (∃ u, exec (.selftestPart t true) s = .next u ∧ u.tiles[t].selfDue = rest ∧ (∀ q : Fin 64, q ≠ t → u.tiles[q] = s.tiles[q])
        ∧ (part ≠ 0 → s.tiles[t].selfPart = part → part < 63 → u.tiles[t].selfPart = part + 1)
        ∧ u.tiles[t].ctxs = s.tiles[t].ctxs ∧ u.health.faults = s.health.faults
        ∧ u.health.selftestPasses = (if part = 63 ∧ s.tiles[t].selfPart = 63 then (s.health.selftestPasses + 1) % 2 ^ 48
            else s.health.selftestPasses)))
    ∧ (∀ (t : Fin 64), (8192 < s.tiles[t].selfAge → ∃ u, exec (.selftestLate t) s = .next u ∧ u.tiles[t].selfLate = true
        ∧ (∀ q : Fin 64, q ≠ t → u.tiles[q] = s.tiles[q]) ∧ u.health = s.health)
      ∧ (s.tiles[t].selfAge ≤ 8192 → exec (.selftestLate t) s = .next s))
    ∧ (∀ m h p : Nat, exec (.marginCheck m h p) s = .next { s with health := { s.health with margins := (m, h, p) } })
    ∧ (∀ link : Sys2Proof.DieLink, ∃ u die, exec (.linkRetryLimit link) s = .next u ∧ die < 3 ∧ fatal u 2 (location 5 0 die)
      ∧ (link = .eastWest → die ≠ 2) ∧ (link = .eastHub → die ≠ 1) ∧ (link = .westHub → die ≠ 0))
    ∧ (s.serving = true → s.frame.frameNo % 1024 = 0 → ∃ u, exec .healthEvaluation s = .next u
      ∧ (∀ bit : Fin 48, u.health.faults.getLsbD bit.val =
          (if bit.val ≤ 3 ∨ bit.val = 21 then s.health.faults.getLsbD bit.val else decide (bit.val < 22) && s.healthCondition bit.val))
      ∧ ((∃ b ∈ [0, 1, 2, 3, 21], u.health.faults.getLsbD b = true) → u.health.score = 0)
      ∧ ((∀ b ∈ [0, 1, 2, 3, 21], u.health.faults.getLsbD b = false) → u.health.score =
          1000 - (((List.range 22).filter fun b => u.health.faults.getLsbD b).map faultPenalty).sum)
      ∧ u.mirror = s.mirror ∧ u.kma = s.kma ∧ u.mem = s.mem ∧ u.tiles = s.tiles)
    ∧ (s.serving = false ∨ s.frame.frameNo % 1024 ≠ 0 → exec .healthEvaluation s = .next s)

/-- Channels and rules (R424, R426, R427, R429): a sample passes the median of five and the filter, the counters of the rules move one
test after the other, a rule above or below its threshold hits as R427 says, and a rule changes its state only when its debounce
count is complete; a write of a programmable rule releases it with its counter at 0, and one with a reserved channel, operator or
field changes nothing. -/
def Obligations.ChannelsFilterAndRulesDebounce : Prop :=
  ∀ (s : State),
    (∀ (ch : Fin 64) (raw : BitVec 12), sampledChannel s.e384 ch.val = false → exec (.channelSample ch raw) s = .next s)
    ∧ (∀ (ch : Fin 48) (raw : BitVec 12), sampledChannel s.e384 ch.val = true →
      ∃ u, exec (.channelSample ⟨ch.val, by omega⟩ raw) s = .next u
        ∧ (∀ q : Fin 48, q ≠ ch → u.moth.channels[q] = s.moth.channels[q])
        ∧ (s.moth.channels[ch].raws = [] → u.moth.channels[ch].raws = List.replicate 5 raw.toNat ∧ u.moth.channels[ch].y = 256 * raw.toNat)
        ∧ (s.moth.channels[ch].raws ≠ [] → u.moth.channels[ch].raws = (raw.toNat :: s.moth.channels[ch].raws).take 5
          ∧ u.moth.channels[ch].y = s.moth.channels[ch].y
            + ((256 * median5 ((raw.toNat :: s.moth.channels[ch].raws).take 5) : Int) - s.moth.channels[ch].y).tdiv
                (2 ^ s.od 0x6004 (ch.val + 1)))
        ∧ u.moth.rules = ((u.ruleTests ch.val).foldl (fun (m : Moth) r => m.test r) s.moth).rules
        ∧ u.moth.fired = ((u.ruleTests ch.val).foldl (fun (m : Moth) r => m.test r) s.moth).fired
        ∧ u.mem = s.mem ∧ u.kma = s.kma ∧ u.events = s.events ∧ u.dict = s.dict)
    ∧ (∀ (m : Moth) (r : RuleTest),
      let x := lookupD m.rules (64 * r.rule + r.place) releasedRule
      let y := lookupD (m.test r).rules (64 * r.rule + r.place) releasedRule
      (∀ k, k ≠ 64 * r.rule + r.place → lookupD (m.test r).rules k releasedRule = lookupD m.rules k releasedRule)
      ∧ (r.hit x.asserted = false → y = { asserted := x.asserted, cnt := 0 } ∧ (m.test r).fired = m.fired)
      ∧ (r.hit x.asserted = true → x.cnt = r.n → y = { asserted := !x.asserted, cnt := 0 }
        ∧ (16 ≤ r.rule → (m.test r).fired = m.fired ++ [(r.rule, r.place, !x.asserted)]))
      ∧ (r.hit x.asserted = true → x.cnt ≠ r.n → y = { asserted := x.asserted, cnt := x.cnt + 1 } ∧ (m.test r).fired = m.fired))
    ∧ (∀ (rule place n : Nat) (v thr h : Int) (asserted : Bool), 0 ≤ v → v ≤ 65535 →
      (aboveTest rule place v thr h n).hit asserted = (if asserted then decide (v ≤ thr - h) else decide (thr < v))
      ∧ (belowTest rule place v thr h n).hit asserted = (if asserted then decide (thr + h ≤ v) else decide (v < thr)))
    ∧ (∀ (rule : Fin 64) (v : Word), 16 ≤ rule.val → 48 ≤ bitsOf v.toNat 47 42 ∨ bitsOf v.toNat 41 40 = 3 ∨ bitsOf v.toNat 35 24 ≠ 0 →
      exec (.ruleWrite rule v) s = .next s)
    ∧ (∀ (rule : Fin 64) (v : Word), rule.val < 16 → exec (.ruleWrite rule v) s = .next s)
    ∧ (∀ (rule : Fin 64) (v : Word), 16 ≤ rule.val → bitsOf v.toNat 47 42 < 48 → bitsOf v.toNat 41 40 ≠ 3 → bitsOf v.toNat 35 24 = 0 →
      ∃ u, exec (.ruleWrite rule v) s = .next u ∧ u.od 0x6100 (rule.val - 15) = v.toNat
        ∧ (∀ k, k / 64 = rule.val → lookupD u.moth.rules k releasedRule = releasedRule)
        ∧ (∀ k, k / 64 ≠ rule.val → lookupD u.moth.rules k releasedRule = lookupD s.moth.rules k releasedRule)
        ∧ (∀ index sub, (index, sub) ≠ (0x6100, rule.val - 15) → sub < 256 → u.od index sub = s.od index sub)
        ∧ u.mem = s.mem ∧ u.kma = s.kma ∧ u.moth.channels = s.moth.channels)

/-- Memory channels, the verify scan and the cache switch (R211, R212, R232, R239, R240, R241, R243, R250, R259): an interval adds a unit of debt and a refresh
unit pays one; a readout converts the debt to the new band and moves the limit; a channel chooses a refresh unit that is due, then a
drain, then the oldest read of greatest priority, then a write; a drain first lets the buffered writes reach their channels, and one that
started at 24 lines leaves the youngest 8; a recalibration changes nothing; a row of the array that differs from its shadow copy is
counted, reported and rewritten, and an SRAM word read beside it is corrected or poisons its entry; a cache that is switched off drains
and one that is switched on again has every line invalid. None of them changes a byte of memory or an entry of the array. -/
def Obligations.ChannelsRefreshScanAndDrain : Prop :=
  ∀ (s : State),
    let only := fun (u : State) (c : Fin 48) => (∀ q : Fin 48, q ≠ c → u.dram.channels[q] = s.dram.channels[q]) ∧ u.mem = s.mem ∧ u.kma = s.kma
      ∧ u.cache = s.cache ∧ u.events = s.events ∧ u.pending = s.pending
    (∀ c : Fin 48, let x := s.dram.channels[c]
      (x.state = 2 → ∃ u, exec (.refreshIntervalExpiry c) s = .next u ∧ u.dram.channels[c] = { x with debt := min 63 (x.debt + 1) } ∧ only u c)
      ∧ (x.state ≠ 2 → exec (.refreshIntervalExpiry c) s = .next s ∧ ∀ idle, exec (.refreshUnit c idle) s = .next s)
      ∧ (∀ idle, x.state = 2 → 0 < x.debt → idle = true ∨ x.payback = true ∨ (if x.limband = 0 then 8 else if x.limband = 1 then 4 else 2) ≤ x.debt →
        ∃ u, exec (.refreshUnit c idle) s = .next u ∧ only u c
          ∧ u.dram.channels[c] = { x with debt := x.debt - 1, payback := x.payback && decide (1 < x.debt) })
      ∧ (x.debt = 0 ∨ x.payback = false ∧ x.debt < (if x.limband = 0 then 8 else if x.limband = 1 then 4 else 2) →
        exec (.refreshUnit c false) s = .next s)
      ∧ exec (.recalibration c) s = .next s
      ∧ (∃ u, exec (.writeQueueDrain c) s = .next u ∧ u.mem = s.mem ∧ u.kma = s.kma ∧ u.events = s.events ∧ u.pending = s.pending
        ∧ u.cache = s.emptyBuffers.cache ∧ (∀ q : Fin 48, q ≠ c → u.dram.channels[q] = s.emptyBuffers.dram.channels[q])
        ∧ let y := s.emptyBuffers.dram.channels[c]
          u.dram.channels[c] = (if y.draining then { y with queue := y.queue.drop (y.queue.length - 8), draining := false }
            else if y.reads = [] then { y with queue := [] } else y)))
    ∧ ((∀ k < 16, (lookupD s.cache.wbuf k []).length ≤ 32) → ∀ k < 16, lookupD s.emptyBuffers.cache.wbuf k [] = [])
    ∧ ((∀ k < 16, lookupD s.cache.wbuf k [] = []) → s.emptyBuffers = s)
    ∧ (∀ (k ma : Nat) (c : Fin 48), k < 16 → lookupD s.cache.wbuf k [] = [ma] → (∀ j < 16, j ≠ k → lookupD s.cache.wbuf j [] = []) →
      homeChannel s.e384 ma = c.val →
      let x := s.dram.channels[c]
      let q := (if 32 ≤ x.queue.length then x.queue.drop 1 else x.queue) ++ [ma]
      s.emptyBuffers.dram.channels[c] = { x with queue := q, draining := x.draining || decide (24 ≤ q.length) })
    ∧ (∀ (x : Channel) (prio : Nat → Nat),
      let due := 0 < x.debt ∧ (x.payback = true ∨ (if x.limband = 0 then 8 else if x.limband = 1 then 4 else 2) ≤ x.debt)
      (due → x.choose prio = .refresh)
      ∧ (¬ due → x.draining = true → x.choose prio = .drain)
      ∧ (¬ due → x.draining = false → x.reads ≠ [] → ∃ older r younger, x.reads = older ++ r :: younger ∧ x.choose prio = .read r
        ∧ (∀ q ∈ older, prio q.port < prio r.port) ∧ ∀ q ∈ younger, prio q.port ≤ prio r.port)
      ∧ (¬ due → x.draining = false → x.reads = [] → x.choose prio = if x.queue = [] then .none else .write))
    ∧ (∀ (m : Fin 12) (readings : List Nat), (∀ r ∈ readings, r ≤ 2) → stackPresent s.e384 m.val = true →
      (∃ c : Fin 48, s.dram.channels[c].state = 2) → ∃ u, exec (.mr4Readout m readings) s = .next u
        ∧ (∀ r ∈ readings, r ≤ u.dram.stackBand[m]) ∧ (readings ≠ [] → u.dram.stackBand[m] ∈ readings)
        ∧ (∀ q : Fin 12, q ≠ m → u.dram.stackBand[q] = s.dram.stackBand[q])
        ∧ (∀ c : Fin 48, c.val / 4 ≠ m.val → u.dram.channels[c] = s.dram.channels[c])
        ∧ (∀ c : Fin 48, c.val / 4 = m.val → s.dram.channels[c].state = 2 →
          let x := s.dram.channels[c]
          let y := u.dram.channels[c]
          let new := u.dram.stackBand[m]
          y.rate = new ∧ y.queue = x.queue
          ∧ (new = x.rate → y.debt = min 63 x.debt ∧ y.payback = x.payback)
          ∧ (x.rate < new → y.debt = min 63 ((x.debt + 1) * 2 ^ (new - x.rate)) ∧ y.payback = true)
          ∧ (new < x.rate → y.debt = min 63 ((x.debt + 1 + 2 ^ (x.rate - new) - 1) / 2 ^ (x.rate - new)) ∧ y.payback = x.payback)
          ∧ (x.limband ≤ new → y.limband = new ∧ y.low = 0)
          ∧ (new < x.limband → x.low ≠ 2 → y.limband = x.limband ∧ y.low = x.low + 1)
          ∧ (new < x.limband → x.low = 2 → y.low = 0 ∧ (∀ r ∈ new :: x.readouts, r ≤ y.limband) ∧ y.limband ∈ new :: x.readouts))
        ∧ (∃ n, n ≤ 1 ∧ u.dram.paybacks % 2 ^ 48 = (s.dram.paybacks + n) % 2 ^ 48 ∧ (n = 1 ↔ ∃ c : Fin 48, c.val / 4 = m.val
          ∧ s.dram.channels[c].state = 2 ∧ s.dram.channels[c].payback = false ∧ s.dram.channels[c].rate < u.dram.stackBand[m]))
        ∧ u.mem = s.mem ∧ u.kma = s.kma ∧ u.events = s.events)
    ∧ (∀ (m : Fin 12) (readings : List Nat), ∃ u, exec (.mr4Readout m readings) s = .next u ∧ u.mem = s.mem ∧ u.kma = s.kma
      ∧ (stackPresent s.e384 m.val = true → (∃ c : Fin 48, s.dram.channels[c].state = 2) → (∃ r ∈ readings.take 8, 2 < r) →
        u.dram.stackBand[m] = 2 ∧ ∃ e ∈ u.events.log, e.code = 0x0030 ∧ e.severity = 2 ∧ e.detail / 2 ^ 45 = 5))
    ∧ (∀ (m : Fin 12) (readings : List Nat), stackPresent s.e384 m.val = false ∨ (∀ c : Fin 48, s.dram.channels[c].state ≠ 2) →
      exec (.mr4Readout m readings) s = .next s)
    ∧ (∀ b : Fin 24,
      let row := s.kma.scanRow[b]
      let pos := 8192 * b.val + row
      let n := lookupD s.kma.rewrites pos 0 + 1
      let good := camClean (camImage (s.kma.shadow pos))
      let read := s.kma.sram.filter fun x => x.1 == pos && decide (x.2.1 < 3)
      row < 8192 →
      (read = [] → s.kma.row pos = good →
        exec (.verifyScanRow b false) s = .next { s with kma := { s.kma with scanRow := s.kma.scanRow.set b ((row + 1) % 8192) } })
      ∧ (∀ differs, read = [] → differs = true ∨ s.kma.row pos ≠ good →
        ∃ u, exec (.verifyScanRow b differs) s = .next u ∧ u.kma.entries = s.kma.entries ∧ u.kma.scanRow = s.kma.scanRow.set b ((row + 1) % 8192)
        ∧ u.kma.scanRewrites = (s.kma.scanRewrites + 1) % 2 ^ 48 ∧ lookupD u.kma.rewrites pos 0 = n
        ∧ ((s.kma.cam.map (·.1)).Nodup → (s.kma.row pos).stuckCell = 0 → (s.kma.row pos).stuckPair = 0 → u.kma.row pos = good)
        ∧ (∀ q, q ≠ pos → u.kma.row q = s.kma.row q)
        ∧ (n = 16 → u.health.hardRow = true ∧ Recorded u 0x0030 2 (location 1 3 b.val) (5 * 2 ^ 16 + row) 0)
        ∧ (n ≠ 16 → u.health = s.health ∧ Recorded u 0x0030 2 (location 1 3 b.val) (2 ^ 16 + row) 0) ∧ u.mem = s.mem)
      ∧ (∀ word bits, read = [(pos, word, bits)] → s.kma.row pos = good →
        ∃ u, exec (.verifyScanRow b false) s = .next u ∧ u.kma.entries = s.kma.entries ∧ u.mem = s.mem
        ∧ (bits = 1 → u.kma.eccCorrected = (s.kma.eccCorrected + 1) % 2 ^ 48 ∧ (pos, word, bits) ∉ u.kma.sram
          ∧ Recorded u 0x0030 2 (location 1 3 b.val) (2 * 2 ^ 16 + row) 0)
        ∧ (2 ≤ bits → pos ∈ u.kma.poisoned ∧ (pos ∉ s.kma.poisoned → Recorded u 0x0030 2 (location 1 3 b.val) (4 * 2 ^ 16 + row) 0))))
    ∧ (∃ u, exec (.cacheEnableWrite false) s = .next u ∧ u.od 0x3100 1 = 0 ∧ u.cache = { s.cache with state := if s.cache.state = 0 then 1 else s.cache.state }
      ∧ u.mem = s.mem ∧ u.kma = s.kma)
    ∧ (∃ u, exec (.cacheEnableWrite true) s = .next u ∧ u.od 0x3100 1 = 1 ∧ u.cache.state = 0 ∧ u.mem = s.mem ∧ u.kma = s.kma
      ∧ (s.cache.state = 0 → u.cache = s.cache)
      ∧ (s.cache.state ≠ 0 → (∀ p ∈ u.cache.sets, p.2 = []) ∧ ∀ p ∈ u.cache.victims, p.2 = []))
    ∧ (s.cache.state = 1 → ∃ u, exec .cacheDrainComplete s = .next u ∧ u.cache.state = 2 ∧ (∀ p ∈ u.cache.sets, p.2 = [])
      ∧ (∀ p ∈ u.cache.victims, p.2 = []) ∧ u.cache.wbuf = s.emptyBuffers.cache.wbuf ∧ u.mem = s.mem ∧ u.kma = s.kma ∧ u.dict = s.dict)
    ∧ (s.cache.state ≠ 1 → exec .cacheDrainComplete s = .next s)

/-- Errors of memory (R227, R230, R232, R234, R235, R236, R237, R238): a read that its channel does not choose waits; one that it chooses
returns. A unit read with every burst clean, or one symbol in error in some burst, leaves every byte; the second is counted, reported and
rewritten at once with its check fields; a burst with two symbols in error, or a line that was uncorrectable before, makes the unit
uncorrectable and is counted, recorded and acted on as its requester acts; with more symbols in error no byte of another line changes; a
partial write writes its bytes and no other, and none at all into an uncorrectable unit, whose cached copy goes; an access beyond the last
slot stops. -/
def Obligations.MemoryErrorsAreCheckedOnEveryRead : Prop :=
  ∀ (s : State),
    let fresh := fun (l : Nat) => ∀ p ∈ s.dram.errors, lineOf p.1 ≠ l
    let uncorrectable := fun (v : State) (l event burst : Nat) => l ∈ v.mem.poisoned ∧ v.dram.uncorrectable = (s.dram.uncorrectable + 1) % 2 ^ 48
      ∧ v.dram.lastUeAddr = l ∧ v.mem.bytes = s.mem.bytes ∧ v.dram.corrected = s.dram.corrected
      ∧ ∃ e, v.events.log.head? = some e ∧ e.code = 0x0030 ∧ e.severity = 2
        ∧ e.detail / 2 ^ 45 = event ∧ e.detail / 2 ^ 43 % 4 = (if isHeader l then 3 else burst) ∧ e.detail % 2 ^ 33 = bitsOf l 38 6
    let checked := fun (v : State) (l : Nat) => (∀ p ∈ v.dram.errors, lineOf p.1 ≠ l)
      ∧ (sparseWf s.dram.check = true → ∀ b < (if isHeader l then 1 else 3), ∀ i < 2,
        sparseRead v.dram.check (homeChannel s.e384 l * 2 ^ 28 + 192 * (checkPlace s.e384 l).1 + (checkPlace s.e384 l).2 + 2 * b + i)
          = BitVec.ofNat 8 ((Config.eccField (v.bytesAt (l + 64 * b) 64)).toNat / 256 ^ i))
    let report := fun (v : State) (l event : Nat) =>
      v.dram.corrected = (s.dram.corrected + 1) % 2 ^ 48 ∧ s.frame.frameNo ∈ v.health.corrections
      ∧ ∃ e, v.events.log.head? = some e ∧ e.code = 0x0030 ∧ e.severity = 2 ∧ e.location = location 0 5 (homeChannel s.e384 l)
        ∧ e.detail / 2 ^ 45 = event ∧ e.detail % 2 ^ 33 = bitsOf l 38 6
    let corrected := fun (v : State) (l event : Nat) => report v l event ∧ checked v l
      ∧ v.mem.bytes = s.mem.bytes ∧ v.mem.poisoned = s.mem.poisoned ∧ v.dram.uncorrectable = s.dram.uncorrectable
    (∀ (ma : Nat) (who : Sys2Proof.Requester) (bursts : List Nat) (data : List Byte), slotCount s.e384 * slotBytes ≤ ma →
      exec (.memoryReadReturn ma who bursts) s = .fault .noSuchAddress ∧ exec (.partialWrite ma ⟨data, bursts⟩ who) s = .fault .noSuchAddress)
    ∧ (∀ (ma : Nat) (who : Sys2Proof.Requester) (bursts : List Nat) (c : Fin 48), ma < slotCount s.e384 * slotBytes →
      homeChannel s.e384 (lineOf ma) = c.val →
      let l := lineOf ma
      let n := if isHeader l then 1 else 3
      let r : QueuedRead := { port := s.memPort who l c.val, ma := l }
      let x := s.dram.channels[c].enqueue r
      (x.choose (s.portPrio c.val) ≠ .read r → ∃ u, exec (.memoryReadReturn ma who bursts) s = .next u ∧ u.mem = s.mem ∧ u.kma = s.kma
        ∧ u.events = s.events ∧ u.tiles = s.tiles ∧ u.work = s.work ∧ u.dram.channels[c] = x
        ∧ (s.dram.channels[c].reads.length < 64 → r ∈ u.dram.channels[c].reads))
      ∧ (x.choose (s.portPrio c.val) = .read r →
        (∃ u, exec (.memoryReadReturn ma who bursts) s = .next u ∧ (∀ a, lineOf a ≠ l → u.byteAt a = s.byteAt a)
          ∧ (who ≠ .engineStructure none → r ∉ u.dram.channels[c].reads))
        ∧ (fresh l → l ∉ s.mem.poisoned → (∀ b ∈ bursts.take n, b = 0) →
          ∃ u, exec (.memoryReadReturn ma who bursts) s = .next u ∧ u.mem = s.mem ∧ u.kma = s.kma ∧ u.events = s.events
            ∧ u.dram.corrected = s.dram.corrected ∧ u.dram.uncorrectable = s.dram.uncorrectable ∧ u.tiles = s.tiles ∧ u.work = s.work)
        ∧ (fresh l → l ∉ s.mem.poisoned → (∀ b ∈ bursts.take n, b ≤ 1) → 1 ∈ bursts.take n →
          ∃ u, exec (.memoryReadReturn ma who bursts) s = .next u ∧ corrected u l 0 ∧ u.tiles = s.tiles ∧ u.work = s.work ∧ u.kma = s.kma)
        ∧ (fresh l → (∀ b ∈ bursts.take n, b ≤ 2) → l ∈ s.mem.poisoned ∨ 2 ∈ bursts.take n →
          ∃ v, exec (.memoryReadReturn ma who bursts) s = .next (v.poisonOutcome who (homeChannel s.e384 l))
            ∧ uncorrectable v l 2 ((((bursts.take n).zipIdx.find? fun p => p.1 == 2).map fun p => p.2).getD 0) ∧ v.tiles = s.tiles ∧ v.work = s.work
            ∧ v.mirror.state = s.mirror.state)))
    ∧ (∀ (ma : Nat) (data : List Byte) (who : Sys2Proof.Requester) (bursts : List Nat), ma < slotCount s.e384 * slotBytes → data ≠ [] →
      let l := lineOf ma
      let n := if isHeader l then 1 else 3
      data.length < (if isHeader l then 64 else 192) → ma + data.length ≤ l + (if isHeader l then 64 else 192) → fresh l →
      (l ∉ s.mem.poisoned → (∀ b ∈ bursts.take n, b ≤ 1) → memoryWf s →
        ∃ u, exec (.partialWrite ma ⟨data, bursts⟩ who) s = .next u ∧ u.dram.partialWrites = s.dram.partialWrites + 1
        ∧ (∀ i (h : i < data.length), u.byteAt (ma + i) = data[i]) ∧ (∀ a, a < ma ∨ ma + data.length ≤ a → u.byteAt a = s.byteAt a)
        ∧ u.mem.poisoned = s.mem.poisoned ∧ ma / slotBytes ∈ u.mem.dirty ∧ u.kma = s.kma ∧ u.tiles = s.tiles ∧ checked u l
        ∧ (1 ∉ bursts.take n → u.events = s.events ∧ u.dram.corrected = s.dram.corrected) ∧ (1 ∈ bursts.take n → report u l 0))
      ∧ ((∀ b ∈ bursts.take n, b ≤ 2) → l ∈ s.mem.poisoned ∨ 2 ∈ bursts.take n →
        ∃ v, exec (.partialWrite ma ⟨data, bursts⟩ who) s = .next (v.poisonOutcome who (homeChannel s.e384 l))
        ∧ uncorrectable v l 2 ((((bursts.take n).zipIdx.find? fun p => p.1 == 2).map fun p => p.2).getD 0) ∧ v.cached l = false
        ∧ v.dram.partialWrites = s.dram.partialWrites + 1 ∧ v.tiles = s.tiles ∧ v.work = s.work ∧ v.mirror.state = s.mirror.state))
    ∧ (∀ (v : State) (c : Nat),
      (∀ who ∈ [Sys2Proof.Requester.mover, .persist, .mirror, .codec], v.poisonOutcome who c = v)
      ∧ (∀ t x e img, v.runner t = some (x, e, img) → v.poisonOutcome (.tile t) c = v.tileFail t x 0x0601 0)
      ∧ (∀ slot : Fin 256, ∀ f, f = { pos := 2 ^ 48, tile := 64, status := 0x0601, detail := 0 } →
        v.poisonOutcome (.kmaSpill slot) c = v.failEntry slot.val f ∧ v.poisonOutcome (.engineStructure (some slot)) c = v.failEntry slot.val f)
      ∧ (v.poisonOutcome (.engineStructure none) c).mirror.state = 5 ∧ (v.poisonOutcome (.engineStructure none) c).health.faults.getLsbD 3 = true)
    ∧ (∀ (c : Fin 48) (o : Sys2Proof.EccOutcome), let x := s.dram.channels[c]
      let ma := scrubAddress s.e384 c.val x.scrubPos
      let n := if isHeader ma then 1 else 3
      (x.state ≠ 2 ∨ s.od 0x3005 1 = 0 ∨ scrubUnits ≤ x.scrubPos → exec (.scrubVisit c o) s = .next s)
      ∧ (x.state = 2 → s.od 0x3005 1 ≠ 0 → x.scrubPos < scrubUnits →
        let last := ∀ q : Fin 48, s.dram.channels[q].state = 2 → if q = c then scrubUnits ≤ x.scrubPos + 1 else scrubUnits ≤ s.dram.channels[q].scrubPos
        (fresh ma → ma ∉ s.mem.poisoned → (∀ b ∈ o.symbols.take n, b = 0) → ∃ u, exec (.scrubVisit c o) s = .next u ∧ u.mem = s.mem ∧ u.kma = s.kma
          ∧ (¬ last → u.dram.channels[c].scrubPos = x.scrubPos + 1 ∧ u.dram.scrubPasses = s.dram.scrubPasses)
          ∧ (last → (∀ q : Fin 48, u.dram.channels[q].scrubPos = 0 ∧ u.dram.channels[q].ueLines = [] ∧ u.dram.channels[q].scrubLate = false)
            ∧ u.dram.scrubPasses = (s.dram.scrubPasses + 1) % 2 ^ 48))
        ∧ (fresh ma → ma ∉ s.mem.poisoned → (∀ b ∈ o.symbols.take n, b ≤ 1) → 1 ∈ o.symbols.take n →
          ∃ u, exec (.scrubVisit c o) s = .next u ∧ corrected u ma 1)
        ∧ (fresh ma → (∀ b ∈ o.symbols.take n, b ≤ 2) → ma ∈ s.mem.poisoned ∨ 2 ∈ o.symbols.take n →
          ∃ u, exec (.scrubVisit c o) s = .next u
            ∧ uncorrectable u ma 3 ((((o.symbols.take n).zipIdx.find? fun p => p.1 == 2).map fun p => p.2).getD 0)
            ∧ (¬ last → ma ∈ u.dram.channels[c].ueLines) ∧ u.tiles = s.tiles ∧ u.work = s.work
            ∧ u.cache.sets = s.cache.sets ∧ u.cache.victims = s.cache.victims)))
    ∧ (∀ c : Fin 48, (s.dram.channels[c].state = 2 → s.dram.channels[c].scrubLate = false → ∃ u, exec (.scrubLate c) s = .next u
        ∧ u.dram.channels[c].scrubLate = true ∧ Recorded u 0x0031 1 packageLocation 0 c.val ∧ u.mem = s.mem)
      ∧ (s.dram.channels[c].state ≠ 2 ∨ s.dram.channels[c].scrubLate = true → exec (.scrubLate c) s = .next s))

/-- BDP (R6, R457 to R465): a frame to a group, malformed or over a full queue is dropped and counted; a read of up to 1,024 bytes and a write of
one segment take one response each, and a request that fails is answered with its error and changes nothing else; a request that is
repeated is answered with the kept response and not executed; an abort and a timeout abandon their transfer; the oldest event record
leaves to EVENT_DEST. A frame that leaves has the layout of R457, its EtherType's high byte first. -/
def Obligations.BdpRequestsAreAnswered : Prop :=
  ∀ (s : State) (f : Sys2Proof.BdpFrame),
    let mine := fun (type : Nat) => s.bdpLive = true ∧ f.dest = Config.t1sMac ∧ f.version = 1 ∧ f.bodyLen ≤ f.body.length ∧ f.queueFull = false
      ∧ f.type = type
    let reply := fun (type : Nat) (error : Nat) (body : List Byte) => ({
        dest := f.src, type := type, more := false, shadow := false, transId := f.transId, index := f.index, sub := f.subindex, dataType := typeCodeOf f.index f.subindex, error := error, body := body } : BdpReply)
    let answered := fun (t u : State) (r : BdpReply) => u.bdp.sent = t.bdp.sent ++ [r] ∧ u.bdp.requests = (t.bdp.requests + 1) % 2 ^ 48
      ∧ u.bdp.errors = (if r.error = 0 then t.bdp.errors else (t.bdp.errors + 1) % 2 ^ 48)
      ∧ (u.bdp.kept.find? fun k => k.1 == f.src) = some (f.src, f, [r])
      ∧ u = { t with bdp := u.bdp }
    let clean := s.keptFor f = none ∧ s.moth.state = 0 ∧ requestReserved f = false ∧ ∀ a ∈ s.bdp.abandoned, a.1 ≠ bdpKey f
    (s.bdpLive = true → groupAddress f.dest = true ∨ f.dest = Config.t1sMac ∧ (f.version ≠ 1 ∨ f.body.length < f.bodyLen
        ∨ (f.type ≠ 1 ∧ f.type ≠ 3 ∧ f.type ≠ 5) ∨ f.queueFull = true) →
      exec (.bdpFrameDrop f) s = .next { s with bdp := { s.bdp with dropped := (s.bdp.dropped + 1) % 2 ^ 48 } })
    ∧ (s.bdpLive = false → exec (.bdpFrameDrop f) s = .next s ∧ exec (.bdpReadReq f) s = .next s ∧ exec (.bdpWriteReq f) s = .next s
      ∧ exec (.bdpAbort f) s = .next s)
    ∧ (∀ rs, s.keptFor f = some rs → (mine 1 → exec (.bdpReadReq f) s = .next { s with bdp := { s.bdp with sent := s.bdp.sent ++ rs } })
      ∧ (mine 3 → exec (.bdpWriteReq f) s = .next { s with bdp := { s.bdp with sent := s.bdp.sent ++ rs } }))
    ∧ (mine 1 → s.keptFor f = none →
      (s.mothError f.index ≠ 0 → ∃ u, exec (.bdpReadReq f) s = .next u ∧ answered s u (reply 2 (if s.moth.state < 4 then 0x000C else 0x000D) []))
      ∧ (s.mothError f.index = 0 → requestReserved f = true → ∃ u, exec (.bdpReadReq f) s = .next u ∧ answered s u (reply 2 0x0006 [])))
    ∧ (mine 1 → clean → fieldNat (f.body.take f.bodyLen) 0 4 = 0 →
      (∀ ty bs, s.readObject f.index f.subindex (f.flags.getLsbD 1) true = .ok (ty, bs) → bs.length ≤ 1024 → s.transfer? f false = none →
        s.transfer? f true = none → ∃ u, exec (.bdpReadReq f) s = .next u ∧ u.bdp.transfers = s.bdp.transfers
          ∧ (f.index ≠ 0x2004 → u.free = s.free) ∧ answered { s with free := u.free } u (reply 2 0 (leBytes 4 bs.length ++ leBytes 4 0 ++ bs)))
      ∧ (∀ e, e ≠ 0 → s.readObject f.index f.subindex (f.flags.getLsbD 1) true = .error e →
        ∃ u, exec (.bdpReadReq f) s = .next u ∧ answered s u (reply 2 e [])))
    ∧ (mine 1 → clean → fieldNat (f.body.take f.bodyLen) 0 4 ≠ 0 → (∀ t, s.transfer? f false = some t → t.next ≠ fieldNat (f.body.take f.bodyLen) 0 4) →
      ∃ u, exec (.bdpReadReq f) s = .next u ∧ answered s u (reply 2 0x0009 []))
    ∧ (mine 3 → clean → f.flags.getLsbD 0 = false → s.transfer? f true = none → s.transfer? f false = none →
      fieldNat (f.body.take f.bodyLen) 4 4 = 0 →
      let bs := (f.body.take f.bodyLen).drop 8
      fieldNat (f.body.take f.bodyLen) 0 4 = bs.length →
      (∀ t, s.writeObject f.index f.subindex bs true = .ok t → ∃ u, exec (.bdpWriteReq f) s = .next u
        ∧ u.frame = t.frame ∧ u.kma = t.kma ∧ u.mem = t.mem ∧ u.dict = t.dict
        ∧ ∃ r, u.bdp.sent.getLast? = some r ∧ r = reply 4 0 (leBytes 4 bs.length))
      ∧ (∀ e, e ≠ 0 → s.writeObject f.index f.subindex bs true = .error e → ∃ u, exec (.bdpWriteReq f) s = .next u ∧ answered s u (reply 4 e [])))
    ∧ (mine 5 → requestReserved f = true → ∃ u, exec (.bdpAbort f) s = .next u ∧ answered s u (reply 5 0x0006 []))
    ∧ (mine 5 → requestReserved f = false → ∃ u, exec (.bdpAbort f) s = .next u ∧ (∀ t ∈ u.bdp.transfers, t.key ≠ bdpKey f) ∧ u.bdp.sent = s.bdp.sent ++ [reply 5 0 []]
      ∧ ((∃ t ∈ s.bdp.transfers, t.key = bdpKey f) → (bdpKey f, 0x000B) ∈ u.bdp.abandoned) ∧ u = { s with bdp := u.bdp })
    ∧ (∀ (n : Nat) (t : BdpTransfer), s.bdp.transfers[n]? = some t → ∃ u, exec (.segmentTransferTimeout n) s = .next u
      ∧ (∀ x ∈ u.bdp.transfers, x.key ≠ t.key) ∧ (t.key, 0x000A) ∈ u.bdp.abandoned ∧ (∀ x ∈ s.bdp.transfers, x.key ≠ t.key → x ∈ u.bdp.transfers)
      ∧ u.bdp.sent = s.bdp.sent ∧ u = { s with bdp := u.bdp })
    ∧ (∀ n, s.bdp.transfers[n]? = none → exec (.segmentTransferTimeout n) s = .next s)
    ∧ (∀ e rest, s.events.queue = e :: rest → s.pins.auxClk = true → exec .eventFrameSend s = .next
      { s with events := { s.events with queue := rest }
               bdp := { s.bdp with sent := s.bdp.sent ++ [{
                        dest := BitVec.ofNat 48 (s.od 0x1021 1), type := 0x10, more := false, shadow := false, transId := 0, index := 0, sub := 0, dataType := 0, error := 0, body := e.bytes }] } })
    ∧ (s.events.queue = [] ∨ s.pins.auxClk = false → exec .eventFrameSend s = .next s)
    ∧ (∀ r : BdpReply,
      let h := r.frame.drop 14
      r.frame.take 14 = leBytes 6 r.dest.toNat ++ leBytes 6 Config.t1sMac.toNat ++ [0x88, 0xB5] ∧ 60 ≤ r.frame.length
      ∧ fieldNat h 0 1 = 1 ∧ fieldNat h 1 1 = r.type % 256 ∧ fieldNat h 2 1 = (if r.more then 1 else 0) + (if r.shadow then 2 else 0)
      ∧ fieldNat h 3 1 = 0 ∧ fieldNat h 4 2 = r.transId % 65536 ∧ fieldNat h 6 2 = r.body.length % 65536 ∧ fieldNat h 8 2 = r.index % 65536
      ∧ fieldNat h 10 1 = r.sub % 256 ∧ fieldNat h 11 1 = r.dataType % 256 ∧ fieldNat h 12 2 = r.error % 65536 ∧ fieldNat h 14 2 = 0
      ∧ (h.drop 16).take r.body.length = r.body ∧ ∀ x ∈ h.drop (16 + r.body.length), x = 0)

/-- The dictionary window, the profile commands, the test port and register accesses (R9, R10, R268, R270, R330, R450, R467, R471, R499): a request slot shows
what its read found or that its write was accepted, and is done with or without its vector; a profile is saved from the values in effect
into the copy not in use, and a write that fails leaves the other; an instruction of the test port that takes the pins fences the
engine until a module reset, and every other opcode is BYPASS; a register write of four bytes leaves the other half, one of another size
changes nothing, and a register whose write is a command of its own is left alone; a read returns the addressed bytes, with zero for bits
63 to 48, for write-only fields and outside the registers. -/
def Obligations.WindowProfilesAndTestPort : Prop :=
  ∀ (s : State),
    (∀ (n : Fin 8) (irq : Bool),
      let x := s.window[n]
      let index := (x.req.extractLsb' 24 16).toNat
      let sub := (x.req.extractLsb' 16 8).toNat
      (x.state ≠ 1 → s.windowLive = true →
        (∀ r ∈ ([(.dwRead n irq, 1), (.dwReadShadow n irq, 2)] : List (Instr × Nat)), x.op = r.2 →
          (∀ ty bs, s.readObject index sub (r.2 == 2) false = .ok (ty, bs) → ∃ u, exec r.1 s = .next u ∧ u.window[n].state = 1 ∧ u.window[n].error = 0
            ∧ (index ≠ 0x2004 → u.free = s.free) ∧ u.window[n].resultLen = bs.length ∧ u.window[n].irq = irq ∧ u.window[n].req = x.req
            ∧ (sparseWf x.buffer = true → ∀ i (h : i < bs.length), sparseRead u.window[n].buffer i = bs[i])
            ∧ (∀ q : Fin 8, q ≠ n → u.window[q] = s.window[q]) ∧ u = { s with window := u.window, free := u.free })
          ∧ (∀ e, s.readObject index sub (r.2 == 2) false = .error e → ∃ u, exec r.1 s = .next u ∧ u.window[n].state = 1 ∧ u.window[n].error = e
            ∧ u.window[n].resultLen = 0 ∧ u.window[n].buffer = x.buffer ∧ u = { s with window := u.window }))
        ∧ (x.op = 3 →
          let bs := (List.range (x.req.extractLsb' 0 16).toNat).map fun i => sparseRead x.buffer i
          (∀ e, s.writeObject index sub bs false = .error e → ∃ u, exec (.dwWrite n irq) s = .next u ∧ u.window[n].state = 1 ∧ u.window[n].error = e
            ∧ u = { s with window := u.window })
          ∧ (∀ t, s.writeObject index sub bs false = .ok t → ∃ u, exec (.dwWrite n irq) s = .next u ∧ u.window[n].state = 1 ∧ u.window[n].error = 0
            ∧ u = { t with window := u.window })))
      ∧ (x.state = 1 → exec (.dwRead n irq) s = .next s ∧ exec (.dwReadShadow n irq) s = .next s ∧ exec (.dwWrite n irq) s = .next s
        ∧ (x.irq = false → exec (.dwRequestDone n) s = .next { s with window := s.window.set n { x with state := 2, irq := false } })
        ∧ (x.irq = true → exec (.dwRequestDone n) s =
            .next (({ s with window := s.window.set n { x with state := 2, irq := false } } : State).raiseVector 0 x.vector.toNat)))
      ∧ (x.state ≠ 1 → exec (.dwRequestDone n) s = .next s))
    ∧ (∀ p : Nat, s.profiles.state = 0 → p < 4 →
      (s.profileCopy? p = none → exec (.profileLoad p) s = .next { s with profiles := { s.profiles with target := p, result := 0x0010 } })
      ∧ (∀ c, s.profileCopy? p = some c → exec (.profileLoad p) s = .next { s with profiles := { s.profiles with state := 1, target := p, result := 0 } })
      ∧ (∀ r ∈ ([(.profileSave p, false), (.profileDefaults p, true)] : List (Instr × Bool)), ∃ u i c, exec r.1 s = .next u
        ∧ u = { s with profiles := { s.profiles with state := 2, target := p, result := 0, writing := some (i, c) } } ∧ i / 2 = p
        ∧ (∀ k old, s.profileCopy? p = some (k, old) → k < 2 → i = 2 * p + (1 - k) ∧ c.generation = old.generation + 1)
        ∧ (s.profileCopy? p = none → c.generation = 1)
        ∧ ∀ q ∈ c.records, ∃ o ∈ profileObjects, q.1 = odKey o.1 o.2.1 ∧ (r.2 = true → q.2 = odDefault s.e384 o.1 o.2.1)
          ∧ (r.2 = false → o.2.2.latch ≠ .reset → q.2 = s.od o.1 o.2.1)))
    ∧ (∀ p : Nat, s.profiles.state ≠ 0 ∨ 4 ≤ p → exec (.profileLoad p) s = .next s ∧ exec (.profileSave p) s = .next s
      ∧ exec (.profileDefaults p) s = .next s)
    ∧ (∀ i c, s.profiles.writing = some (i, c) →
      exec (.profileFlashWriteDone true) s = .next { s with profiles := { s.profiles with
        state := 0, writing := none, result := 0, copies := insertK (s.profiles.copies.filter fun x => x.1 != i) i c } }
      ∧ exec (.profileFlashWriteDone false) s = .next { s with profiles := { s.profiles with
        state := 0, writing := none, result := 0x0011, copies := s.profiles.copies.filter fun x => x.1 != i } })
    ∧ (s.moth.pwrgood = true →
      (∀ r ∈ ([(.extest, 0x00, 1, 0), (.extestPulse, 0x10, 1, 1), (.extestTrain, 0x11, 1, 2), (.highz, 0x04, 2, 0), (.clamp, 0x05, 3, 0)] :
          List (Instr × BitVec 8 × Nat × Nat)),
        ∃ u, exec r.1 s = .next u ∧ u.mirror.state = 5 ∧ (s.mirror.state ≠ 5 → u.mirror.fenceReason = 1) ∧ u.mem = s.mem ∧ u.kma = s.kma
          ∧ u.pins = { s.pins with tapInstr := r.2.1, testMode := r.2.2.1, trainPulse := r.2.2.2, testFenced := true })
      ∧ exec .idcode s = .next { s with pins := { s.pins with tapInstr := 0x01, testMode := 0, trainPulse := 0 } }
      ∧ exec .tapReset s = .next { s with pins := { s.pins with tapInstr := 0x01, testMode := 0, trainPulse := 0 } }
      ∧ (∀ pins preload, exec (.samplePreload pins preload) s = .next { s with pins := { s.pins with
          tapInstr := 0x02, testMode := 0, trainPulse := 0, boundary := pins, preload := preload } })
      ∧ (∀ op : BitVec 8, op ∉ [0x00, 0x01, 0x02, 0x04, 0x05, 0x10, 0x11] →
        exec (.bypass op) s = .next { s with pins := { s.pins with tapInstr := op, testMode := 0, trainPulse := 0 } }))
    ∧ (∃ u, exec .trstN s = .next u ∧ u.tapIdcode = some (if s.e384 then 0x1483056F else 0x1483156F) ∧ u.pins.testFenced = s.pins.testFenced)
    ∧ (∀ (ch : Fin 32) (v : BitVec 64), s.moth.pwrgood = true → s.exists? 0 = true → v.extractLsb' 0 2 = 0 → s.mover.channels[ch].pause = false →
      s.mover.channels[ch].disable = false →
      ∃ u, exec (.registerWrite 0 .w0 (0x2000000 + 0x100 * ch.val) .qword v) s = .next u
        ∧ u.mover.channels[ch].share = (if (v.extractLsb' 16 11).toNat ≤ 1024 then (v.extractLsb' 16 11).toNat else s.mover.channels[ch].share)
        ∧ u.mover.channels[ch].burst = (if (v.extractLsb' 8 3).toNat = 7 then s.mover.channels[ch].burst else (v.extractLsb' 8 3).toNat)
        ∧ u.mover.channels[ch].prio = (v.extractLsb' 2 3).toNat ∧ (∀ q : Fin 32, q ≠ ch → u.mover.channels[q] = s.mover.channels[q])
        ∧ u.mem = s.mem ∧ u.kma = s.kma)
    ∧ (∀ (fn : Fin 64) (off : Nat) (acc : RegAccess) (v : BitVec 64) (win : Sys2Proof.Window), s.moth.pwrgood = false ∨ s.exists? fn = false →
      exec (.registerWrite fn win off acc v) s = .next s)
    ∧ (∀ (fn : Fin 64) (acc : RegAccess) (v : BitVec 64) (off : Nat), 0xF00 ≤ off → off < 0x1000 → exec (.registerWrite fn .functionPage off acc v) s = .next s)
    ∧ (∀ (fn : Fin 64) (off : Nat) (v : BitVec 64), exec (.registerWrite fn .functionPage off .other v) s = .next s)
    ∧ (∀ (n : Fin 8) (v : BitVec 64), s.windowLive = true → s.exists? 0 = true → s.window[n].state ≠ 1 →
      (∃ u, exec (.registerWrite 0 .w2 (65536 * n.val) .qword v) s = .next u ∧ u.window[n].req = v.setWidth 48
        ∧ (∀ q : Fin 8, q ≠ n → u.window[q] = s.window[q]) ∧ u = { s with window := u.window }
        ∧ u.readWindow 0 .w2 (65536 * n.val) 8 = leBytes 6 v.toNat ++ [0, 0])
      ∧ (∃ u, exec (.registerWrite 0 .w2 (65536 * n.val) .low v) s = .next u ∧ u.window[n].req.extractLsb' 0 32 = v.setWidth 32
        ∧ u.window[n].req.extractLsb' 32 16 = s.window[n].req.extractLsb' 32 16)
      ∧ (∃ u, exec (.registerWrite 0 .w2 (65536 * n.val) .high v) s = .next u ∧ u.window[n].req.extractLsb' 32 16 = v.setWidth 16
        ∧ u.window[n].req.extractLsb' 0 32 = s.window[n].req.extractLsb' 0 32))
    ∧ (∀ (fn : Fin 64) (win : Sys2Proof.Window) (off size : Nat), (s.readWindow fn win off size).length = size
      ∧ ∀ i < size, (s.readWindow fn win off size)[i]? = some (s.readByte fn win (off + i)))
    ∧ (∀ (fn : Fin 64) (o : Nat), (o % 8 = 6 ∨ o % 8 = 7 → s.readByte fn .w0 o = 0 ∧ s.readByte fn .functionPage o = 0)
      ∧ (o < 0x10 ∨ 0x1000 ≤ o → s.readByte fn .functionPage o = 0) ∧ (fn.val ≠ 0 → s.readByte fn .w2 o = 0)
      ∧ (fn.val ≠ 0 → s.readByte fn .w0 o = s.readByte fn .functionPage o)
      ∧ leNat (s.readWindow fn .functionPage 0x10 8) = fn.val + (if fn.val = 0 then 64 else 0))
    ∧ (∀ ch : Fin 32,
      let x := s.mover.channels[ch]
      let status := leNat (s.readWindow 0 .w0 (0x2000000 + 0x100 * ch.val + 8) 6)
      x.queue.length ≤ 8 → x.inflight.length ≤ 7 →
      (x.disable = true → status % 8 = 3) ∧ (x.disable = false → x.cur.isSome = true → status % 8 = 1)
      ∧ (x.disable = false → x.cur = none → x.pause = true → status % 8 = 2)
      ∧ (x.disable = false → x.cur = none → x.pause = false → status % 8 = if x.next = none ∧ x.queue = [] then 0 else 1)
      ∧ status / 2 ^ 4 % 8 = x.inflight.length ∧ status / 2 ^ 7 % 16 = x.queue.length ∧ status / 2 ^ 11 = (if x.queue.length = 8 then 1 else 0))

/-- The bulk codec (R95 to R102, R312, R319, R327, R329): the lowest free unit goes to an encode into a span first, which may take one from
a read-only encode, and else to the first job that waits (the lowest unit is the model's choice, assumption 148); a job refused by R95 ends
with its status before any work; an encode to host memory writes the blocks of the input that arrived, in order, a decode its values, and
one whose read failed ends with MOVER_READ_ERROR after its last whole block; an encode into a span stores in the slots of its span alone; a
paused channel or a function that is held makes a job wait, a disabled channel fails its read; a finished job writes its 32-byte record and
ends its entry. -/
def Obligations.CodecJobsRunToTheirResult : Prop :=
  ∀ (s : State),
    (∀ (encoder : Bool) (e : WorkEntry), s.frozen = false →
      let wants := s.work.filter fun x => x.wantsUnit encoder
      let free := fun (u : Fin 4) => ∀ x ∈ s.unitsHeld encoder, x.unit ≠ some u
      ((wants.find? WorkEntry.spanOut = some e ∨ wants.find? WorkEntry.spanOut = none ∧ wants.head? = some e) → (∃ u, free u) →
        ∃ u, free u ∧ (∀ v, free v → u ≤ v) ∧ exec (.codecUnitGrant encoder) s = .next (s.updJob e.slot fun j => { j with unit := some u }))
      ∧ (wants = [] ∨ wants.find? WorkEntry.spanOut = none ∧ (∀ u, ¬ free u) → exec (.codecUnitGrant encoder) s = .next s)
      ∧ (∀ x ∈ s.unitsHeld encoder, wants.find? WorkEntry.spanOut = some e → (∀ u, ¬ free u) → x.spanOut = false →
        (∃ j, x.job = some j ∧ j.done = false) → (∀ y ∈ s.unitsHeld encoder, y ≠ x → y.spanOut = true) →
        exec (.codecUnitGrant encoder) s = .next ((s.updJob x.slot fun j => { j with unit := none }).updJob e.slot fun j => { j with unit := x.unit })))
    ∧ (∀ (slot : Fin 256), s.jobAt slot.val = none → (∀ input valid, exec (.codecEncode slot input valid) s = .next s)
      ∧ ∀ input, exec (.codecDecode slot input) s = .next s)
    ∧ (∀ (slot : Fin 256) (e : WorkEntry) (input : Option (List Byte)) (valid : List Byte), s.jobAt slot.val = some e →
      let j := jobOf e.desc
      let x := s.mover.channels[e.channel]
      let got := (input.getD []).take j.inLen
      let whole := decide (j.inLen ≤ got.length)
      let own := (e.writes && s.fromRecords) = false
      let moves := x.disable = false ∧ s.channelWaits e.channel = false ∧ s.hostHeld e.inst = false ∧ s.resetting e.inst = false
      let ended := fun (u : State) => (∃ y ∈ u.work, y.slot = e.slot)
        ∧ ∀ y ∈ u.work, y.slot = e.slot → ∀ k, y.job = some k → k.done = true
      (j.op = 1 → s.headWait e j = none ∨ s.jobStatus e ≠ 0x0301 → s.jobStatus e ≠ 0 → exec (.codecEncode slot input valid) s =
        .next (s.updJob e.slot fun x => { x with done := true, status := s.jobStatus e }))
      ∧ (∀ w, s.headWait e j = some (.inl w) → j.op = 1 → s.jobStatus e = 0x0301 → exec (.codecEncode slot input valid) s = .next (s.awaitSlot w))
      ∧ (j.op ≠ 1 → s.jobStatus e ≠ 0 → exec (.codecDecode slot input) s =
        .next (s.updJob e.slot fun x => { x with done := true, status := s.jobStatus e }))
      ∧ (j.op = 1 → j.spanOut = false → s.jobStatus e = 0 → own → moves →
        let vs := inputWords got
        let cuts := (cutBlocks j.flushEvery j.prior vs.length 0 vs).filter fun b => whole || (j.prior + b.1 + b.2.length) % j.flushEvery == 0
        let o := encodeHost j { blocks := [], values := 0, produced := 0, status := 0 } cuts
        ∃ u, exec (.codecEncode slot input valid) s = .next u
          ∧ (s.hostStopped e.inst = false → u.host.sent = s.host.sent ++ o.blocks.map fun b => .data e.inst (j.outAddr + b.1) b.2 (s.relaxes e.inst))
          ∧ u.work = (s.updJob e.slot fun x => { x with
              done := true, status := if o.status = 0 ∧ whole = false then 0x0702 else o.status, consumed := 6 * o.values, produced := o.produced,
              values := o.values, blocks := o.blocks.length }).work
          ∧ u.mem = s.mem ∧ u.kma = s.kma ∧ u.tiles = s.tiles)
      ∧ (j.op ≠ 1 → j.spanIn = false → s.jobStatus e = 0 → own → moves →
        let o := decodeJob j got whole (got.length + 1) decodeStart
        ∃ u, exec (.codecDecode slot input) s = .next u
          ∧ (s.hostStopped e.inst = false → u.host.sent = s.host.sent ++ (outputPieces j.outAddr o.produced).map fun p => .data e.inst p.1 p.2 (s.relaxes e.inst))
          ∧ u.work = (s.updJob e.slot fun x => { x with
              done := true, status := o.status, flags := o.flags, consumed := o.pos, produced := 6 * o.values.length, values := o.values.length, trailing := o.trailing, blocks := o.blocks }).work
          ∧ u.mem = s.mem ∧ u.kma = s.kma ∧ u.tiles = s.tiles)
      ∧ (s.jobStatus e = 0 → own → 0 < j.inLen → x.disable = true →
        (j.op = 1 → j.spanOut = false → ∃ u, exec (.codecEncode slot input valid) s = .next u ∧ u.host.sent = s.host.sent
          ∧ u.work = (s.updJob e.slot fun x => { x with done := true, status := 0x0702, consumed := 0, produced := 0, values := 0, blocks := 0 }).work)
        ∧ (j.op ≠ 1 → j.spanIn = false → ∃ u, exec (.codecDecode slot input) s = .next u ∧ u.host.sent = s.host.sent
          ∧ u.work = (s.updJob e.slot fun x => { x with
              done := true, status := 0x0702, flags := 0, consumed := 0, produced := 0, values := 0, trailing := 0, blocks := 0 }).work))
      ∧ (s.jobStatus e = 0 → own → 0 < j.inLen → x.disable = false → s.channelWaits e.channel = true ∨ s.hostHeld e.inst = true ∧ s.resetting e.inst = false →
        (j.op = 1 → exec (.codecEncode slot input valid) s = .next s) ∧ (j.op ≠ 1 → j.spanIn = false → exec (.codecDecode slot input) s = .next s))
      ∧ (∀ d, j.op = 1 → j.spanOut = true → s.jobStatus e = 0 → s.jobSpan e.inst j.outAddr = some d → (∀ n ∈ descSlotList d, s.resident n = true) →
        own → moves → ∃ u, exec (.codecEncode slot input valid) s = .next u ∧ ended u ∧ u.kma = s.kma ∧ u.tiles = s.tiles ∧ u.host.sent = s.host.sent
          ∧ ∀ a, a / slotBytes ∉ descSlotList d → u.byteAt a = s.byteAt a)
      ∧ (∀ d, j.op ≠ 1 → j.spanIn = true → s.jobStatus e = 0 → s.jobSpan e.inst j.inAddr = some d → (∀ n ∈ descSlotList d, s.resident n = true) →
        x.disable = false → s.channelWaits e.channel = false →
        ∃ u, exec (.codecDecode slot none) s = .next u ∧ ended u ∧ (s.dram.errors = [] → u.mem = s.mem) ∧ u.kma = s.kma ∧ u.tiles = s.tiles))
    ∧ (∀ every prior (vs : List Word), 0 < every → ((cutBlocks every prior vs.length 0 vs).flatMap fun b => b.2) = vs
      ∧ ∀ b ∈ cutBlocks every prior vs.length 0 vs, 0 < b.2.length ∧ b.2.length ≤ every
        ∧ (b.1 + b.2.length = vs.length ∨ (prior + b.1 + b.2.length) % every = 0))
    ∧ (∀ (slot : Fin 256) (e : WorkEntry) (j : CodecJob), s.entry? slot.val = some e → e.job = some j → e.finished = none → s.frozen = false →
      let off := s.mover.channels[e.channel].disable
      (j.done = false → exec (.codecJobFinish slot) s = .next s)
      ∧ (s.hostStopped e.inst = false → off = false → s.channelWaits e.channel = true → exec (.codecJobFinish slot) s = .next s)
      ∧ (j.done = true → off = false → s.hostStopped e.inst = true ∨ s.channelWaits e.channel = false → s.hostHeld e.inst = false →
        ∃ u, exec (.codecJobFinish slot) s = .next u
        ∧ (s.hostStopped e.inst = false → u.host.sent = s.host.sent ++ [.data e.inst (jobOf e.desc).resultAddr
            (leBytes 2 j.status ++ leBytes 2 j.flags ++ leBytes 6 j.consumed ++ leBytes 6 j.produced ++ leBytes 6 j.values ++ leBytes 6 j.trailing
              ++ leBytes 4 j.blocks) false])
        ∧ (∃ x ∈ u.work, x.slot = e.slot ∧ x.pos = e.pos ∧ x.job = some { j with unit := none, written := true }
          ∧ x.finished = some (s.frame.frameNo, if j.status = 0 then e.late else j.status, 0))
        ∧ (∀ x ∈ s.work, x.slot ≠ e.slot → x ∈ u.work) ∧ u.mem = s.mem ∧ u.kma = s.kma)
      ∧ (j.done = true → off = true → s.hostStopped e.inst = false → ∃ u, exec (.codecJobFinish slot) s = .next u ∧ u.host.sent = s.host.sent
        ∧ ∃ x ∈ u.work, x.slot = e.slot ∧ x.pos = e.pos ∧ x.finished = some (s.frame.frameNo, if j.status = 0 then 0x0702 else j.status, 0)))

/-- The frame (R24, R28, R36, R37, R44, R45, R49, R50, R52, R390, R411): a tick fires once the frame timer has expired and the merge is
complete, and starts the next frame; a follower's tick fires when TICK and LIST of its next frame have arrived; a timer that expires
before the merge is complete makes the frame an overrun; the digest is SHA-256 over the 104 bytes of the frame's header, sums and
counts; HOLD keeps step 5 from changing anything; TIME_BASE advances by the time of the frame, or after a write in it by no more (how much
is the model's free value, assumption 51). -/
def Obligations.TicksStartTheNextFrame : Prop :=
  ∀ (s : State) (us : Nat),
    (s.serving = true → s.frame.timerExpired = true → s.frame.mergeDone = true → s.mirror.state ≠ 2 → s.mirror.state ≠ 3 →
      exec (.tick us) s = .next (s.ownTick us) ∧ (s.ownTick us).frame.frameNo = s.frame.frameNo + 1)
    ∧ (s.serving = false ∨ s.frame.timerExpired = false ∨ s.frame.mergeDone = false ∨ s.mirror.state = 2 ∨ s.mirror.state = 3 →
      exec (.tick us) s = .next s)
    ∧ (∀ m l, s.serving = true → s.mirror.state = 3 → s.frame.mergeDone = true → s.followReady = some (m, l) →
      exec (.followerTick us) s = .next (s.followTick us m l) ∧ (s.followTick us m l).frame.frameNo = s.nextTick)
    ∧ (s.serving = false ∨ s.mirror.state ≠ 3 ∨ s.frame.mergeDone = false ∨ s.followReady = none → exec (.followerTick us) s = .next s)
    ∧ (s.frame.timerExpired = false → s.serving = true →
      exec .frameTimerExpiry s = .next { s with frame := { s.frame with timerExpired := true, overran := !s.frame.mergeDone } })
    ∧ (s.frame.timerExpired = true ∨ s.serving = false → exec .frameTimerExpiry s = .next s)
    ∧ (∀ v : Word, ∃ u, exec (.timeBaseWrite v) s = .next u ∧ u.frame = { s.frame with timeBase := v, timeFraction := 0, timeWritten := u.frame.timeWritten }
      ∧ u.frame.timeWritten.isSome = true ∧ u = { s with frame := u.frame, free := u.free })
    ∧ (∀ on : Bool, ∃ u, exec (.holdWrite on) s = .next u ∧ u.od 0x2001 1 = (if on then 1 else 0) ∧ u = { s with dict := u.dict }
      ∧ (∀ index sub, sub < 256 → (index, sub) ≠ (0x2001, 1) → u.od index sub = s.od index sub))
    ∧ (s.od 0x2001 1 = 1 → ∀ k q, s.stepConfig k q = s)
    ∧ (let u := s.stepDigest
      u.frame.digest = sha256 s.finishDone.sumOutputs.digestInput
      ∧ u.frame.sums = { wsum := 0, wcount := 0, msum := 0, mcount := 0, osum := 0, ocount := 0 } ∧ u.frame.frameNo = s.frame.frameNo
      ∧ s.digestInput.length = 72 + s.frame.digest.length)
    ∧ (let n := s.frame.consecutive + 1
      let u := s.closeOverrun us
      (s.frame.overran = true → u.frame.overrunCount = (s.frame.overrunCount + 1) % 2 ^ 48 ∧ u.frame.consecutive = n
        ∧ (s.od 0x2003 3 ≤ n → s.frame.alarmed = false → u.frame.alarmed = true ∧ Recorded u 0x0010 1 packageLocation 0 0)
        ∧ (n < s.od 0x2003 3 ∨ s.frame.alarmed = true → u.events = s.events ∧ u.frame.alarmed = s.frame.alarmed))
      ∧ (s.frame.overran = false → u.frame.consecutive = 0 ∧ u.frame.alarmed = false ∧ u.frame.overrunCount = s.frame.overrunCount ∧ u.events = s.events)
      ∧ u.frame.overrunMax = (if s.frame.overran = true then max s.frame.overrunMax (min us (2 ^ 32 - 1)) else s.frame.overrunMax) ∧ u.mem = s.mem ∧ u.kma = s.kma ∧ u.work = s.work ∧ u.tiles = s.tiles)
    ∧ ((s.advanceTime us).frame.timeFraction < 1000 ∧ (s.advanceTime us).frame.timeWritten = none
      ∧ ∃ n, n ≤ us ∧ (s.frame.timeWritten = none → n = us)
        ∧ ((s.advanceTime us).frame.timeBase.toNat * 1000 + (s.advanceTime us).frame.timeFraction) % (2 ^ 48 * 1000)
          = (s.frame.timeBase.toNat * 1000 + s.frame.timeFraction + n) % (2 ^ 48 * 1000))
    ∧ (∀ k n q, let h := s.makeHeader k n q
      h.frameNo = k ∧ h.tstamp = s.frame.timeBase ∧ h.periodUs = s.od 0x2000 1 ∧ h.mergeAllow = s.od 0x2000 2 ∧ h.entryCount = n
      ∧ h.quota = (s.od 0x2000 1 * (if s.e384 then 100 else 50) * 85 / 100 - s.od 0x2000 2) * s.od 0x2000 3 / 100
      ∧ h.config = false ∧ h.quiescent = q)
    ∧ (s.listsNothing = true → s.stepList.frame.next.records = [] ∧ s.stepList.frame.next.header.frameNo = s.frame.frameNo + 1)

/-- The mirror links and the messages of a chain (R6, R8, R308, R311, R387, R390, R392 to R396, R398 to R400, R403, R404, R407 to R410, R412,
R413): messages arrive and are kept for their tick and sent on, a reset record of a LIST marks its instance, and one with a reserved field set
is dropped and counted; an ACK moves what its sender reports; numbering, retransmission and LINKACK follow the link; a
path that falls silent is lost, and a neighbour silent on both has failed, whereupon the engine next to a sequencer takes over; the
lease and the manager's commands; the Ethernet frames of a message have the layout of R398 and R399. None of them changes a byte of memory
or the array. -/
def Obligations.MirrorMessagesAndNeighbours : Prop :=
  ∀ (s : State),
    let same := fun (u : State) => u.mem = s.mem ∧ u.kma = s.kma ∧ u.tiles = s.tiles ∧ u.frame.frameNo = s.frame.frameNo
    (∀ (portB : Bool) (ack : BitVec 32), let p := s.mirror.port portB
      (s.hears portB = true → ∃ u, exec (.linkack portB ack) s = .next u ∧ same u ∧ (u.mirror.port portB).rxSeq = p.rxSeq + 1 ∧ (u.mirror.port portB).owed = true
        ∧ (u.mirror.port portB).unacked = p.unacked.filter (fun x => !decide ((ack - (x.1 + BitVec.ofNat 32 x.2.1)).toNat < 2 ^ 31))
        ∧ u.mirror.port (!portB) = s.mirror.port (!portB))
      ∧ (s.hears portB = false → exec (.linkack portB ack) s = .next s))
    ∧ (∀ portB : Bool, let p := s.mirror.port portB
      (p.up = true → p.unacked ≠ [] → ∃ u, exec (.retransmitTimeout portB) s = .next u ∧ same u
        ∧ u.mirror.sent = s.mirror.sent ++ p.unacked.map (fun x => x.2.2) ∧ u.mirror.port portB = p
        ∧ u.mirror.retransmits = (s.mirror.retransmits + (p.unacked.map fun x => x.2.1).sum) % 2 ^ 48)
      ∧ (p.up = false ∨ p.unacked = [] → exec (.retransmitTimeout portB) s = .next s)
      ∧ (p.owed = true → p.up = true → p.peer ≠ 0xFFFF → s.mirrored = true → ∃ u, exec (.linkackTimer portB) s = .next u ∧ same u
        ∧ (∃ m, u.mirror.sent = s.mirror.sent ++ [m] ∧ m.type = 0x0B ∧ m.portB = portB ∧ m.epoch = s.mirror.epoch
          ∧ (u.mirror.port portB).unacked = p.unacked ++ [(p.txSeq, 1, m)])
        ∧ (u.mirror.port portB).owed = false ∧ (u.mirror.port portB).txSeq = p.txSeq + 1)
      ∧ (p.owed = false → exec (.linkackTimer portB) s = .next s)
      ∧ (s.mirrored = true → p.up = false → s.pins.mirRefclk = true → ∃ u, exec (.mirrorPortLinkChange portB true) s = .next u ∧ same u
        ∧ (u.mirror.port portB).up = true ∧ (u.mirror.port portB).rxSeq = 0
        ∧ (u.mirror.port portB).txSeq = BitVec.ofNat 32 (p.unacked.map fun x => x.2.1).sum
        ∧ ((u.mirror.port portB).unacked.map fun x => x.2) = p.unacked.map fun x => x.2)
      ∧ (s.mirrored = true → p.up = true → ∃ u, exec (.mirrorPortLinkChange portB false) s = .next u ∧ same u
        ∧ u.mirror.port portB = { p with up := false })
      ∧ (∀ f : Sys2Proof.MirrorFrame, p.up = true → s.mirrored = true → f.pause = false →
        (f.dest ≠ (if portB then Config.macB else Config.macA) ∨ s.rosterMac p.peer (!portB) ≠ some f.src.toNat ∨ f.reservedSet = true →
          exec (.mirrorFrameDrop portB f) s =
          .next { s with mirror := { s.mirror with framesDropped := (s.mirror.framesDropped + 1) % 2 ^ 48 } })
        ∧ (f.dest = (if portB then Config.macB else Config.macA) → f.reservedSet = false → s.rosterMac p.peer (!portB) = some f.src.toNat →
          exec (.mirrorFrameDrop portB f) s = .next (s.setMirrorPort portB { p with owed := true })))
      ∧ (∀ f : Sys2Proof.MirrorFrame, p.up = false ∨ s.mirrored = false ∨ f.pause = true → exec (.mirrorFrameDrop portB f) s = .next s))
    ∧ (∀ (hdr : Sys2Proof.MirrorHeader) (list : Sys2Proof.FrameList) (msg : Sys2Proof.TickPayload) (recs : List Sys2Proof.DataRecord),
      (s.follows = false → exec (.listMessage hdr list) s = .next s ∧ exec (.tickMessage hdr msg) s = .next s ∧ exec (.dataMessage hdr recs) s = .next s)
      ∧ (s.follows = true → listMessageReserved list = true → exec (.listMessage hdr list) s =
        .next { s with mirror := { s.mirror with framesDropped := (s.mirror.framesDropped + hdr.segs) % 2 ^ 48 } })
      ∧ (s.follows = true → msg.hb.flags.getLsbD 7 = true ∨ recordsReserved msg.records = true → exec (.tickMessage hdr msg) s =
        .next { s with mirror := { s.mirror with framesDropped := (s.mirror.framesDropped + hdr.segs) % 2 ^ 48 } })
      ∧ (s.follows = true → hdr.epoch = s.mirror.epoch → s.mirror.epoch ≤ s.mirror.feedEpoch →
        (listMessageReserved list = false → ∃ u, exec (.listMessage hdr list) s = .next u ∧ u.mem = s.mem ∧ u.kma = s.kma
          ∧ u.frame.frameNo = s.frame.frameNo
          ∧ (∀ t : Fin 64, u.tiles[t] = s.tiles[t] ∨ u.tiles[t].yielded = true ∧ ∃ c ∈ s.tiles[t].ctxs, c.waiting.isSome = true)
          ∧ (∀ i : Fin 64, (∃ r ∈ (journalOf list.records).list, r.reset = true ∧ r.inst = i.val) → 2 ≤ u.host.insts[i].resetState)
          ∧ lookup? u.mirror.lists hdr.frameNo = some list
          ∧ u.mirror.portA.rxSeq = s.mirror.portA.rxSeq + BitVec.ofNat 32 hdr.segs ∧ u.mirror.ticks = s.mirror.ticks
          ∧ ∃ m, u.mirror.history = s.mirror.history ++ [m] ∧ m.type = 1 ∧ m.frameNo = hdr.frameNo ∧ m.payload = list.header ++ list.records)
        ∧ (msg.hb.flags.getLsbD 7 = false → recordsReserved msg.records = false → msg.hb.role ≠ 5 → (msg.hb.flags.getLsbD 5 && msg.hb.toPos == s.position) = false → ∃ u, exec (.tickMessage hdr msg) s = .next u ∧ same u
          ∧ lookup? u.mirror.ticks hdr.frameNo = some msg ∧ u.mirror.lists = s.mirror.lists ∧ u.mirror.portA.mirLive = true
          ∧ ∃ m, u.mirror.history = s.mirror.history ++ [m] ∧ m.type = 2 ∧ m.frameNo = hdr.frameNo ∧ m.payload = tickBytes msg)
        ∧ (s.frame.frameNo < hdr.frameNo → ∃ u, exec (.dataMessage hdr recs) s = .next u ∧ same u ∧ u.work = s.work
          ∧ u.mirror.datas = s.mirror.datas ++ recs.map fun r => (hdr.frameNo, r))
        ∧ (hdr.frameNo ≤ s.frame.frameNo → s.mirror.resumes = false → ∃ u, exec (.dataMessage hdr recs) s = .next u ∧ same u
          ∧ u.work = (recs.foldl (fun (w : State) r => w.takeData r) s).work ∧ u.mirror.datas = s.mirror.datas))
      ∧ (s.follows = true → s.mirror.epoch < hdr.epoch → s.mirror.feedEpoch < hdr.epoch → hdr.frameNo ≤ s.frame.frameNo → s.mirror.resumes = false →
        listMessageReserved list = false → ∃ u, exec (.listMessage hdr list) s = .next u ∧ u.mirror.state = 5 ∧ u.mirror.fenceReason = 3 ∧ u.mem = s.mem ∧ u.kma = s.kma))
    ∧ (∀ (hdr : Sys2Proof.MirrorHeader) (msg : Sys2Proof.AckPayload), (s.hears true = false ∨ s.inChain = false → exec (.ackMessage hdr msg) s = .next s)
      ∧ (s.hears true = true → s.inChain = true → hdr.epoch = s.mirror.epoch → s.mirror.join = none → s.mirror.portB.fresh = false → msg.hb.role = 3 →
        msg.hb.flags.getLsbD 6 = s.mirror.portB.drain → msg.hb.flags.getLsbD 5 = false →
        (lookup? s.mirror.digests msg.digestFrame = none ∨ lookup? s.mirror.digests msg.digestFrame = some msg.digest) →
        ∃ u, exec (.ackMessage hdr msg) s = .next u ∧ same u ∧ u.mirror.downAck = msg.ack ∧ u.mirror.outFrame = msg.out
          ∧ u.mirror.downRecv = max s.mirror.downRecv msg.recv ∧ s.persist.committed ≤ u.persist.committed
          ∧ u.mirror.leaseValid = (s.mirror.leaseValid || (s.mirror.state == 4 && !s.mirror.detaching && decide (s.mirror.downRecv < msg.recv))))
      ∧ (∀ d, lookup? s.mirror.digests msg.digestFrame = some d → d ≠ msg.digest → ∃ e ∈ (s.compareAck msg).events.log, e.code = 0x0053 ∧ e.severity = 2
          ∧ e.detail = msg.digestFrame))
    ∧ (∀ down t1s : Bool, let p := s.mirror.port down
      let other := if t1s then p.mirLive else p.t1sLive
      s.mirrored = true → (s.inChain = true ∨ s.mirror.state = 2) → s.frozen = false → p.peer ≠ 0xFFFF → p.failed = false →
      (other = true → ∃ u, exec (.pathSilenceTimeout down t1s) s = .next u ∧ same u ∧ (u.mirror.port down).failed = false
        ∧ (if t1s then (u.mirror.port down).t1sLive else (u.mirror.port down).mirLive) = false ∧ (u.mirror.port down).lostRaised = true
        ∧ (p.lostRaised = false → Recorded u 0x0050 1 packageLocation 0 p.peer) ∧ (p.lostRaised = true → u.events = s.events))
      ∧ (other = false → ∃ u, exec (.pathSilenceTimeout down t1s) s = .next u ∧ u.mem = s.mem ∧ u.kma = s.kma
        ∧ (∃ e ∈ u.events.log, e.code = 0x0051 ∧ e.severity = 2 ∧ e.arg = p.peer)
        ∧ (s.inChain = true → down = true → s.mirror.heard = [] → u.mirror.portB.peer = 0xFFFF)
        ∧ (s.inChain = true → down = false → p.lastRole = 1 → u.mirror.state = 4 ∧ u.mirror.epoch = s.mirror.epoch + 1
          ∧ u.mirror.takeover = s.frame.frameNo + 1 ∧ u.mirror.epochStart = some (s.frame.frameNo + 1) ∧ u.od 0x5000 2 = 1
          ∧ u.mirror.portA.peer = 0xFFFF ∧ u.mirror.leaseValid = true ∧ u.frame.timerExpired = true
          ∧ Recorded u 0x0052 1 packageLocation (s.mirror.epoch + 1) 0)))
    ∧ (∀ down t1s : Bool, (s.mirror.port down).peer = 0xFFFF ∨ (s.mirror.port down).failed = true ∨ s.mirrored = false ∨ s.frozen = true →
      exec (.pathSilenceTimeout down t1s) s = .next s)
    ∧ (s.mirror.state = 4 → exec .leaseExpiry s = .next { s with mirror := { s.mirror with leaseValid := false } })
    ∧ (s.mirror.state ≠ 4 → exec .leaseExpiry s = .next s ∧ exec .mirrorCmdDetach s = .next s)
    ∧ (s.mirror.state = 4 → s.mirror.portB.peer ≠ 0xFFFF → ∃ u, exec .mirrorCmdDetach s = .next u ∧ same u ∧ u.mirror.detaching = true
      ∧ u.mirror.leaseValid = false ∧ u.mirror.state = 4 ∧ u.mirror.portB.peer = s.mirror.portB.peer)
    ∧ (∃ u, exec .mirrorCmdFence s = .next u ∧ same u ∧ u.mirror.state = 5 ∧ (s.mirror.state ≠ 5 → u.mirror.fenceReason = 5
      ∧ u.health.faults.getLsbD 21 = true ∧ u.health.score = 0 ∧ Recorded u 0x0054 3 packageLocation 0 5))
    ∧ (∀ (position dest src : Nat) (ack seq : BitVec 32) (n i : Nat) (msg : MirrorMsg), i < n →
      let bs := (msg.payload.drop (8992 * i)).take 8992
      ∃ f, (mirrorFrames position dest src ack (seq, n, msg))[i]? = some f ∧ 60 ≤ f.length
        ∧ f.take 14 = leBytes 6 dest ++ leBytes 6 src ++ [0x88, 0xB6] ∧ (f.drop 54).take bs.length = bs ∧ (∀ x ∈ f.drop (54 + bs.length), x = 0)
        ∧ let h := f.drop 14
          fieldNat h 0 2 = 0x4E4D ∧ fieldNat h 2 1 = 1 ∧ fieldNat h 3 1 = msg.type % 256
          ∧ fieldNat h 4 2 = (if i = 0 then 1 else 0) + (if i + 1 = n then 2 else 0) ∧ fieldNat h 6 2 = position % 2 ^ 16
          ∧ fieldNat h 8 6 = msg.epoch % 2 ^ 48 ∧ fieldNat h 14 6 = msg.frameNo % 2 ^ 48 ∧ fieldNat h 20 4 = (seq + BitVec.ofNat 32 i).toNat
          ∧ fieldNat h 24 4 = ack.toNat ∧ fieldNat h 28 2 = bs.length ∧ fieldNat h 30 2 = 0 ∧ fieldNat h 32 4 = i % 2 ^ 32 ∧ fieldNat h 36 4 = 0)

/-- Joining, formation and heartbeats (R386, R388, R402, R405 to R407, R413, R417 to R419, R422): an engine that is asked to join drops its
own work and asks the tail; the tail checks the request and becomes donor or refuses with a code; a slot copied is written when its
CRC agrees; the state of tick J makes the joiner a provisional tail; a drain that times out fences the joiner at its third failure;
among forming engines that hear each other the first in rank becomes sequencer, and an engine that hears a sequencer does not; a
heartbeat is kept for its sender, and FENCE of a neighbour declares it failed. -/
def Obligations.JoiningFormationAndHeartbeats : Prop :=
  ∀ (s : State),
    let m := s.mirror
    let sequencer := fun (u : State) (first : Nat) => u.mirror.state = 4 ∧ u.mirror.epoch = m.epoch + 1 ∧ u.mirror.epochStart = some first
      ∧ u.mirror.leaseValid = true ∧ u.od 0x5000 2 = 1 ∧ u.mem = s.mem ∧ u.kma = s.kma
      ∧ ∃ e ∈ u.events.log, e.code = 0x0052 ∧ e.severity = 1 ∧ e.detail = m.epoch + 1
    (s.mirrored = true → (m.state = 0 ∨ m.state = 1 ∨ m.state = 5) → s.boot.stage = 6 → s.pins.testFenced = false → s.moth.state < 2 →
      ∃ u j, exec .mirrorCmdJoin s = .next u ∧ u.mirror.state = 2 ∧ u.mirror.join = some j ∧ j.donor = false ∧ j.prior = m.state ∧ u.work = []
        ∧ u.held = [] ∧ u.mem = s.mem ∧ u.kma = s.kma ∧ (j.asked = true → u.od 0x5000 2 = 0 ∧ s.joinTail = some u.mirror.portA.peer
          ∧ ∀ x, u.mirror.sent.getLast? = some x → s.mirror.portA.up = true → u.mirror.portA.peer ≠ 0xFFFF → x.type = 7))
    ∧ (s.mirrored = false ∨ m.state = 2 ∨ m.state = 3 ∨ m.state = 4 ∨ m.state = 6 ∨ s.boot.stage ≠ 6 ∨ s.pins.testFenced = true →
      exec .mirrorCmdJoin s = .next s)
    ∧ (∀ (pos : Nat) (req : Sys2Proof.JoinRequest), s.mirrored = true → m.portB.up = true → s.inChain = true → s.frozen = false →
      (∃ r ∈ rosterOf (s.od 0x5010 1), r.1 = pos) → pos ≠ s.position → m.portB.peer = 0xFFFF → m.join = none →
      (req.name ≠ s.joinRequest.name → s.joinCode req = 1)
      ∧ (req.name = s.joinRequest.name → req.firmware ≠ s.joinRequest.firmware → s.joinCode req = 2)
      ∧ (req = s.joinRequest → s.persist.state < 5 → s.joinCode req = 5)
      ∧ (req = s.joinRequest → 5 ≤ s.persist.state → s.joinCode req = 0)
      ∧ (s.joinCode req ≠ 0 → ∃ u x, exec (.joinReq pos req) s = .next u ∧ u.mirror.sent = m.sent ++ [x] ∧ x.type = 0x0A
        ∧ x.payload = leBytes 2 (s.joinCode req) ∧ u.mirror.join = none ∧ u.mirror.portB = m.portB ∧ u.mem = s.mem ∧ u.kma = s.kma)
      ∧ (s.joinCode req = 0 → pos ≠ 0xFFFF → ∃ u j, exec (.joinReq pos req) s = .next u ∧ u.mirror.join = some j ∧ j.donor = true
        ∧ u.mirror.portB.peer = pos ∧ (s.dram.errors = [] → u.mem = s.mem) ∧ u.kma = s.kma
        ∧ (u.mirror.sent.map fun x => x.type) = (m.sent.map fun x => x.type) ++ 0x0A :: List.replicate s.describedSlots.length 8))
    ∧ (∀ (pos : Nat) (req : Sys2Proof.JoinRequest), s.mirrored = false ∨ m.portB.up = false ∨ s.inChain = false ∨ s.frozen = true →
      exec (.joinReq pos req) s = .next s)
    ∧ (∀ code : Nat, (s.joining = false → exec (.joinReply code) s = .next s)
      ∧ (s.joining = true → code = 0 → ∃ u, exec (.joinReply code) s = .next u ∧ u.mirror.state = 2 ∧ u.mirror.join = m.join)
      ∧ (∀ j, s.joining = true → code ≠ 0 → m.join = some j → ∃ u, exec (.joinReply code) s = .next u ∧ u.mirror.state = j.prior ∧ u.mirror.join = none
        ∧ Recorded u 0x0055 1 packageLocation 0 code ∧ u.mem = s.mem ∧ u.kma = s.kma))
    ∧ (∀ (slot : Nat) (data : List Byte) (crc : BitVec 64), (s.joining = false ∨ openSlots s.e384 ≤ slot → exec (.copyMessage slot data crc) s = .next s)
      ∧ (s.joining = true → slot < openSlots s.e384 →
        (data.length ≠ slotBytes ∨ crc64 data ≠ crc.toNat → ∃ u, exec (.copyMessage slot data crc) s = .next u ∧ u.mem = s.mem ∧ u.kma = s.kma)
        ∧ (data.length = slotBytes → crc64 data = crc.toNat → memoryWf s → ∃ u, exec (.copyMessage slot data crc) s = .next u ∧ u.kma = s.kma
          ∧ (∀ i (h : i < data.length), u.byteAt (slot * slotBytes + i) = data[i])
          ∧ (∀ a, a / slotBytes ≠ slot → u.byteAt a = s.byteAt a) ∧ (∀ l ∈ u.mem.poisoned, l / slotBytes ≠ slot)
          ∧ ∀ p ∈ u.dram.errors, p.1 / slotBytes ≠ slot)))
    ∧ (∀ (k : Nat) (st : Sys2Proof.JoinStatePayload), (s.joining = false → exec (.joinState k st) s = .next s)
      ∧ (s.joining = true → ∃ u j, exec (.joinState k st) s = .next u ∧ u.frame.frameNo = k ∧ u.frame.timeBase = st.tstamp ∧ u.frame.digest = st.digest
        ∧ u.mirror.state = 3 ∧ u.mirror.join = some j ∧ j.resume = true ∧ j.provisional = true ∧ u.persist.state = 8 ∧ u.persist.set = none
        ∧ u.work = [] ∧ u.mem.allResident = true))
    ∧ (∀ j, m.drainAsked = true → s.frozen = false → m.join = some j →
      (j.donor = true → exec .joinDrainTimeout s = .next { s with mirror := { m with drainAsked := false, join := some { j with round := 0 } } })
      ∧ (j.donor = false → j.failures ≠ 2 →
        exec .joinDrainTimeout s = .next { s with mirror := { m with drainAsked := false, join := some { j with failures := j.failures + 1 } } })
      ∧ (j.donor = false → j.failures = 2 → m.state ≠ 5 → ∃ u, exec .joinDrainTimeout s = .next u ∧ u.mirror.state = 5 ∧ u.mirror.fenceReason = 8
        ∧ u.mem = s.mem))
    ∧ (m.drainAsked = false ∨ s.frozen = true → exec .joinDrainTimeout s = .next s)
    ∧ (m.state ≠ 6 → exec .formingHeartbeatTimer s = .next s ∧ exec .formWaitExpiry s = .next s ∧ exec .mirrorCmdForm s = .next s)
    ∧ (m.state = 6 →
      ((∃ h ∈ m.heard, h.hb.role = 1) → ∃ u, exec .formingHeartbeatTimer s = .next u ∧ u.mirror.state = 1 ∧ u.mem = s.mem ∧ u.kma = s.kma)
      ∧ ((∀ h ∈ m.heard, h.hb.role ≠ 1) → (∀ p ∈ s.others, ∃ h ∈ m.heard, h.pos = p ∧ h.hb.role = 6) → s.ranksFirst = true →
        ∃ u, exec .formingHeartbeatTimer s = .next u ∧ sequencer u (s.frame.frameNo + 2))
      ∧ ((∀ h ∈ m.heard, h.hb.role ≠ 1) → (∃ p ∈ s.others, ∀ h ∈ m.heard, h.pos = p → h.hb.role ≠ 6) →
        ∃ u, exec .formingHeartbeatTimer s = .next u ∧ u.mirror.state = 6 ∧ u.mirror.epoch = m.epoch
          ∧ (s.pins.auxClk = true → s.mirrored = true → u.mirror.t1sSent = m.t1sSent ++ [s.formHeartbeat]))
      ∧ (s.od 0x5000 2 = 1 → s.ranksFirst = true → ∃ u, exec .formWaitExpiry s = .next u ∧ sequencer u (s.frame.frameNo + 2)
        ∧ Recorded u 0x0057 1 packageLocation 0 0)
      ∧ (s.od 0x5000 2 ≠ 1 ∨ s.ranksFirst = false → exec .formWaitExpiry s = .next s)
      ∧ ∃ u, exec .mirrorCmdForm s = .next u ∧ sequencer u (s.frame.frameNo + 2) ∧ Recorded u 0x0057 1 packageLocation 0 0)
    ∧ (∀ (hb : Sys2Proof.Heartbeat), (s.mirrored = false ∨ s.boot.stage ≠ 6 → ∀ t1s, exec (.heartbeatMessage t1s hb) s = .next s)
      ∧ (s.mirrored = true → s.boot.stage = 6 → s.pins.auxClk = true → hb.position ∈ s.others → (s.frozen = true ∨ (hb.epoch ≤ m.epoch
          ∧ s.portOf hb.position = none ∧ m.state ≠ 6 ∧ m.state ≠ 2 ∧ m.join = none)) →
        ∃ u, exec (.heartbeatMessage true hb) s = .next u ∧ (u.mirror.heard.find? fun h => h.pos == hb.position) = some { pos := hb.position, hb := hb, live := true }
          ∧ u.mem = s.mem ∧ u.kma = s.kma ∧ u.mirror.state = m.state ∧ u.events = s.events)
      ∧ (s.mirrored = true → s.boot.stage = 6 → s.frozen = false → m.state = 4 → m.epoch < hb.epoch → s.pins.auxClk = true →
        hb.position ∈ s.others → hb.role ≠ 6 → ∃ u, exec (.heartbeatMessage true hb) s = .next u ∧ u.mirror.state = 5 ∧ u.mirror.fenceReason = 3
          ∧ u.mem = s.mem ∧ u.kma = s.kma)
      ∧ (∀ portB, s.mirrored = true → s.boot.stage = 6 → s.portOf hb.position = some portB → s.frozen = false → (m.port portB).up = true →
        (m.port portB).failed = false → hb.epoch ≤ m.epoch → hb.role ≠ 5 → hb.flags.getLsbD 5 = false → ∃ u, exec (.heartbeatMessage false hb) s = .next u
          ∧ (u.mirror.port portB).mirLive = true ∧ (u.mirror.port portB).health = hb.health ∧ (u.mirror.port portB).lastRole = hb.role
          ∧ (portB = true → u.mirror.portB.drain = hb.flags.getLsbD 6 ∧ (hb.flags.getLsbD 6 ≠ m.portB.drain → u.mirror.drainAsked = hb.flags.getLsbD 6))
          ∧ u.mirror.state = m.state ∧ u.mem = s.mem ∧ u.kma = s.kma)
      ∧ (∀ reason : Nat, (s.portOf hb.position = none → exec (.fenceMessage hb reason) s = .next s)
        ∧ (∀ portB, s.portOf hb.position = some portB → s.hears portB = false → exec (.fenceMessage hb reason) s = .next s)
        ∧ (∀ portB, s.portOf hb.position = some portB → s.hears portB = true → hb.epoch ≤ m.epoch → ∃ u, exec (.fenceMessage hb reason) s = .next u
          ∧ (∃ e ∈ u.events.log, e.code = 0x0051 ∧ e.severity = 2 ∧ e.arg = (m.port portB).peer) ∧ u.mem = s.mem ∧ u.kma = s.kma
          ∧ (portB = false → s.inChain = true → reason = 4 → sequencer u (s.frame.frameNo + 1)))))
    ∧ (∀ t1s : Bool, s.mirrored = true → s.frozen = false →
      (m.state = 4 → s.frame.overran = true → ∃ u, exec (.overrunHeartbeatTimer t1s) s = .next u ∧ u.mem = s.mem ∧ u.kma = s.kma ∧ u.mirror.state = 4
        ∧ (t1s = true → s.pins.auxClk = true → u.mirror.t1sSent = m.t1sSent ++ [s.heartbeat m.portB m.detaching])
        ∧ (t1s = false → m.portB.up = true → m.portB.peer ≠ 0xFFFF → ∃ x, u.mirror.sent.getLast? = some x ∧ x.type = 5 ∧ x.portB = true))
      ∧ (m.state = 4 → s.frame.overran = false → exec (.overrunHeartbeatTimer t1s) s = .next s)
      ∧ (m.state = 0 ∨ m.state = 1 ∨ m.state = 6 → exec (.overrunHeartbeatTimer t1s) s = .next s))

/-- A step takes the command at the front of the queue: step of a state with c in front is exec of c on that state with the queue's rest.
With no command waiting time passes, in which cells may be upset and nothing else changes, which is the model's choice (assumption 1). -/
def Obligations.StepRunsTheFrontCommand : Prop :=
  (∀ (c : Instr) (s : State), step { s with pending := c :: s.pending } = exec c s)
  ∧ (∀ (c : Instr) (s : State) (rest : List Instr), s.pending = c :: rest → step s = exec c { s with pending := rest })
  ∧ (∀ s : State, s.pending = [] → ∃ u, step s = .next u ∧ u = { s with
      free := u.free
      dram := { s.dram with errors := u.dram.errors }
      cache := { s.cache with errors := u.cache.errors }
      kma := { s.kma with cam := u.kma.cam, sram := u.kma.sram } })

/-- Reset (R47, R104, R260, R275, R283, R312, R344, R351, R385, R411, R430, R445, R451, R465, R473, R475, R478, R499): what the spec says the
machine holds after a reset, the memory in its canonical form and no command waiting. Values the spec does not give are the model's
choices (assumptions 4 and following) and are not part of this statement. -/
def Obligations.ResetLeavesTheStatedValues : Prop :=
  let s := State.reset
  s.pending = [] ∧ memoryWf s ∧ s.mem.allResident = false ∧ s.mem.flipped = [] ∧ s.mem.lost = []
  ∧ s.frame.frameNo = 0 ∧ s.frame.digest = List.replicate 32 0 ∧ s.frame.timeBase = 0 ∧ s.work = [] ∧ s.held = []
  ∧ (∀ t : Fin 64, s.tiles[t].ctxs = []) ∧ s.kma.entries = [] ∧ s.kma.tables = [] ∧ s.cache.sets = [] ∧ s.cache.victims = []
  ∧ (∀ index sub, s.od index sub = odDefault s.e384 index sub) ∧ s.dict.shadow = [] ∧ s.dict.resetShadow = []
  ∧ s.od 0x2000 1 = 50 ∧ s.od 0x2000 2 = 512 ∧ s.od 0x2000 3 = 100 ∧ s.od 0x2001 1 = 0 ∧ s.od 0x3100 1 = 1 ∧ s.od 0x3005 1 = 1
  ∧ (∀ r, (s.sq r).inEffect.enable = false ∧ (s.cq r).inEffect.enable = false)
  ∧ (∀ i sel, s.desc i sel = 0) ∧ s.host.numVfs = 0 ∧ s.host.vfEnable = false
  ∧ (∀ i : Fin 64, s.host.insts[i].mailbox.outFull = false ∧ s.host.insts[i].mailbox.inFull = false ∧ s.host.insts[i].resetState = 0)
  ∧ (∀ c : Fin 32, s.mover.channels[c].share = 1024 ∧ s.mover.channels[c].pause = false ∧ s.mover.channels[c].disable = false)
  ∧ s.digest.keys = [] ∧ s.digest.messages = 0 ∧ s.events.seq = 0 ∧ s.events.log = [] ∧ s.events.windowLog = []
  ∧ s.mirror.state = 0 ∧ s.mirror.epoch = 0 ∧ s.health.faults = 0 ∧ s.health.score = 1000 ∧ s.moth.state = 0 ∧ s.moth.pwrgood = false
  ∧ s.boot.stage = 0 ∧ s.boot.cause = 1 ∧ s.bdp.requests = 0 ∧ s.bdp.transfers = [] ∧ s.profiles.state = 0
  ∧ (∀ n : Fin 8, s.window[n].state = 0 ∧ s.window[n].req = 0) ∧ s.tapIdcode = some (if s.e384 then 0x1483056F else 0x1483156F)

/-- Every command has its effect in every state: exec answers a next state, except that MEMORY_READ_RETURN and PARTIAL_WRITE of a line
beyond the module memory of the ordering code (R53) stop with the fault that names it. No command is refused. -/
def Obligations.EveryCommandAnswers : Prop :=
  ∀ (c : Instr) (s : State),
    (beyondMemory s.e384 c = false → ∃ t, exec c s = .next t) ∧ (beyondMemory s.e384 c = true → exec c s = .fault .noSuchAddress)

/-- The frame of all commands: a command that is not a tick, a replayed cocoon, an installed state, a reset, a wake or an object write
leaves FRAME_NO; and only those and the commands that store (the named instructions and rows) can change the KMA array or any byte of
module memory: after every other command the array is as it was and every address reads as before, unless an error of a cell waits to be
met, whose correction any read may bring (R211, R212, R234, R235). -/
def Obligations.OnlyTheseCommandsMoveFramesAndStores : Prop :=
  ∀ (c : Instr) (s t : State), exec c s = .next t →
    (movesFrame c = false → t.frame.frameNo = s.frame.frameNo)
    ∧ (movesFrame c = false → writesStore c = false → SoundStore s → t.kma = s.kma ∧ ∀ a, t.byteAt a = s.byteAt a)

/-- Invariants that every step keeps, from every state and not only from runs after reset: the memory stays in its canonical form, a
step takes exactly the command at the front of the queue and adds none, and the ordering code does not change. -/
def Obligations.EveryStepKeepsMemoryQueueAndOrderingCode : Prop :=
  ∀ (s t : State), step s = .next t →
    (memoryWf s → memoryWf t) ∧ t.pending = s.pending.tail ∧ t.e384 = s.e384
    ∧ (queueWf s = true → queueWf t = true)

end
end

