-- ==== Sys2Proof/Laws/Memory.lean ====
section
/-! SUPPORT. The sparse store under module memory: a read after a write, writes elsewhere, and the canonical form, which every
write keeps. -/

namespace Sys2Proof.Machine

/-- An unlisted key reads as zero; so does every key below the first listed one. -/
theorem sparseRead_below {w : Nat} {m : Sparse w} {j i : Nat} {x : BitVec w} {r : Sparse w} (e : m = (j, x) :: r)
    (h : sparseWf m = true) (hi : i < j) : sparseRead m i = 0 := by
  induction m generalizing j x r with
  | nil => cases e
  | cons p q ih =>
    obtain ⟨rfl, rfl⟩ := List.cons.inj e
    cases q with
    | nil => simp [sparseRead, Nat.ne_of_gt hi]
    | cons p2 q2 =>
      obtain ⟨k, y⟩ := p2
      simp only [sparseWf, Bool.and_eq_true, decide_eq_true_eq] at h
      simp only [sparseRead, Nat.ne_of_gt hi, if_false]
      exact ih rfl h.2 (by omega)

/-- The tail of a canonical store is canonical. -/
theorem sparseWf_tail {w : Nat} {p : Nat × BitVec w} {r : Sparse w} (h : sparseWf (p :: r) = true) : sparseWf r = true := by
  cases r with
  | nil => rfl
  | cons q r => simp only [sparseWf, Bool.and_eq_true] at h; exact h.2

/-- A store is canonical when its head is not zero and lies below a canonical tail. -/
theorem sparseWf_cons {w : Nat} {j : Nat} {v : BitVec w} {r : Sparse w} (hv : v ≠ 0) (hr : sparseWf r = true)
    (hj : ∀ k x q, r = (k, x) :: q → j < k) : sparseWf ((j, v) :: r) = true := by
  cases r with
  | nil => simpa [sparseWf] using hv
  | cons p q =>
    obtain ⟨k, x⟩ := p
    simp only [sparseWf, hr, decide_eq_true (hj k x q rfl), Bool.and_true, bne_iff_ne]
    exact hv

/-- The head of a canonical store: its value is not zero and its key lies below the next. -/
theorem sparseWf_head {w : Nat} {j : Nat} {v : BitVec w} {r : Sparse w} (h : sparseWf ((j, v) :: r) = true) :
    v ≠ 0 ∧ ∀ k x q, r = (k, x) :: q → j < k := by
  cases r with
  | nil => exact ⟨by simpa [sparseWf] using h, fun _ _ _ e => nomatch e⟩
  | cons p q =>
    obtain ⟨k, x⟩ := p
    simp only [sparseWf, Bool.and_eq_true, decide_eq_true_eq, bne_iff_ne] at h
    refine ⟨h.1.1, fun k' x' q' e => ?_⟩
    obtain ⟨e1, -⟩ := List.cons.inj e
    cases e1; exact h.1.2

/-- The first key of a store after a write is the key written or the first key before it. -/
theorem sparseWrite_head {w : Nat} {m : Sparse w} {i n : Nat} {v : BitVec w} (hm : sparseWf m = true) (hn : n < i)
    (h : ∀ k x q, m = (k, x) :: q → n < k) : ∀ k x q, sparseWrite m i v = (k, x) :: q → n < k := by
  intro k x q e
  cases m with
  | nil =>
    simp only [sparseWrite] at e
    split at e <;> cases e
    exact hn
  | cons p r =>
    obtain ⟨j, y⟩ := p
    have hj := h j y r rfl
    simp only [sparseWrite] at e
    split at e
    · cases e; exact hj
    · split at e
      · rename_i hji
        split at e
        · exact Nat.lt_trans hj ((sparseWf_head hm).2 k x q e)
        · cases e; exact hn
      · split at e <;> cases e
        · exact hj
        · exact hn

/-- A write keeps the canonical form. -/
theorem sparseWrite_wf {w : Nat} {m : Sparse w} (i : Nat) (v : BitVec w) (h : sparseWf m = true) : sparseWf (sparseWrite m i v) = true := by
  induction m with
  | nil =>
    simp only [sparseWrite]
    split
    · rfl
    · simpa [sparseWf]
  | cons p r ih =>
    obtain ⟨j, x⟩ := p
    obtain ⟨hx, hj⟩ := sparseWf_head h
    have hr := sparseWf_tail h
    simp only [sparseWrite]
    split
    · rename_i hji
      exact sparseWf_cons hx (ih hr) (sparseWrite_head hr hji hj)
    · split
      · rename_i hji
        split
        · exact hr
        · rename_i hv
          exact sparseWf_cons hv hr (hji ▸ hj)
      · rename_i h1 h2
        split
        · exact h
        · rename_i hv
          exact sparseWf_cons hv h fun k y q e => by cases e; omega

/-- A read after a write to the same key gives the value written. -/
theorem sparseRead_write_same {w : Nat} {m : Sparse w} (i : Nat) (v : BitVec w) (h : sparseWf m = true) :
    sparseRead (sparseWrite m i v) i = v := by
  induction m with
  | nil =>
    simp only [sparseWrite]
    split
    · rename_i hv; simp [sparseRead, hv]
    · simp [sparseRead]
  | cons p r ih =>
    obtain ⟨j, x⟩ := p
    have hr := sparseWf_tail h
    simp only [sparseWrite]
    split
    · rename_i hji
      simp only [sparseRead, Nat.ne_of_lt hji, if_false]
      exact ih hr
    · split
      · rename_i hji
        split
        · rename_i hv
          cases r with
          | nil => simp [sparseRead, hv]
          | cons q r2 =>
            rw [sparseRead_below rfl hr (by have := (sparseWf_head h).2 q.1 q.2 r2 rfl; omega), hv]
        · simp [sparseRead]
      · split
        · rename_i hv
          rw [sparseRead_below rfl h (by omega), hv]
        · simp [sparseRead]

/-- A write leaves every other key alone. -/
theorem sparseRead_write_other {w : Nat} {m : Sparse w} {i k : Nat} (v : BitVec w) (hk : k ≠ i) :
    sparseRead (sparseWrite m i v) k = sparseRead m k := by
  induction m with
  | nil =>
    simp only [sparseWrite]
    split
    · rfl
    · simp [sparseRead, Ne.symm hk]
  | cons p r ih =>
    obtain ⟨j, x⟩ := p
    simp only [sparseWrite]
    split
    · simp only [sparseRead]; split
      · rfl
      · exact ih
    · split
      · rename_i hji
        split
        · simp [sparseRead, hji, Ne.symm hk]
        · simp [sparseRead, hji, Ne.symm hk]
      · split
        · rfl
        · simp [sparseRead, Ne.symm hk]

/-- Bytes written keep the canonical form. -/
theorem putBytes_wf {m : Sparse 8} (ma : Nat) (bs : List Byte) (h : sparseWf m = true) : sparseWf (putBytes m ma bs) = true := by
  induction bs generalizing m ma with
  | nil => exact h
  | cons b r ih => exact ih (ma + 1) (sparseWrite_wf ma b h)

/-- Bytes written leave every address outside them alone. -/
theorem putBytes_other {m : Sparse 8} {ma a : Nat} {bs : List Byte} (ha : a < ma ∨ ma + bs.length ≤ a) :
    sparseRead (putBytes m ma bs) a = sparseRead m a := by
  induction bs generalizing m ma with
  | nil => rfl
  | cons b r ih =>
    simp only [List.length_cons] at ha
    rw [putBytes, ih (by omega), sparseRead_write_other b (by omega)]

/-- Each byte written reads back. -/
theorem putBytes_same {m : Sparse 8} {ma i : Nat} {bs : List Byte} (h : sparseWf m = true) (hi : i < bs.length) :
    sparseRead (putBytes m ma bs) (ma + i) = bs[i] := by
  induction bs generalizing m ma i with
  | nil => cases hi
  | cons b r ih =>
    cases i with
    | zero =>
      rw [putBytes, putBytes_other (by omega)]
      exact sparseRead_write_same ma b h
    | succ n =>
      have := ih (ma := ma + 1) (sparseWrite_wf ma b h) (Nat.lt_of_succ_lt_succ hi)
      simpa [putBytes, Nat.add_assoc, Nat.add_comm 1 n] using this

/-- Runs of bytes written one after the other keep the canonical form. -/
theorem putRuns_wf {m : Sparse 8} (ps : List (Nat × List Byte)) (h : sparseWf m = true) :
    sparseWf (ps.foldl (fun m (p : Nat × List Byte) => putBytes m p.1 p.2) m) = true := by
  induction ps generalizing m with
  | nil => exact h
  | cons p r ih => exact ih (putBytes_wf p.1 p.2 h)

end Sys2Proof.Machine
end

