-- ==== Sys2Proof/Laws/State.lean ====
section
/-! SUPPORT. What each update of one part of the state leaves alone: one lemma per update, for every other part. -/

namespace Sys2Proof.Machine

@[simp] theorem State.setTile_frame (s : State) (t : Fin 64) (x : Tile) :
    (s.setTile t x).pending = s.pending ∧ (s.setTile t x).e384 = s.e384 ∧ (s.setTile t x).frame = s.frame ∧
    (s.setTile t x).work = s.work ∧ (s.setTile t x).mem = s.mem ∧ (s.setTile t x).dram = s.dram ∧
    (s.setTile t x).cache = s.cache ∧ (s.setTile t x).kma = s.kma ∧ (s.setTile t x).dict = s.dict ∧
    (s.setTile t x).host = s.host ∧ (s.setTile t x).mover = s.mover ∧ (s.setTile t x).events = s.events ∧
    (s.setTile t x).digest = s.digest ∧ (s.setTile t x).persist = s.persist ∧ (s.setTile t x).held = s.held ∧
    (s.setTile t x).mirror = s.mirror ∧ (s.setTile t x).health = s.health ∧ (s.setTile t x).moth = s.moth ∧
    (s.setTile t x).boot = s.boot ∧ (s.setTile t x).window = s.window ∧ (s.setTile t x).bdp = s.bdp ∧
    (s.setTile t x).profiles = s.profiles ∧ (s.setTile t x).pins = s.pins ∧ (s.setTile t x).free = s.free :=
  ⟨rfl, rfl, rfl, rfl, rfl, rfl, rfl, rfl, rfl, rfl, rfl, rfl, rfl, rfl, rfl, rfl, rfl, rfl, rfl, rfl, rfl, rfl, rfl, rfl⟩

@[simp] theorem State.setHead_frame (s : State) (t : Fin 64) (c : Ctx) :
    (s.setHead t c).pending = s.pending ∧ (s.setHead t c).e384 = s.e384 ∧ (s.setHead t c).frame = s.frame ∧
    (s.setHead t c).work = s.work ∧ (s.setHead t c).mem = s.mem ∧ (s.setHead t c).dram = s.dram ∧
    (s.setHead t c).cache = s.cache ∧ (s.setHead t c).kma = s.kma ∧ (s.setHead t c).dict = s.dict ∧
    (s.setHead t c).host = s.host ∧ (s.setHead t c).mover = s.mover ∧ (s.setHead t c).events = s.events ∧
    (s.setHead t c).digest = s.digest ∧ (s.setHead t c).persist = s.persist ∧ (s.setHead t c).held = s.held ∧
    (s.setHead t c).mirror = s.mirror ∧ (s.setHead t c).health = s.health ∧ (s.setHead t c).moth = s.moth ∧
    (s.setHead t c).boot = s.boot ∧ (s.setHead t c).window = s.window ∧ (s.setHead t c).bdp = s.bdp ∧
    (s.setHead t c).profiles = s.profiles ∧ (s.setHead t c).pins = s.pins ∧ (s.setHead t c).free = s.free :=
  ⟨rfl, rfl, rfl, rfl, rfl, rfl, rfl, rfl, rfl, rfl, rfl, rfl, rfl, rfl, rfl, rfl, rfl, rfl, rfl, rfl, rfl, rfl, rfl, rfl⟩

@[simp] theorem State.updEntry_frame (s : State) (slot : Nat) (f : WorkEntry → WorkEntry) :
    (s.updEntry slot f).pending = s.pending ∧ (s.updEntry slot f).e384 = s.e384 ∧ (s.updEntry slot f).frame = s.frame ∧
    (s.updEntry slot f).tiles = s.tiles ∧ (s.updEntry slot f).mem = s.mem ∧ (s.updEntry slot f).dram = s.dram ∧
    (s.updEntry slot f).cache = s.cache ∧ (s.updEntry slot f).kma = s.kma ∧ (s.updEntry slot f).dict = s.dict ∧
    (s.updEntry slot f).host = s.host ∧ (s.updEntry slot f).mover = s.mover ∧ (s.updEntry slot f).events = s.events ∧
    (s.updEntry slot f).digest = s.digest ∧ (s.updEntry slot f).persist = s.persist ∧ (s.updEntry slot f).held = s.held ∧
    (s.updEntry slot f).mirror = s.mirror ∧ (s.updEntry slot f).health = s.health ∧ (s.updEntry slot f).moth = s.moth ∧
    (s.updEntry slot f).boot = s.boot ∧ (s.updEntry slot f).window = s.window ∧ (s.updEntry slot f).bdp = s.bdp ∧
    (s.updEntry slot f).profiles = s.profiles ∧ (s.updEntry slot f).pins = s.pins ∧ (s.updEntry slot f).free = s.free :=
  ⟨rfl, rfl, rfl, rfl, rfl, rfl, rfl, rfl, rfl, rfl, rfl, rfl, rfl, rfl, rfl, rfl, rfl, rfl, rfl, rfl, rfl, rfl, rfl, rfl⟩

@[simp] theorem State.updJob_frame (s : State) (slot : Nat) (f : CodecJob → CodecJob) :
    (s.updJob slot f).pending = s.pending ∧ (s.updJob slot f).e384 = s.e384 ∧ (s.updJob slot f).frame = s.frame ∧
    (s.updJob slot f).tiles = s.tiles ∧ (s.updJob slot f).mem = s.mem ∧ (s.updJob slot f).dram = s.dram ∧
    (s.updJob slot f).cache = s.cache ∧ (s.updJob slot f).kma = s.kma ∧ (s.updJob slot f).dict = s.dict ∧
    (s.updJob slot f).host = s.host ∧ (s.updJob slot f).mover = s.mover ∧ (s.updJob slot f).events = s.events ∧
    (s.updJob slot f).digest = s.digest ∧ (s.updJob slot f).persist = s.persist ∧ (s.updJob slot f).held = s.held ∧
    (s.updJob slot f).mirror = s.mirror ∧ (s.updJob slot f).health = s.health ∧ (s.updJob slot f).moth = s.moth ∧
    (s.updJob slot f).boot = s.boot ∧ (s.updJob slot f).window = s.window ∧ (s.updJob slot f).bdp = s.bdp ∧
    (s.updJob slot f).profiles = s.profiles ∧ (s.updJob slot f).pins = s.pins ∧ (s.updJob slot f).free = s.free :=
  ⟨rfl, rfl, rfl, rfl, rfl, rfl, rfl, rfl, rfl, rfl, rfl, rfl, rfl, rfl, rfl, rfl, rfl, rfl, rfl, rfl, rfl, rfl, rfl, rfl⟩

@[simp] theorem State.sumStore_frame (s : State) (ma : Nat) (bs : List Byte) :
    (s.sumStore ma bs).pending = s.pending ∧ (s.sumStore ma bs).e384 = s.e384 ∧ (s.sumStore ma bs).work = s.work ∧
    (s.sumStore ma bs).tiles = s.tiles ∧ (s.sumStore ma bs).mem = s.mem ∧ (s.sumStore ma bs).dram = s.dram ∧
    (s.sumStore ma bs).cache = s.cache ∧ (s.sumStore ma bs).kma = s.kma ∧ (s.sumStore ma bs).dict = s.dict ∧
    (s.sumStore ma bs).host = s.host ∧ (s.sumStore ma bs).mover = s.mover ∧ (s.sumStore ma bs).events = s.events ∧
    (s.sumStore ma bs).digest = s.digest ∧ (s.sumStore ma bs).persist = s.persist ∧ (s.sumStore ma bs).held = s.held ∧
    (s.sumStore ma bs).mirror = s.mirror ∧ (s.sumStore ma bs).health = s.health ∧ (s.sumStore ma bs).moth = s.moth ∧
    (s.sumStore ma bs).boot = s.boot ∧ (s.sumStore ma bs).window = s.window ∧ (s.sumStore ma bs).bdp = s.bdp ∧
    (s.sumStore ma bs).profiles = s.profiles ∧ (s.sumStore ma bs).pins = s.pins ∧ (s.sumStore ma bs).free = s.free :=
  ⟨rfl, rfl, rfl, rfl, rfl, rfl, rfl, rfl, rfl, rfl, rfl, rfl, rfl, rfl, rfl, rfl, rfl, rfl, rfl, rfl, rfl, rfl, rfl, rfl⟩

@[simp] theorem State.sumMerge_frame (s : State) (bs : List Byte) :
    (s.sumMerge bs).pending = s.pending ∧ (s.sumMerge bs).e384 = s.e384 ∧ (s.sumMerge bs).work = s.work ∧
    (s.sumMerge bs).tiles = s.tiles ∧ (s.sumMerge bs).mem = s.mem ∧ (s.sumMerge bs).dram = s.dram ∧
    (s.sumMerge bs).cache = s.cache ∧ (s.sumMerge bs).kma = s.kma ∧ (s.sumMerge bs).dict = s.dict ∧
    (s.sumMerge bs).host = s.host ∧ (s.sumMerge bs).mover = s.mover ∧ (s.sumMerge bs).events = s.events ∧
    (s.sumMerge bs).digest = s.digest ∧ (s.sumMerge bs).persist = s.persist ∧ (s.sumMerge bs).held = s.held ∧
    (s.sumMerge bs).mirror = s.mirror ∧ (s.sumMerge bs).health = s.health ∧ (s.sumMerge bs).moth = s.moth ∧
    (s.sumMerge bs).boot = s.boot ∧ (s.sumMerge bs).window = s.window ∧ (s.sumMerge bs).bdp = s.bdp ∧
    (s.sumMerge bs).profiles = s.profiles ∧ (s.sumMerge bs).pins = s.pins ∧ (s.sumMerge bs).free = s.free :=
  ⟨rfl, rfl, rfl, rfl, rfl, rfl, rfl, rfl, rfl, rfl, rfl, rfl, rfl, rfl, rfl, rfl, rfl, rfl, rfl, rfl, rfl, rfl, rfl, rfl⟩

@[simp] theorem State.sumOutput_frame (s : State) (crc : Nat) :
    (s.sumOutput crc).pending = s.pending ∧ (s.sumOutput crc).e384 = s.e384 ∧ (s.sumOutput crc).work = s.work ∧
    (s.sumOutput crc).tiles = s.tiles ∧ (s.sumOutput crc).mem = s.mem ∧ (s.sumOutput crc).dram = s.dram ∧
    (s.sumOutput crc).cache = s.cache ∧ (s.sumOutput crc).kma = s.kma ∧ (s.sumOutput crc).dict = s.dict ∧
    (s.sumOutput crc).host = s.host ∧ (s.sumOutput crc).mover = s.mover ∧ (s.sumOutput crc).events = s.events ∧
    (s.sumOutput crc).digest = s.digest ∧ (s.sumOutput crc).persist = s.persist ∧ (s.sumOutput crc).held = s.held ∧
    (s.sumOutput crc).mirror = s.mirror ∧ (s.sumOutput crc).health = s.health ∧ (s.sumOutput crc).moth = s.moth ∧
    (s.sumOutput crc).boot = s.boot ∧ (s.sumOutput crc).window = s.window ∧ (s.sumOutput crc).bdp = s.bdp ∧
    (s.sumOutput crc).profiles = s.profiles ∧ (s.sumOutput crc).pins = s.pins ∧ (s.sumOutput crc).free = s.free :=
  ⟨rfl, rfl, rfl, rfl, rfl, rfl, rfl, rfl, rfl, rfl, rfl, rfl, rfl, rfl, rfl, rfl, rfl, rfl, rfl, rfl, rfl, rfl, rfl, rfl⟩

@[simp] theorem State.markDirty_frame (s : State) (slot : Nat) :
    (s.markDirty slot).pending = s.pending ∧ (s.markDirty slot).e384 = s.e384 ∧ (s.markDirty slot).frame = s.frame ∧
    (s.markDirty slot).work = s.work ∧ (s.markDirty slot).tiles = s.tiles ∧ (s.markDirty slot).dram = s.dram ∧
    (s.markDirty slot).cache = s.cache ∧ (s.markDirty slot).kma = s.kma ∧ (s.markDirty slot).dict = s.dict ∧
    (s.markDirty slot).host = s.host ∧ (s.markDirty slot).mover = s.mover ∧ (s.markDirty slot).events = s.events ∧
    (s.markDirty slot).digest = s.digest ∧ (s.markDirty slot).persist = s.persist ∧ (s.markDirty slot).held = s.held ∧
    (s.markDirty slot).health = s.health ∧ (s.markDirty slot).moth = s.moth ∧ (s.markDirty slot).boot = s.boot ∧
    (s.markDirty slot).window = s.window ∧ (s.markDirty slot).bdp = s.bdp ∧ (s.markDirty slot).profiles = s.profiles ∧
    (s.markDirty slot).pins = s.pins ∧ (s.markDirty slot).free = s.free :=
  ⟨rfl, rfl, rfl, rfl, rfl, rfl, rfl, rfl, rfl, rfl, rfl, rfl, rfl, rfl, rfl, rfl, rfl, rfl, rfl, rfl, rfl, rfl, rfl⟩

@[simp] theorem State.setSq_frame (s : State) (r : Nat) (x : SqRing) :
    (s.setSq r x).pending = s.pending ∧ (s.setSq r x).e384 = s.e384 ∧ (s.setSq r x).frame = s.frame ∧
    (s.setSq r x).work = s.work ∧ (s.setSq r x).tiles = s.tiles ∧ (s.setSq r x).mem = s.mem ∧ (s.setSq r x).dram = s.dram ∧
    (s.setSq r x).cache = s.cache ∧ (s.setSq r x).kma = s.kma ∧ (s.setSq r x).dict = s.dict ∧ (s.setSq r x).mover = s.mover ∧
    (s.setSq r x).events = s.events ∧ (s.setSq r x).digest = s.digest ∧ (s.setSq r x).persist = s.persist ∧
    (s.setSq r x).held = s.held ∧ (s.setSq r x).mirror = s.mirror ∧ (s.setSq r x).health = s.health ∧
    (s.setSq r x).moth = s.moth ∧ (s.setSq r x).boot = s.boot ∧ (s.setSq r x).window = s.window ∧ (s.setSq r x).bdp = s.bdp ∧
    (s.setSq r x).profiles = s.profiles ∧ (s.setSq r x).pins = s.pins ∧ (s.setSq r x).free = s.free :=
  ⟨rfl, rfl, rfl, rfl, rfl, rfl, rfl, rfl, rfl, rfl, rfl, rfl, rfl, rfl, rfl, rfl, rfl, rfl, rfl, rfl, rfl, rfl, rfl, rfl⟩

@[simp] theorem State.setCq_frame (s : State) (r : Nat) (x : CqRing) :
    (s.setCq r x).pending = s.pending ∧ (s.setCq r x).e384 = s.e384 ∧ (s.setCq r x).frame = s.frame ∧
    (s.setCq r x).work = s.work ∧ (s.setCq r x).tiles = s.tiles ∧ (s.setCq r x).mem = s.mem ∧ (s.setCq r x).dram = s.dram ∧
    (s.setCq r x).cache = s.cache ∧ (s.setCq r x).kma = s.kma ∧ (s.setCq r x).dict = s.dict ∧ (s.setCq r x).mover = s.mover ∧
    (s.setCq r x).events = s.events ∧ (s.setCq r x).digest = s.digest ∧ (s.setCq r x).persist = s.persist ∧
    (s.setCq r x).held = s.held ∧ (s.setCq r x).mirror = s.mirror ∧ (s.setCq r x).health = s.health ∧
    (s.setCq r x).moth = s.moth ∧ (s.setCq r x).boot = s.boot ∧ (s.setCq r x).window = s.window ∧ (s.setCq r x).bdp = s.bdp ∧
    (s.setCq r x).profiles = s.profiles ∧ (s.setCq r x).pins = s.pins ∧ (s.setCq r x).free = s.free :=
  ⟨rfl, rfl, rfl, rfl, rfl, rfl, rfl, rfl, rfl, rfl, rfl, rfl, rfl, rfl, rfl, rfl, rfl, rfl, rfl, rfl, rfl, rfl, rfl, rfl⟩

@[simp] theorem State.setMailbox_frame (s : State) (i : Fin 64) (m : Mailbox) :
    (s.setMailbox i m).pending = s.pending ∧ (s.setMailbox i m).e384 = s.e384 ∧ (s.setMailbox i m).frame = s.frame ∧
    (s.setMailbox i m).work = s.work ∧ (s.setMailbox i m).tiles = s.tiles ∧ (s.setMailbox i m).mem = s.mem ∧
    (s.setMailbox i m).dram = s.dram ∧ (s.setMailbox i m).cache = s.cache ∧ (s.setMailbox i m).kma = s.kma ∧
    (s.setMailbox i m).dict = s.dict ∧ (s.setMailbox i m).mover = s.mover ∧ (s.setMailbox i m).events = s.events ∧
    (s.setMailbox i m).digest = s.digest ∧ (s.setMailbox i m).persist = s.persist ∧ (s.setMailbox i m).held = s.held ∧
    (s.setMailbox i m).mirror = s.mirror ∧ (s.setMailbox i m).health = s.health ∧ (s.setMailbox i m).moth = s.moth ∧
    (s.setMailbox i m).boot = s.boot ∧ (s.setMailbox i m).window = s.window ∧ (s.setMailbox i m).bdp = s.bdp ∧
    (s.setMailbox i m).profiles = s.profiles ∧ (s.setMailbox i m).pins = s.pins ∧ (s.setMailbox i m).free = s.free :=
  ⟨rfl, rfl, rfl, rfl, rfl, rfl, rfl, rfl, rfl, rfl, rfl, rfl, rfl, rfl, rfl, rfl, rfl, rfl, rfl, rfl, rfl, rfl, rfl, rfl⟩

@[simp] theorem State.setChannel_frame (s : State) (ch : Fin 32) (x : MvChannel) :
    (s.setChannel ch x).pending = s.pending ∧ (s.setChannel ch x).e384 = s.e384 ∧ (s.setChannel ch x).frame = s.frame ∧
    (s.setChannel ch x).work = s.work ∧ (s.setChannel ch x).tiles = s.tiles ∧ (s.setChannel ch x).mem = s.mem ∧
    (s.setChannel ch x).dram = s.dram ∧ (s.setChannel ch x).cache = s.cache ∧ (s.setChannel ch x).kma = s.kma ∧
    (s.setChannel ch x).dict = s.dict ∧ (s.setChannel ch x).host = s.host ∧ (s.setChannel ch x).events = s.events ∧
    (s.setChannel ch x).digest = s.digest ∧ (s.setChannel ch x).persist = s.persist ∧ (s.setChannel ch x).held = s.held ∧
    (s.setChannel ch x).mirror = s.mirror ∧ (s.setChannel ch x).health = s.health ∧ (s.setChannel ch x).moth = s.moth ∧
    (s.setChannel ch x).boot = s.boot ∧ (s.setChannel ch x).window = s.window ∧ (s.setChannel ch x).bdp = s.bdp ∧
    (s.setChannel ch x).profiles = s.profiles ∧ (s.setChannel ch x).pins = s.pins ∧ (s.setChannel ch x).free = s.free :=
  ⟨rfl, rfl, rfl, rfl, rfl, rfl, rfl, rfl, rfl, rfl, rfl, rfl, rfl, rfl, rfl, rfl, rfl, rfl, rfl, rfl, rfl, rfl, rfl, rfl⟩

@[simp] theorem State.setHandle_frame (s : State) (n : Nat) (x : Handle) :
    (s.setHandle n x).pending = s.pending ∧ (s.setHandle n x).e384 = s.e384 ∧ (s.setHandle n x).frame = s.frame ∧
    (s.setHandle n x).work = s.work ∧ (s.setHandle n x).tiles = s.tiles ∧ (s.setHandle n x).mem = s.mem ∧
    (s.setHandle n x).dram = s.dram ∧ (s.setHandle n x).cache = s.cache ∧ (s.setHandle n x).kma = s.kma ∧
    (s.setHandle n x).dict = s.dict ∧ (s.setHandle n x).host = s.host ∧ (s.setHandle n x).mover = s.mover ∧
    (s.setHandle n x).events = s.events ∧ (s.setHandle n x).persist = s.persist ∧ (s.setHandle n x).held = s.held ∧
    (s.setHandle n x).mirror = s.mirror ∧ (s.setHandle n x).health = s.health ∧ (s.setHandle n x).moth = s.moth ∧
    (s.setHandle n x).boot = s.boot ∧ (s.setHandle n x).window = s.window ∧ (s.setHandle n x).bdp = s.bdp ∧
    (s.setHandle n x).profiles = s.profiles ∧ (s.setHandle n x).pins = s.pins ∧ (s.setHandle n x).free = s.free :=
  ⟨rfl, rfl, rfl, rfl, rfl, rfl, rfl, rfl, rfl, rfl, rfl, rfl, rfl, rfl, rfl, rfl, rfl, rfl, rfl, rfl, rfl, rfl, rfl, rfl⟩

@[simp] theorem State.setPort_frame (s : State) (p : Fin 4) (x : PersistPort) :
    (s.setPort p x).pending = s.pending ∧ (s.setPort p x).e384 = s.e384 ∧ (s.setPort p x).frame = s.frame ∧
    (s.setPort p x).work = s.work ∧ (s.setPort p x).tiles = s.tiles ∧ (s.setPort p x).mem = s.mem ∧
    (s.setPort p x).dram = s.dram ∧ (s.setPort p x).cache = s.cache ∧ (s.setPort p x).kma = s.kma ∧
    (s.setPort p x).dict = s.dict ∧ (s.setPort p x).host = s.host ∧ (s.setPort p x).mover = s.mover ∧
    (s.setPort p x).events = s.events ∧ (s.setPort p x).digest = s.digest ∧ (s.setPort p x).held = s.held ∧
    (s.setPort p x).mirror = s.mirror ∧ (s.setPort p x).health = s.health ∧ (s.setPort p x).moth = s.moth ∧
    (s.setPort p x).boot = s.boot ∧ (s.setPort p x).window = s.window ∧ (s.setPort p x).bdp = s.bdp ∧
    (s.setPort p x).profiles = s.profiles ∧ (s.setPort p x).pins = s.pins ∧ (s.setPort p x).free = s.free :=
  ⟨rfl, rfl, rfl, rfl, rfl, rfl, rfl, rfl, rfl, rfl, rfl, rfl, rfl, rfl, rfl, rfl, rfl, rfl, rfl, rfl, rfl, rfl, rfl, rfl⟩

@[simp] theorem State.setMirrorPort_frame (s : State) (portB : Bool) (p : MirrorPort) :
    (s.setMirrorPort portB p).pending = s.pending ∧ (s.setMirrorPort portB p).e384 = s.e384 ∧
    (s.setMirrorPort portB p).frame = s.frame ∧ (s.setMirrorPort portB p).work = s.work ∧
    (s.setMirrorPort portB p).tiles = s.tiles ∧ (s.setMirrorPort portB p).mem = s.mem ∧ (s.setMirrorPort portB p).dram = s.dram ∧
    (s.setMirrorPort portB p).cache = s.cache ∧ (s.setMirrorPort portB p).kma = s.kma ∧ (s.setMirrorPort portB p).dict = s.dict ∧
    (s.setMirrorPort portB p).host = s.host ∧ (s.setMirrorPort portB p).mover = s.mover ∧
    (s.setMirrorPort portB p).events = s.events ∧ (s.setMirrorPort portB p).digest = s.digest ∧
    (s.setMirrorPort portB p).persist = s.persist ∧ (s.setMirrorPort portB p).held = s.held ∧
    (s.setMirrorPort portB p).health = s.health ∧ (s.setMirrorPort portB p).moth = s.moth ∧
    (s.setMirrorPort portB p).boot = s.boot ∧ (s.setMirrorPort portB p).window = s.window ∧
    (s.setMirrorPort portB p).bdp = s.bdp ∧ (s.setMirrorPort portB p).profiles = s.profiles ∧
    (s.setMirrorPort portB p).pins = s.pins ∧ (s.setMirrorPort portB p).free = s.free :=
  ⟨rfl, rfl, rfl, rfl, rfl, rfl, rfl, rfl, rfl, rfl, rfl, rfl, rfl, rfl, rfl, rfl, rfl, rfl, rfl, rfl, rfl, rfl, rfl, rfl⟩

@[simp] theorem State.setStage_frame (s : State) (n : Nat) :
    (s.setStage n).pending = s.pending ∧ (s.setStage n).e384 = s.e384 ∧ (s.setStage n).frame = s.frame ∧
    (s.setStage n).work = s.work ∧ (s.setStage n).tiles = s.tiles ∧ (s.setStage n).mem = s.mem ∧ (s.setStage n).dram = s.dram ∧
    (s.setStage n).cache = s.cache ∧ (s.setStage n).kma = s.kma ∧ (s.setStage n).dict = s.dict ∧ (s.setStage n).host = s.host ∧
    (s.setStage n).mover = s.mover ∧ (s.setStage n).events = s.events ∧ (s.setStage n).digest = s.digest ∧
    (s.setStage n).persist = s.persist ∧ (s.setStage n).held = s.held ∧ (s.setStage n).mirror = s.mirror ∧
    (s.setStage n).health = s.health ∧ (s.setStage n).moth = s.moth ∧ (s.setStage n).window = s.window ∧
    (s.setStage n).bdp = s.bdp ∧ (s.setStage n).profiles = s.profiles ∧ (s.setStage n).pins = s.pins ∧
    (s.setStage n).free = s.free :=
  ⟨rfl, rfl, rfl, rfl, rfl, rfl, rfl, rfl, rfl, rfl, rfl, rfl, rfl, rfl, rfl, rfl, rfl, rfl, rfl, rfl, rfl, rfl, rfl, rfl⟩

@[simp] theorem State.setPower_frame (s : State) (p : Nat) :
    (s.setPower p).pending = s.pending ∧ (s.setPower p).e384 = s.e384 ∧ (s.setPower p).frame = s.frame ∧
    (s.setPower p).work = s.work ∧ (s.setPower p).tiles = s.tiles ∧ (s.setPower p).mem = s.mem ∧ (s.setPower p).dram = s.dram ∧
    (s.setPower p).cache = s.cache ∧ (s.setPower p).kma = s.kma ∧ (s.setPower p).dict = s.dict ∧ (s.setPower p).host = s.host ∧
    (s.setPower p).mover = s.mover ∧ (s.setPower p).events = s.events ∧ (s.setPower p).digest = s.digest ∧
    (s.setPower p).persist = s.persist ∧ (s.setPower p).held = s.held ∧ (s.setPower p).mirror = s.mirror ∧
    (s.setPower p).health = s.health ∧ (s.setPower p).boot = s.boot ∧ (s.setPower p).window = s.window ∧
    (s.setPower p).bdp = s.bdp ∧ (s.setPower p).profiles = s.profiles ∧ (s.setPower p).pins = s.pins ∧
    (s.setPower p).free = s.free :=
  ⟨rfl, rfl, rfl, rfl, rfl, rfl, rfl, rfl, rfl, rfl, rfl, rfl, rfl, rfl, rfl, rfl, rfl, rfl, rfl, rfl, rfl, rfl, rfl, rfl⟩

@[simp] theorem State.setSlot_frame (s : State) (n : Fin 8) (x : DwSlot) :
    (s.setSlot n x).pending = s.pending ∧ (s.setSlot n x).e384 = s.e384 ∧ (s.setSlot n x).frame = s.frame ∧
    (s.setSlot n x).work = s.work ∧ (s.setSlot n x).tiles = s.tiles ∧ (s.setSlot n x).mem = s.mem ∧
    (s.setSlot n x).dram = s.dram ∧ (s.setSlot n x).cache = s.cache ∧ (s.setSlot n x).kma = s.kma ∧
    (s.setSlot n x).dict = s.dict ∧ (s.setSlot n x).host = s.host ∧ (s.setSlot n x).mover = s.mover ∧
    (s.setSlot n x).events = s.events ∧ (s.setSlot n x).digest = s.digest ∧ (s.setSlot n x).persist = s.persist ∧
    (s.setSlot n x).held = s.held ∧ (s.setSlot n x).mirror = s.mirror ∧ (s.setSlot n x).health = s.health ∧
    (s.setSlot n x).moth = s.moth ∧ (s.setSlot n x).boot = s.boot ∧ (s.setSlot n x).bdp = s.bdp ∧
    (s.setSlot n x).profiles = s.profiles ∧ (s.setSlot n x).pins = s.pins ∧ (s.setSlot n x).free = s.free :=
  ⟨rfl, rfl, rfl, rfl, rfl, rfl, rfl, rfl, rfl, rfl, rfl, rfl, rfl, rfl, rfl, rfl, rfl, rfl, rfl, rfl, rfl, rfl, rfl, rfl⟩

@[simp] theorem State.updTable_frame (s : State) (inst tag : Nat) (f : KmaTable → KmaTable) :
    (s.updTable inst tag f).pending = s.pending ∧ (s.updTable inst tag f).e384 = s.e384 ∧
    (s.updTable inst tag f).frame = s.frame ∧ (s.updTable inst tag f).work = s.work ∧ (s.updTable inst tag f).tiles = s.tiles ∧
    (s.updTable inst tag f).mem = s.mem ∧ (s.updTable inst tag f).dram = s.dram ∧ (s.updTable inst tag f).cache = s.cache ∧
    (s.updTable inst tag f).dict = s.dict ∧ (s.updTable inst tag f).host = s.host ∧ (s.updTable inst tag f).mover = s.mover ∧
    (s.updTable inst tag f).events = s.events ∧ (s.updTable inst tag f).digest = s.digest ∧
    (s.updTable inst tag f).persist = s.persist ∧ (s.updTable inst tag f).held = s.held ∧
    (s.updTable inst tag f).mirror = s.mirror ∧ (s.updTable inst tag f).health = s.health ∧
    (s.updTable inst tag f).moth = s.moth ∧ (s.updTable inst tag f).boot = s.boot ∧ (s.updTable inst tag f).window = s.window ∧
    (s.updTable inst tag f).bdp = s.bdp ∧ (s.updTable inst tag f).profiles = s.profiles ∧ (s.updTable inst tag f).pins = s.pins ∧
    (s.updTable inst tag f).free = s.free :=
  ⟨rfl, rfl, rfl, rfl, rfl, rfl, rfl, rfl, rfl, rfl, rfl, rfl, rfl, rfl, rfl, rfl, rfl, rfl, rfl, rfl, rfl, rfl, rfl, rfl⟩

@[simp] theorem State.odSet_frame (s : State) (index sub v : Nat) :
    (s.odSet index sub v).pending = s.pending ∧ (s.odSet index sub v).e384 = s.e384 ∧ (s.odSet index sub v).frame = s.frame ∧
    (s.odSet index sub v).work = s.work ∧ (s.odSet index sub v).tiles = s.tiles ∧ (s.odSet index sub v).mem = s.mem ∧
    (s.odSet index sub v).dram = s.dram ∧ (s.odSet index sub v).cache = s.cache ∧ (s.odSet index sub v).kma = s.kma ∧
    (s.odSet index sub v).host = s.host ∧ (s.odSet index sub v).mover = s.mover ∧ (s.odSet index sub v).events = s.events ∧
    (s.odSet index sub v).digest = s.digest ∧ (s.odSet index sub v).persist = s.persist ∧ (s.odSet index sub v).held = s.held ∧
    (s.odSet index sub v).mirror = s.mirror ∧ (s.odSet index sub v).health = s.health ∧ (s.odSet index sub v).moth = s.moth ∧
    (s.odSet index sub v).boot = s.boot ∧ (s.odSet index sub v).window = s.window ∧ (s.odSet index sub v).bdp = s.bdp ∧
    (s.odSet index sub v).profiles = s.profiles ∧ (s.odSet index sub v).pins = s.pins ∧ (s.odSet index sub v).free = s.free :=
  ⟨rfl, rfl, rfl, rfl, rfl, rfl, rfl, rfl, rfl, rfl, rfl, rfl, rfl, rfl, rfl, rfl, rfl, rfl, rfl, rfl, rfl, rfl, rfl, rfl⟩

theorem State.askSlot_eq (s : State) (slot : Nat) :
    (s.askSlot slot) = { s with persist := (s.askSlot slot).persist } := by
  unfold State.askSlot
  repeat' split
  all_goals rfl

@[simp] theorem State.askSlot_frame (s : State) (slot : Nat) :
    (s.askSlot slot).pending = s.pending ∧ (s.askSlot slot).e384 = s.e384 ∧ (s.askSlot slot).frame = s.frame ∧
    (s.askSlot slot).work = s.work ∧ (s.askSlot slot).tiles = s.tiles ∧ (s.askSlot slot).mem = s.mem ∧
    (s.askSlot slot).dram = s.dram ∧ (s.askSlot slot).cache = s.cache ∧ (s.askSlot slot).kma = s.kma ∧
    (s.askSlot slot).dict = s.dict ∧ (s.askSlot slot).host = s.host ∧ (s.askSlot slot).mover = s.mover ∧
    (s.askSlot slot).events = s.events ∧ (s.askSlot slot).digest = s.digest ∧ (s.askSlot slot).held = s.held ∧
    (s.askSlot slot).mirror = s.mirror ∧ (s.askSlot slot).health = s.health ∧ (s.askSlot slot).moth = s.moth ∧
    (s.askSlot slot).boot = s.boot ∧ (s.askSlot slot).window = s.window ∧ (s.askSlot slot).bdp = s.bdp ∧
    (s.askSlot slot).profiles = s.profiles ∧ (s.askSlot slot).pins = s.pins ∧ (s.askSlot slot).free = s.free := by
  rw [State.askSlot_eq]
  exact ⟨rfl, rfl, rfl, rfl, rfl, rfl, rfl, rfl, rfl, rfl, rfl, rfl, rfl, rfl, rfl, rfl, rfl, rfl, rfl, rfl, rfl, rfl, rfl, rfl⟩

theorem State.setResident_eq (s : State) (slot : Nat) (on : Bool) :
    (s.setResident slot on) = { s with mem := (s.setResident slot on).mem } := by
  unfold State.setResident
  split <;> rfl

@[simp] theorem State.setResident_frame (s : State) (slot : Nat) (on : Bool) :
    (s.setResident slot on).pending = s.pending ∧ (s.setResident slot on).e384 = s.e384 ∧
    (s.setResident slot on).frame = s.frame ∧ (s.setResident slot on).work = s.work ∧ (s.setResident slot on).tiles = s.tiles ∧
    (s.setResident slot on).dram = s.dram ∧ (s.setResident slot on).cache = s.cache ∧ (s.setResident slot on).kma = s.kma ∧
    (s.setResident slot on).dict = s.dict ∧ (s.setResident slot on).host = s.host ∧ (s.setResident slot on).mover = s.mover ∧
    (s.setResident slot on).events = s.events ∧ (s.setResident slot on).digest = s.digest ∧
    (s.setResident slot on).persist = s.persist ∧ (s.setResident slot on).held = s.held ∧
    (s.setResident slot on).mirror = s.mirror ∧ (s.setResident slot on).health = s.health ∧
    (s.setResident slot on).moth = s.moth ∧ (s.setResident slot on).boot = s.boot ∧ (s.setResident slot on).window = s.window ∧
    (s.setResident slot on).bdp = s.bdp ∧ (s.setResident slot on).profiles = s.profiles ∧ (s.setResident slot on).pins = s.pins ∧
    (s.setResident slot on).free = s.free := by
  rw [State.setResident_eq]
  exact ⟨rfl, rfl, rfl, rfl, rfl, rfl, rfl, rfl, rfl, rfl, rfl, rfl, rfl, rfl, rfl, rfl, rfl, rfl, rfl, rfl, rfl, rfl, rfl, rfl⟩

theorem State.sendHost_eq (s : State) (inst : Nat) (w : HostWrite) :
    (s.sendHost inst w) = { s with host := (s.sendHost inst w).host } := by
  cases w
  · unfold State.sendHost State.holdWrite State.emitHost
    dsimp only
    split
    · rfl
    · split <;> rfl
  all_goals
    unfold State.sendHost State.emitHost
    dsimp only
    split <;> rfl

@[simp] theorem State.sendHost_frame (s : State) (inst : Nat) (w : HostWrite) :
    (s.sendHost inst w).pending = s.pending ∧ (s.sendHost inst w).e384 = s.e384 ∧ (s.sendHost inst w).frame = s.frame ∧
    (s.sendHost inst w).work = s.work ∧ (s.sendHost inst w).tiles = s.tiles ∧ (s.sendHost inst w).mem = s.mem ∧
    (s.sendHost inst w).dram = s.dram ∧ (s.sendHost inst w).cache = s.cache ∧ (s.sendHost inst w).kma = s.kma ∧
    (s.sendHost inst w).dict = s.dict ∧ (s.sendHost inst w).mover = s.mover ∧ (s.sendHost inst w).events = s.events ∧
    (s.sendHost inst w).digest = s.digest ∧ (s.sendHost inst w).persist = s.persist ∧ (s.sendHost inst w).held = s.held ∧
    (s.sendHost inst w).mirror = s.mirror ∧ (s.sendHost inst w).health = s.health ∧ (s.sendHost inst w).moth = s.moth ∧
    (s.sendHost inst w).boot = s.boot ∧ (s.sendHost inst w).window = s.window ∧ (s.sendHost inst w).bdp = s.bdp ∧
    (s.sendHost inst w).profiles = s.profiles ∧ (s.sendHost inst w).pins = s.pins ∧ (s.sendHost inst w).free = s.free := by
  rw [State.sendHost_eq]
  exact ⟨rfl, rfl, rfl, rfl, rfl, rfl, rfl, rfl, rfl, rfl, rfl, rfl, rfl, rfl, rfl, rfl, rfl, rfl, rfl, rfl, rfl, rfl, rfl, rfl⟩

theorem State.signalVector_eq (s : State) (inst vec : Nat) :
    (s.signalVector inst vec) = { s with host := (s.signalVector inst vec).host } := by
  have key (p : Bool) (a b : State) (ha : a = { s with host := a.host }) (hb : b = { s with host := b.host }) :
      (if p then a else b) = { s with host := (if p then a else b).host } := by cases p <;> assumption
  unfold State.signalVector
  split
  · exact key _ _ _ rfl (by rw [State.sendHost_eq])
  · rfl

@[simp] theorem State.signalVector_frame (s : State) (inst vec : Nat) :
    (s.signalVector inst vec).pending = s.pending ∧ (s.signalVector inst vec).e384 = s.e384 ∧
    (s.signalVector inst vec).frame = s.frame ∧ (s.signalVector inst vec).work = s.work ∧
    (s.signalVector inst vec).tiles = s.tiles ∧ (s.signalVector inst vec).mem = s.mem ∧ (s.signalVector inst vec).dram = s.dram ∧
    (s.signalVector inst vec).cache = s.cache ∧ (s.signalVector inst vec).kma = s.kma ∧ (s.signalVector inst vec).dict = s.dict ∧
    (s.signalVector inst vec).mover = s.mover ∧ (s.signalVector inst vec).events = s.events ∧
    (s.signalVector inst vec).digest = s.digest ∧ (s.signalVector inst vec).persist = s.persist ∧
    (s.signalVector inst vec).held = s.held ∧ (s.signalVector inst vec).mirror = s.mirror ∧
    (s.signalVector inst vec).health = s.health ∧ (s.signalVector inst vec).moth = s.moth ∧
    (s.signalVector inst vec).boot = s.boot ∧ (s.signalVector inst vec).window = s.window ∧
    (s.signalVector inst vec).bdp = s.bdp ∧ (s.signalVector inst vec).profiles = s.profiles ∧
    (s.signalVector inst vec).pins = s.pins ∧ (s.signalVector inst vec).free = s.free := by
  rw [State.signalVector_eq]
  exact ⟨rfl, rfl, rfl, rfl, rfl, rfl, rfl, rfl, rfl, rfl, rfl, rfl, rfl, rfl, rfl, rfl, rfl, rfl, rfl, rfl, rfl, rfl, rfl, rfl⟩

theorem State.raiseVector_eq (s : State) (inst vec : Nat) :
    (s.raiseVector inst vec) = { s with host := (s.raiseVector inst vec).host } := by
  unfold State.raiseVector
  split
  · rfl
  · rw [State.signalVector_eq]

@[simp] theorem State.raiseVector_frame (s : State) (inst vec : Nat) :
    (s.raiseVector inst vec).pending = s.pending ∧ (s.raiseVector inst vec).e384 = s.e384 ∧
    (s.raiseVector inst vec).frame = s.frame ∧ (s.raiseVector inst vec).work = s.work ∧
    (s.raiseVector inst vec).tiles = s.tiles ∧ (s.raiseVector inst vec).mem = s.mem ∧ (s.raiseVector inst vec).dram = s.dram ∧
    (s.raiseVector inst vec).cache = s.cache ∧ (s.raiseVector inst vec).kma = s.kma ∧ (s.raiseVector inst vec).dict = s.dict ∧
    (s.raiseVector inst vec).mover = s.mover ∧ (s.raiseVector inst vec).events = s.events ∧
    (s.raiseVector inst vec).digest = s.digest ∧ (s.raiseVector inst vec).persist = s.persist ∧
    (s.raiseVector inst vec).held = s.held ∧ (s.raiseVector inst vec).mirror = s.mirror ∧
    (s.raiseVector inst vec).health = s.health ∧ (s.raiseVector inst vec).moth = s.moth ∧
    (s.raiseVector inst vec).boot = s.boot ∧ (s.raiseVector inst vec).window = s.window ∧ (s.raiseVector inst vec).bdp = s.bdp ∧
    (s.raiseVector inst vec).profiles = s.profiles ∧ (s.raiseVector inst vec).pins = s.pins ∧
    (s.raiseVector inst vec).free = s.free := by
  rw [State.raiseVector_eq]
  exact ⟨rfl, rfl, rfl, rfl, rfl, rfl, rfl, rfl, rfl, rfl, rfl, rfl, rfl, rfl, rfl, rfl, rfl, rfl, rfl, rfl, rfl, rfl, rfl, rfl⟩

theorem State.raiseAt_eq (s : State) (code severity loc detail arg : Nat) :
    (s.raiseAt code severity loc detail arg) = { s with host := (s.raiseAt code severity loc detail arg).host, events := (s.raiseAt code severity loc detail arg).events } := by
  unfold State.raiseAt
  dsimp only
  split
  · rw [State.raiseVector_eq]
  · rfl

@[simp] theorem State.raiseAt_frame (s : State) (code severity loc detail arg : Nat) :
    (s.raiseAt code severity loc detail arg).pending = s.pending ∧ (s.raiseAt code severity loc detail arg).e384 = s.e384 ∧
    (s.raiseAt code severity loc detail arg).frame = s.frame ∧ (s.raiseAt code severity loc detail arg).work = s.work ∧
    (s.raiseAt code severity loc detail arg).tiles = s.tiles ∧ (s.raiseAt code severity loc detail arg).mem = s.mem ∧
    (s.raiseAt code severity loc detail arg).dram = s.dram ∧ (s.raiseAt code severity loc detail arg).cache = s.cache ∧
    (s.raiseAt code severity loc detail arg).kma = s.kma ∧ (s.raiseAt code severity loc detail arg).dict = s.dict ∧
    (s.raiseAt code severity loc detail arg).mover = s.mover ∧ (s.raiseAt code severity loc detail arg).digest = s.digest ∧
    (s.raiseAt code severity loc detail arg).persist = s.persist ∧ (s.raiseAt code severity loc detail arg).held = s.held ∧
    (s.raiseAt code severity loc detail arg).mirror = s.mirror ∧ (s.raiseAt code severity loc detail arg).health = s.health ∧
    (s.raiseAt code severity loc detail arg).moth = s.moth ∧ (s.raiseAt code severity loc detail arg).boot = s.boot ∧
    (s.raiseAt code severity loc detail arg).window = s.window ∧ (s.raiseAt code severity loc detail arg).bdp = s.bdp ∧
    (s.raiseAt code severity loc detail arg).profiles = s.profiles ∧ (s.raiseAt code severity loc detail arg).pins = s.pins ∧
    (s.raiseAt code severity loc detail arg).free = s.free := by
  rw [State.raiseAt_eq]
  exact ⟨rfl, rfl, rfl, rfl, rfl, rfl, rfl, rfl, rfl, rfl, rfl, rfl, rfl, rfl, rfl, rfl, rfl, rfl, rfl, rfl, rfl, rfl, rfl⟩

theorem State.raise_eq (s : State) (code severity arg : Nat) :
    (s.raise code severity arg) = { s with host := (s.raise code severity arg).host, events := (s.raise code severity arg).events } := by
  rw [State.raise, State.raiseAt_eq]

@[simp] theorem State.raise_frame (s : State) (code severity arg : Nat) :
    (s.raise code severity arg).pending = s.pending ∧ (s.raise code severity arg).e384 = s.e384 ∧
    (s.raise code severity arg).frame = s.frame ∧ (s.raise code severity arg).work = s.work ∧
    (s.raise code severity arg).tiles = s.tiles ∧ (s.raise code severity arg).mem = s.mem ∧
    (s.raise code severity arg).dram = s.dram ∧ (s.raise code severity arg).cache = s.cache ∧
    (s.raise code severity arg).kma = s.kma ∧ (s.raise code severity arg).dict = s.dict ∧
    (s.raise code severity arg).mover = s.mover ∧ (s.raise code severity arg).digest = s.digest ∧
    (s.raise code severity arg).persist = s.persist ∧ (s.raise code severity arg).held = s.held ∧
    (s.raise code severity arg).mirror = s.mirror ∧ (s.raise code severity arg).health = s.health ∧
    (s.raise code severity arg).moth = s.moth ∧ (s.raise code severity arg).boot = s.boot ∧
    (s.raise code severity arg).window = s.window ∧ (s.raise code severity arg).bdp = s.bdp ∧
    (s.raise code severity arg).profiles = s.profiles ∧ (s.raise code severity arg).pins = s.pins ∧
    (s.raise code severity arg).free = s.free := by
  rw [State.raise_eq]
  exact ⟨rfl, rfl, rfl, rfl, rfl, rfl, rfl, rfl, rfl, rfl, rfl, rfl, rfl, rfl, rfl, rfl, rfl, rfl, rfl, rfl, rfl, rfl, rfl⟩

theorem State.updChannel_eq (s : State) (c : Nat) (f : Channel → Channel) :
    (s.updChannel c f) = { s with dram := (s.updChannel c f).dram } := by
  unfold State.updChannel
  repeat' split
  all_goals rfl

@[simp] theorem State.updChannel_frame (s : State) (c : Nat) (f : Channel → Channel) :
    (s.updChannel c f).pending = s.pending ∧ (s.updChannel c f).e384 = s.e384 ∧ (s.updChannel c f).frame = s.frame ∧
    (s.updChannel c f).work = s.work ∧ (s.updChannel c f).tiles = s.tiles ∧ (s.updChannel c f).mem = s.mem ∧
    (s.updChannel c f).cache = s.cache ∧ (s.updChannel c f).kma = s.kma ∧ (s.updChannel c f).dict = s.dict ∧
    (s.updChannel c f).host = s.host ∧ (s.updChannel c f).mover = s.mover ∧ (s.updChannel c f).events = s.events ∧
    (s.updChannel c f).digest = s.digest ∧ (s.updChannel c f).persist = s.persist ∧ (s.updChannel c f).held = s.held ∧
    (s.updChannel c f).mirror = s.mirror ∧ (s.updChannel c f).health = s.health ∧ (s.updChannel c f).moth = s.moth ∧
    (s.updChannel c f).boot = s.boot ∧ (s.updChannel c f).window = s.window ∧ (s.updChannel c f).bdp = s.bdp ∧
    (s.updChannel c f).profiles = s.profiles ∧ (s.updChannel c f).pins = s.pins ∧ (s.updChannel c f).free = s.free := by
  rw [State.updChannel_eq]
  exact ⟨rfl, rfl, rfl, rfl, rfl, rfl, rfl, rfl, rfl, rfl, rfl, rfl, rfl, rfl, rfl, rfl, rfl, rfl, rfl, rfl, rfl, rfl, rfl, rfl⟩

theorem State.queueWrite_eq (s : State) (ma : Nat) :
    s.queueWrite ma = { s with dram := (s.queueWrite ma).dram } := by
  rw [State.queueWrite, State.updChannel_eq]

@[simp] theorem State.queueWrite_frame (s : State) (ma : Nat) :
    (s.queueWrite ma).pending = s.pending ∧ (s.queueWrite ma).e384 = s.e384 ∧ (s.queueWrite ma).frame = s.frame ∧
    (s.queueWrite ma).work = s.work ∧ (s.queueWrite ma).tiles = s.tiles ∧ (s.queueWrite ma).mem = s.mem ∧
    (s.queueWrite ma).cache = s.cache ∧ (s.queueWrite ma).kma = s.kma ∧ (s.queueWrite ma).dict = s.dict ∧
    (s.queueWrite ma).host = s.host ∧ (s.queueWrite ma).mover = s.mover ∧ (s.queueWrite ma).events = s.events ∧
    (s.queueWrite ma).digest = s.digest ∧ (s.queueWrite ma).persist = s.persist ∧ (s.queueWrite ma).held = s.held ∧
    (s.queueWrite ma).mirror = s.mirror ∧ (s.queueWrite ma).health = s.health ∧ (s.queueWrite ma).moth = s.moth ∧
    (s.queueWrite ma).boot = s.boot ∧ (s.queueWrite ma).window = s.window ∧ (s.queueWrite ma).bdp = s.bdp ∧
    (s.queueWrite ma).profiles = s.profiles ∧ (s.queueWrite ma).pins = s.pins ∧ (s.queueWrite ma).free = s.free := by
  rw [State.queueWrite_eq]
  exact ⟨rfl, rfl, rfl, rfl, rfl, rfl, rfl, rfl, rfl, rfl, rfl, rfl, rfl, rfl, rfl, rfl, rfl, rfl, rfl, rfl, rfl, rfl, rfl, rfl⟩

theorem State.queueWrites_eq (l : List Nat) : ∀ s : State, l.foldl State.queueWrite s = { s with dram := (l.foldl State.queueWrite s).dram } := by
  induction l with
  | nil => intro s; rfl
  | cons x r ih => intro s; rw [List.foldl_cons, ih, State.queueWrite_eq]

theorem State.bufferLeave_eq (s : State) (slice n : Nat) :
    s.bufferLeave slice n = { s with dram := (s.bufferLeave slice n).dram, cache := (s.bufferLeave slice n).cache } := by
  unfold State.bufferLeave
  dsimp only
  rw [State.queueWrites_eq]
  split <;> rfl

@[simp] theorem State.bufferLeave_frame (s : State) (slice n : Nat) :
    (s.bufferLeave slice n).pending = s.pending ∧ (s.bufferLeave slice n).e384 = s.e384 ∧ (s.bufferLeave slice n).frame = s.frame ∧
    (s.bufferLeave slice n).work = s.work ∧ (s.bufferLeave slice n).tiles = s.tiles ∧ (s.bufferLeave slice n).mem = s.mem ∧
    (s.bufferLeave slice n).kma = s.kma ∧ (s.bufferLeave slice n).dict = s.dict ∧ (s.bufferLeave slice n).host = s.host ∧
    (s.bufferLeave slice n).mover = s.mover ∧ (s.bufferLeave slice n).events = s.events ∧
    (s.bufferLeave slice n).digest = s.digest ∧ (s.bufferLeave slice n).persist = s.persist ∧
    (s.bufferLeave slice n).held = s.held ∧ (s.bufferLeave slice n).mirror = s.mirror ∧ (s.bufferLeave slice n).health = s.health ∧
    (s.bufferLeave slice n).moth = s.moth ∧ (s.bufferLeave slice n).boot = s.boot ∧ (s.bufferLeave slice n).window = s.window ∧
    (s.bufferLeave slice n).bdp = s.bdp ∧ (s.bufferLeave slice n).profiles = s.profiles ∧ (s.bufferLeave slice n).pins = s.pins ∧
    (s.bufferLeave slice n).free = s.free := by
  rw [State.bufferLeave_eq]
  exact ⟨rfl, rfl, rfl, rfl, rfl, rfl, rfl, rfl, rfl, rfl, rfl, rfl, rfl, rfl, rfl, rfl, rfl, rfl, rfl, rfl, rfl, rfl, rfl⟩

theorem State.dramWrite_eq (s : State) (ma : Nat) :
    s.dramWrite ma = { s with dram := (s.dramWrite ma).dram, cache := (s.dramWrite ma).cache } := by
  unfold State.dramWrite
  split
  · rw [State.queueWrite_eq]
  · dsimp only
    split
    · rw [State.bufferLeave_eq]
    · rfl

@[simp] theorem State.dramWrite_frame (s : State) (ma : Nat) :
    (s.dramWrite ma).pending = s.pending ∧ (s.dramWrite ma).e384 = s.e384 ∧ (s.dramWrite ma).frame = s.frame ∧
    (s.dramWrite ma).work = s.work ∧ (s.dramWrite ma).tiles = s.tiles ∧ (s.dramWrite ma).mem = s.mem ∧
    (s.dramWrite ma).kma = s.kma ∧ (s.dramWrite ma).dict = s.dict ∧ (s.dramWrite ma).host = s.host ∧
    (s.dramWrite ma).mover = s.mover ∧ (s.dramWrite ma).events = s.events ∧ (s.dramWrite ma).digest = s.digest ∧
    (s.dramWrite ma).persist = s.persist ∧ (s.dramWrite ma).held = s.held ∧ (s.dramWrite ma).mirror = s.mirror ∧
    (s.dramWrite ma).health = s.health ∧ (s.dramWrite ma).moth = s.moth ∧ (s.dramWrite ma).boot = s.boot ∧
    (s.dramWrite ma).window = s.window ∧ (s.dramWrite ma).bdp = s.bdp ∧ (s.dramWrite ma).profiles = s.profiles ∧
    (s.dramWrite ma).pins = s.pins ∧ (s.dramWrite ma).free = s.free := by
  rw [State.dramWrite_eq]
  exact ⟨rfl, rfl, rfl, rfl, rfl, rfl, rfl, rfl, rfl, rfl, rfl, rfl, rfl, rfl, rfl, rfl, rfl, rfl, rfl, rfl, rfl, rfl, rfl⟩

theorem State.bufferMatch_eq (s : State) (ma : Nat) :
    s.bufferMatch ma = { s with dram := (s.bufferMatch ma).dram, cache := (s.bufferMatch ma).cache } := by
  unfold State.bufferMatch
  split
  · rfl
  · dsimp only
    split
    · rw [State.bufferLeave_eq]
    · rfl

@[simp] theorem State.bufferMatch_frame (s : State) (ma : Nat) :
    (s.bufferMatch ma).pending = s.pending ∧ (s.bufferMatch ma).e384 = s.e384 ∧ (s.bufferMatch ma).frame = s.frame ∧
    (s.bufferMatch ma).work = s.work ∧ (s.bufferMatch ma).tiles = s.tiles ∧ (s.bufferMatch ma).mem = s.mem ∧
    (s.bufferMatch ma).kma = s.kma ∧ (s.bufferMatch ma).dict = s.dict ∧ (s.bufferMatch ma).host = s.host ∧
    (s.bufferMatch ma).mover = s.mover ∧ (s.bufferMatch ma).events = s.events ∧ (s.bufferMatch ma).digest = s.digest ∧
    (s.bufferMatch ma).persist = s.persist ∧ (s.bufferMatch ma).held = s.held ∧ (s.bufferMatch ma).mirror = s.mirror ∧
    (s.bufferMatch ma).health = s.health ∧ (s.bufferMatch ma).moth = s.moth ∧ (s.bufferMatch ma).boot = s.boot ∧
    (s.bufferMatch ma).window = s.window ∧ (s.bufferMatch ma).bdp = s.bdp ∧ (s.bufferMatch ma).profiles = s.profiles ∧
    (s.bufferMatch ma).pins = s.pins ∧ (s.bufferMatch ma).free = s.free := by
  rw [State.bufferMatch_eq]
  exact ⟨rfl, rfl, rfl, rfl, rfl, rfl, rfl, rfl, rfl, rfl, rfl, rfl, rfl, rfl, rfl, rfl, rfl, rfl, rfl, rfl, rfl, rfl, rfl⟩

theorem State.dramRead_eq (s : State) (ma : Nat) :
    s.dramRead ma = { s with dram := (s.dramRead ma).dram, cache := (s.dramRead ma).cache } := by
  have h := State.bufferMatch_eq s ma
  unfold State.dramRead
  dsimp only
  generalize s.bufferMatch ma = u at h ⊢
  have key : ∀ v : State, v = { u with dram := v.dram } → v = { s with dram := v.dram, cache := v.cache } := by
    intro v hv
    rw [hv, h]
  split
  · split
    · exact key _ (by rw [State.updChannel_eq])
    · exact key _ (by rw [State.updChannel_eq])
  · exact h

@[simp] theorem State.dramRead_frame (s : State) (ma : Nat) :
    (s.dramRead ma).pending = s.pending ∧ (s.dramRead ma).e384 = s.e384 ∧ (s.dramRead ma).frame = s.frame ∧
    (s.dramRead ma).work = s.work ∧ (s.dramRead ma).tiles = s.tiles ∧ (s.dramRead ma).mem = s.mem ∧ (s.dramRead ma).kma = s.kma ∧
    (s.dramRead ma).dict = s.dict ∧ (s.dramRead ma).host = s.host ∧ (s.dramRead ma).mover = s.mover ∧
    (s.dramRead ma).events = s.events ∧ (s.dramRead ma).digest = s.digest ∧ (s.dramRead ma).persist = s.persist ∧
    (s.dramRead ma).held = s.held ∧ (s.dramRead ma).mirror = s.mirror ∧ (s.dramRead ma).health = s.health ∧
    (s.dramRead ma).moth = s.moth ∧ (s.dramRead ma).boot = s.boot ∧ (s.dramRead ma).window = s.window ∧
    (s.dramRead ma).bdp = s.bdp ∧ (s.dramRead ma).profiles = s.profiles ∧ (s.dramRead ma).pins = s.pins ∧
    (s.dramRead ma).free = s.free := by
  rw [State.dramRead_eq]
  exact ⟨rfl, rfl, rfl, rfl, rfl, rfl, rfl, rfl, rfl, rfl, rfl, rfl, rfl, rfl, rfl, rfl, rfl, rfl, rfl, rfl, rfl, rfl, rfl⟩

theorem State.channelFault_eq (s : State) (c event burst ma : Nat) :
    s.channelFault c event burst ma = { s with host := (s.channelFault c event burst ma).host, events := (s.channelFault c event burst ma).events } := by
  rw [State.channelFault, State.raiseAt_eq]

@[simp] theorem State.channelFault_frame (s : State) (c event burst ma : Nat) :
    (s.channelFault c event burst ma).pending = s.pending ∧ (s.channelFault c event burst ma).e384 = s.e384 ∧
    (s.channelFault c event burst ma).frame = s.frame ∧ (s.channelFault c event burst ma).work = s.work ∧
    (s.channelFault c event burst ma).tiles = s.tiles ∧ (s.channelFault c event burst ma).mem = s.mem ∧
    (s.channelFault c event burst ma).dram = s.dram ∧ (s.channelFault c event burst ma).cache = s.cache ∧
    (s.channelFault c event burst ma).kma = s.kma ∧ (s.channelFault c event burst ma).dict = s.dict ∧
    (s.channelFault c event burst ma).mover = s.mover ∧ (s.channelFault c event burst ma).digest = s.digest ∧
    (s.channelFault c event burst ma).persist = s.persist ∧ (s.channelFault c event burst ma).held = s.held ∧
    (s.channelFault c event burst ma).mirror = s.mirror ∧ (s.channelFault c event burst ma).health = s.health ∧
    (s.channelFault c event burst ma).moth = s.moth ∧ (s.channelFault c event burst ma).boot = s.boot ∧
    (s.channelFault c event burst ma).window = s.window ∧ (s.channelFault c event burst ma).bdp = s.bdp ∧
    (s.channelFault c event burst ma).profiles = s.profiles ∧ (s.channelFault c event burst ma).pins = s.pins ∧
    (s.channelFault c event burst ma).free = s.free := by
  rw [State.channelFault_eq]
  exact ⟨rfl, rfl, rfl, rfl, rfl, rfl, rfl, rfl, rfl, rfl, rfl, rfl, rfl, rfl, rfl, rfl, rfl, rfl, rfl, rfl, rfl, rfl, rfl⟩

theorem State.cacheFault_eq (s : State) (x : CacheError) :
    s.cacheFault x = { s with host := (s.cacheFault x).host, events := (s.cacheFault x).events } := by
  unfold State.cacheFault
  dsimp only
  rw [State.raiseAt_eq]

@[simp] theorem State.cacheFault_frame (s : State) (x : CacheError) :
    (s.cacheFault x).pending = s.pending ∧ (s.cacheFault x).e384 = s.e384 ∧ (s.cacheFault x).frame = s.frame ∧
    (s.cacheFault x).work = s.work ∧ (s.cacheFault x).tiles = s.tiles ∧ (s.cacheFault x).mem = s.mem ∧
    (s.cacheFault x).dram = s.dram ∧ (s.cacheFault x).cache = s.cache ∧ (s.cacheFault x).kma = s.kma ∧
    (s.cacheFault x).dict = s.dict ∧ (s.cacheFault x).mover = s.mover ∧ (s.cacheFault x).digest = s.digest ∧
    (s.cacheFault x).persist = s.persist ∧ (s.cacheFault x).held = s.held ∧ (s.cacheFault x).mirror = s.mirror ∧
    (s.cacheFault x).health = s.health ∧ (s.cacheFault x).moth = s.moth ∧ (s.cacheFault x).boot = s.boot ∧
    (s.cacheFault x).window = s.window ∧ (s.cacheFault x).bdp = s.bdp ∧ (s.cacheFault x).profiles = s.profiles ∧
    (s.cacheFault x).pins = s.pins ∧ (s.cacheFault x).free = s.free := by
  rw [State.cacheFault_eq]
  exact ⟨rfl, rfl, rfl, rfl, rfl, rfl, rfl, rfl, rfl, rfl, rfl, rfl, rfl, rfl, rfl, rfl, rfl, rfl, rfl, rfl, rfl, rfl, rfl⟩

theorem State.cacheDrop_eq (s : State) (ma : Nat) :
    s.cacheDrop ma = { s with cache := (s.cacheDrop ma).cache } := by
  rfl

@[simp] theorem State.cacheDrop_frame (s : State) (ma : Nat) :
    (s.cacheDrop ma).pending = s.pending ∧ (s.cacheDrop ma).e384 = s.e384 ∧ (s.cacheDrop ma).frame = s.frame ∧
    (s.cacheDrop ma).work = s.work ∧ (s.cacheDrop ma).tiles = s.tiles ∧ (s.cacheDrop ma).mem = s.mem ∧
    (s.cacheDrop ma).dram = s.dram ∧ (s.cacheDrop ma).kma = s.kma ∧ (s.cacheDrop ma).dict = s.dict ∧
    (s.cacheDrop ma).host = s.host ∧ (s.cacheDrop ma).mover = s.mover ∧ (s.cacheDrop ma).events = s.events ∧
    (s.cacheDrop ma).digest = s.digest ∧ (s.cacheDrop ma).persist = s.persist ∧ (s.cacheDrop ma).held = s.held ∧
    (s.cacheDrop ma).mirror = s.mirror ∧ (s.cacheDrop ma).health = s.health ∧ (s.cacheDrop ma).moth = s.moth ∧
    (s.cacheDrop ma).boot = s.boot ∧ (s.cacheDrop ma).window = s.window ∧ (s.cacheDrop ma).bdp = s.bdp ∧
    (s.cacheDrop ma).profiles = s.profiles ∧ (s.cacheDrop ma).pins = s.pins ∧ (s.cacheDrop ma).free = s.free := by
  rw [State.cacheDrop_eq]
  exact ⟨rfl, rfl, rfl, rfl, rfl, rfl, rfl, rfl, rfl, rfl, rfl, rfl, rfl, rfl, rfl, rfl, rfl, rfl, rfl, rfl, rfl, rfl, rfl, rfl⟩

theorem State.meetCacheError_eq (s : State) (x : CacheError) :
    s.meetCacheError x = { s with cache := (s.meetCacheError x).cache, host := (s.meetCacheError x).host, events := (s.meetCacheError x).events, health := (s.meetCacheError x).health } := by
  unfold State.meetCacheError
  dsimp only
  split
  · rw [State.cacheFault_eq]
  · rw [State.cacheDrop_eq, State.cacheFault_eq]

@[simp] theorem State.meetCacheError_frame (s : State) (x : CacheError) :
    (s.meetCacheError x).pending = s.pending ∧ (s.meetCacheError x).e384 = s.e384 ∧ (s.meetCacheError x).frame = s.frame ∧
    (s.meetCacheError x).work = s.work ∧ (s.meetCacheError x).tiles = s.tiles ∧ (s.meetCacheError x).mem = s.mem ∧
    (s.meetCacheError x).dram = s.dram ∧ (s.meetCacheError x).kma = s.kma ∧ (s.meetCacheError x).dict = s.dict ∧
    (s.meetCacheError x).mover = s.mover ∧ (s.meetCacheError x).digest = s.digest ∧ (s.meetCacheError x).persist = s.persist ∧
    (s.meetCacheError x).held = s.held ∧ (s.meetCacheError x).mirror = s.mirror ∧
    (s.meetCacheError x).moth = s.moth ∧ (s.meetCacheError x).boot = s.boot ∧ (s.meetCacheError x).window = s.window ∧
    (s.meetCacheError x).bdp = s.bdp ∧ (s.meetCacheError x).profiles = s.profiles ∧ (s.meetCacheError x).pins = s.pins ∧
    (s.meetCacheError x).free = s.free := by
  rw [State.meetCacheError_eq]
  exact ⟨rfl, rfl, rfl, rfl, rfl, rfl, rfl, rfl, rfl, rfl, rfl, rfl, rfl, rfl, rfl, rfl, rfl, rfl, rfl, rfl, rfl⟩

theorem State.meetAll_eq (l : List CacheError) : ∀ s : State, l.foldl State.meetCacheError s =
    { s with cache := (l.foldl State.meetCacheError s).cache, host := (l.foldl State.meetCacheError s).host,
             events := (l.foldl State.meetCacheError s).events, health := (l.foldl State.meetCacheError s).health } := by
  induction l with
  | nil => intro s; rfl
  | cons x r ih => intro s; rw [List.foldl_cons, ih, State.meetCacheError_eq]

theorem State.meetCacheErrors_eq (s : State) (ma : Nat) :
    s.meetCacheErrors ma = { s with cache := (s.meetCacheErrors ma).cache, host := (s.meetCacheErrors ma).host, events := (s.meetCacheErrors ma).events, health := (s.meetCacheErrors ma).health } := by
  unfold State.meetCacheErrors
  dsimp only
  split
  · rw [State.meetCacheError_eq, State.meetAll_eq]
  · rw [State.meetAll_eq]

@[simp] theorem State.meetCacheErrors_frame (s : State) (ma : Nat) :
    (s.meetCacheErrors ma).pending = s.pending ∧ (s.meetCacheErrors ma).e384 = s.e384 ∧ (s.meetCacheErrors ma).frame = s.frame ∧
    (s.meetCacheErrors ma).work = s.work ∧ (s.meetCacheErrors ma).tiles = s.tiles ∧ (s.meetCacheErrors ma).mem = s.mem ∧
    (s.meetCacheErrors ma).dram = s.dram ∧ (s.meetCacheErrors ma).kma = s.kma ∧ (s.meetCacheErrors ma).dict = s.dict ∧
    (s.meetCacheErrors ma).mover = s.mover ∧ (s.meetCacheErrors ma).digest = s.digest ∧ (s.meetCacheErrors ma).persist = s.persist ∧
    (s.meetCacheErrors ma).held = s.held ∧ (s.meetCacheErrors ma).mirror = s.mirror ∧
    (s.meetCacheErrors ma).moth = s.moth ∧ (s.meetCacheErrors ma).boot = s.boot ∧ (s.meetCacheErrors ma).window = s.window ∧
    (s.meetCacheErrors ma).bdp = s.bdp ∧ (s.meetCacheErrors ma).profiles = s.profiles ∧ (s.meetCacheErrors ma).pins = s.pins ∧
    (s.meetCacheErrors ma).free = s.free := by
  rw [State.meetCacheErrors_eq]
  exact ⟨rfl, rfl, rfl, rfl, rfl, rfl, rfl, rfl, rfl, rfl, rfl, rfl, rfl, rfl, rfl, rfl, rfl, rfl, rfl, rfl, rfl⟩

theorem State.cacheFill_eq (s : State) (ma who : Nat) (recalled : Bool) :
    s.cacheFill ma who recalled = { s with cache := (s.cacheFill ma who recalled).cache } := by
  rfl

@[simp] theorem State.cacheFill_frame (s : State) (ma who : Nat) (recalled : Bool) :
    (s.cacheFill ma who recalled).pending = s.pending ∧ (s.cacheFill ma who recalled).e384 = s.e384 ∧
    (s.cacheFill ma who recalled).frame = s.frame ∧ (s.cacheFill ma who recalled).work = s.work ∧
    (s.cacheFill ma who recalled).tiles = s.tiles ∧ (s.cacheFill ma who recalled).mem = s.mem ∧
    (s.cacheFill ma who recalled).dram = s.dram ∧ (s.cacheFill ma who recalled).kma = s.kma ∧
    (s.cacheFill ma who recalled).dict = s.dict ∧ (s.cacheFill ma who recalled).host = s.host ∧
    (s.cacheFill ma who recalled).mover = s.mover ∧ (s.cacheFill ma who recalled).events = s.events ∧
    (s.cacheFill ma who recalled).digest = s.digest ∧ (s.cacheFill ma who recalled).persist = s.persist ∧
    (s.cacheFill ma who recalled).held = s.held ∧ (s.cacheFill ma who recalled).mirror = s.mirror ∧
    (s.cacheFill ma who recalled).health = s.health ∧ (s.cacheFill ma who recalled).moth = s.moth ∧
    (s.cacheFill ma who recalled).boot = s.boot ∧ (s.cacheFill ma who recalled).window = s.window ∧
    (s.cacheFill ma who recalled).bdp = s.bdp ∧ (s.cacheFill ma who recalled).profiles = s.profiles ∧
    (s.cacheFill ma who recalled).pins = s.pins ∧ (s.cacheFill ma who recalled).free = s.free := by
  rw [State.cacheFill_eq]
  exact ⟨rfl, rfl, rfl, rfl, rfl, rfl, rfl, rfl, rfl, rfl, rfl, rfl, rfl, rfl, rfl, rfl, rfl, rfl, rfl, rfl, rfl, rfl, rfl, rfl⟩

theorem State.cacheLookup_eq (s : State) (ma who : Nat) (mayFill : Bool) :
    (s.cacheLookup ma who mayFill).1 = { s with cache := ((s.cacheLookup ma who mayFill).1).cache, host := ((s.cacheLookup ma who mayFill).1).host, events := ((s.cacheLookup ma who mayFill).1).events, health := ((s.cacheLookup ma who mayFill).1).health } := by
  have h := State.meetCacheErrors_eq s ma
  unfold State.cacheLookup
  split
  · rfl
  · dsimp only
    generalize s.meetCacheErrors ma = u at h ⊢
    split
    · rw [h]
    · split
      · dsimp only
        split
        · rw [State.cacheFill_eq, h]
        · rw [h]
      · rw [h]

@[simp] theorem State.cacheLookup_frame (s : State) (ma who : Nat) (mayFill : Bool) :
    (s.cacheLookup ma who mayFill).1.pending = s.pending ∧ (s.cacheLookup ma who mayFill).1.e384 = s.e384 ∧
    (s.cacheLookup ma who mayFill).1.frame = s.frame ∧ (s.cacheLookup ma who mayFill).1.work = s.work ∧
    (s.cacheLookup ma who mayFill).1.tiles = s.tiles ∧ (s.cacheLookup ma who mayFill).1.mem = s.mem ∧
    (s.cacheLookup ma who mayFill).1.dram = s.dram ∧ (s.cacheLookup ma who mayFill).1.kma = s.kma ∧
    (s.cacheLookup ma who mayFill).1.dict = s.dict ∧ (s.cacheLookup ma who mayFill).1.mover = s.mover ∧
    (s.cacheLookup ma who mayFill).1.digest = s.digest ∧ (s.cacheLookup ma who mayFill).1.persist = s.persist ∧
    (s.cacheLookup ma who mayFill).1.held = s.held ∧ (s.cacheLookup ma who mayFill).1.mirror = s.mirror ∧ (s.cacheLookup ma who mayFill).1.moth = s.moth ∧
    (s.cacheLookup ma who mayFill).1.boot = s.boot ∧ (s.cacheLookup ma who mayFill).1.window = s.window ∧
    (s.cacheLookup ma who mayFill).1.bdp = s.bdp ∧ (s.cacheLookup ma who mayFill).1.profiles = s.profiles ∧
    (s.cacheLookup ma who mayFill).1.pins = s.pins ∧ (s.cacheLookup ma who mayFill).1.free = s.free := by
  rw [State.cacheLookup_eq]
  exact ⟨rfl, rfl, rfl, rfl, rfl, rfl, rfl, rfl, rfl, rfl, rfl, rfl, rfl, rfl, rfl, rfl, rfl, rfl, rfl, rfl, rfl⟩

theorem State.writeCheck_eq (s : State) (l : Nat) :
    s.writeCheck l = { s with dram := (s.writeCheck l).dram } := by
  rfl

@[simp] theorem State.writeCheck_frame (s : State) (l : Nat) :
    (s.writeCheck l).pending = s.pending ∧ (s.writeCheck l).e384 = s.e384 ∧ (s.writeCheck l).frame = s.frame ∧
    (s.writeCheck l).work = s.work ∧ (s.writeCheck l).tiles = s.tiles ∧ (s.writeCheck l).mem = s.mem ∧
    (s.writeCheck l).cache = s.cache ∧ (s.writeCheck l).kma = s.kma ∧ (s.writeCheck l).dict = s.dict ∧
    (s.writeCheck l).host = s.host ∧ (s.writeCheck l).mover = s.mover ∧ (s.writeCheck l).events = s.events ∧
    (s.writeCheck l).digest = s.digest ∧ (s.writeCheck l).persist = s.persist ∧ (s.writeCheck l).held = s.held ∧
    (s.writeCheck l).mirror = s.mirror ∧ (s.writeCheck l).health = s.health ∧ (s.writeCheck l).moth = s.moth ∧
    (s.writeCheck l).boot = s.boot ∧ (s.writeCheck l).window = s.window ∧ (s.writeCheck l).bdp = s.bdp ∧
    (s.writeCheck l).profiles = s.profiles ∧ (s.writeCheck l).pins = s.pins ∧ (s.writeCheck l).free = s.free := by
  rw [State.writeCheck_eq]
  exact ⟨rfl, rfl, rfl, rfl, rfl, rfl, rfl, rfl, rfl, rfl, rfl, rfl, rfl, rfl, rfl, rfl, rfl, rfl, rfl, rfl, rfl, rfl, rfl, rfl⟩

theorem State.cleanUnit_eq (s : State) (l : Nat) :
    s.cleanUnit l = { s with dram := (s.cleanUnit l).dram } := by
  rfl

@[simp] theorem State.cleanUnit_frame (s : State) (l : Nat) :
    (s.cleanUnit l).pending = s.pending ∧ (s.cleanUnit l).e384 = s.e384 ∧ (s.cleanUnit l).frame = s.frame ∧
    (s.cleanUnit l).work = s.work ∧ (s.cleanUnit l).tiles = s.tiles ∧ (s.cleanUnit l).mem = s.mem ∧
    (s.cleanUnit l).cache = s.cache ∧ (s.cleanUnit l).kma = s.kma ∧ (s.cleanUnit l).dict = s.dict ∧ (s.cleanUnit l).host = s.host ∧
    (s.cleanUnit l).mover = s.mover ∧ (s.cleanUnit l).events = s.events ∧ (s.cleanUnit l).digest = s.digest ∧
    (s.cleanUnit l).persist = s.persist ∧ (s.cleanUnit l).held = s.held ∧ (s.cleanUnit l).mirror = s.mirror ∧
    (s.cleanUnit l).health = s.health ∧ (s.cleanUnit l).moth = s.moth ∧ (s.cleanUnit l).boot = s.boot ∧
    (s.cleanUnit l).window = s.window ∧ (s.cleanUnit l).bdp = s.bdp ∧ (s.cleanUnit l).profiles = s.profiles ∧
    (s.cleanUnit l).pins = s.pins ∧ (s.cleanUnit l).free = s.free := by
  rw [State.cleanUnit_eq]
  exact ⟨rfl, rfl, rfl, rfl, rfl, rfl, rfl, rfl, rfl, rfl, rfl, rfl, rfl, rfl, rfl, rfl, rfl, rfl, rfl, rfl, rfl, rfl, rfl, rfl⟩

theorem State.alterBurst_eq (s : State) (ma : Nat) :
    s.alterBurst ma = { s with mem := (s.alterBurst ma).mem, free := (s.alterBurst ma).free } := by
  rfl

@[simp] theorem State.alterBurst_frame (s : State) (ma : Nat) :
    (s.alterBurst ma).pending = s.pending ∧ (s.alterBurst ma).e384 = s.e384 ∧ (s.alterBurst ma).frame = s.frame ∧
    (s.alterBurst ma).work = s.work ∧ (s.alterBurst ma).tiles = s.tiles ∧ (s.alterBurst ma).dram = s.dram ∧
    (s.alterBurst ma).cache = s.cache ∧ (s.alterBurst ma).kma = s.kma ∧ (s.alterBurst ma).dict = s.dict ∧
    (s.alterBurst ma).host = s.host ∧ (s.alterBurst ma).mover = s.mover ∧ (s.alterBurst ma).events = s.events ∧
    (s.alterBurst ma).digest = s.digest ∧ (s.alterBurst ma).persist = s.persist ∧ (s.alterBurst ma).held = s.held ∧
    (s.alterBurst ma).mirror = s.mirror ∧ (s.alterBurst ma).health = s.health ∧ (s.alterBurst ma).moth = s.moth ∧
    (s.alterBurst ma).boot = s.boot ∧ (s.alterBurst ma).window = s.window ∧ (s.alterBurst ma).bdp = s.bdp ∧
    (s.alterBurst ma).profiles = s.profiles ∧ (s.alterBurst ma).pins = s.pins := by
  rw [State.alterBurst_eq]
  exact ⟨rfl, rfl, rfl, rfl, rfl, rfl, rfl, rfl, rfl, rfl, rfl, rfl, rfl, rfl, rfl, rfl, rfl, rfl, rfl, rfl, rfl, rfl, rfl⟩

theorem State.alterAll_eq (ma : Nat) (l : List (BurstCheck × Nat)) : ∀ s : State,
    l.foldl (fun (s : State) p => s.alterBurst (ma + 64 * p.2)) s =
      { s with mem := (l.foldl (fun (s : State) p => s.alterBurst (ma + 64 * p.2)) s).mem,
               free := (l.foldl (fun (s : State) p => s.alterBurst (ma + 64 * p.2)) s).free } := by
  induction l with
  | nil => intro s; rfl
  | cons x r ih => intro s; rw [List.foldl_cons, ih, State.alterBurst_eq]

theorem State.alterBursts_eq (s : State) (ma : Nat) (l : List (BurstCheck × Nat)) :
    s.alterBursts ma l = { s with mem := (s.alterBursts ma l).mem, free := (s.alterBursts ma l).free } := by
  rw [State.alterBursts, State.alterAll_eq]

@[simp] theorem State.alterBursts_frame (s : State) (ma : Nat) (l : List (BurstCheck × Nat)) :
    (s.alterBursts ma l).pending = s.pending ∧ (s.alterBursts ma l).e384 = s.e384 ∧ (s.alterBursts ma l).frame = s.frame ∧
    (s.alterBursts ma l).work = s.work ∧ (s.alterBursts ma l).tiles = s.tiles ∧ (s.alterBursts ma l).dram = s.dram ∧
    (s.alterBursts ma l).cache = s.cache ∧ (s.alterBursts ma l).kma = s.kma ∧ (s.alterBursts ma l).dict = s.dict ∧
    (s.alterBursts ma l).host = s.host ∧ (s.alterBursts ma l).mover = s.mover ∧ (s.alterBursts ma l).events = s.events ∧
    (s.alterBursts ma l).digest = s.digest ∧ (s.alterBursts ma l).persist = s.persist ∧ (s.alterBursts ma l).held = s.held ∧
    (s.alterBursts ma l).mirror = s.mirror ∧ (s.alterBursts ma l).health = s.health ∧ (s.alterBursts ma l).moth = s.moth ∧
    (s.alterBursts ma l).boot = s.boot ∧ (s.alterBursts ma l).window = s.window ∧ (s.alterBursts ma l).bdp = s.bdp ∧
    (s.alterBursts ma l).profiles = s.profiles ∧ (s.alterBursts ma l).pins = s.pins := by
  rw [State.alterBursts_eq]
  exact ⟨rfl, rfl, rfl, rfl, rfl, rfl, rfl, rfl, rfl, rfl, rfl, rfl, rfl, rfl, rfl, rfl, rfl, rfl, rfl, rfl, rfl, rfl, rfl⟩

theorem State.checkBurst_eq (s : State) (symbols : Nat) :
    (s.checkBurst symbols).2 = { s with free := ((s.checkBurst symbols).2).free } := by
  unfold State.checkBurst
  split <;> rfl

@[simp] theorem State.checkBurst_frame (s : State) (symbols : Nat) :
    (s.checkBurst symbols).2.pending = s.pending ∧ (s.checkBurst symbols).2.e384 = s.e384 ∧
    (s.checkBurst symbols).2.frame = s.frame ∧ (s.checkBurst symbols).2.work = s.work ∧ (s.checkBurst symbols).2.tiles = s.tiles ∧
    (s.checkBurst symbols).2.mem = s.mem ∧ (s.checkBurst symbols).2.dram = s.dram ∧ (s.checkBurst symbols).2.cache = s.cache ∧
    (s.checkBurst symbols).2.kma = s.kma ∧ (s.checkBurst symbols).2.dict = s.dict ∧ (s.checkBurst symbols).2.host = s.host ∧
    (s.checkBurst symbols).2.mover = s.mover ∧ (s.checkBurst symbols).2.events = s.events ∧
    (s.checkBurst symbols).2.digest = s.digest ∧ (s.checkBurst symbols).2.persist = s.persist ∧
    (s.checkBurst symbols).2.held = s.held ∧ (s.checkBurst symbols).2.mirror = s.mirror ∧
    (s.checkBurst symbols).2.health = s.health ∧ (s.checkBurst symbols).2.moth = s.moth ∧ (s.checkBurst symbols).2.boot = s.boot ∧
    (s.checkBurst symbols).2.window = s.window ∧ (s.checkBurst symbols).2.bdp = s.bdp ∧
    (s.checkBurst symbols).2.profiles = s.profiles ∧ (s.checkBurst symbols).2.pins = s.pins := by
  rw [State.checkBurst_eq]
  exact ⟨rfl, rfl, rfl, rfl, rfl, rfl, rfl, rfl, rfl, rfl, rfl, rfl, rfl, rfl, rfl, rfl, rfl, rfl, rfl, rfl, rfl, rfl, rfl, rfl⟩

theorem State.checkAll_eq (l : Nat) (bs : List Nat) : ∀ r : List (BurstCheck × Nat) × State,
    (bs.foldl (fun (r : List (BurstCheck × Nat) × State) b =>
      let (o, s1) := r.2.checkBurst (lookupD r.2.dram.errors (l + 64 * b) 0)
      (r.1 ++ [(o, b)], s1)) r).2 =
    { r.2 with free := (bs.foldl (fun (r : List (BurstCheck × Nat) × State) b =>
      let (o, s1) := r.2.checkBurst (lookupD r.2.dram.errors (l + 64 * b) 0)
      (r.1 ++ [(o, b)], s1)) r).2.free } := by
  induction bs with
  | nil => intro r; rfl
  | cons x bs ih => intro r; rw [List.foldl_cons, ih]; dsimp only; rw [State.checkBurst_eq]

theorem State.checkBursts_eq (s : State) (l : Nat) :
    (s.checkBursts l).2 = { s with free := ((s.checkBursts l).2).free } := by
  exact State.checkAll_eq l _ ([], s)

@[simp] theorem State.checkBursts_frame (s : State) (l : Nat) :
    (s.checkBursts l).2.pending = s.pending ∧ (s.checkBursts l).2.e384 = s.e384 ∧ (s.checkBursts l).2.frame = s.frame ∧
    (s.checkBursts l).2.work = s.work ∧ (s.checkBursts l).2.tiles = s.tiles ∧ (s.checkBursts l).2.mem = s.mem ∧
    (s.checkBursts l).2.dram = s.dram ∧ (s.checkBursts l).2.cache = s.cache ∧ (s.checkBursts l).2.kma = s.kma ∧
    (s.checkBursts l).2.dict = s.dict ∧ (s.checkBursts l).2.host = s.host ∧ (s.checkBursts l).2.mover = s.mover ∧
    (s.checkBursts l).2.events = s.events ∧ (s.checkBursts l).2.digest = s.digest ∧ (s.checkBursts l).2.persist = s.persist ∧
    (s.checkBursts l).2.held = s.held ∧ (s.checkBursts l).2.mirror = s.mirror ∧ (s.checkBursts l).2.health = s.health ∧
    (s.checkBursts l).2.moth = s.moth ∧ (s.checkBursts l).2.boot = s.boot ∧ (s.checkBursts l).2.window = s.window ∧
    (s.checkBursts l).2.bdp = s.bdp ∧ (s.checkBursts l).2.profiles = s.profiles ∧ (s.checkBursts l).2.pins = s.pins := by
  rw [State.checkBursts_eq]
  exact ⟨rfl, rfl, rfl, rfl, rfl, rfl, rfl, rfl, rfl, rfl, rfl, rfl, rfl, rfl, rfl, rfl, rfl, rfl, rfl, rfl, rfl, rfl, rfl, rfl⟩

theorem State.correctUnit_eq (s : State) (ma event burst : Nat) :
    s.correctUnit ma event burst = { s with dram := (s.correctUnit ma event burst).dram, host := (s.correctUnit ma event burst).host, events := (s.correctUnit ma event burst).events, health := (s.correctUnit ma event burst).health } := by
  unfold State.correctUnit
  dsimp only
  rw [State.cleanUnit_eq, State.channelFault_eq]

@[simp] theorem State.correctUnit_frame (s : State) (ma event burst : Nat) :
    (s.correctUnit ma event burst).pending = s.pending ∧ (s.correctUnit ma event burst).e384 = s.e384 ∧
    (s.correctUnit ma event burst).frame = s.frame ∧ (s.correctUnit ma event burst).work = s.work ∧
    (s.correctUnit ma event burst).tiles = s.tiles ∧ (s.correctUnit ma event burst).mem = s.mem ∧
    (s.correctUnit ma event burst).cache = s.cache ∧ (s.correctUnit ma event burst).kma = s.kma ∧
    (s.correctUnit ma event burst).dict = s.dict ∧ (s.correctUnit ma event burst).mover = s.mover ∧
    (s.correctUnit ma event burst).digest = s.digest ∧ (s.correctUnit ma event burst).persist = s.persist ∧
    (s.correctUnit ma event burst).held = s.held ∧ (s.correctUnit ma event burst).mirror = s.mirror ∧
    (s.correctUnit ma event burst).moth = s.moth ∧ (s.correctUnit ma event burst).boot = s.boot ∧
    (s.correctUnit ma event burst).window = s.window ∧ (s.correctUnit ma event burst).bdp = s.bdp ∧
    (s.correctUnit ma event burst).profiles = s.profiles ∧ (s.correctUnit ma event burst).pins = s.pins ∧
    (s.correctUnit ma event burst).free = s.free := by
  rw [State.correctUnit_eq]
  exact ⟨rfl, rfl, rfl, rfl, rfl, rfl, rfl, rfl, rfl, rfl, rfl, rfl, rfl, rfl, rfl, rfl, rfl, rfl, rfl, rfl, rfl⟩

theorem State.poisonUnit_eq (s : State) (ma event burst : Nat) :
    s.poisonUnit ma event burst = { s with mem := (s.poisonUnit ma event burst).mem, dram := (s.poisonUnit ma event burst).dram, host := (s.poisonUnit ma event burst).host, events := (s.poisonUnit ma event burst).events } := by
  unfold State.poisonUnit
  dsimp only
  rw [State.channelFault_eq]
  split <;> rfl

@[simp] theorem State.poisonUnit_frame (s : State) (ma event burst : Nat) :
    (s.poisonUnit ma event burst).pending = s.pending ∧ (s.poisonUnit ma event burst).e384 = s.e384 ∧
    (s.poisonUnit ma event burst).frame = s.frame ∧ (s.poisonUnit ma event burst).work = s.work ∧
    (s.poisonUnit ma event burst).tiles = s.tiles ∧ (s.poisonUnit ma event burst).cache = s.cache ∧
    (s.poisonUnit ma event burst).kma = s.kma ∧ (s.poisonUnit ma event burst).dict = s.dict ∧
    (s.poisonUnit ma event burst).mover = s.mover ∧ (s.poisonUnit ma event burst).digest = s.digest ∧
    (s.poisonUnit ma event burst).persist = s.persist ∧ (s.poisonUnit ma event burst).held = s.held ∧
    (s.poisonUnit ma event burst).mirror = s.mirror ∧ (s.poisonUnit ma event burst).health = s.health ∧
    (s.poisonUnit ma event burst).moth = s.moth ∧ (s.poisonUnit ma event burst).boot = s.boot ∧
    (s.poisonUnit ma event burst).window = s.window ∧ (s.poisonUnit ma event burst).bdp = s.bdp ∧
    (s.poisonUnit ma event burst).profiles = s.profiles ∧ (s.poisonUnit ma event burst).pins = s.pins ∧
    (s.poisonUnit ma event burst).free = s.free := by
  rw [State.poisonUnit_eq]
  exact ⟨rfl, rfl, rfl, rfl, rfl, rfl, rfl, rfl, rfl, rfl, rfl, rfl, rfl, rfl, rfl, rfl, rfl, rfl, rfl, rfl, rfl⟩

theorem State.readUnit_eq (s : State) (l : Nat) (scrub : Bool) :
    (s.readUnit l scrub).1 = { s with mem := ((s.readUnit l scrub).1).mem, dram := ((s.readUnit l scrub).1).dram, host := ((s.readUnit l scrub).1).host, events := ((s.readUnit l scrub).1).events, health := ((s.readUnit l scrub).1).health, free := ((s.readUnit l scrub).1).free } := by
  have h := State.checkBursts_eq s l
  unfold State.readUnit
  split
  · dsimp only; rw [State.poisonUnit_eq]
  · split
    · rfl
    · dsimp only
      generalize s.checkBursts l = r at h ⊢
      obtain ⟨cs, u⟩ := r
      dsimp only at h ⊢
      split
      · rw [State.poisonUnit_eq, h]
      · split
        · rw [State.correctUnit_eq, State.alterBursts_eq, h]
        · rw [State.cleanUnit_eq, State.alterBursts_eq, h]

@[simp] theorem State.readUnit_frame (s : State) (l : Nat) (scrub : Bool) :
    (s.readUnit l scrub).1.pending = s.pending ∧ (s.readUnit l scrub).1.e384 = s.e384 ∧ (s.readUnit l scrub).1.frame = s.frame ∧
    (s.readUnit l scrub).1.work = s.work ∧ (s.readUnit l scrub).1.tiles = s.tiles ∧ (s.readUnit l scrub).1.cache = s.cache ∧
    (s.readUnit l scrub).1.kma = s.kma ∧ (s.readUnit l scrub).1.dict = s.dict ∧ (s.readUnit l scrub).1.mover = s.mover ∧
    (s.readUnit l scrub).1.digest = s.digest ∧ (s.readUnit l scrub).1.persist = s.persist ∧ (s.readUnit l scrub).1.held = s.held ∧
    (s.readUnit l scrub).1.mirror = s.mirror ∧ (s.readUnit l scrub).1.moth = s.moth ∧ (s.readUnit l scrub).1.boot = s.boot ∧
    (s.readUnit l scrub).1.window = s.window ∧ (s.readUnit l scrub).1.bdp = s.bdp ∧ (s.readUnit l scrub).1.profiles = s.profiles ∧
    (s.readUnit l scrub).1.pins = s.pins := by
  rw [State.readUnit_eq]
  exact ⟨rfl, rfl, rfl, rfl, rfl, rfl, rfl, rfl, rfl, rfl, rfl, rfl, rfl, rfl, rfl, rfl, rfl, rfl, rfl⟩

theorem State.readLine_eq (s : State) (ma who : Nat) (mayFill : Bool) :
    (s.readLine ma who mayFill).1 = { s with mem := ((s.readLine ma who mayFill).1).mem, dram := ((s.readLine ma who mayFill).1).dram, cache := ((s.readLine ma who mayFill).1).cache, host := ((s.readLine ma who mayFill).1).host, events := ((s.readLine ma who mayFill).1).events, health := ((s.readLine ma who mayFill).1).health, free := ((s.readLine ma who mayFill).1).free } := by
  have hc := State.cacheLookup_eq s (lineOf ma) who mayFill
  unfold State.readLine
  dsimp only
  generalize s.cacheLookup (lineOf ma) who mayFill = p at hc ⊢
  obtain ⟨s1, hit⟩ := p
  have hr := State.dramRead_eq s1 (lineOf ma)
  have hu := State.readUnit_eq (s1.dramRead (lineOf ma)) (lineOf ma) false
  dsimp only at hc ⊢
  generalize (s1.dramRead (lineOf ma)).readUnit (lineOf ma) false = q at hu ⊢
  obtain ⟨s2, ok⟩ := q
  dsimp only at hu ⊢
  have h2 : s2 = { s with mem := s2.mem, dram := s2.dram, cache := s2.cache, host := s2.host, events := s2.events, health := s2.health, free := s2.free } := by
    rw [hu, hr, hc]
  cases hit
  · simp only [Bool.false_eq_true, if_false]
    split
    · exact h2
    · dsimp only
      split <;> split <;> (try rw [State.cacheFill_eq]) <;> rw [h2]
  · simp only [if_true]
    rw [hc]

@[simp] theorem State.readLine_frame (s : State) (ma who : Nat) (mayFill : Bool) :
    (s.readLine ma who mayFill).1.pending = s.pending ∧ (s.readLine ma who mayFill).1.e384 = s.e384 ∧
    (s.readLine ma who mayFill).1.frame = s.frame ∧ (s.readLine ma who mayFill).1.work = s.work ∧
    (s.readLine ma who mayFill).1.tiles = s.tiles ∧ (s.readLine ma who mayFill).1.kma = s.kma ∧
    (s.readLine ma who mayFill).1.dict = s.dict ∧ (s.readLine ma who mayFill).1.mover = s.mover ∧
    (s.readLine ma who mayFill).1.digest = s.digest ∧ (s.readLine ma who mayFill).1.persist = s.persist ∧
    (s.readLine ma who mayFill).1.held = s.held ∧ (s.readLine ma who mayFill).1.mirror = s.mirror ∧
    (s.readLine ma who mayFill).1.moth = s.moth ∧ (s.readLine ma who mayFill).1.boot = s.boot ∧
    (s.readLine ma who mayFill).1.window = s.window ∧ (s.readLine ma who mayFill).1.bdp = s.bdp ∧
    (s.readLine ma who mayFill).1.profiles = s.profiles ∧ (s.readLine ma who mayFill).1.pins = s.pins := by
  rw [State.readLine_eq]
  exact ⟨rfl, rfl, rfl, rfl, rfl, rfl, rfl, rfl, rfl, rfl, rfl, rfl, rfl, rfl, rfl, rfl, rfl, rfl⟩

theorem State.writeLine_eq (s : State) (l : Nat) (whole : Bool) (ps : List (Nat × List Byte)) :
    (s.writeLine l whole ps).1 = { s with mem := ((s.writeLine l whole ps).1).mem, dram := ((s.writeLine l whole ps).1).dram, cache := ((s.writeLine l whole ps).1).cache, host := ((s.writeLine l whole ps).1).host, events := ((s.writeLine l whole ps).1).events, health := ((s.writeLine l whole ps).1).health, free := ((s.writeLine l whole ps).1).free, mirror := ((s.writeLine l whole ps).1).mirror } := by
  have hr := State.readUnit_eq { s with dram := { s.dram with partialWrites := s.dram.partialWrites + 1 } } l false
  unfold State.writeLine
  generalize State.readUnit { s with dram := { s.dram with partialWrites := s.dram.partialWrites + 1 } } l false = r at hr ⊢
  obtain ⟨u, ok⟩ := r
  dsimp only at hr ⊢
  cases whole
  · cases ok
    · simp only [Bool.false_eq_true, if_false, Bool.not_false, if_true]
      rw [State.cacheDrop_eq, hr]
    · simp only [Bool.false_eq_true, if_false, Bool.not_true]
      rw [State.markDirty, State.dramWrite_eq, State.cleanUnit_eq, hr]
  · simp only [if_true, Bool.not_true, Bool.false_eq_true, if_false]
    rw [State.markDirty, State.dramWrite_eq, State.cleanUnit_eq]

@[simp] theorem State.writeLine_frame (s : State) (l : Nat) (whole : Bool) (ps : List (Nat × List Byte)) :
    (s.writeLine l whole ps).1.pending = s.pending ∧ (s.writeLine l whole ps).1.e384 = s.e384 ∧
    (s.writeLine l whole ps).1.frame = s.frame ∧ (s.writeLine l whole ps).1.work = s.work ∧
    (s.writeLine l whole ps).1.tiles = s.tiles ∧ (s.writeLine l whole ps).1.kma = s.kma ∧ (s.writeLine l whole ps).1.dict = s.dict ∧
    (s.writeLine l whole ps).1.mover = s.mover ∧ (s.writeLine l whole ps).1.digest = s.digest ∧
    (s.writeLine l whole ps).1.persist = s.persist ∧ (s.writeLine l whole ps).1.held = s.held ∧
    (s.writeLine l whole ps).1.moth = s.moth ∧ (s.writeLine l whole ps).1.boot = s.boot ∧
    (s.writeLine l whole ps).1.window = s.window ∧ (s.writeLine l whole ps).1.bdp = s.bdp ∧
    (s.writeLine l whole ps).1.profiles = s.profiles ∧ (s.writeLine l whole ps).1.pins = s.pins := by
  rw [State.writeLine_eq]
  exact ⟨rfl, rfl, rfl, rfl, rfl, rfl, rfl, rfl, rfl, rfl, rfl, rfl, rfl, rfl, rfl, rfl, rfl⟩

theorem State.yieldTile_eq (s : State) (t : Fin 64) :
    (s.yieldTile t) = { s with tiles := (s.yieldTile t).tiles } := by
  unfold State.yieldTile
  repeat' split
  all_goals rfl

@[simp] theorem State.yieldTile_frame (s : State) (t : Fin 64) :
    (s.yieldTile t).pending = s.pending ∧ (s.yieldTile t).e384 = s.e384 ∧ (s.yieldTile t).frame = s.frame ∧
    (s.yieldTile t).work = s.work ∧ (s.yieldTile t).mem = s.mem ∧ (s.yieldTile t).dram = s.dram ∧
    (s.yieldTile t).cache = s.cache ∧ (s.yieldTile t).kma = s.kma ∧ (s.yieldTile t).dict = s.dict ∧
    (s.yieldTile t).host = s.host ∧ (s.yieldTile t).mover = s.mover ∧ (s.yieldTile t).events = s.events ∧
    (s.yieldTile t).digest = s.digest ∧ (s.yieldTile t).persist = s.persist ∧ (s.yieldTile t).held = s.held ∧
    (s.yieldTile t).mirror = s.mirror ∧ (s.yieldTile t).health = s.health ∧ (s.yieldTile t).moth = s.moth ∧
    (s.yieldTile t).boot = s.boot ∧ (s.yieldTile t).window = s.window ∧ (s.yieldTile t).bdp = s.bdp ∧
    (s.yieldTile t).profiles = s.profiles ∧ (s.yieldTile t).pins = s.pins ∧ (s.yieldTile t).free = s.free := by
  rw [State.yieldTile_eq]
  exact ⟨rfl, rfl, rfl, rfl, rfl, rfl, rfl, rfl, rfl, rfl, rfl, rfl, rfl, rfl, rfl, rfl, rfl, rfl, rfl, rfl, rfl, rfl, rfl, rfl⟩

theorem State.failEntry_eq (s : State) (slot : Nat) (f : Failure) :
    (s.failEntry slot f) = { s with work := (s.failEntry slot f).work } := by
  unfold State.failEntry
  repeat' split
  all_goals rfl

@[simp] theorem State.failEntry_frame (s : State) (slot : Nat) (f : Failure) :
    (s.failEntry slot f).pending = s.pending ∧ (s.failEntry slot f).e384 = s.e384 ∧ (s.failEntry slot f).frame = s.frame ∧
    (s.failEntry slot f).tiles = s.tiles ∧ (s.failEntry slot f).mem = s.mem ∧ (s.failEntry slot f).dram = s.dram ∧
    (s.failEntry slot f).cache = s.cache ∧ (s.failEntry slot f).kma = s.kma ∧ (s.failEntry slot f).dict = s.dict ∧
    (s.failEntry slot f).host = s.host ∧ (s.failEntry slot f).mover = s.mover ∧ (s.failEntry slot f).events = s.events ∧
    (s.failEntry slot f).digest = s.digest ∧ (s.failEntry slot f).persist = s.persist ∧ (s.failEntry slot f).held = s.held ∧
    (s.failEntry slot f).mirror = s.mirror ∧ (s.failEntry slot f).health = s.health ∧ (s.failEntry slot f).moth = s.moth ∧
    (s.failEntry slot f).boot = s.boot ∧ (s.failEntry slot f).window = s.window ∧ (s.failEntry slot f).bdp = s.bdp ∧
    (s.failEntry slot f).profiles = s.profiles ∧ (s.failEntry slot f).pins = s.pins ∧ (s.failEntry slot f).free = s.free := by
  rw [State.failEntry_eq]
  exact ⟨rfl, rfl, rfl, rfl, rfl, rfl, rfl, rfl, rfl, rfl, rfl, rfl, rfl, rfl, rfl, rfl, rfl, rfl, rfl, rfl, rfl, rfl, rfl, rfl⟩

theorem State.tileFail_eq (s : State) (t : Fin 64) (c : Ctx) (status detail : Nat) :
    (s.tileFail t c status detail) = { s with tiles := (s.tileFail t c status detail).tiles, work := (s.tileFail t c status detail).work } := by
  unfold State.tileFail
  rw [State.yieldTile_eq, State.failEntry_eq]
  rfl

@[simp] theorem State.tileFail_frame (s : State) (t : Fin 64) (c : Ctx) (status detail : Nat) :
    (s.tileFail t c status detail).pending = s.pending ∧ (s.tileFail t c status detail).e384 = s.e384 ∧
    (s.tileFail t c status detail).frame = s.frame ∧ (s.tileFail t c status detail).mem = s.mem ∧
    (s.tileFail t c status detail).dram = s.dram ∧ (s.tileFail t c status detail).cache = s.cache ∧
    (s.tileFail t c status detail).kma = s.kma ∧ (s.tileFail t c status detail).dict = s.dict ∧
    (s.tileFail t c status detail).host = s.host ∧ (s.tileFail t c status detail).mover = s.mover ∧
    (s.tileFail t c status detail).events = s.events ∧ (s.tileFail t c status detail).digest = s.digest ∧
    (s.tileFail t c status detail).persist = s.persist ∧ (s.tileFail t c status detail).held = s.held ∧
    (s.tileFail t c status detail).mirror = s.mirror ∧ (s.tileFail t c status detail).health = s.health ∧
    (s.tileFail t c status detail).moth = s.moth ∧ (s.tileFail t c status detail).boot = s.boot ∧
    (s.tileFail t c status detail).window = s.window ∧ (s.tileFail t c status detail).bdp = s.bdp ∧
    (s.tileFail t c status detail).profiles = s.profiles ∧ (s.tileFail t c status detail).pins = s.pins ∧
    (s.tileFail t c status detail).free = s.free := by
  rw [State.tileFail_eq]
  exact ⟨rfl, rfl, rfl, rfl, rfl, rfl, rfl, rfl, rfl, rfl, rfl, rfl, rfl, rfl, rfl, rfl, rfl, rfl, rfl, rfl, rfl, rfl, rfl⟩

theorem State.takeTrap_eq (s : State) (t : Fin 64) (c : Ctx) (w : Word) (cause status : Nat) (addr info : Word) :
    (s.takeTrap t c w cause status addr info) = { s with tiles := (s.takeTrap t c w cause status addr info).tiles, work := (s.takeTrap t c w cause status addr info).work } := by
  unfold State.takeTrap
  cases c.trap with
  | none => rfl
  | some r => exact State.tileFail_eq _ _ _ _ _

@[simp] theorem State.takeTrap_frame (s : State) (t : Fin 64) (c : Ctx) (w : Word) (cause status : Nat) (addr info : Word) :
    (s.takeTrap t c w cause status addr info).pending = s.pending ∧ (s.takeTrap t c w cause status addr info).e384 = s.e384 ∧
    (s.takeTrap t c w cause status addr info).frame = s.frame ∧ (s.takeTrap t c w cause status addr info).mem = s.mem ∧
    (s.takeTrap t c w cause status addr info).dram = s.dram ∧ (s.takeTrap t c w cause status addr info).cache = s.cache ∧
    (s.takeTrap t c w cause status addr info).kma = s.kma ∧ (s.takeTrap t c w cause status addr info).dict = s.dict ∧
    (s.takeTrap t c w cause status addr info).host = s.host ∧ (s.takeTrap t c w cause status addr info).mover = s.mover ∧
    (s.takeTrap t c w cause status addr info).events = s.events ∧ (s.takeTrap t c w cause status addr info).digest = s.digest ∧
    (s.takeTrap t c w cause status addr info).persist = s.persist ∧ (s.takeTrap t c w cause status addr info).held = s.held ∧
    (s.takeTrap t c w cause status addr info).mirror = s.mirror ∧ (s.takeTrap t c w cause status addr info).health = s.health ∧
    (s.takeTrap t c w cause status addr info).moth = s.moth ∧ (s.takeTrap t c w cause status addr info).boot = s.boot ∧
    (s.takeTrap t c w cause status addr info).window = s.window ∧ (s.takeTrap t c w cause status addr info).bdp = s.bdp ∧
    (s.takeTrap t c w cause status addr info).profiles = s.profiles ∧ (s.takeTrap t c w cause status addr info).pins = s.pins ∧
    (s.takeTrap t c w cause status addr info).free = s.free := by
  rw [State.takeTrap_eq]
  exact ⟨rfl, rfl, rfl, rfl, rfl, rfl, rfl, rfl, rfl, rfl, rfl, rfl, rfl, rfl, rfl, rfl, rfl, rfl, rfl, rfl, rfl, rfl, rfl⟩

/-- An upset changes cells, words and symbols, and nothing else. -/
theorem State.strike_eq (s : State) (u : Upset) :
    s.strike u = { s with
      dram := { s.dram with errors := (s.strike u).dram.errors }
      cache := { s.cache with errors := (s.strike u).cache.errors }
      kma := { s.kma with cam := (s.strike u).kma.cam, sram := (s.strike u).kma.sram } } := by
  cases u <;> simp only [State.strike, State.strikeCache] <;> repeat' first | rfl | split

end Sys2Proof.Machine
end

