-- ==== Sys2Proof/Laws/Access.lean ====
section
/-! SUPPORT. What a tile's access to memory does once all its words can be reached: a read leaves every byte, a write changes the
bytes written and no others. -/

namespace Sys2Proof.Machine

/-- The line of a line is itself. -/
theorem lineOf_idem (ma : Nat) : lineOf (lineOf ma) = lineOf ma := by
  have h : lineArea = 1048512 := rfl
  have h2 : slotBytes = 1048576 := rfl
  unfold lineOf
  rw [h, h2]
  dsimp only
  obtain ⟨q, r, hr, rfl⟩ : ∃ q r, r < 1048576 ∧ ma = 1048576 * q + r := ⟨ma / 1048576, ma % 1048576, by omega, by omega⟩
  have e1 : (1048576 * q + r) % 1048576 = r := by omega
  rw [e1]
  split
  · have e2 : 1048576 * q + r - r % 192 = 1048576 * q + (r - r % 192) := by omega
    have e3 : (1048576 * q + (r - r % 192)) % 1048576 = r - r % 192 := by
      rw [Nat.mul_add_mod, Nat.mod_eq_of_lt (by omega)]
    rw [e2, e3, if_pos (by omega)]
    omega
  · have e2 : 1048576 * q + r - r + 1048512 = 1048576 * q + 1048512 := by omega
    have e3 : (1048576 * q + 1048512) % 1048576 = 1048512 := by omega
    rw [e2, e3, if_neg (by omega)]
    omega

/-! ### The symbols in error that the queues and buffers leave alone -/

@[simp] theorem State.updChannel_errors (s : State) (c : Nat) (f : Channel → Channel) : (s.updChannel c f).dram.errors = s.dram.errors := by
  unfold State.updChannel
  split <;> rfl

@[simp] theorem State.queueWrite_errors (s : State) (ma : Nat) : (s.queueWrite ma).dram.errors = s.dram.errors :=
  State.updChannel_errors _ _ _

@[simp] theorem State.queueWrites_errors (l : List Nat) : ∀ s : State, (l.foldl State.queueWrite s).dram.errors = s.dram.errors := by
  induction l with
  | nil => intro s; rfl
  | cons x r ih => intro s; rw [List.foldl_cons, ih, State.queueWrite_errors]

@[simp] theorem State.bufferLeave_errors (s : State) (slice n : Nat) :
    (s.bufferLeave slice n).dram.errors = s.dram.errors ∧ (s.bufferLeave slice n).cache.errors = s.cache.errors := by
  unfold State.bufferLeave
  dsimp only
  constructor
  · rw [State.queueWrites_errors]
    split <;> rfl
  · rw [State.queueWrites_eq]
    split <;> rfl

@[simp] theorem State.dramWrite_errors (s : State) (ma : Nat) :
    (s.dramWrite ma).dram.errors = s.dram.errors ∧ (s.dramWrite ma).cache.errors = s.cache.errors := by
  unfold State.dramWrite
  split
  · exact ⟨State.queueWrite_errors _ _, by simp⟩
  · dsimp only
    split
    · exact State.bufferLeave_errors _ _ _
    · exact ⟨rfl, rfl⟩

@[simp] theorem State.bufferMatch_errors (s : State) (ma : Nat) :
    (s.bufferMatch ma).dram.errors = s.dram.errors ∧ (s.bufferMatch ma).cache.errors = s.cache.errors := by
  unfold State.bufferMatch
  split
  · exact ⟨rfl, rfl⟩
  · dsimp only
    split
    · exact State.bufferLeave_errors _ _ _
    · exact ⟨rfl, rfl⟩

@[simp] theorem State.dramRead_errors (s : State) (ma : Nat) :
    (s.dramRead ma).dram.errors = s.dram.errors ∧ (s.dramRead ma).cache.errors = s.cache.errors := by
  have h := State.bufferMatch_errors s ma
  unfold State.dramRead
  dsimp only
  generalize s.bufferMatch ma = u at h ⊢
  split
  · split
    · rw [State.updChannel_errors, (State.updChannel_frame _ _ _).2.2.2.2.2.2.1]; exact h
    · rw [State.updChannel_errors, (State.updChannel_frame _ _ _).2.2.2.2.2.2.1]; exact h
  · exact h

/-- A fill leaves no line with an SRAM error that had none. -/
theorem Cache.fill_errors (c : Cache) (slice set ma : Nat) (ways locked : List Nat) (recalled : Bool) :
    ∀ x ∈ (c.fill slice set ma ways locked recalled).1.errors, x ∈ c.errors := by
  intro x
  unfold Cache.fill
  dsimp only
  split
  · split
    · exact fun h => (List.mem_filter.mp h).1
    · exact fun h => (List.mem_filter.mp h).1
  · split
    · exact id
    · exact fun h => (List.mem_filter.mp h).1

theorem State.cacheFill_errors (s : State) (ma who : Nat) (recalled : Bool) :
    ∀ x ∈ (s.cacheFill ma who recalled).cache.errors, x ∈ s.cache.errors := by
  intro x
  have h := Cache.fill_errors s.cache (homeSlice s.e384 ma).1 (homeSlice s.e384 ma).2 ma (s.fillWays who) s.lockedWays recalled x
  unfold State.cacheFill
  dsimp only
  generalize s.cache.fill (homeSlice s.e384 ma).1 (homeSlice s.e384 ma).2 ma (s.fillWays who) s.lockedWays recalled = r at h ⊢
  obtain ⟨d, ok⟩ := r
  cases ok <;> exact h

/-- A lookup of a line without SRAM errors changes the cache alone. -/
theorem State.cacheLookup_good {s : State} {ma who : Nat} {fill : Bool} (h : ∀ x ∈ s.cache.errors, x.ma ≠ ma) :
    (s.cacheLookup ma who fill).1 = { s with cache := (s.cacheLookup ma who fill).1.cache }
      ∧ ∀ x ∈ (s.cacheLookup ma who fill).1.cache.errors, x ∈ s.cache.errors := by
  have hm : s.meetCacheErrors ma = s := by
    have : s.cache.errors.filter (fun x => x.ma == ma) = [] := by
      rw [List.filter_eq_nil_iff]
      intro x hx
      simpa using h x hx
    unfold State.meetCacheErrors
    dsimp only
    rw [this]
    rfl
  unfold State.cacheLookup
  rw [hm]
  split
  · exact ⟨rfl, fun _ => id⟩
  · dsimp only
    split
    · exact ⟨rfl, fun _ => id⟩
    · split
      · dsimp only
        split
        · exact ⟨by rw [State.cacheFill_eq], State.cacheFill_errors _ _ _ _⟩
        · exact ⟨rfl, fun _ => id⟩
      · exact ⟨rfl, fun _ => id⟩

/-! ### Reads -/

/-- A good line passes its check. -/
theorem State.readUnit_good {s : State} {l : Nat} {scrub : Bool} (h1 : l ∉ s.mem.poisoned)
    (h2 : ∀ p ∈ s.dram.errors, lineOf p.1 ≠ l) : s.readUnit l scrub = (s, true) := by
  unfold State.readUnit
  rw [if_neg (by simpa using h1), if_pos]
  simpa using h2

/-- Only the cache, the DRAM queues and the heat counts of u differ from s, and no line went bad. -/
structure ReadsOnly (s u : State) : Prop where
  rest : u = { s with cache := u.cache, dram := u.dram, mem := { s.mem with heat := u.mem.heat } }
  symbols : u.dram.errors = s.dram.errors
  sram : ∀ x ∈ u.cache.errors, x ∈ s.cache.errors

theorem ReadsOnly.refl (s : State) : ReadsOnly s s := ⟨rfl, rfl, fun _ => id⟩

theorem ReadsOnly.trans {s u v : State} (h : ReadsOnly s u) (k : ReadsOnly u v) : ReadsOnly s v :=
  ⟨by rw [k.rest, h.rest], k.symbols.trans h.symbols, fun x hx => h.sram x (k.sram x hx)⟩

theorem ReadsOnly.poisoned {s u : State} (h : ReadsOnly s u) : u.mem.poisoned = s.mem.poisoned := by
  rw [h.rest]

theorem ReadsOnly.good {s u : State} {l : Nat} (h : ReadsOnly s u) (g : LineGood s l) : LineGood u l :=
  ⟨by rw [h.poisoned]; exact g.1, by rw [h.symbols]; exact g.2.1, fun x hx => g.2.2 x (h.sram x hx)⟩

/-- Reading a good line. -/
theorem State.readLine_clear {s : State} {ma who : Nat} {fill : Bool} (h : LineGood s (lineOf ma)) :
    (s.readLine ma who fill).2 = true ∧ ReadsOnly s (s.readLine ma who fill).1 := by
  have hc := State.cacheLookup_good (who := who) (fill := fill) h.2.2
  unfold State.readLine
  dsimp only
  generalize s.cacheLookup (lineOf ma) who fill = p at hc ⊢
  obtain ⟨s1, hit⟩ := p
  dsimp only at hc ⊢
  have h1 : ReadsOnly s s1 := ⟨by rw [hc.1], by rw [hc.1], hc.2⟩
  cases hit
  · have hd := State.dramRead_eq s1 (lineOf ma)
    have he := State.dramRead_errors s1 (lineOf ma)
    have h2 : ReadsOnly s (s1.dramRead (lineOf ma)) :=
      h1.trans ⟨by rw [hd], he.1, by rw [he.2]; exact fun _ => id⟩
    have g := h2.good h
    rw [State.readUnit_good g.1 g.2.1]
    generalize s1.dramRead (lineOf ma) = s2 at h2 ⊢
    have h3 : ReadsOnly s (if (fill && s2.cacheable (lineOf ma) && s2.cache.state == 0) = true then s2.cacheFill (lineOf ma) who false else s2) := by
      split
      · exact h2.trans ⟨by rw [State.cacheFill_eq], by rw [State.cacheFill_eq], State.cacheFill_errors _ _ _ _⟩
      · exact h2
    simp only [Bool.false_eq_true, if_false, Bool.not_true]
    split <;> rename_i hw
    · exact ⟨trivial, h3.trans ⟨rfl, rfl, fun _ => id⟩⟩
    · exact ⟨trivial, h3⟩
  · exact ⟨rfl, h1⟩

/-- Reading some lines, all of them good. -/
theorem readLines_clear {who : Nat} (ls : List Nat) (s0 : State) : ∀ (s : State), ReadsOnly s0 s →
    (∀ l ∈ ls, LineGood s0 (lineOf l)) →
    ∃ u, ls.foldl (fun (p : State × Bool) l => let (s', b) := p.1.readLine l who true; (s', p.2 && b)) (s, true) = (u, true)
      ∧ ReadsOnly s0 u := by
  induction ls with
  | nil => intro s h _; exact ⟨s, rfl, h⟩
  | cons l r ih =>
    intro s h hp
    obtain ⟨hb, hs⟩ := State.readLine_clear (who := who) (fill := true) (h.good (hp l (by simp)))
    obtain ⟨u, hu, hr⟩ := ih (s.readLine l who true).1 (h.trans hs) fun x hx => hp x (by simp [hx])
    refine ⟨u, ?_, hr⟩
    rw [List.foldl_cons, ← hu]
    congr 1
    simp [hb]

theorem mem_dedup {ls : List Nat} {x : Nat} (h : x ∈ ls.foldr (fun x r => if r.contains x then r else x :: r) []) : x ∈ ls := by
  induction ls with
  | nil => exact h
  | cons a r ih =>
    simp only [List.foldr_cons] at h
    split at h
    · exact List.mem_cons_of_mem _ (ih h)
    · rcases List.mem_cons.mp h with rfl | h
      · exact List.mem_cons_self
      · exact List.mem_cons_of_mem _ (ih h)

/-- No slot has to be waited for. -/
theorem awaitSlots_none {s : State} {mas : List Nat} (h : ∀ ma ∈ mas, s.resident (ma / slotBytes) = true) :
    awaitSlots s mas = none := by
  unfold awaitSlots
  simp only [List.find?_eq_none, List.mem_map, forall_exists_index, and_imp, forall_apply_eq_imp_iff₂]
  intro a ha
  simp [h a ha]

/-- A read whose words can all be reached goes on, in a state with the same bytes. -/
theorem withLines_clear {s : State} {c : Ctx} {e : WorkEntry} {mas : List Nat} {k : State → Effect}
    (hr : ∀ ma ∈ mas, s.resident (ma / slotBytes) = true) (hp : ∀ ma ∈ mas, LineGood s (lineOf ma)) :
    ∃ u, withLines s c e mas k = k u ∧ ReadsOnly s u := by
  unfold withLines
  rw [awaitSlots_none hr]
  obtain ⟨u, hu, ho⟩ := readLines_clear (who := e.inst) ((mas.map lineOf).foldr (fun x r => if r.contains x then r else x :: r) [])
    s s (ReadsOnly.refl s) (by
      intro l hl
      obtain ⟨ma, hm, rfl⟩ := List.mem_map.mp (mem_dedup hl)
      rw [lineOf_idem]; exact hp ma hm)
  refine ⟨u, ?_, ho⟩
  dsimp only
  rw [hu]
  rfl

/-! ### Stores -/

/-- A line lies in the slot of its bytes. -/
theorem lineOf_slot (ma : Nat) : lineOf ma / slotBytes = ma / slotBytes := by
  have h : lineArea = 1048512 := rfl
  have h2 : slotBytes = 1048576 := rfl
  unfold lineOf
  rw [h, h2]
  dsimp only
  split <;> omega

/-- Runs of bytes written one after another. -/
def putRuns (m : Sparse 8) (ps : List (Nat × List Byte)) : Sparse 8 := ps.foldl (fun m (p : Nat × List Byte) => putBytes m p.1 p.2) m

/-- An address no run covers keeps its byte. -/
theorem putRuns_other {a : Nat} (ps : List (Nat × List Byte)) :
    ∀ (m : Sparse 8), (∀ p ∈ ps, a < p.1 ∨ p.1 + p.2.length ≤ a) → sparseRead (putRuns m ps) a = sparseRead m a := by
  induction ps with
  | nil => intro m _; rfl
  | cons p r ih =>
    intro m h
    rw [putRuns, List.foldl_cons, ← putRuns, ih _ fun q hq => h q (List.mem_cons_of_mem _ hq)]
    exact putBytes_other (h p List.mem_cons_self)

/-- A run that shares no address with a different run reads back. -/
theorem putRuns_same {p : Nat × List Byte} {j : Nat} (hj : j < p.2.length) (ps : List (Nat × List Byte)) :
    ∀ (m : Sparse 8), sparseWf m = true → p ∈ ps →
      (∀ q ∈ ps, q = p ∨ p.1 + j < q.1 ∨ q.1 + q.2.length ≤ p.1 + j) → sparseRead (putRuns m ps) (p.1 + j) = p.2[j] := by
  induction ps with
  | nil => intro m _ h _; cases h
  | cons q r ih =>
    intro m hm hp hd
    rw [putRuns, List.foldl_cons, ← putRuns]
    by_cases hr : p ∈ r
    · exact ih _ (putBytes_wf _ _ hm) hr fun x hx => hd x (List.mem_cons_of_mem _ hx)
    · have hq : p = q := by
        rcases List.mem_cons.mp hp with h | h
        · exact h
        · exact absurd h hr
      subst hq
      rw [putRuns_other]
      · exact putBytes_same hm hj
      · intro x hx
        rcases hd x (List.mem_cons_of_mem _ hx) with h | h
        · exact absurd (h ▸ hx) hr
        · exact h

/-- Only bytes, dirty slots, the DRAM and cache queues, the slots a donor owes and the frame's sums of u differ from s, the bytes are
those of s with the runs of some list written over them, and no line went bad. -/
structure WritesOnly (s u : State) (ps : List (Nat × List Byte)) : Prop where
  rest : u = { s with mem := { s.mem with bytes := u.mem.bytes, dirty := u.mem.dirty }, dram := u.dram, cache := u.cache,
                      mirror := u.mirror, frame := { s.frame with sums := u.frame.sums } }
  bytes : u.mem.bytes = putRuns s.mem.bytes ps
  dirty : ∀ p ∈ ps, p.1 / slotBytes ∈ u.mem.dirty
  kept : ∀ x ∈ s.mem.dirty, x ∈ u.mem.dirty
  symbols : ∀ p ∈ u.dram.errors, p ∈ s.dram.errors
  sram : u.cache.errors = s.cache.errors

theorem WritesOnly.refl (s : State) : WritesOnly s s [] := ⟨rfl, rfl, by simp, by simp, fun _ => id, rfl⟩

theorem WritesOnly.poisoned {s u : State} {ps : List (Nat × List Byte)} (h : WritesOnly s u ps) : u.mem.poisoned = s.mem.poisoned := by
  rw [h.rest]

theorem WritesOnly.good {s u : State} {ps : List (Nat × List Byte)} {l : Nat} (h : WritesOnly s u ps) (g : LineGood s l) :
    LineGood u l :=
  ⟨by rw [h.poisoned]; exact g.1, fun p hp => g.2.1 p (h.symbols p hp), by rw [h.sram]; exact g.2.2⟩

theorem WritesOnly.trans {s u v : State} {ps qs : List (Nat × List Byte)} (h : WritesOnly s u ps) (k : WritesOnly u v qs) :
    WritesOnly s v (ps ++ qs) := by
  refine ⟨?_, ?_, ?_, ?_, fun p hp => h.symbols p (k.symbols p hp), k.sram.trans h.sram⟩
  · rw [k.rest, h.rest]
  · rw [k.bytes, h.bytes, putRuns, putRuns, putRuns, List.foldl_append]
  · intro p hp
    rcases List.mem_append.mp hp with hp | hp
    · exact k.kept _ (h.dirty p hp)
    · exact k.dirty p hp
  · intro x hx
    exact k.kept _ (h.kept x hx)

theorem State.markDirty_dirty (s : State) (slot x : Nat) (h : x = slot ∨ x ∈ s.mem.dirty) : x ∈ (s.markDirty slot).mem.dirty := by
  unfold State.markDirty
  dsimp only
  split
  · rename_i hc
    rcases h with rfl | h
    · simpa using hc
    · exact h
  · rcases h with rfl | h
    · exact List.mem_cons_self
    · exact List.mem_cons_of_mem _ h

/-- Writing runs of one good line. -/
theorem State.writeLine_clear {s : State} {l : Nat} {whole : Bool} {ps : List (Nat × List Byte)} (h : LineGood s l)
    (hl : ∀ p ∈ ps, lineOf p.1 = l) : (s.writeLine l whole ps).2 = true ∧ WritesOnly s (s.writeLine l whole ps).1 ps := by
  have key : ∀ s1 : State, WritesOnly s s1 [] →
      WritesOnly s (((({ s1 with mem := { s1.mem with bytes := putRuns s1.mem.bytes ps } } : State).cleanUnit l).dramWrite l).markDirty
        (l / slotBytes)) ps := by
    intro s1 h1
    have hc := State.cleanUnit_eq ({ s1 with mem := { s1.mem with bytes := putRuns s1.mem.bytes ps } } : State) l
    have hs : ∀ p ∈ (({ s1 with mem := { s1.mem with bytes := putRuns s1.mem.bytes ps } } : State).cleanUnit l).dram.errors,
        p ∈ s1.dram.errors := fun p hp => (List.mem_filter.mp hp).1
    generalize ({ s1 with mem := { s1.mem with bytes := putRuns s1.mem.bytes ps } } : State).cleanUnit l = s2 at hc hs
    have hd := State.dramWrite_eq s2 l
    have he := State.dramWrite_errors s2 l
    generalize s2.dramWrite l = s3 at hd he
    have hm : s3.mem = { s1.mem with bytes := putRuns s1.mem.bytes ps } := by rw [hd, hc]
    refine ⟨?_, ?_, ?_, ?_, ?_, ?_⟩
    · rw [State.markDirty, hd, hc, h1.rest]
    · rw [State.markDirty]
      dsimp only
      rw [hm, h1.bytes]
      rfl
    · intro p hp
      apply State.markDirty_dirty
      left
      rw [← hl p hp, lineOf_slot]
    · intro x hx
      apply State.markDirty_dirty
      right
      rw [hm]
      exact h1.kept x hx
    · intro p hp
      rw [State.markDirty] at hp
      dsimp only at hp
      rw [he.1] at hp
      exact h1.symbols p (hs p hp)
    · rw [State.markDirty]
      dsimp only
      rw [he.2, hc]
      exact h1.sram
  unfold State.writeLine
  cases whole
  · rw [State.readUnit_good (s := { s with dram := { s.dram with partialWrites := s.dram.partialWrites + 1 } }) h.1 h.2.1]
    simp only [Bool.false_eq_true, if_false, Bool.not_true]
    exact ⟨trivial, key { s with dram := { s.dram with partialWrites := s.dram.partialWrites + 1 } }
      ⟨rfl, rfl, by simp, by simp, fun _ => id, rfl⟩⟩
  · have hf : s.mem.poisoned.filter (· != l) = s.mem.poisoned := by
      rw [List.filter_eq_self]
      intro x hx
      simp only [bne_iff_ne, ne_eq]
      rintro rfl
      exact h.1 hx
    simp only [if_true, hf, Bool.false_eq_true, if_false, Bool.not_true]
    exact ⟨trivial, key s (WritesOnly.refl s)⟩

/-- A store enters the sums and nothing else. -/
theorem sumStores_only (ws : List (Nat × List Byte)) : ∀ s : State,
    WritesOnly s (ws.foldl (fun (x : State) (w : Nat × List Byte) => x.sumStore w.1 w.2) s) [] := by
  induction ws with
  | nil => intro s; exact WritesOnly.refl s
  | cons w r ih =>
    intro s
    rw [List.foldl_cons]
    exact (⟨rfl, rfl, by simp, by simp, fun _ => id, rfl⟩ : WritesOnly s (s.sumStore w.1 w.2) []).trans (ih _)

/-- Writing runs line by line. -/
theorem writeLines_clear (ws : List (Nat × List Byte)) (f : Nat → Bool) (ls : List Nat) : ∀ (s0 s : State) (qs : List (Nat × List Byte)),
    WritesOnly s0 s qs → (∀ l ∈ ls, LineGood s0 l) →
    ∃ u, ls.foldl (fun (p : State × Bool) l =>
        let (s', b) := p.1.writeLine l (f l) (ws.filter fun w => lineOf w.1 == l)
        (s', p.2 && b)) (s, true) = (u, true)
      ∧ WritesOnly s0 u (qs ++ ls.flatMap fun l => ws.filter fun w => lineOf w.1 == l) := by
  induction ls with
  | nil => intro s0 s qs h _; exact ⟨s, rfl, by simpa using h⟩
  | cons l r ih =>
    intro s0 s qs h hp
    have hl : LineGood s l := h.good (hp l List.mem_cons_self)
    obtain ⟨hb, hs⟩ := State.writeLine_clear (whole := f l) (ps := ws.filter fun w => lineOf w.1 == l) hl (by
      intro p hp
      simpa using (List.mem_filter.mp hp).2)
    obtain ⟨u, hu, hw⟩ := ih s0 _ _ (h.trans hs) fun x hx => hp x (List.mem_cons_of_mem _ hx)
    refine ⟨u, ?_, ?_⟩
    · rw [List.foldl_cons, ← hu]
      congr 1
      simp [hb]
    · rw [List.flatMap_cons, ← List.append_assoc]
      exact hw

theorem dedup_mem {ls : List Nat} {x : Nat} (h : x ∈ ls) : x ∈ ls.foldr (fun x r => if r.contains x then r else x :: r) [] := by
  induction ls with
  | nil => exact h
  | cons a r ih =>
    simp only [List.foldr_cons]
    split
    · rename_i hc
      rcases List.mem_cons.mp h with rfl | h
      · simpa using hc
      · exact ih h
    · rcases List.mem_cons.mp h with rfl | h
      · exact List.mem_cons_self
      · exact List.mem_cons_of_mem _ (ih h)

/-- A store whose words can all be reached goes on, with exactly its runs written. -/
theorem withStores_clear {s : State} {c : Ctx} {ws : List (Nat × List Byte)} {k : State → Effect}
    (hr : ∀ w ∈ ws, s.resident (w.1 / slotBytes) = true) (hp : ∀ w ∈ ws, LineGood s (lineOf w.1)) :
    ∃ u qs, withStores s c ws k = k u ∧ WritesOnly s u qs ∧ ∀ p, p ∈ qs ↔ p ∈ ws := by
  unfold withStores
  rw [awaitSlots_none (by
    intro ma hm
    obtain ⟨w, hw, rfl⟩ := List.mem_map.mp hm
    exact hr w hw)]
  dsimp only
  obtain ⟨u, hu, ho⟩ := writeLines_clear ws (fun l => (ws.filter fun w => lineOf w.1 == l).any fun w => w.2.length == 192)
    ((ws.map fun w => lineOf w.1).foldr (fun x r => if r.contains x then r else x :: r) []) s s [] (WritesOnly.refl s) (by
      intro l hl
      obtain ⟨w, hw, rfl⟩ := List.mem_map.mp (mem_dedup hl)
      exact hp w hw)
  have hq : ∀ p, p ∈ ([] ++ ((ws.map fun w => lineOf w.1).foldr (fun x r => if r.contains x then r else x :: r) []).flatMap
      fun l => ws.filter fun w => lineOf w.1 == l) ↔ p ∈ ws := by
    intro p
    rw [List.nil_append, List.mem_flatMap]
    constructor
    · rintro ⟨l, _, h⟩
      exact (List.mem_filter.mp h).1
    · intro h
      exact ⟨lineOf p.1, dedup_mem (List.mem_map.mpr ⟨p, h, rfl⟩), List.mem_filter.mpr ⟨h, by simp⟩⟩
  rw [hu]
  dsimp only
  refine ⟨_, _, if_pos rfl, ?_, hq⟩
  rw [← List.append_nil (_ ++ _)]
  split
  · split
    · exact ho.trans (sumStores_only ws u)
    · exact ho.trans (WritesOnly.refl u)
  · exact ho.trans (WritesOnly.refl u)

end Sys2Proof.Machine
end

