-- ==== Sys2Proof/Laws/Keyed.lean ====
section
/-! SUPPORT. Keyed lists: what a lookup finds after an insertion, and the same for the records kept in them. -/

namespace Sys2Proof.Machine

@[simp] theorem lookupD_insertK_same {α : Type} (l : List (Nat × α)) (k : Nat) (v d : α) : lookupD (insertK l k v) k d = v := by
  induction l with
  | nil => simp [insertK, lookupD]
  | cons p r ih =>
    obtain ⟨j, x⟩ := p
    unfold insertK
    split
    · have : j ≠ k := by omega
      simp [lookupD, this, ih]
    · split <;> simp [lookupD]

theorem lookupD_insertK_other {α : Type} (l : List (Nat × α)) {k m : Nat} (v d : α) (h : m ≠ k) :
    lookupD (insertK l k v) m d = lookupD l m d := by
  induction l with
  | nil => simp [insertK, lookupD, Ne.symm h]
  | cons p r ih =>
    obtain ⟨j, x⟩ := p
    unfold insertK
    split
    · simp only [lookupD, ih]
    · split
      · have : j ≠ m := by omega
        simp [lookupD, Ne.symm h, this]
      · simp [lookupD, Ne.symm h]

@[simp] theorem handle_setHandle (s : State) (n : Nat) (x : Handle) : (s.setHandle n x).handle n = x := lookupD_insertK_same ..

theorem handle_setHandle_other (s : State) {n m : Nat} (x : Handle) (h : m ≠ n) : (s.setHandle n x).handle m = s.handle m :=
  lookupD_insertK_other _ _ _ h

@[simp] theorem sq_setSq (s : State) (n : Nat) (x : SqRing) : (s.setSq n x).sq n = x := lookupD_insertK_same ..

theorem sq_setSq_other (s : State) {n m : Nat} (x : SqRing) (h : m ≠ n) : (s.setSq n x).sq m = s.sq m := lookupD_insertK_other _ _ _ h

@[simp] theorem cq_setCq (s : State) (n : Nat) (x : CqRing) : (s.setCq n x).cq n = x := lookupD_insertK_same ..

theorem cq_setCq_other (s : State) {n m : Nat} (x : CqRing) (h : m ≠ n) : (s.setCq n x).cq m = s.cq m := lookupD_insertK_other _ _ _ h

end Sys2Proof.Machine
end

