-- ==== Sys2Proof/Laws/Events.lean ====
section
/-! SUPPORT. What raising an event leaves in the event log (R464), and what a fence changes (R413). -/

namespace Sys2Proof

/-- A record stays the newest while the log stays. -/
theorem Recorded.of_log {s u : Machine.State} {code severity loc detail arg : Nat} (h : Recorded s code severity loc detail arg)
    (e : u.events.log = s.events.log) : Recorded u code severity loc detail arg := by
  unfold Recorded; rw [e]; exact h

end Sys2Proof

namespace Sys2Proof.Machine

/-- The record of an event (R464). -/
def eventOf (s : State) (code severity loc detail arg : Nat) : Event :=
  { seq := s.events.seq, code := code, severity := severity, frame := s.frame.frameNo, time := s.frame.timeBase, location := loc,
    detail := detail, arg := arg }

@[simp] theorem State.raiseAt_log (s : State) (code severity loc detail arg : Nat) :
    (s.raiseAt code severity loc detail arg).events.log = (eventOf s code severity loc detail arg :: s.events.log).take 256 := by
  unfold State.raiseAt
  dsimp only
  split
  · rw [State.raiseVector_eq]; rfl
  · rfl

theorem recorded_raiseAt (s : State) (code severity loc detail arg : Nat) :
    Recorded (s.raiseAt code severity loc detail arg) code severity loc detail arg :=
  ⟨eventOf s code severity loc detail arg, by rw [State.raiseAt_log]; rfl, rfl, rfl, rfl, rfl, rfl⟩

theorem recorded_raise (s : State) (code severity arg : Nat) : Recorded (s.raise code severity arg) code severity packageLocation 0 arg :=
  recorded_raiseAt ..

theorem State.sendMirror_eq (s : State) (portB : Bool) (type frame : Nat) (payload : List Byte) :
    s.sendMirror portB type frame payload = { s with mirror := (s.sendMirror portB type frame payload).mirror } := by
  unfold State.sendMirror
  dsimp only
  repeat' split
  all_goals rfl

theorem State.sendT1s_eq (s : State) (h : Sys2Proof.Heartbeat) : s.sendT1s h = { s with mirror := (s.sendT1s h).mirror } := by
  unfold State.sendT1s
  split <;> rfl

theorem State.fence_eq (s : State) (reason : Nat) :
    s.fence reason = { s with mirror := (s.fence reason).mirror, health := (s.fence reason).health,
                              host := (s.fence reason).host, events := (s.fence reason).events } := by
  unfold State.fence
  split
  · rfl
  · dsimp only
    rw [State.raise_eq, State.sendT1s_eq, State.sendMirror_eq, State.sendMirror_eq]
    rfl

@[simp] theorem State.fence_frame (s : State) (reason : Nat) :
    (s.fence reason).pending = s.pending ∧ (s.fence reason).e384 = s.e384 ∧ (s.fence reason).frame = s.frame ∧
    (s.fence reason).work = s.work ∧ (s.fence reason).tiles = s.tiles ∧ (s.fence reason).mem = s.mem ∧
    (s.fence reason).dram = s.dram ∧ (s.fence reason).cache = s.cache ∧ (s.fence reason).kma = s.kma ∧
    (s.fence reason).dict = s.dict ∧ (s.fence reason).mover = s.mover ∧ (s.fence reason).digest = s.digest ∧
    (s.fence reason).persist = s.persist ∧ (s.fence reason).held = s.held ∧ (s.fence reason).moth = s.moth ∧
    (s.fence reason).boot = s.boot ∧ (s.fence reason).window = s.window ∧ (s.fence reason).bdp = s.bdp ∧
    (s.fence reason).profiles = s.profiles ∧ (s.fence reason).pins = s.pins ∧ (s.fence reason).free = s.free := by
  rw [State.fence_eq]
  exact ⟨rfl, rfl, rfl, rfl, rfl, rfl, rfl, rfl, rfl, rfl, rfl, rfl, rfl, rfl, rfl, rfl, rfl, rfl, rfl, rfl, rfl⟩

theorem State.sendMirror_state (s : State) (portB : Bool) (type frame : Nat) (payload : List Byte) :
    (s.sendMirror portB type frame payload).mirror.state = s.mirror.state := by
  unfold State.sendMirror
  dsimp only
  repeat' split
  all_goals rfl

theorem State.sendT1s_state (s : State) (h : Sys2Proof.Heartbeat) : (s.sendT1s h).mirror.state = s.mirror.state := by
  unfold State.sendT1s
  split <;> rfl

/-- After a fence the engine is fenced. -/
@[simp] theorem State.fence_state (s : State) (reason : Nat) : (s.fence reason).mirror.state = 5 := by
  unfold State.fence
  split
  · assumption
  · dsimp only
    rw [(State.raise_frame _ _ _ _).2.2.2.2.2.2.2.2.2.2.2.2.2.2.1, State.sendT1s_state, State.sendMirror_state, State.sendMirror_state]
    rfl

end Sys2Proof.Machine
end

