-- ==== Sys2Proof/Laws/Keeps.lean ====
section
/-! SUPPORT. What every operation of the model keeps: the queue of waiting commands, the ordering code, and the canonical form of
module memory. One lemma per operation follows in the Keeps files; each says that an operation applied to a state that keeps
these of s0 answers a state that keeps them of s0. -/

namespace Sys2Proof.Machine

/-- t has the queue and the ordering code of s, and its memory is canonical if that of s is. -/
structure Keeps (s t : State) : Prop where
  queue : t.pending = s.pending
  variant : t.e384 = s.e384
  memory : sparseWf s.mem.bytes = true → sparseWf t.mem.bytes = true

/-- The state in a successful answer keeps. -/
structure KeepsE {ε : Type} (s : State) (r : Except ε State) : Prop where
  keep : ∀ t, r = .ok t → Keeps s t

/-- The state in an answer, if there is one, keeps. -/
structure KeepsO (s : State) (r : Option State) : Prop where
  keep : ∀ t, r = some t → Keeps s t

/-- The state of some progress, if there is any, keeps. -/
structure KeepsC {β : Type} (s : State) (r : Option (State × β)) : Prop where
  keep : ∀ p, r = some p → Keeps s p.1

/-- The state an instruction's effect carries, if it carries one. -/
def Effect.state? : Effect → Option State
  | .done t _ => some t
  | .trap _ _ _ _ t _ => some t
  | .wait _ t _ => some t
  | .fail _ t _ => some t
  | .stall => none

/-- The state an instruction's effect carries keeps. -/
structure KeepsEff (s : State) (e : Effect) : Prop where
  keep : ∀ t, e.state? = some t → Keeps s t

/-- The state of a decode from a span, if it does not wait. -/
def SpanRun.state? : SpanRun → Option State
  | .wait _ => none
  | .over t _ => some t
  | .more t _ => some t

/-- The state of a decode from a span, if it does not wait, keeps. -/
structure KeepsR (s : State) (r : SpanRun) : Prop where
  keep : ∀ t, r.state? = some t → Keeps s t

/-- The state of one iteration of a repeat keeps, whether it goes on or ends. -/
structure KeepsS (s : State) (r : (State × Ctx) ⊕ Effect) : Prop where
  goes : ∀ p, r = .inl p → Keeps s p.1
  ends : ∀ e, r = .inr e → KeepsEff s e

/-- The next state of an outcome keeps. -/
structure KeepsOut (s : State) (o : Host.Outcome State Fault Refusal) : Prop where
  keep : ∀ t, o = .next t → Keeps s t

theorem Keeps.refl (s : State) : Keeps s s := ⟨rfl, rfl, id⟩

theorem Keeps.trans {s t u : State} (h : Keeps s t) (g : Keeps t u) : Keeps s u :=
  ⟨g.queue.trans h.queue, g.variant.trans h.variant, fun w => g.memory (h.memory w)⟩

/-- An update of other fields keeps. -/
theorem Keeps.upd {s u t : State} (h : Keeps s u) (hq : t.pending = u.pending) (hv : t.e384 = u.e384)
    (hm : t.mem.bytes = u.mem.bytes) : Keeps s t :=
  ⟨hq.trans h.queue, hv.trans h.variant, fun w => by rw [hm]; exact h.memory w⟩

theorem keeps_pair {β : Type} {s a : State} {b : β} (h : Keeps s a) : Keeps s (a, b).1 := h

theorem keeps_fst {β : Type} {s a : State} {b : β} {p : State × β} (e : p = (a, b)) (h : Keeps s p.1) : Keeps s a := by
  subst e; exact h

theorem keeps_snd {β : Type} {s a : State} {b : β} {p : β × State} (e : p = (b, a)) (h : Keeps s p.2) : Keeps s a := by
  subst e; exact h

theorem keeps_ok {ε : Type} {s a : State} {p : Except ε State} (e : p = .ok a) (h : KeepsE s p) : Keeps s a := h.keep a e

theorem keeps_some {s a : State} {p : Option State} (e : p = some a) (h : KeepsO s p) : Keeps s a := h.keep a e

theorem keeps_someC {β : Type} {s a : State} {c : β} {p : Option (State × β)} (e : p = some (a, c)) (h : KeepsC s p) : Keeps s a :=
  h.keep _ e

theorem keeps_inl {s a : State} {c : Ctx} {p : (State × Ctx) ⊕ Effect} (e : p = .inl (a, c)) (h : KeepsS s p) : Keeps s a :=
  h.goes _ e

theorem keeps_inr {s : State} {f : Effect} {p : (State × Ctx) ⊕ Effect} (e : p = .inr f) (h : KeepsS s p) : KeepsEff s f :=
  h.ends _ e

theorem keepsE_ok {ε : Type} {s a : State} (h : Keeps s a) : KeepsE (ε := ε) s (.ok a) := ⟨fun _ e => Except.ok.inj e ▸ h⟩

theorem keepsE_error {ε : Type} {s : State} (x : ε) : KeepsE s (.error x) := ⟨fun _ e => nomatch e⟩

theorem keepsO_some {s a : State} (h : Keeps s a) : KeepsO s (some a) := ⟨fun _ e => Option.some.inj e ▸ h⟩

theorem keepsO_none {s : State} : KeepsO s none := ⟨fun _ e => nomatch e⟩

theorem keepsC_some {β : Type} {s : State} {p : State × β} (h : Keeps s p.1) : KeepsC s (some p) := ⟨fun _ e => Option.some.inj e ▸ h⟩

theorem keepsC_none {β : Type} {s : State} : KeepsC (β := β) s none := ⟨fun _ e => nomatch e⟩

theorem keepsOut_next {s a : State} (h : Keeps s a) : KeepsOut s (.next a) := ⟨fun _ e => Host.Outcome.next.inj e ▸ h⟩

theorem keepsOut_fault {s : State} {f : Fault} : KeepsOut s (.fault f) := ⟨fun _ e => nomatch e⟩

theorem keepsR_wait {s : State} {x : Nat} : KeepsR s (.wait x) := ⟨fun _ e => nomatch e⟩

theorem keepsR_over {s a : State} {o : DecodeOut} (h : Keeps s a) : KeepsR s (.over a o) := ⟨fun _ e => Option.some.inj e ▸ h⟩

theorem keepsR_more {s a : State} {o : DecodeOut} (h : Keeps s a) : KeepsR s (.more a o) := ⟨fun _ e => Option.some.inj e ▸ h⟩

theorem keeps_of_over {s a : State} {o : DecodeOut} {r : SpanRun} (e : r = .over a o) (h : KeepsR s r) : Keeps s a := by
  subst e; exact h.keep a rfl

theorem keeps_of_more {s a : State} {o : DecodeOut} {r : SpanRun} (e : r = .more a o) (h : KeepsR s r) : Keeps s a := by
  subst e; exact h.keep a rfl

/-- A fold of keeping steps keeps. -/
theorem keeps_foldl {α : Type} {s i : State} {f : State → α → State} {l : List α} (hf : ∀ a x, Keeps s a → Keeps s (f a x))
    (hi : Keeps s i) : Keeps s (l.foldl f i) := by
  induction l generalizing i with
  | nil => exact hi
  | cons x r ih => exact ih (hf i x hi)

theorem keeps_foldl_fst {α β : Type} {s : State} {i : State × β} {f : State × β → α → State × β} {l : List α}
    (hf : ∀ p x, Keeps s p.1 → Keeps s (f p x).1) (hi : Keeps s i.1) : Keeps s (l.foldl f i).1 := by
  induction l generalizing i with
  | nil => exact hi
  | cons x r ih => exact ih (hf i x hi)

theorem keeps_foldl_snd {α β : Type} {s : State} {i : β × State} {f : β × State → α → β × State} {l : List α}
    (hf : ∀ p x, Keeps s p.2 → Keeps s (f p x).2) (hi : Keeps s i.2) : Keeps s (l.foldl f i).2 := by
  induction l generalizing i with
  | nil => exact hi
  | cons x r ih => exact ih (hf i x hi)

theorem keeps_foldl_E {α ε : Type} {s : State} {i : Except ε State} {f : Except ε State → α → Except ε State} {l : List α}
    (hf : ∀ p x, KeepsE s p → KeepsE s (f p x)) (hi : KeepsE s i) : KeepsE s (l.foldl f i) := by
  induction l generalizing i with
  | nil => exact hi
  | cons x r ih => exact ih (hf i x hi)

theorem keeps_foldl_O {α : Type} {s : State} {i : Option State} {f : Option State → α → Option State} {l : List α}
    (hf : ∀ p x, KeepsO s p → KeepsO s (f p x)) (hi : KeepsO s i) : KeepsO s (l.foldl f i) := by
  induction l generalizing i with
  | nil => exact hi
  | cons x r ih => exact ih (hf i x hi)

theorem keeps_foldl_C {α β : Type} {s : State} {i : Option (State × β)} {f : Option (State × β) → α → Option (State × β)}
    {l : List α} (hf : ∀ p x, KeepsC s p → KeepsC s (f p x)) (hi : KeepsC s i) : KeepsC s (l.foldl f i) := by
  induction l generalizing i with
  | nil => exact hi
  | cons x r ih => exact ih (hf i x hi)

theorem keeps_foldl_Eff {α : Type} {s : State} {i : Effect} {f : Effect → α → Effect} {l : List α}
    (hf : ∀ p x, KeepsEff s p → KeepsEff s (f p x)) (hi : KeepsEff s i) : KeepsEff s (l.foldl f i) := by
  induction l generalizing i with
  | nil => exact hi
  | cons x r ih => exact ih (hf i x hi)

theorem keeps_foldl_R {α : Type} {s : State} {i : SpanRun} {f : SpanRun → α → SpanRun} {l : List α}
    (hf : ∀ a x, KeepsR s a → KeepsR s (f a x)) (hi : KeepsR s i) : KeepsR s (l.foldl f i) := by
  induction l generalizing i with
  | nil => exact hi
  | cons x r ih => exact ih (hf i x hi)

theorem keepsE_bind {ε : Type} {s : State} {m : Except ε State} {f : State → Except ε State} (hm : KeepsE s m)
    (hf : ∀ a, Keeps s a → KeepsE s (f a)) : KeepsE s (m >>= f) := by
  cases m with
  | error x => exact keepsE_error x
  | ok a => exact hf a (hm.keep a rfl)

/-- A record update that leaves the queue and the ordering code keeps, if it keeps the memory bytes. -/
theorem keeps_mk {s u : State} {f w t m d c k di h mv ev dg p he mi hl mo b wi bd pr pi fr} :
    Keeps s (State.mk u.pending u.e384 f w t m d c k di h mv ev dg p he mi hl mo b wi bd pr pi fr) ↔
      u.pending = s.pending ∧ u.e384 = s.e384 ∧ (sparseWf s.mem.bytes = true → sparseWf m.bytes = true) :=
  ⟨fun g => ⟨g.queue, g.variant, g.memory⟩, fun g => ⟨g.1, g.2.1, g.2.2⟩⟩

theorem keeps_upd {s u : State} (g : Keeps s u) :
    u.pending = s.pending ∧ u.e384 = s.e384 ∧ (sparseWf s.mem.bytes = true → sparseWf u.mem.bytes = true) :=
  ⟨g.queue, g.variant, g.memory⟩

theorem keepsEff_done {s a : State} {c : Ctx} (h : Keeps s a) : KeepsEff s (.done a c) := ⟨fun _ e => Option.some.inj e ▸ h⟩

theorem keepsEff_trap {s a : State} {x y : Nat} {v w : Word} {c : Ctx} (h : Keeps s a) : KeepsEff s (.trap x y v w a c) :=
  ⟨fun _ e => Option.some.inj e ▸ h⟩

theorem keepsEff_wait {s a : State} {x : Nat} {c : Ctx} (h : Keeps s a) : KeepsEff s (.wait x a c) :=
  ⟨fun _ e => Option.some.inj e ▸ h⟩

theorem keepsEff_fail {s a : State} {x : Nat} {c : Ctx} (h : Keeps s a) : KeepsEff s (.fail x a c) :=
  ⟨fun _ e => Option.some.inj e ▸ h⟩

theorem keepsEff_stall {s : State} : KeepsEff s .stall := ⟨fun _ e => nomatch e⟩

theorem keepsS_inl {s : State} {p : State × Ctx} (h : Keeps s p.1) : KeepsS s (.inl p) :=
  ⟨fun _ e => Sum.inl.inj e ▸ h, (fun _ e => nomatch e)⟩

theorem keepsS_inr {s : State} {f : Effect} (h : KeepsEff s f) : KeepsS s (.inr f) :=
  ⟨(fun _ e => nomatch e), fun _ e => Sum.inr.inj e ▸ h⟩

theorem keeps_of_done {s a : State} {c : Ctx} {f : Effect} (e : f = .done a c) (h : KeepsEff s f) : Keeps s a := by
  subst e; exact h.keep a rfl

theorem keeps_of_trap {s a : State} {x y : Nat} {v w : Word} {c : Ctx} {f : Effect} (e : f = .trap x y v w a c) (h : KeepsEff s f) :
    Keeps s a := by subst e; exact h.keep a rfl

theorem keeps_of_wait {s a : State} {x : Nat} {c : Ctx} {f : Effect} (e : f = .wait x a c) (h : KeepsEff s f) : Keeps s a := by
  subst e; exact h.keep a rfl

theorem keeps_of_fail {s a : State} {x : Nat} {c : Ctx} {f : Effect} (e : f = .fail x a c) (h : KeepsEff s f) : Keeps s a := by
  subst e; exact h.keep a rfl

end Sys2Proof.Machine
end

