-- ==== Sys2Proof/Laws/KeepsOps.lean ====
section
/-! SUPPORT. What the memory, work-table, engine-area, tile and Mover operations keep: the queue, the ordering code and the canonical form of memory. -/

namespace Sys2Proof.Machine

/-! ### Ops -/

theorem State.setTile_keeps {s0 : State} (s : State) (t : Fin 64) (x : Tile) (hk : Keeps s0 s) : Keeps s0 (State.setTile s t x) :=
  Keeps.upd hk rfl rfl rfl

theorem State.updEntry_keeps {s0 : State} (s : State) (slot : Nat) (f : WorkEntry → WorkEntry) (hk : Keeps s0 s) : Keeps s0 (State.updEntry s slot f) :=
  Keeps.upd hk rfl rfl rfl

theorem State.holdWrite_keeps {s0 : State} (s : State) (w : HeldWrite) (hk : Keeps s0 s) : Keeps s0 (State.holdWrite s w) :=
  Keeps.upd hk rfl rfl rfl

theorem State.emitHost_keeps {s0 : State} (s : State) (w : HostWrite) (hk : Keeps s0 s) : Keeps s0 (State.emitHost s w) :=
  Keeps.upd hk rfl rfl rfl

theorem State.sendHost_keeps {s0 : State} (s : State) (inst : Nat) (w : HostWrite) (hk : Keeps s0 s) : Keeps s0 (State.sendHost s inst w) := by
  unfold State.sendHost
  repeat' first | (with_reducible first | assumption | apply State.holdWrite_keeps | apply State.emitHost_keeps) | split

theorem State.signalVector_keeps {s0 : State} (s : State) (inst : Nat) (vec : Nat) (hk : Keeps s0 s) : Keeps s0 (State.signalVector s inst vec) := by
  unfold State.signalVector
  dsimp only
  repeat' first | (with_reducible first | assumption | apply State.sendHost_keeps) | (simp only [keeps_mk]; refine keeps_upd ?_) | split

theorem State.raiseVector_keeps {s0 : State} (s : State) (inst : Nat) (vec : Nat) (hk : Keeps s0 s) : Keeps s0 (State.raiseVector s inst vec) := by
  unfold State.raiseVector
  repeat' first | (with_reducible first | assumption | apply State.signalVector_keeps) | (simp only [keeps_mk]; refine keeps_upd ?_) | split

theorem State.raiseAt_keeps {s0 : State} (s : State) (code : Nat) (severity : Nat) (loc : Nat) (detail : Nat) (arg : Nat) (hk : Keeps s0 s) : Keeps s0 (State.raiseAt s code severity loc detail arg) := by
  unfold State.raiseAt
  repeat' first | (with_reducible first | assumption | apply State.raiseVector_keeps) | (simp only [keeps_mk]; refine keeps_upd ?_) | split

theorem State.cacheFault_keeps {s0 : State} (s : State) (x : CacheError) (hk : Keeps s0 s) : Keeps s0 (State.cacheFault s x) :=
  State.raiseAt_keeps _ _ _ _ _ _ hk

theorem State.cacheDrop_keeps {s0 : State} (s : State) (ma : Nat) (hk : Keeps s0 s) : Keeps s0 (State.cacheDrop s ma) :=
  Keeps.upd hk rfl rfl rfl

theorem State.meetCacheError_keeps {s0 : State} (s : State) (x : CacheError) (hk : Keeps s0 s) : Keeps s0 (State.meetCacheError s x) := by
  unfold State.meetCacheError
  repeat' first | (with_reducible first | assumption | apply State.cacheFault_keeps | apply State.cacheDrop_keeps) | (simp only [keeps_mk]; refine keeps_upd ?_) | split

theorem State.meetCacheErrors_keeps {s0 : State} (s : State) (ma : Nat) (hk : Keeps s0 s) : Keeps s0 (State.meetCacheErrors s ma) := by
  unfold State.meetCacheErrors
  try dsimp only
  repeat' first | intro _ | (with_reducible first | assumption | apply State.meetCacheError_keeps | apply keeps_foldl) | split

theorem State.cacheFill_keeps {s0 : State} (s : State) (ma : Nat) (who : Nat) (recalled : Bool) (hk : Keeps s0 s) : Keeps s0 (State.cacheFill s ma who recalled) :=
  Keeps.upd hk rfl rfl rfl

theorem State.cacheLookup_keeps {s0 : State} (s1 : State) (ma : Nat) (who : Nat) (mayFill : Bool) (hk : Keeps s0 s1) : Keeps s0 (State.cacheLookup s1 ma who mayFill).1 := by
  unfold State.cacheLookup
  dsimp only
  repeat' first | (with_reducible first | assumption | apply State.meetCacheErrors_keeps | apply State.cacheFill_keeps) | (simp only [keeps_mk]; refine keeps_upd ?_) | split

theorem State.channelFault_keeps {s0 : State} (s : State) (c : Nat) (event : Nat) (burst : Nat) (ma : Nat) (hk : Keeps s0 s) : Keeps s0 (State.channelFault s c event burst ma) :=
  State.raiseAt_keeps _ _ _ _ _ _ hk

theorem State.poisonUnit_keeps {s0 : State} (s : State) (ma : Nat) (event : Nat) (burst : Nat) (hk : Keeps s0 s) : Keeps s0 (State.poisonUnit s ma event burst) := by
  unfold State.poisonUnit
  repeat' first | (with_reducible first | assumption | apply State.channelFault_keeps) | (simp only [keeps_mk]; refine keeps_upd ?_) | split

theorem State.fresh_keeps {s0 : State} (s : State) (hk : Keeps s0 s) : Keeps s0 (State.fresh s).2 :=
  Keeps.upd hk rfl rfl rfl

theorem State.checkBurst_keeps {s0 : State} (s : State) (symbols : Nat) (hk : Keeps s0 s) : Keeps s0 (State.checkBurst s symbols).2 := by
  unfold State.checkBurst
  repeat' first | (with_reducible first | assumption | apply State.fresh_keeps) | split

theorem State.checkBursts_keeps {s0 : State} (s : State) (l : Nat) (hk : Keeps s0 s) : Keeps s0 (State.checkBursts s l).2 := by
  unfold State.checkBursts
  try dsimp only
  repeat' first | intro _ | (with_reducible first | assumption | apply State.checkBurst_keeps | apply keeps_foldl | apply keeps_foldl_fst | apply keeps_foldl_snd | apply keeps_foldl_E | apply keeps_foldl_O | apply keeps_foldl_C | apply keeps_foldl_Eff | apply keepsE_bind) | (simp only [keeps_mk]; refine keeps_upd ?_) | split

theorem State.alterBurst_keeps {s0 : State} (s : State) (ma : Nat) (hk : Keeps s0 s) : Keeps s0 (State.alterBurst s ma) := by
  unfold State.alterBurst
  generalize leBytes 64 s.fresh.1 = bs
  exact ⟨hk.queue, hk.variant, fun w => putBytes_wf ma bs (hk.memory w)⟩

theorem State.alterBursts_keeps {s0 : State} (s : State) (ma : Nat) (l : List (BurstCheck × Nat)) (hk : Keeps s0 s) : Keeps s0 (State.alterBursts s ma l) := by
  unfold State.alterBursts
  try dsimp only
  repeat' first | intro _ | (with_reducible first | assumption | apply State.alterBurst_keeps | apply keeps_foldl) | split

theorem State.writeCheck_keeps {s0 : State} (s : State) (l : Nat) (hk : Keeps s0 s) : Keeps s0 (State.writeCheck s l) :=
  Keeps.upd hk rfl rfl rfl

theorem State.writeSlot_keeps {s0 : State} (s : State) (slot : Nat) (bytes : List Byte) (hk : Keeps s0 s) :
    Keeps s0 (s.writeSlot slot bytes) := by
  unfold State.writeSlot
  refine keeps_foldl (fun a l ha => State.writeCheck_keeps a l ha) ?_
  exact ⟨hk.queue, hk.variant, fun w => putBytes_wf _ _ (hk.memory w)⟩

theorem State.cleanUnit_keeps {s0 : State} (s : State) (l : Nat) (hk : Keeps s0 s) : Keeps s0 (State.cleanUnit s l) := by
  unfold State.cleanUnit
  repeat' first | (with_reducible first | assumption | apply State.writeCheck_keeps) | (simp only [keeps_mk]; refine keeps_upd ?_) | split

theorem State.correctUnit_keeps {s0 : State} (s : State) (ma : Nat) (event : Nat) (burst : Nat) (hk : Keeps s0 s) : Keeps s0 (State.correctUnit s ma event burst) := by
  unfold State.correctUnit
  repeat' first | (with_reducible first | assumption | apply State.cleanUnit_keeps | apply State.channelFault_keeps) | (simp only [keeps_mk]; refine keeps_upd ?_) | split

theorem State.readUnit_keeps {s0 : State} (s : State) (l : Nat) (scrub : Bool) (hk : Keeps s0 s) : Keeps s0 (State.readUnit s l scrub).1 := by
  unfold State.readUnit
  dsimp only
  repeat' first | (with_reducible first | assumption | apply State.poisonUnit_keeps | apply State.checkBursts_keeps | apply State.alterBursts_keeps | apply State.correctUnit_keeps | apply State.cleanUnit_keeps) | split

theorem State.updChannel_keeps {s0 : State} (s : State) (c : Nat) (f : Channel → Channel) (hk : Keeps s0 s) : Keeps s0 (State.updChannel s c f) := by
  unfold State.updChannel
  split <;> exact Keeps.upd hk rfl rfl rfl

theorem State.queueWrite_keeps {s0 : State} (s : State) (ma : Nat) (hk : Keeps s0 s) : Keeps s0 (State.queueWrite s ma) :=
  State.updChannel_keeps _ _ _ hk

theorem State.bufferLeave_keeps {s0 : State} (s : State) (slice : Nat) (n : Nat) (hk : Keeps s0 s) : Keeps s0 (State.bufferLeave s slice n) := by
  unfold State.bufferLeave
  try dsimp only
  repeat' first | intro _ | (with_reducible first | assumption | apply State.queueWrite_keeps | apply keeps_foldl) | (simp only [keeps_mk]; refine keeps_upd ?_) | split

theorem State.bufferMatch_keeps {s0 : State} (s : State) (ma : Nat) (hk : Keeps s0 s) : Keeps s0 (State.bufferMatch s ma) := by
  unfold State.bufferMatch
  dsimp only
  repeat' first | (with_reducible first | assumption | apply State.bufferLeave_keeps) | split

theorem State.dramRead_keeps {s0 : State} (s1 : State) (ma : Nat) (hk : Keeps s0 s1) : Keeps s0 (State.dramRead s1 ma) := by
  unfold State.dramRead
  dsimp only
  repeat' first | (with_reducible first | assumption | apply State.bufferMatch_keeps | apply State.updChannel_keeps) | (simp only [keeps_mk]; refine keeps_upd ?_) | split

theorem State.readLine_keeps {s0 : State} (s : State) (ma : Nat) (who : Nat) (mayFill : Bool) (hk : Keeps s0 s) : Keeps s0 (State.readLine s ma who mayFill).1 := by
  unfold State.readLine
  dsimp only
  repeat' first | (with_reducible first | assumption | apply State.cacheLookup_keeps | apply State.readUnit_keeps | apply State.dramRead_keeps | apply State.cacheFill_keeps) | (simp only [keeps_mk]; refine keeps_upd ?_) | split

theorem State.readRange_keeps {s0 : State} (s : State) (ma : Nat) (n : Nat) (who : Nat) (mayFill : Bool) (hk : Keeps s0 s) : Keeps s0 (State.readRange s ma n who mayFill).1 := by
  unfold State.readRange
  try dsimp only
  repeat' first | intro _ | (with_reducible first | assumption | apply State.readLine_keeps | apply keeps_foldl_fst) | split

theorem State.sumMerge_keeps {s0 : State} (s : State) (bs : List Byte) (hk : Keeps s0 s) : Keeps s0 (State.sumMerge s bs) :=
  Keeps.upd hk rfl rfl rfl

theorem State.markDirty_keeps {s0 : State} (s : State) (slot : Nat) (hk : Keeps s0 s) : Keeps s0 (State.markDirty s slot) :=
  Keeps.upd hk rfl rfl rfl

theorem State.dramWrite_keeps {s0 : State} (s : State) (ma : Nat) (hk : Keeps s0 s) : Keeps s0 (State.dramWrite s ma) := by
  unfold State.dramWrite
  repeat' first | (with_reducible first | assumption | apply State.queueWrite_keeps | apply State.bufferLeave_keeps) | (simp only [keeps_mk]; refine keeps_upd ?_) | split

theorem State.writeLine_keeps {s0 : State} (s : State) (l : Nat) (whole : Bool) (ps : List (Nat × List Byte)) (hk : Keeps s0 s) :
    Keeps s0 (s.writeLine l whole ps).1 := by
  have put : ∀ (u : State) (m : Sparse 8), Keeps s0 u → (sparseWf u.mem.bytes = true → sparseWf m = true) →
      Keeps s0 (((({ u with mem := { u.mem with bytes := m } } : State).cleanUnit l).dramWrite l).markDirty (l / slotBytes)) :=
    fun u m h g => State.markDirty_keeps _ _ (State.dramWrite_keeps _ _ (State.cleanUnit_keeps _ _ ⟨h.queue, h.variant, fun w => g (h.memory w)⟩))
  have hr := State.readUnit_keeps ({ s with dram := { s.dram with partialWrites := s.dram.partialWrites + 1 } } : State) l false
    (Keeps.upd hk rfl rfl rfl)
  unfold State.writeLine
  cases whole
  · generalize State.readUnit _ l false = r at hr ⊢
    obtain ⟨u, ok⟩ := r
    cases ok
    · exact State.cacheDrop_keeps _ _ hr
    · exact put _ _ hr fun w => putRuns_wf ps w
  · exact put { s with mem := { s.mem with poisoned := s.mem.poisoned.filter (· != l) } } _ (Keeps.upd hk rfl rfl rfl) fun w => putRuns_wf ps w

theorem State.writeMem_keeps {s0 : State} (s : State) (ma : Nat) (bs : List Byte) (hk : Keeps s0 s) : Keeps s0 (State.writeMem s ma bs).1 := by
  unfold State.writeMem
  try dsimp only
  repeat' first | intro _ | (with_reducible first | assumption | apply State.writeLine_keeps | apply keeps_foldl_fst) | split

theorem State.setTimeBase_keeps {s0 : State} (s : State) (v : Word) (hk : Keeps s0 s) : Keeps s0 (State.setTimeBase s v) := by
  unfold State.setTimeBase
  repeat' first | (with_reducible first | assumption | apply State.fresh_keeps) | (simp only [keeps_mk]; refine keeps_upd ?_) | split

theorem State.askSlot_keeps {s0 : State} (s : State) (slot : Nat) (hk : Keeps s0 s) : Keeps s0 (State.askSlot s slot) := by
  unfold State.askSlot
  split <;> exact Keeps.upd hk rfl rfl rfl

theorem State.raise_keeps {s0 : State} (s : State) (code : Nat) (severity : Nat) (arg : Nat) (hk : Keeps s0 s) : Keeps s0 (State.raise s code severity arg) :=
  State.raiseAt_keeps _ _ _ _ _ _ hk

theorem State.sumStore_keeps {s0 : State} (s : State) (ma : Nat) (bs : List Byte) (hk : Keeps s0 s) : Keeps s0 (State.sumStore s ma bs) :=
  Keeps.upd hk rfl rfl rfl

theorem State.sumOutput_keeps {s0 : State} (s : State) (crc : Nat) (hk : Keeps s0 s) : Keeps s0 (State.sumOutput s crc) :=
  Keeps.upd hk rfl rfl rfl

theorem State.failEntry_keeps {s0 : State} (s : State) (slot : Nat) (f : Failure) (hk : Keeps s0 s) : Keeps s0 (State.failEntry s slot f) :=
  State.updEntry_keeps _ _ _ hk

theorem State.emptyBuffers_keeps {s0 : State} (s : State) (hk : Keeps s0 s) : Keeps s0 (State.emptyBuffers s) := by
  unfold State.emptyBuffers
  try dsimp only
  repeat' first | intro _ | (with_reducible first | assumption | apply State.bufferLeave_keeps | apply keeps_foldl) | split

theorem State.setResident_keeps {s0 : State} (s : State) (slot : Nat) (on : Bool) (hk : Keeps s0 s) : Keeps s0 (State.setResident s slot on) := by
  unfold State.setResident
  split <;> exact Keeps.upd hk rfl rfl rfl

theorem State.strikeUnit_keeps {s0 : State} (s : State) (l : Nat) (symbols : List Nat) (hk : Keeps s0 s) : Keeps s0 (State.strikeUnit s l symbols) :=
  Keeps.upd hk rfl rfl rfl

/-! ### EngineArea -/

theorem State.writeTable_keeps {s0 : State} (s : State) (o : Nat) (v : Byte) (hk : Keeps s0 s) : Keeps s0 (State.writeTable s o v) :=
  Keeps.upd hk rfl rfl rfl

theorem State.writeResidency_keeps {s0 : State} (s : State) (o : Nat) (v : Byte) (hk : Keeps s0 s) : Keeps s0 (State.writeResidency s o v) := by
  unfold State.writeResidency
  try dsimp only
  repeat' first | intro _ | (with_reducible first | assumption | apply State.setResident_keeps | apply keeps_foldl) | split

theorem State.writeFirmware_keeps {s0 : State} (s : State) (o : Nat) (v : Byte) (hk : Keeps s0 s) : Keeps s0 (State.writeFirmware s o v) := by
  unfold State.writeFirmware
  repeat' split
  all_goals exact Keeps.upd hk rfl rfl rfl

theorem State.writeEngine_keeps {s0 : State} (s : State) (o : Nat) (v : Byte) (hk : Keeps s0 s) : Keeps s0 (State.writeEngine s o v) := by
  unfold State.writeEngine
  dsimp only
  repeat' first | (with_reducible first | assumption | apply State.writeTable_keeps | apply State.writeResidency_keeps | apply State.writeFirmware_keeps) | split

theorem State.moduleWrite_keeps {s0 : State} (s : State) (ma : Nat) (bs : List Byte) (hk : Keeps s0 s) : Keeps s0 (State.moduleWrite s ma bs) := by
  unfold State.moduleWrite
  try dsimp only
  repeat' first | intro _ | (with_reducible first | assumption | apply State.writeMem_keeps | apply State.writeEngine_keeps | apply keeps_foldl) | split

/-! ### TileOps -/

theorem State.noteWrite_keeps {s0 : State} (s : State) (d : BitVec 192) (off : Nat) (n : Nat) (hk : Keeps s0 s) : Keeps s0 (State.noteWrite s d off n) := by
  unfold State.noteWrite
  repeat' first | (with_reducible first | assumption | apply State.writeMem_keeps) | split

theorem State.failRestore_keeps {s0 : State} (s : State) (status : Nat) (hk : Keeps s0 s) : Keeps s0 (State.failRestore s status) :=
  Keeps.upd hk rfl rfl rfl

theorem State.awaitSlot_keeps {s0 : State} (s : State) (slot : Nat) (hk : Keeps s0 s) : Keeps s0 (State.awaitSlot s slot) := by
  unfold State.awaitSlot
  repeat' first | (with_reducible first | assumption | apply State.failRestore_keeps | apply State.askSlot_keeps) | split

theorem State.setHead_keeps {s0 : State} (s : State) (t : Fin 64) (c : Ctx) (hk : Keeps s0 s) : Keeps s0 (State.setHead s t c) :=
  State.setTile_keeps _ _ _ hk

theorem State.yieldTile_keeps {s0 : State} (s : State) (t : Fin 64) (hk : Keeps s0 s) : Keeps s0 (State.yieldTile s t) :=
  State.setTile_keeps _ _ _ hk

theorem State.tileFail_keeps {s0 : State} (s : State) (t : Fin 64) (c : Ctx) (status : Nat) (detail : Nat) (hk : Keeps s0 s) : Keeps s0 (State.tileFail s t c status detail) := by
  unfold State.tileFail
  repeat' first | (with_reducible first | assumption | apply State.yieldTile_keeps | apply State.failEntry_keeps | apply State.setHead_keeps) | split

theorem State.takeTrap_keeps {s0 : State} (s : State) (t : Fin 64) (c : Ctx) (w : Word) (cause : Nat) (status : Nat) (addr : Word) (info : Word) (hk : Keeps s0 s) : Keeps s0 (State.takeTrap s t c w cause status addr info) := by
  unfold State.takeTrap
  repeat' first | (with_reducible first | assumption | apply State.tileFail_keeps | apply State.setHead_keeps) | split

theorem State.tileWaits_keeps {s0 : State} (s : State) (t : Fin 64) (c : Ctx) (slot : Nat) (hk : Keeps s0 s) : Keeps s0 (State.tileWaits s t c slot) := by
  unfold State.tileWaits
  repeat' first | (with_reducible first | assumption | apply State.yieldTile_keeps | apply State.setHead_keeps | apply State.awaitSlot_keeps) | split

theorem State.conclude_keeps {s0 : State} (s : State) (t : Fin 64) (w : Word) (f : Effect) (hk : Keeps s0 s) (h : KeepsEff s0 f) :
    Keeps s0 (s.conclude t w f) := by
  cases f with
  | done a c => exact State.setHead_keeps _ _ _ (h.keep a rfl)
  | trap x y v z a c => exact State.takeTrap_keeps _ _ _ _ _ _ _ _ (h.keep a rfl)
  | wait x a c => exact State.tileWaits_keeps _ _ _ _ (h.keep a rfl)
  | fail x a c => exact State.tileFail_keeps _ _ _ _ _ (h.keep a rfl)
  | stall => exact hk

theorem State.endResetWaits_keeps {s0 : State} (s : State) (hk : Keeps s0 s) : Keeps s0 (State.endResetWaits s) :=
  Keeps.upd hk rfl rfl rfl

theorem scratchTrap_keeps {s0 : State} (index : Nat) (lane : Nat) (store : Bool) (s : State) (c : Ctx) (hk : Keeps s0 s) : KeepsEff s0 (scratchTrap index lane store s c) := by
  unfold scratchTrap
  repeat' first | (with_reducible first | assumption | apply keepsEff_done | apply keepsEff_trap | apply keepsEff_wait | apply keepsEff_fail | exact keepsEff_stall) | split

theorem stepOn_keeps {s0 : State} (s : State) (c : Ctx) (hk : Keeps s0 s) : KeepsEff s0 (stepOn s c) := by
  unfold stepOn
  repeat' first | (with_reducible first | assumption | apply keepsEff_done | apply keepsEff_trap | apply keepsEff_wait | apply keepsEff_fail | exact keepsEff_stall) | split

theorem runInstr_keeps {s0 : State} (t : Fin 64) (w : Word) (wh : Where) (reserved : Image → Bool)
    (sem : State → Ctx → WorkEntry → Image → Effect) (s : State) (hk : Keeps s0 s)
    (hs : ∀ u c e img, Keeps s0 u → KeepsEff s0 (sem u c e img)) : Keeps s0 (runInstr t w wh reserved sem s) := by
  unfold runInstr
  split
  · exact hk
  · repeat' split
    · exact State.yieldTile_keeps _ _ hk
    · exact State.takeTrap_keeps _ _ _ _ _ _ _ _ hk
    · exact hk
    · exact State.takeTrap_keeps _ _ _ _ _ _ _ _ hk
    · exact State.conclude_keeps _ _ _ _ hk (hs _ _ _ _ hk)

theorem branchTo_keeps {s0 : State} (target : BitVec 14) (s : State) (c : Ctx) (before : Ctx) (hk : Keeps s0 s) : KeepsEff s0 (branchTo target s c before) := by
  unfold branchTo
  repeat' first | (with_reducible first | assumption | apply keepsEff_done | apply keepsEff_trap | apply keepsEff_wait | apply keepsEff_fail | exact keepsEff_stall) | split

theorem segTrap_keeps {s0 : State} (check : Nat) (lane : Nat) (store : Bool) (addr : Word) (s : State) (c : Ctx) (hk : Keeps s0 s) : KeepsEff s0 (segTrap check lane store addr s c) := by
  unfold segTrap
  repeat' first | (with_reducible first | assumption | apply keepsEff_done | apply keepsEff_trap | apply keepsEff_wait | apply keepsEff_fail | exact keepsEff_stall) | split

theorem withLines_keeps {s0 : State} (s : State) (c : Ctx) (e : WorkEntry) (mas : List Nat) (k : State → Effect) (hk : Keeps s0 s)
    (hs : ∀ u, Keeps s0 u → KeepsEff s0 (k u)) : KeepsEff s0 (withLines s c e mas k) := by
  unfold withLines
  split
  · split
    · exact keepsEff_fail hk
    · exact keepsEff_wait hk
  · dsimp only
    have h1 : ∀ l : List Nat, Keeps s0 (l.foldl (fun (p : State × Bool) l =>
        let (s', b) := p.1.readLine l e.inst true; (s', p.2 && b)) (s, true)).1 :=
      fun l => keeps_foldl_fst (fun p x h => State.readLine_keeps _ _ _ _ h) hk
    split
    · exact hs _ (h1 _)
    · exact keepsEff_fail (h1 _)

theorem withStores_keeps {s0 : State} (s : State) (c : Ctx) (ws : List (Nat × List Byte)) (k : State → Effect) (hk : Keeps s0 s)
    (hs : ∀ u, Keeps s0 u → KeepsEff s0 (k u)) : KeepsEff s0 (withStores s c ws k) := by
  unfold withStores
  split
  · split
    · exact keepsEff_fail hk
    · exact keepsEff_wait hk
  · dsimp only
    have h1 : Keeps s0 (((ws.map fun w => lineOf w.1).foldr (fun x r => if r.contains x then r else x :: r) []).foldl
        (fun (p : State × Bool) l =>
          let ps := ws.filter fun w => lineOf w.1 == l
          let (s', b) := p.1.writeLine l (ps.any fun w => w.2.length == 192) ps
          (s', p.2 && b)) (s, true)).1 :=
      keeps_foldl_fst (fun p x h => State.writeLine_keeps _ _ _ _ h) hk
    have h2 : Keeps s0 (ws.foldl (fun (x : State) (w : Nat × List Byte) => x.sumStore w.1 w.2) (((ws.map fun w => lineOf w.1).foldr
        (fun x r => if r.contains x then r else x :: r) []).foldl (fun (p : State × Bool) l =>
          let ps := ws.filter fun w => lineOf w.1 == l
          let (s', b) := p.1.writeLine l (ps.any fun w => w.2.length == 192) ps
          (s', p.2 && b)) (s, true)).1) :=
      keeps_foldl (fun a x h => State.sumStore_keeps _ _ _ h) h1
    repeat' split
    all_goals first | exact hs _ h2 | exact hs _ h1 | exact keepsEff_fail h2 | exact keepsEff_fail h1

/-! ### Mover -/

theorem State.pulse_keeps {s0 : State} (s : State) (ch : Nat) (k : PulseKind) (d : MoverDesc) (hk : Keeps s0 s) : Keeps s0 (State.pulse s ch k d) :=
  Keeps.upd hk rfl rfl rfl

theorem State.releaseCarafe_keeps {s0 : State} (s : State) (d : MoverDesc) (hk : Keeps s0 s) : Keeps s0 (State.releaseCarafe s d) := by
  unfold State.releaseCarafe
  repeat' first | (with_reducible first | assumption | apply State.setTile_keeps) | split

theorem State.carafeSignalled_keeps {s0 : State} (s : State) (d : MoverDesc) (hk : Keeps s0 s) : Keeps s0 (State.carafeSignalled s d) := by
  unfold State.carafeSignalled
  repeat' first | (with_reducible first | assumption | apply State.updEntry_keeps) | split

theorem State.lateStatus_keeps {s0 : State} (s : State) (entry : Option Nat) (st : Nat) (hk : Keeps s0 s) : Keeps s0 (State.lateStatus s entry st) := by
  unfold State.lateStatus
  repeat' first | (with_reducible first | assumption | apply State.updEntry_keeps) | split

theorem State.errPulse_keeps {s0 : State} (s : State) (ch : Nat) (d : MoverDesc) (hk : Keeps s0 s) : Keeps s0 (State.errPulse s ch d) := by
  unfold State.errPulse
  repeat' first | (with_reducible first | assumption | apply State.pulse_keeps | apply State.releaseCarafe_keeps | apply State.carafeSignalled_keeps | apply State.lateStatus_keeps) | (simp only [keeps_mk]; refine keeps_upd ?_) | split

theorem State.setChannel_keeps {s0 : State} (s : State) (ch : Fin 32) (x : MvChannel) (hk : Keeps s0 s) : Keeps s0 (State.setChannel s ch x) :=
  Keeps.upd hk rfl rfl rfl

theorem State.closeHeld_keeps {s0 : State} (s : State) (ch : Nat) (d : MoverDesc) (hk : Keeps s0 s) : Keeps s0 (State.closeHeld s ch d) :=
  Keeps.upd hk rfl rfl rfl

theorem State.abandon_keeps {s0 : State} (s : State) (ch : Fin 32) (d : MoverDesc) (cause : Nat) (hk : Keeps s0 s) : Keeps s0 (State.abandon s ch d cause) := by
  unfold State.abandon
  repeat' first | (with_reducible first | assumption | apply State.errPulse_keeps | apply State.setChannel_keeps | apply State.closeHeld_keeps) | split

theorem State.countBytes_keeps {s0 : State} (s : State) (ch : Nat) (n : Nat) (hk : Keeps s0 s) : Keeps s0 (State.countBytes s ch n) :=
  Keeps.upd hk rfl rfl rfl

theorem State.carried_keeps {s0 : State} (s : State) (ch : Fin 32) (d : MoverDesc) (n : Nat) (hk : Keeps s0 s) : Keeps s0 (State.carried s ch d n) := by
  unfold State.carried
  repeat' first | (with_reducible first | assumption | apply State.pulse_keeps | apply State.countBytes_keeps) | split

theorem State.persistRead_keeps {s0 : State} (s : State) (ma : Nat) (n : Nat) (hk : Keeps s0 s) : Keeps s0 (State.persistRead s ma n) := by
  unfold State.persistRead
  repeat' first | (with_reducible first | assumption | apply State.fresh_keeps | apply State.carried_keeps) | split

theorem State.wrPulse_keeps {s0 : State} (s : State) (ch : Nat) (d : MoverDesc) (hk : Keeps s0 s) : Keeps s0 (State.wrPulse s ch d) := by
  unfold State.wrPulse
  repeat' first | (with_reducible first | assumption | apply State.carafeSignalled_keeps | apply State.pulse_keeps) | split

theorem State.releaseWrite_keeps {s0 : State} (s : State) (w : HeldWrite) (discard : Bool) (hk : Keeps s0 s) : Keeps s0 (State.releaseWrite s w discard) := by
  unfold State.releaseWrite
  repeat' first | (with_reducible first | assumption | apply State.sendHost_keeps | apply State.carried_keeps | apply State.fresh_keeps | apply State.countBytes_keeps | apply State.wrPulse_keeps) | split

theorem State.endHold_keeps {s0 : State} (s : State) (inst : Nat) (hk : Keeps s0 s) : Keeps s0 (State.endHold s inst) :=
  Keeps.upd hk rfl rfl rfl

theorem State.frontWrite_keeps {s0 : State} (s : State) (inst : Nat) (addr : Nat) (bs : List Byte) (hk : Keeps s0 s) : Keeps s0 (State.frontWrite s inst addr bs) := by
  unfold State.frontWrite
  repeat' first | (with_reducible first | assumption | apply State.sendHost_keeps | apply State.carried_keeps | apply State.fresh_keeps) | split

theorem State.dropDesc_keeps {s0 : State} (s : State) (ch : Fin 32) (d : MoverDesc) (hk : Keeps s0 s) : Keeps s0 (State.dropDesc s ch d) := by
  unfold State.dropDesc
  repeat' first | (with_reducible first | assumption | apply State.errPulse_keeps | apply State.setChannel_keeps) | split

theorem State.dropChain_keeps {s0 : State} (s : State) (ch : Fin 32) (n : Nat) (seen : List Nat) (a : Nat) (hk : Keeps s0 s) :
    Keeps s0 (State.dropChain s ch n seen a) := by
  induction n generalizing s seen a with
  | zero => exact hk
  | succ n ih =>
    unfold State.dropChain
    split
    · exact hk
    · exact ih _ _ _ (State.dropDesc_keeps _ _ _ hk)

theorem State.dropHead_keeps {s0 : State} (s : State) (ch : Fin 32) (h : ChainHead) (hk : Keeps s0 s) : Keeps s0 (State.dropHead s ch h) := by
  unfold State.dropHead
  repeat' first | (with_reducible first | assumption | apply State.dropDesc_keeps | apply State.dropChain_keeps) | split

theorem State.appendHead_keeps {s0 : State} (s : State) (ch : Fin 32) (h : ChainHead) (hk : Keeps s0 s) : Keeps s0 (State.appendHead s ch h) := by
  unfold State.appendHead
  dsimp only
  repeat' first | (with_reducible first | assumption | apply State.dropHead_keeps | apply State.setChannel_keeps) | split

theorem State.carryFails_keeps {s0 : State} (s : State) (ch : Fin 32) (d : MoverDesc) (n : Nat) (cause : Nat) (hk : Keeps s0 s) : Keeps s0 (State.carryFails s ch d n cause) := by
  unfold State.carryFails
  repeat' first | (with_reducible first | assumption | apply State.countBytes_keeps | apply State.errPulse_keeps | apply State.setChannel_keeps) | split

theorem State.finishSquash_keeps {s0 : State} (s : State) (n : Nat) (f : Nat) (hk : Keeps s0 s) : Keeps s0 (State.finishSquash s n f) :=
  Keeps.upd hk rfl rfl rfl

theorem State.resetDone_keeps {s0 : State} (s : State) (n : Nat) (f : Nat) (hk : Keeps s0 s) : Keeps s0 (State.resetDone s n f) := by
  unfold State.resetDone
  repeat' first | (with_reducible first | assumption | apply State.raise_keeps | apply State.finishSquash_keeps) | (simp only [keeps_mk]; refine keeps_upd ?_) | split

theorem State.completeDrained_keeps {s0 : State} (s : State) (f : Nat) (hk : Keeps s0 s) : Keeps s0 (State.completeDrained s f) := by
  unfold State.completeDrained
  try dsimp only
  repeat' first | intro _ | (with_reducible first | assumption | apply State.resetDone_keeps | apply keeps_foldl) | (simp only [keeps_mk]; refine keeps_upd ?_) | split

theorem State.drainedResets_keeps {s0 : State} (s : State) (hk : Keeps s0 s) : Keeps s0 (State.drainedResets s) :=
  State.completeDrained_keeps _ _ hk

theorem State.chDisable_keeps {s0 : State} (s : State) (ch : Fin 32) (on : Bool) (hk : Keeps s0 s) : Keeps s0 (State.chDisable s ch on) := by
  unfold State.chDisable
  try dsimp only
  repeat' first | intro _ | (with_reducible first | assumption | apply State.setChannel_keeps | apply State.dropDesc_keeps | apply State.dropHead_keeps | apply State.drainedResets_keeps | apply keeps_foldl) | (simp only [keeps_mk]; refine keeps_upd ?_) | split

theorem State.chPause_keeps {s0 : State} (s : State) (ch : Fin 32) (on : Bool) (hk : Keeps s0 s) : Keeps s0 (State.chPause s ch on) :=
  State.setChannel_keeps _ _ _ hk

theorem State.loseHost_keeps {s0 : State} (s : State) (entry : Option Nat) (hk : Keeps s0 s) : Keeps s0 (State.loseHost s entry) := by
  unfold State.loseHost
  repeat' first | (with_reducible first | assumption | apply State.lateStatus_keeps) | (simp only [keeps_mk]; refine keeps_upd ?_) | split

theorem State.unitWrite_keeps {s0 : State} (s : State) (ch : Fin 32) (inst : Nat) (slot : Nat) (addr : Nat) (bs : List Byte) (ro : Bool) (hk : Keeps s0 s) : Keeps s0 (State.unitWrite s ch inst slot addr bs ro) := by
  unfold State.unitWrite
  repeat' first | (with_reducible first | assumption | apply State.fresh_keeps | apply State.holdWrite_keeps | apply State.pulse_keeps | apply State.loseHost_keeps | apply State.carried_keeps | apply State.sendHost_keeps) | split

theorem State.frontRead_keeps {s0 : State} (s : State) (inst : Nat) (n : Nat) (good : Bool) (hk : Keeps s0 s) : Keeps s0 (State.frontRead s inst n good) := by
  unfold State.frontRead
  repeat' first | (with_reducible first | assumption | apply State.fresh_keeps | apply State.carried_keeps | apply State.carryFails_keeps) | split

theorem State.refuseDesc_keeps {s0 : State} (s : State) (ch : Fin 32) (d : MoverDesc) (cause : Nat) (hk : Keeps s0 s) : Keeps s0 (State.refuseDesc s ch d cause) := by
  unfold State.refuseDesc
  repeat' first | (with_reducible first | assumption | apply State.errPulse_keeps | apply State.setChannel_keeps) | split

theorem State.fetchAt_keeps {s0 : State} (s : State) (ch : Fin 32) (a : Nat) (hk : Keeps s0 s) : Keeps s0 (State.fetchAt s ch a) := by
  unfold State.fetchAt
  try dsimp only
  repeat' first | intro _ | (with_reducible first | assumption | apply State.readRange_keeps | apply State.refuseDesc_keeps | apply State.setChannel_keeps | apply State.awaitSlot_keeps | apply keeps_foldl) | split

theorem State.rdPulse_keeps {s0 : State} (s : State) (ch : Nat) (d : MoverDesc) (hk : Keeps s0 s) : Keeps s0 (State.rdPulse s ch d) := by
  unfold State.rdPulse
  repeat' first | (with_reducible first | assumption | apply State.releaseCarafe_keeps | apply State.pulse_keeps) | split

theorem State.finishDesc_keeps {s0 : State} (s : State) (ch : Fin 32) (d : MoverDesc) (hk : Keeps s0 s) : Keeps s0 (State.finishDesc s ch d) := by
  unfold State.finishDesc
  dsimp only
  repeat' first | (with_reducible first | assumption | apply State.rdPulse_keeps | apply State.setChannel_keeps | apply State.closeHeld_keeps | apply State.wrPulse_keeps) | split

theorem State.holdBurst_keeps {s0 : State} (s : State) (ch : Fin 32) (d : MoverDesc) (off : Nat) (bs : List Byte) (hk : Keeps s0 s) : Keeps s0 (State.holdBurst s ch d off bs) := by
  unfold State.holdBurst
  repeat' first | (with_reducible first | assumption | apply State.countBytes_keeps | apply State.holdWrite_keeps) | split

theorem State.loseDesc_keeps {s0 : State} (s : State) (ch : Fin 32) (d : MoverDesc) (hk : Keeps s0 s) : Keeps s0 (State.loseDesc s ch d) := by
  unfold State.loseDesc
  repeat' first | (with_reducible first | assumption | apply State.loseHost_keeps | apply State.setChannel_keeps) | split

theorem State.readBurst_keeps {s0 : State} (s : State) (d : MoverDesc) (b : Burst) (res : BurstResult) (hk : Keeps s0 s) : Keeps s0 (State.readBurst s d b res).1 := by
  unfold State.readBurst
  repeat' first | (with_reducible first | assumption | apply State.readRange_keeps | apply keepsE_ok | exact keepsE_error _) | split

theorem State.writeBurst_keeps {s0 : State} (s : State) (ch : Fin 32) (d : MoverDesc) (off : Nat) (bs : List Byte) (hk : Keeps s0 s) : Keeps s0 (State.writeBurst s ch d off bs) := by
  unfold State.writeBurst
  repeat' first | (with_reducible first | assumption | apply State.sendHost_keeps | apply State.countBytes_keeps | apply State.holdBurst_keeps | apply State.setChannel_keeps | apply State.loseDesc_keeps | apply State.moduleWrite_keeps | apply State.sumStore_keeps) | (simp only [keeps_mk]; refine keeps_upd ?_) | split

theorem execChAppend_keeps {s0 : State} (ch : Fin 32) (acc : RegAccess) (v : BitVec 64) (s : State) (hk : Keeps s0 s) : KeepsOut s0 (execChAppend ch acc v s) := by
  refine keepsOut_next ?_
  repeat' first | (with_reducible first | assumption | apply State.appendHead_keeps) | split

theorem execDescriptorFetch_keeps {s0 : State} (ch : Fin 32) (s : State) (hk : Keeps s0 s) : KeepsOut s0 (execDescriptorFetch ch s) := by
  refine keepsOut_next ?_
  repeat' first | (with_reducible first | assumption | apply State.fetchAt_keeps | apply State.setChannel_keeps) | split

theorem execBurstStart_keeps {s0 : State} (s : State) (hk : Keeps s0 s) : KeepsOut s0 (execBurstStart s) := by
  refine keepsOut_next ?_
  dsimp only
  repeat' first | (with_reducible first | assumption | apply State.setChannel_keeps) | (simp only [keeps_mk]; refine keeps_upd ?_) | split

theorem execPacingIntervalExpiry_keeps {s0 : State} (ch : Fin 32) (s : State) (hk : Keeps s0 s) : KeepsOut s0 (execPacingIntervalExpiry ch s) :=
  keepsOut_next (State.setChannel_keeps _ _ _ hk)

theorem execBurstReadComplete_keeps {s0 : State} (ch : Fin 32) (res : BurstResult) (s : State) (hk : Keeps s0 s) : KeepsOut s0 (execBurstReadComplete ch res s) := by
  refine keepsOut_next ?_
  try dsimp only
  repeat' first | intro _ | (with_reducible first | assumption | apply State.readBurst_keeps | apply State.drainedResets_keeps | apply State.abandon_keeps | apply State.setChannel_keeps | apply State.writeBurst_keeps | apply State.finishDesc_keeps | apply keeps_foldl) | (simp only [keeps_mk]; refine keeps_upd ?_) | split | with_reducible refine keeps_fst ‹_ = (_, _)› ?_

theorem execChPause_keeps {s0 : State} (ch : Fin 32) (on : Bool) (s : State) (hk : Keeps s0 s) : KeepsOut s0 (execChPause ch on s) :=
  keepsOut_next (State.chPause_keeps _ _ _ hk)

theorem execChDisable_keeps {s0 : State} (ch : Fin 32) (on : Bool) (s : State) (hk : Keeps s0 s) : KeepsOut s0 (execChDisable ch on s) :=
  keepsOut_next (State.chDisable_keeps _ _ _ hk)

theorem execChErrorClear_keeps {s0 : State} (ch : Fin 32) (s : State) (hk : Keeps s0 s) : KeepsOut s0 (execChErrorClear ch s) :=
  keepsOut_next (State.setChannel_keeps _ _ _ hk)

theorem execHostReadTimeout_keeps {s0 : State} (ch : Fin 32) (s : State) (hk : Keeps s0 s) : KeepsOut s0 (execHostReadTimeout ch s) := by
  refine keepsOut_next ?_
  repeat' first | (with_reducible first | assumption | apply State.drainedResets_keeps | apply State.abandon_keeps) | split

end Sys2Proof.Machine
end

