-- ==== Sys2Proof/Laws/KeepsHost.lean ====
section
/-! SUPPORT. What the array, digest and host-interface operations keep: the queue, the ordering code and the canonical form of memory. -/

namespace Sys2Proof.Machine

/-! ### Kma -/

theorem andThen_keeps {s0 : State} (r : Except Nat State) (k : State → Except Nat State) (hk : KeepsE s0 r)
    (hs : ∀ u, Keeps s0 u → KeepsE s0 (k u)) : KeepsE s0 (andThen r k) := by
  unfold andThen
  split
  · exact keepsE_error _
  · exact hs _ (hk.keep _ rfl)

theorem State.mergeRead_keeps {s0 : State} (s : State) (ma : Nat) (n : Nat) (hk : Keeps s0 s) : KeepsE s0 (State.mergeRead s ma n) := by
  unfold State.mergeRead
  dsimp only
  repeat' first | (with_reducible first | assumption | apply State.readRange_keeps | apply keepsE_ok | exact keepsE_error _) | split

theorem State.kmaFault_keeps {s0 : State} (s : State) (event : Nat) (pos : Nat) (hk : Keeps s0 s) : Keeps s0 (State.kmaFault s event pos) :=
  State.raiseAt_keeps _ _ _ _ _ _ hk

theorem State.readSramWord_keeps {s0 : State} (s : State) (x : Nat × Nat × Nat) (hk : Keeps s0 s) : Keeps s0 (State.readSramWord s x) := by
  unfold State.readSramWord
  repeat' first | (with_reducible first | assumption | apply State.kmaFault_keeps) | (simp only [keeps_mk]; refine keeps_upd ?_) | split

theorem State.readSram_keeps {s0 : State} (s : State) (words : Nat) (pos : Nat) (hk : Keeps s0 s) : Keeps s0 (State.readSram s words pos) := by
  unfold State.readSram
  try dsimp only
  repeat' first | intro _ | (with_reducible first | assumption | apply State.readSramWord_keeps | apply keeps_foldl) | split

theorem State.readEntry_keeps {s0 : State} (s : State) (pos : Nat) (hk : Keeps s0 s) : Keeps s0 (State.readEntry s pos) :=
  State.readSram_keeps _ _ _ hk

theorem State.moveEntries_keeps {s0 : State} (s : State) (moved : List (Nat × KmaEntry)) (k : State → State) (hk : Keeps s0 s)
    (hs : ∀ u, Keeps s0 u → Keeps s0 (k u)) : KeepsE s0 (State.moveEntries s moved k) := by
  unfold State.moveEntries
  split
  · exact keepsE_error _
  · exact keepsE_ok (hs _ (keeps_foldl (fun a x h => State.readEntry_keeps _ _ h) hk))

theorem State.kmaPut_keeps {s0 : State} (s : State) (pos : Nat) (e : KmaEntry) (hk : Keeps s0 s) : Keeps s0 (State.kmaPut s pos e) :=
  Keeps.upd hk rfl rfl rfl

theorem State.setGroup_keeps {s0 : State} (s : State) (tb : KmaTable) (g : Nat) (es : List KmaEntry) (hk : Keeps s0 s) : Keeps s0 (State.setGroup s tb g es) := by
  unfold State.setGroup
  try dsimp only
  repeat' first | intro _ | (with_reducible first | assumption | apply State.kmaPut_keeps | apply keeps_foldl) | (simp only [keeps_mk]; refine keeps_upd ?_) | split

theorem State.updTable_keeps {s0 : State} (s : State) (inst : Nat) (tag : Nat) (f : KmaTable → KmaTable) (hk : Keeps s0 s) : Keeps s0 (State.updTable s inst tag f) :=
  Keeps.upd hk rfl rfl rfl

theorem countRebalance_keeps {s0 : State} (s : State) (tb : KmaTable) (n : Nat) (hk : Keeps s0 s) : Keeps s0 (countRebalance s tb n) := by
  unfold countRebalance
  repeat' first | (with_reducible first | assumption | apply State.updTable_keeps) | (simp only [keeps_mk]; refine keeps_upd ?_) | split

theorem shiftUp_keeps {s0 : State} (s : State) (tb : KmaTable) (n : Nat) (g : Nat) (hk : Keeps s0 s) : Keeps s0 (shiftUp s tb n g) := by
  induction n generalizing s g with
  | zero => exact hk
  | succ n ih => exact ih _ _ (State.setGroup_keeps _ _ _ _ (State.setGroup_keeps _ _ _ _ hk))

theorem shiftDown_keeps {s0 : State} (s : State) (tb : KmaTable) (n : Nat) (g : Nat) (hk : Keeps s0 s) : Keeps s0 (shiftDown s tb n g) := by
  induction n generalizing s g with
  | zero => exact hk
  | succ n ih => exact ih _ _ (State.setGroup_keeps _ _ _ _ (State.setGroup_keeps _ _ _ _ hk))

theorem State.orderedPut_keeps {s0 : State} (s : State) (tb : KmaTable) (e : KmaEntry) (hk : Keeps s0 s) : KeepsE s0 (State.orderedPut s tb e) := by
  unfold State.orderedPut
  try dsimp only
  repeat' first | intro _ | (with_reducible first | assumption | apply State.moveEntries_keeps | apply State.setGroup_keeps | apply countRebalance_keeps | apply shiftUp_keeps | apply shiftDown_keeps | apply keepsE_ok | exact keepsE_error _ | apply keeps_foldl) | split

theorem State.tablePut_keeps {s0 : State} (s : State) (tb : KmaTable) (e : KmaEntry) (hk : Keeps s0 s) : KeepsE s0 (State.tablePut s tb e) := by
  unfold State.tablePut
  split
  · exact State.orderedPut_keeps _ _ _ hk
  · cases s.hashPlace tb e.key with
    | none => exact keepsE_error _
    | some p => exact keepsE_ok (State.kmaPut_keeps _ _ _ hk)

theorem State.mergeWrite_keeps {s0 : State} (s : State) (d : BitVec 192) (off : Nat) (bs : List Byte) (hk : Keeps s0 s) : KeepsE s0 (State.mergeWrite s d off bs) := by
  unfold State.mergeWrite
  dsimp only
  repeat' first | (with_reducible first | assumption | apply State.writeMem_keeps | apply State.noteWrite_keeps | apply keepsE_ok | exact keepsE_error _) | split

theorem State.dictAdd_keeps {s0 : State} (s : State) (tb : KmaTable) (d : BitVec 192) (key : DWord) (str : List Byte) (hk : Keeps s0 s) : KeepsE s0 (State.dictAdd s tb d key str) := by
  unfold State.dictAdd
  try dsimp only
  repeat' first | intro _ | (with_reducible first | assumption | apply andThen_keeps | apply State.tablePut_keeps | apply State.mergeWrite_keeps | apply keepsE_ok | exact keepsE_error _ | apply keeps_foldl) | split

theorem State.dictInsert_keeps {s0 : State} (s : State) (tb : KmaTable) (key : DWord) (payload : Quad) (hk : Keeps s0 s) : KeepsE s0 (State.dictInsert s tb key payload) := by
  unfold State.dictInsert
  try dsimp only
  repeat' first | intro _ | (with_reducible first | assumption | apply andThen_keeps | apply State.mergeRead_keeps | apply State.dictAdd_keeps | apply keepsE_ok | exact keepsE_error _ | apply keeps_foldl) | split

theorem State.spillWrite_keeps {s0 : State} (s : State) (d : BitVec 192) (p : Nat) (key : DWord) (payload : Quad) (prio : Nat) (valid : Nat) (kind : Nat) (hk : Keeps s0 s) : KeepsE s0 (State.spillWrite s d p key payload prio valid kind) := by
  unfold State.spillWrite
  try dsimp only
  repeat' first | intro _ | (with_reducible first | assumption | apply andThen_keeps | apply State.mergeWrite_keeps | apply keepsE_ok | exact keepsE_error _ | apply keeps_foldl) | split

theorem State.spillAll_keeps {s0 : State} (s : State) (d : BitVec 192) (p : Nat) (kind : Nat) (l : List KmaEntry) (hk : Keeps s0 s) :
    KeepsE s0 (State.spillAll s d p kind l) :=
  keeps_foldl_E (fun _ _ h => andThen_keeps _ _ h fun _ hu => State.spillWrite_keeps _ _ _ _ _ _ _ _ hu) (keepsE_ok hk)

theorem State.spillPartition_keeps {s0 : State} (s : State) (tb : KmaTable) (agg : Bool) (p : Nat) (hk : Keeps s0 s) : KeepsE s0 (State.spillPartition s tb agg p) := by
  unfold State.spillPartition
  try dsimp only
  repeat' first | intro _ | (with_reducible first | assumption | apply State.readEntry_keeps | apply andThen_keeps | apply State.mergeWrite_keeps | apply State.spillAll_keeps | apply State.updTable_keeps | apply keepsE_ok | exact keepsE_error _ | apply keeps_foldl) | (simp only [keeps_mk]; refine keeps_upd ?_) | split

theorem State.spillInstead_keeps {s0 : State} (s : State) (tb : KmaTable) (round : Bool) (agg : Bool) (st : Nat) (key : DWord) (payload : Quad) (prio : Nat) (valid : Nat) (kind : Nat) (hk : Keeps s0 s) : KeepsE s0 (State.spillInstead s tb round agg st key payload prio valid kind) := by
  unfold State.spillInstead
  try dsimp only
  repeat' first | intro _ | (with_reducible first | assumption | apply andThen_keeps | apply State.spillPartition_keeps | apply State.spillWrite_keeps | apply keepsE_ok | exact keepsE_error _ | apply keeps_foldl) | split

theorem State.entryInsert_keeps {s0 : State} (s : State) (tb : KmaTable) (round : Bool) (key : DWord) (prio : Nat) (payload : Quad) (hk : Keeps s0 s) : KeepsE s0 (State.entryInsert s tb round key prio payload) := by
  unfold State.entryInsert
  try dsimp only
  repeat' first | intro _ | (with_reducible first | assumption | apply State.spillWrite_keeps | apply State.tablePut_keeps | apply State.spillInstead_keeps | apply keepsE_ok | exact keepsE_error _ | apply keeps_foldl) | (simp only [keeps_mk]; refine keeps_upd ?_) | split | with_reducible refine keeps_ok ‹_ = Except.ok _› ?_

theorem State.mergeInsert_keeps {s0 : State} (s : State) (tb : KmaTable) (round : Bool) (key : DWord) (prio : Nat) (payload : Quad) (hk : Keeps s0 s) : KeepsE s0 (State.mergeInsert s tb round key prio payload) := by
  unfold State.mergeInsert
  repeat' first | (with_reducible first | assumption | apply State.dictInsert_keeps | apply State.entryInsert_keeps | apply keepsE_ok | exact keepsE_error _) | split

theorem State.mergeUpdate_keeps {s0 : State} (s : State) (tb : KmaTable) (round : Bool) (ops : Nat) (key : DWord) (f : Quad → Quad) (src : Quad) (valid : Nat) (kind : Nat) (hk : Keeps s0 s) : KeepsE s0 (State.mergeUpdate s tb round ops key f src valid kind) := by
  unfold State.mergeUpdate
  try dsimp only
  repeat' first | intro _ | (with_reducible first | assumption | apply State.spillWrite_keeps | apply State.kmaPut_keeps | apply State.tablePut_keeps | apply State.spillInstead_keeps | apply keepsE_ok | exact keepsE_error _ | apply keeps_foldl) | (simp only [keeps_mk]; refine keeps_upd ?_) | split | with_reducible refine keeps_ok ‹_ = Except.ok _› ?_

theorem State.updateRow_keeps {s0 : State} (ops : Nat) (round : Bool) (inst : Nat) (tag : Nat) (key : DWord) (r : Except Nat State)
    (row : Quad × BitVec 4) (hk : KeepsE s0 r) : KeepsE s0 (State.updateRow ops round inst tag key r row) := by
  refine andThen_keeps _ _ hk fun u hu => ?_
  split
  · exact keepsE_ok hu
  · exact State.mergeUpdate_keeps _ _ _ _ _ _ _ _ _ hu

theorem State.mergeRecord_keeps {s0 : State} (s : State) (tb : KmaTable) (round : Bool) (ops : Nat) (k : RecordKind) (hk : Keeps s0 s) :
    KeepsE s0 (State.mergeRecord s tb round ops k) := by
  cases k with
  | insert key prio payload => exact State.mergeInsert_keeps _ _ _ _ _ _ hk
  | update key src valid => exact State.updateRow_keeps _ _ _ _ _ _ _ (keepsE_ok hk)
  | group g => exact keeps_foldl_E (fun _ _ h => State.updateRow_keeps _ _ _ _ _ _ _ h) (keepsE_ok hk)
  | header => exact keepsE_ok hk

theorem State.clearTable_keeps {s0 : State} (s : State) (inst : Nat) (tag : Nat) (hk : Keeps s0 s) : Keeps s0 (State.clearTable s inst tag) :=
  Keeps.upd hk rfl rfl rfl

theorem State.dropTable_keeps {s0 : State} (s : State) (inst : Nat) (tag : Nat) (hk : Keeps s0 s) : Keeps s0 (State.dropTable s inst tag) := by
  unfold State.dropTable
  repeat' first | (with_reducible first | assumption | apply State.clearTable_keeps) | (simp only [keeps_mk]; refine keeps_upd ?_) | split

theorem State.placeTable_keeps {s0 : State} (s : State) (p : TableSpec) (hk : Keeps s0 s) : Keeps s0 (State.placeTable s p) :=
  Keeps.upd hk rfl rfl rfl

theorem State.rewriteRow_keeps {s0 : State} (s : State) (pos : Nat) (hk : Keeps s0 s) : Keeps s0 (State.rewriteRow s pos) := by
  unfold State.rewriteRow
  dsimp only
  repeat' first | (with_reducible first | assumption | apply State.kmaFault_keeps) | (simp only [keeps_mk]; refine keeps_upd ?_) | split

theorem State.discardMatch_keeps {s0 : State} (s : State) (pos : Nat) (hk : Keeps s0 s) : Keeps s0 (State.discardMatch s pos) := by
  unfold State.discardMatch
  repeat' first | (with_reducible first | assumption | apply State.rewriteRow_keeps | apply State.kmaFault_keeps) | (simp only [keeps_mk]; refine keeps_upd ?_) | split

theorem State.verify_keeps {s0 : State} (s : State) (t : KmaTable) (key : DWord) (hk : Keeps s0 s) : Keeps s0 (State.verify s t key) := by
  unfold State.verify
  try dsimp only
  repeat' first | intro _ | (with_reducible first | assumption | apply State.discardMatch_keeps | apply State.readEntry_keeps | apply keeps_foldl) | split

/-! ### DigestOps -/

theorem State.setHandle_keeps {s0 : State} (s : State) (n : Nat) (x : Handle) (hk : Keeps s0 s) : Keeps s0 (State.setHandle s n x) :=
  Keeps.upd hk rfl rfl rfl

theorem State.grantFirst_keeps {s0 : State} (n : Nat) (s : State) (hk : Keeps s0 s) : Keeps s0 (State.grantFirst n s) := by
  induction n generalizing s with
  | zero => exact hk
  | succ n ih =>
    have h1 : ∀ q, Keeps s0 { s with digest := { s.digest with queue := q } } := fun q => Keeps.upd hk rfl rfl rfl
    unfold State.grantFirst
    split
    · dsimp only
      split
      · exact ih _ (State.setHandle_keeps _ _ _ (h1 _))
      · exact State.setHandle_keeps _ _ _ (h1 _)
    · exact hk

theorem State.grantContext_keeps {s0 : State} (s : State) (hk : Keeps s0 s) : Keeps s0 (State.grantContext s) := by
  unfold State.grantContext
  repeat' first | (with_reducible first | assumption | apply State.grantFirst_keeps) | split

theorem State.releaseHandles_keeps {s0 : State} (s : State) (inst : Nat) (reset : Bool) (hk : Keeps s0 s) : Keeps s0 (State.releaseHandles s inst reset) := by
  unfold State.releaseHandles
  try dsimp only
  repeat' first | intro _ | (with_reducible first | assumption | apply State.grantContext_keeps | apply keeps_foldl) | (simp only [keeps_mk]; refine keeps_upd ?_) | split

theorem State.hashOn_keeps {s0 : State} (s : State) (n : Fin 3) (alg : Nat) (key : Option (List Byte)) (m : List Byte) (hk : Keeps s0 s) : Keeps s0 (State.hashOn s n alg key m) :=
  Keeps.upd hk rfl rfl rfl

theorem State.putKey_keeps {s0 : State} (s : State) (slot : Nat) (k : List Byte) (hk : Keeps s0 s) : Keeps s0 (State.putKey s slot k) :=
  Keeps.upd hk rfl rfl rfl

theorem State.digestAbort_keeps {s0 : State} (s : State) (n : Nat) (hk : Keeps s0 s) : Keeps s0 (State.digestAbort s n) := by
  unfold State.digestAbort
  dsimp only
  repeat' first | (with_reducible first | assumption | apply State.setHandle_keeps) | split

theorem State.digestOpen_keeps {s0 : State} (s : State) (n : Nat) (hk : Keeps s0 s) : Keeps s0 (State.digestOpen s n) := by
  unfold State.digestOpen
  dsimp only
  repeat' first | (with_reducible first | assumption | apply State.setHandle_keeps) | (simp only [keeps_mk]; refine keeps_upd ?_) | split

theorem State.digestClose_keeps {s0 : State} (s : State) (n : Nat) (hk : Keeps s0 s) : Keeps s0 (State.digestClose s n) := by
  unfold State.digestClose
  dsimp only
  repeat' first | (with_reducible first | assumption | apply State.setHandle_keeps | apply State.grantContext_keeps) | (simp only [keeps_mk]; refine keeps_upd ?_) | split

theorem State.digestCompare_keeps {s0 : State} (s : State) (n : Nat) (hk : Keeps s0 s) : Keeps s0 (State.digestCompare s n) := by
  unfold State.digestCompare
  dsimp only
  repeat' first | (with_reducible first | assumption | apply State.setHandle_keeps) | split

theorem State.digestKeymsg_keeps {s0 : State} (s : State) (n : Nat) (slot : Nat) (hk : Keeps s0 s) : Keeps s0 (State.digestKeymsg s n slot) := by
  unfold State.digestKeymsg
  repeat' first | (with_reducible first | assumption | apply State.setHandle_keeps) | split

theorem State.digestLast_keeps {s0 : State} (s : State) (n : Nat) (v : Word) (valid : Nat) (hk : Keeps s0 s) : Keeps s0 (State.digestLast s n v valid) := by
  unfold State.digestLast
  dsimp only
  repeat' first | (with_reducible first | assumption | apply State.setHandle_keeps) | split

theorem State.digestDo_keeps {s0 : State} (s : State) (n : Nat) (op : DigestOp) (hk : Keeps s0 s) : Keeps s0 (State.digestDo s n op) := by
  unfold State.digestDo
  dsimp only
  repeat' first | (with_reducible first | assumption | apply State.digestOpen_keeps | apply State.digestAbort_keeps | apply State.digestClose_keeps | apply State.digestCompare_keeps | apply State.setHandle_keeps | apply State.digestKeymsg_keeps | apply State.digestLast_keeps) | split

theorem State.digestAt_keeps {s0 : State} (s : State) (fn : Fin 64) (h : Fin 16) (op : DigestOp) (hk : Keeps s0 s) : Keeps s0 (State.digestAt s fn h op) := by
  unfold State.digestAt
  dsimp only
  repeat' first | (with_reducible first | assumption | apply State.setHandle_keeps | apply State.digestDo_keeps) | split

theorem State.digestCtrl_keeps {s0 : State} (s : State) (fn : Fin 64) (h : Fin 16) (v : Word) (op : DigestOp) (hk : Keeps s0 s) : Keeps s0 (State.digestCtrl s fn h v op) := by
  unfold State.digestCtrl
  dsimp only
  repeat' first | (with_reducible first | assumption | apply State.setHandle_keeps | apply State.digestAt_keeps) | split

theorem State.digestDrain_keeps {s0 : State} (n : Nat) (ops : List DigestOp) (s : State) (hk : Keeps s0 s) :
    Keeps s0 (State.digestDrain n ops s) := by
  induction ops generalizing s with
  | nil => exact hk
  | cons op r ih =>
    unfold State.digestDrain
    split
    · exact State.setHandle_keeps _ _ _ hk
    · exact ih _ (State.digestDo_keeps _ _ _ hk)

theorem State.digestFinish_keeps {s0 : State} (s : State) (n : Nat) (hk : Keeps s0 s) : Keeps s0 (State.digestFinish s n) := by
  unfold State.digestFinish
  dsimp only
  repeat' first | (with_reducible first | assumption | apply State.setHandle_keeps | apply State.putKey_keeps) | (simp only [keeps_mk]; refine keeps_upd ?_) | split

theorem State.hashLanes_keeps {s0 : State} (s : State) (digests : List (List Byte)) (hk : Keeps s0 s) : Keeps s0 (State.hashLanes s digests) :=
  Keeps.upd hk rfl rfl rfl

theorem State.setKeyPort_keeps {s0 : State} (s : State) (fn : Fin 64) (p : KeyPort) (hk : Keeps s0 s) : Keeps s0 (State.setKeyPort s fn p) :=
  Keeps.upd hk rfl rfl rfl

theorem execDgOpen_keeps {s0 : State} (fn : Fin 64) (h : Fin 16) (v : Word) (s : State) (hk : Keeps s0 s) : KeepsOut s0 (execDgOpen fn h v s) := by
  refine keepsOut_next ?_
  repeat' first | (with_reducible first | assumption | apply State.digestCtrl_keeps) | split

theorem execDgAbort_keeps {s0 : State} (fn : Fin 64) (h : Fin 16) (v : Word) (s : State) (hk : Keeps s0 s) : KeepsOut s0 (execDgAbort fn h v s) := by
  refine keepsOut_next ?_
  repeat' first | (with_reducible first | assumption | apply State.digestCtrl_keeps) | split

theorem execDgClose_keeps {s0 : State} (fn : Fin 64) (h : Fin 16) (v : Word) (s : State) (hk : Keeps s0 s) : KeepsOut s0 (execDgClose fn h v s) := by
  refine keepsOut_next ?_
  repeat' first | (with_reducible first | assumption | apply State.digestCtrl_keeps) | split

theorem execDgCompare_keeps {s0 : State} (fn : Fin 64) (h : Fin 16) (v : Word) (s : State) (hk : Keeps s0 s) : KeepsOut s0 (execDgCompare fn h v s) := by
  refine keepsOut_next ?_
  repeat' first | (with_reducible first | assumption | apply State.digestCtrl_keeps) | split

theorem execCompareDone_keeps {s0 : State} (fn : Fin 64) (h : Fin 16) (s : State) (hk : Keeps s0 s) : KeepsOut s0 (execCompareDone fn h s) := by
  refine keepsOut_next ?_
  repeat' first | (with_reducible first | assumption | apply State.setHandle_keeps) | (simp only [keeps_mk]; refine keeps_upd ?_) | split

theorem execDgData_keeps {s0 : State} (fn : Fin 64) (h : Fin 16) (v : Word) (s : State) (hk : Keeps s0 s) : KeepsOut s0 (execDgData fn h v s) :=
  keepsOut_next (State.digestAt_keeps _ _ _ _ hk)

theorem execDgKeymsg_keeps {s0 : State} (fn : Fin 64) (h : Fin 16) (v : Word) (s : State) (hk : Keeps s0 s) : KeepsOut s0 (execDgKeymsg fn h v s) :=
  keepsOut_next (State.digestAt_keeps _ _ _ _ hk)

theorem execDgLast_keeps {s0 : State} (fn : Fin 64) (h : Fin 16) (v : Word) (s : State) (hk : Keeps s0 s) : KeepsOut s0 (execDgLast fn h v s) :=
  keepsOut_next (State.digestAt_keeps _ _ _ _ hk)

theorem execDigestFinishComplete_keeps {s0 : State} (fn : Fin 64) (h : Fin 16) (s : State) (hk : Keeps s0 s) : KeepsOut s0 (execDigestFinishComplete fn h s) := by
  refine keepsOut_next ?_
  repeat' first | (with_reducible first | assumption | apply State.digestDrain_keeps | apply State.digestFinish_keeps) | split

theorem execDgExpect_keeps {s0 : State} (fn : Fin 64) (h : Fin 16) (v : Word) (s : State) (hk : Keeps s0 s) : KeepsOut s0 (execDgExpect fn h v s) :=
  keepsOut_next (State.digestAt_keeps _ _ _ _ hk)

theorem execKsData_keeps {s0 : State} (fn : Fin 64) (v : Word) (s : State) (hk : Keeps s0 s) : KeepsOut s0 (execKsData fn v s) := by
  refine keepsOut_next ?_
  repeat' first | (with_reducible first | assumption | apply State.setKeyPort_keeps) | split

theorem execKsCommit_keeps {s0 : State} (fn : Fin 64) (v : Word) (s : State) (hk : Keeps s0 s) : KeepsOut s0 (execKsCommit fn v s) := by
  refine keepsOut_next ?_
  repeat' first | (with_reducible first | assumption | apply State.setKeyPort_keeps | apply State.putKey_keeps) | split

/-! ### HostIf -/

theorem State.setFn_keeps {s0 : State} (s : State) (fn : Fin 64) (f : Function) (hk : Keeps s0 s) : Keeps s0 (State.setFn s fn f) :=
  Keeps.upd hk rfl rfl rfl

theorem State.askReset_keeps {s0 : State} (s : State) (i : Fin 64) (hk : Keeps s0 s) : Keeps s0 (State.askReset s i) := by
  unfold State.askReset
  dsimp only
  repeat' first | (with_reducible first | assumption) | (simp only [keeps_mk]; refine keeps_upd ?_) | split

theorem State.setSq_keeps {s0 : State} (s : State) (r : Nat) (x : SqRing) (hk : Keeps s0 s) : Keeps s0 (State.setSq s r x) :=
  Keeps.upd hk rfl rfl rfl

theorem State.setCq_keeps {s0 : State} (s : State) (r : Nat) (x : CqRing) (hk : Keeps s0 s) : Keeps s0 (State.setCq s r x) :=
  Keeps.upd hk rfl rfl rfl

theorem State.dropReadAhead_keeps {s0 : State} (s : State) (r : Nat) (hk : Keeps s0 s) : Keeps s0 (State.dropReadAhead s r) := by
  unfold State.dropReadAhead
  dsimp only
  repeat' first | (with_reducible first | assumption | apply State.setSq_keeps | apply State.setCq_keeps) | split

theorem State.clearRings_keeps {s0 : State} (s : State) (inst : Nat) (hk : Keeps s0 s) : Keeps s0 (State.clearRings s inst) := by
  unfold State.clearRings
  try dsimp only
  repeat' first | intro _ | (with_reducible first | assumption | apply State.dropReadAhead_keeps | apply State.setCq_keeps | apply keeps_foldl) | split

theorem State.discardHeld_keeps {s0 : State} (s : State) (inst : Nat) (hk : Keeps s0 s) : Keeps s0 (State.discardHeld s inst) := by
  unfold State.discardHeld
  try dsimp only
  repeat' first | intro _ | (with_reducible first | assumption | apply State.releaseWrite_keeps | apply State.endHold_keeps | apply keeps_foldl) | (simp only [keeps_mk]; refine keeps_upd ?_) | split

theorem State.acceptReset_keeps {s0 : State} (s : State) (i : Fin 64) (hk : Keeps s0 s) : Keeps s0 (State.acceptReset s i) := by
  unfold State.acceptReset
  repeat' first | (with_reducible first | assumption | apply State.setFn_keeps | apply State.askReset_keeps | apply State.clearRings_keeps | apply State.discardHeld_keeps) | (simp only [keeps_mk]; refine keeps_upd ?_) | split

theorem State.askPlace_keeps {s0 : State} (s : State) (r : Nat) (hk : Keeps s0 s) : Keeps s0 (State.askPlace s r) := by
  unfold State.askPlace
  repeat' first | (with_reducible first | assumption | apply State.setCq_keeps) | split

theorem State.askPlaces_keeps {s0 : State} (s : State) (hk : Keeps s0 s) : Keeps s0 (State.askPlaces s) := by
  unfold State.askPlaces
  try dsimp only
  repeat' first | intro _ | (with_reducible first | assumption | apply State.askPlace_keeps | apply keeps_foldl) | split

theorem State.sendPme_keeps {s0 : State} (s : State) (inst : Nat) (hk : Keeps s0 s) : Keeps s0 (State.sendPme s inst) := by
  unfold State.sendPme
  dsimp only
  repeat' first | (with_reducible first | assumption | apply State.sendHost_keeps) | (simp only [keeps_mk]; refine keeps_upd ?_) | split

theorem State.irqsDue_keeps {s0 : State} (s : State) (rs : List Nat) (hk : Keeps s0 s) : Keeps s0 (State.irqsDue s rs) := by
  unfold State.irqsDue
  try dsimp only
  repeat' first | intro _ | (with_reducible first | assumption | apply State.setCq_keeps | apply State.sendPme_keeps | apply State.signalVector_keeps | apply keeps_foldl | apply keeps_foldl_fst | apply keeps_foldl_snd | apply keeps_foldl_E | apply keeps_foldl_O | apply keeps_foldl_C | apply keeps_foldl_Eff | apply keepsE_bind) | (simp only [keeps_mk]; refine keeps_upd ?_) | split

theorem State.dueNow_keeps {s0 : State} (s : State) (hk : Keeps s0 s) : Keeps s0 (State.dueNow s) :=
  State.irqsDue_keeps _ _ hk

theorem State.writeProducer_keeps {s0 : State} (s : State) (r : Nat) (hk : Keeps s0 s) : Keeps s0 (State.writeProducer s r) :=
  State.frontWrite_keeps _ _ _ _ hk

theorem State.publish_keeps {s0 : State} (s : State) (hk : Keeps s0 s) : Keeps s0 (State.publish s) := by
  unfold State.publish
  try dsimp only
  repeat' first | intro _ | (with_reducible first | assumption | apply State.dueNow_keeps | apply State.writeProducer_keeps | apply State.setCq_keeps | apply keeps_foldl) | split

theorem State.setMailbox_keeps {s0 : State} (s : State) (i : Fin 64) (m : Mailbox) (hk : Keeps s0 s) : Keeps s0 (State.setMailbox s i m) :=
  Keeps.upd hk rfl rfl rfl

theorem State.fromAck_keeps {s0 : State} (s : State) (i : Fin 64) (ack : Bool) (hk : Keeps s0 s) : Keeps s0 (State.fromAck s i ack) := by
  unfold State.fromAck
  repeat' first | (with_reducible first | assumption | apply State.setMailbox_keeps) | split

theorem State.toTenant_keeps {s0 : State} (s : State) (i : Fin 64) (msg : BitVec 512) (hk : Keeps s0 s) : Keeps s0 (State.toTenant s i msg) := by
  unfold State.toTenant
  dsimp only
  repeat' first | (with_reducible first | assumption | apply State.setMailbox_keeps | apply State.raiseVector_keeps) | split

theorem State.countIrq_keeps {s0 : State} (s : State) (r : Nat) (counts : Bool) (hk : Keeps s0 s) : Keeps s0 (State.countIrq s r counts) := by
  unfold State.countIrq
  repeat' first | (with_reducible first | assumption | apply State.setCq_keeps) | split

theorem State.writeCompletion_keeps {s0 : State} (s : State) (r : Nat) (c : Completion) (hk : Keeps s0 s) : Keeps s0 (State.writeCompletion s r c) := by
  unfold State.writeCompletion
  repeat' first | (with_reducible first | assumption | apply State.frontWrite_keeps | apply State.setCq_keeps) | split

theorem State.cqError_keeps {s0 : State} (s : State) (r : Nat) (code : Nat) (hk : Keeps s0 s) : Keeps s0 (State.cqError s r code) := by
  unfold State.cqError
  repeat' first | (with_reducible first | assumption | apply State.setCq_keeps | apply State.raise_keeps) | (simp only [keeps_mk]; refine keeps_upd ?_) | split

theorem State.entryArrives_keeps {s0 : State} (s : State) (r : Nat) (entry : Option (BitVec 512)) (desc : Option (BitVec 512)) (hk : Keeps s0 s) : Keeps s0 (State.entryArrives s r entry desc) := by
  unfold State.entryArrives
  dsimp only
  repeat' first | (with_reducible first | assumption | apply State.askPlace_keeps | apply State.setCq_keeps | apply State.setSq_keeps | apply State.frontRead_keeps) | split

theorem State.ignoreDoorbell_keeps {s0 : State} (s : State) (hk : Keeps s0 s) : Keeps s0 (State.ignoreDoorbell s) :=
  Keeps.upd hk rfl rfl rfl

theorem State.sendPending_keeps {s0 : State} (s : State) (fn : Fin 64) (hk : Keeps s0 s) : Keeps s0 (State.sendPending s fn) := by
  unfold State.sendPending
  try dsimp only
  repeat' first | intro _ | (with_reducible first | assumption | apply State.signalVector_keeps | apply State.setFn_keeps | apply keeps_foldl) | split

theorem State.writeFirstKept_keeps {s0 : State} (s : State) (r : Nat) (hk : Keeps s0 s) : Keeps s0 (State.writeFirstKept s r) := by
  unfold State.writeFirstKept
  dsimp only
  repeat' first | (with_reducible first | assumption | apply State.setCq_keeps | apply State.writeCompletion_keeps) | split

theorem State.releaseHeld_keeps {s0 : State} (s : State) (inst : Nat) (hk : Keeps s0 s) : Keeps s0 (State.releaseHeld s inst) := by
  unfold State.releaseHeld
  try dsimp only
  repeat' first | intro _ | (with_reducible first | assumption | apply State.releaseWrite_keeps | apply State.writeFirstKept_keeps | apply State.endHold_keeps | apply State.writeProducer_keeps | apply keeps_foldl) | (simp only [keeps_mk]; refine keeps_upd ?_) | split

theorem State.resetPhysical_keeps {s0 : State} (s : State) (hk : Keeps s0 s) : Keeps s0 (State.resetPhysical s) := by
  unfold State.resetPhysical
  try dsimp only
  repeat' first | intro _ | (with_reducible first | assumption | apply State.acceptReset_keeps | apply keeps_foldl) | (simp only [keeps_mk]; refine keeps_upd ?_) | split

theorem State.sendHeldMsgs_keeps {s0 : State} (s : State) (hk : Keeps s0 s) : Keeps s0 (State.sendHeldMsgs s) := by
  unfold State.sendHeldMsgs
  try dsimp only
  repeat' first | intro _ | (with_reducible first | assumption | apply State.signalVector_keeps | apply State.irqsDue_keeps | apply State.sendPending_keeps | apply keeps_foldl) | (simp only [keeps_mk]; refine keeps_upd ?_) | split

theorem State.resumeHost_keeps {s0 : State} (s : State) (inst : Nat) (hk : Keeps s0 s) : Keeps s0 (State.resumeHost s inst) := by
  unfold State.resumeHost
  repeat' first | (with_reducible first | assumption | apply State.sendHeldMsgs_keeps | apply State.releaseHeld_keeps) | split

theorem State.sqError_keeps {s0 : State} (s : State) (r : Nat) (code : Nat) (hk : Keeps s0 s) : Keeps s0 (State.sqError s r code) := by
  unfold State.sqError
  repeat' first | (with_reducible first | assumption | apply State.dropReadAhead_keeps | apply State.setSq_keeps | apply State.raise_keeps) | (simp only [keeps_mk]; refine keeps_upd ?_) | split

theorem State.writeKept_keeps {s0 : State} (s : State) (r : Nat) (hk : Keeps s0 s) : Keeps s0 (State.writeKept s r) := by
  unfold State.writeKept
  try dsimp only
  repeat' first | intro _ | (with_reducible first | assumption | apply State.writeFirstKept_keeps | apply State.writeProducer_keeps | apply keeps_foldl) | split

theorem execPipelineEntry_keeps {s0 : State} (r : Fin 4096) (entry : BitVec 512) (s : State) (hk : Keeps s0 s) : KeepsOut s0 (execPipelineEntry r entry s) := by
  refine keepsOut_next ?_
  repeat' first | (with_reducible first | assumption | apply State.entryArrives_keeps) | split

theorem execNopEntry_keeps {s0 : State} (r : Fin 4096) (entry : BitVec 512) (s : State) (hk : Keeps s0 s) : KeepsOut s0 (execNopEntry r entry s) := by
  refine keepsOut_next ?_
  repeat' first | (with_reducible first | assumption | apply State.entryArrives_keeps) | split

theorem execSqDoorbell_keeps {s0 : State} (fn : Fin 64) (r : Fin 4096) (size : Nat) (s : State) (hk : Keeps s0 s) : KeepsOut s0 (execSqDoorbell fn r size s) := by
  refine keepsOut_next ?_
  repeat' first | (with_reducible first | assumption | apply State.ignoreDoorbell_keeps | apply State.setSq_keeps) | split

theorem execCqDoorbell_keeps {s0 : State} (fn : Fin 64) (r : Fin 4096) (size : Nat) (s : State) (hk : Keeps s0 s) : KeepsOut s0 (execCqDoorbell fn r size s) := by
  refine keepsOut_next ?_
  repeat' first | (with_reducible first | assumption | apply State.ignoreDoorbell_keeps | apply State.setCq_keeps) | split

theorem execIndexBlockReadComplete_keeps {s0 : State} (cq : Bool) (r : Fin 4096) (res : Option (BitVec 32 × BitVec 32)) (s : State) (hk : Keeps s0 s) : KeepsOut s0 (execIndexBlockReadComplete cq r res s) := by
  refine keepsOut_next ?_
  dsimp only
  repeat' first | (with_reducible first | assumption | apply State.cqError_keeps | apply State.frontRead_keeps | apply State.dueNow_keeps | apply State.writeKept_keeps | apply State.setCq_keeps | apply State.sqError_keeps | apply State.askPlace_keeps | apply State.setSq_keeps) | split

theorem execEntryReadComplete_keeps {s0 : State} (r : Fin 4096) (entry : Option (BitVec 512)) (desc : Option (BitVec 512)) (s : State) (hk : Keeps s0 s) : KeepsOut s0 (execEntryReadComplete r entry desc s) :=
  keepsOut_next (State.entryArrives_keeps _ _ _ _ hk)

theorem execImageReadComplete_keeps {s0 : State} (r : Fin 4096) (image : Option (List Byte)) (s : State) (hk : Keeps s0 s) : KeepsOut s0 (execImageReadComplete r image s) := by
  refine keepsOut_next ?_
  repeat' first | (with_reducible first | assumption | apply State.setSq_keeps | apply State.frontRead_keeps) | split

theorem execRingContextWrite_keeps {s0 : State} (cq : Bool) (r : Fin 4096) (word : Fin 8) (acc : RegAccess) (v : BitVec 64) (s : State) (hk : Keeps s0 s) : KeepsOut s0 (execRingContextWrite cq r word acc v s) := by
  refine keepsOut_next ?_
  repeat' first | (with_reducible first | assumption | apply State.setCq_keeps | apply State.setSq_keeps) | split

theorem execModTimerExpiry_keeps {s0 : State} (r : Fin 4096) (s : State) (hk : Keeps s0 s) : KeepsOut s0 (execModTimerExpiry r s) := by
  refine keepsOut_next ?_
  repeat' first | (with_reducible first | assumption | apply State.irqsDue_keeps) | split

theorem execFunctionPowerStateChange_keeps {s0 : State} (fn : Fin 64) (d3hot : Bool) (s : State) (hk : Keeps s0 s) : KeepsOut s0 (execFunctionPowerStateChange fn d3hot s) := by
  refine keepsOut_next ?_
  repeat' first | (with_reducible first | assumption | apply State.resumeHost_keeps) | (simp only [keeps_mk]; refine keeps_upd ?_) | split

theorem execBusMasterEnableChange_keeps {s0 : State} (fn : Fin 64) (enable : Bool) (s : State) (hk : Keeps s0 s) : KeepsOut s0 (execBusMasterEnableChange fn enable s) := by
  refine keepsOut_next ?_
  repeat' first | (with_reducible first | assumption | apply State.resumeHost_keeps) | (simp only [keeps_mk]; refine keeps_upd ?_) | split

theorem execLinkStateChange_keeps {s0 : State} (link : LinkState) (s : State) (hk : Keeps s0 s) : KeepsOut s0 (execLinkStateChange link s) := by
  refine keepsOut_next ?_
  repeat' first | (with_reducible first | assumption | apply State.sendHeldMsgs_keeps) | (simp only [keeps_mk]; refine keeps_upd ?_) | split

theorem execPmeResend_keeps {s0 : State} (fn : Fin 64) (s : State) (hk : Keeps s0 s) : KeepsOut s0 (execPmeResend fn s) := by
  refine keepsOut_next ?_
  repeat' first | (with_reducible first | assumption | apply State.sendHost_keeps) | split

theorem execFunctionLevelReset_keeps {s0 : State} (fn : Fin 64) (s : State) (hk : Keeps s0 s) : KeepsOut s0 (execFunctionLevelReset fn s) := by
  refine keepsOut_next ?_
  try dsimp only
  repeat' first | intro _ | (with_reducible first | assumption | apply State.resetPhysical_keeps | apply State.acceptReset_keeps | apply keeps_foldl) | split

theorem execVfEnableChange_keeps {s0 : State} (enable : Bool) (numVfs : Nat) (s : State) (hk : Keeps s0 s) : KeepsOut s0 (execVfEnableChange enable numVfs s) := by
  refine keepsOut_next ?_
  try dsimp only
  repeat' first | intro _ | (with_reducible first | assumption | apply State.acceptReset_keeps | apply keeps_foldl) | (simp only [keeps_mk]; refine keeps_upd ?_) | split

theorem execHotReset_keeps {s0 : State} (linkDown : Bool) (s : State) (hk : Keeps s0 s) : KeepsOut s0 (execHotReset linkDown s) := by
  refine keepsOut_next ?_
  repeat' first | (with_reducible first | assumption | apply State.resetPhysical_keeps) | (simp only [keeps_mk]; refine keeps_upd ?_) | split

theorem execOutDoorbellSend_keeps {s0 : State} (fn : Fin 64) (acc : RegAccess) (v : BitVec 64) (s : State) (hk : Keeps s0 s) : KeepsOut s0 (execOutDoorbellSend fn acc v s) := by
  refine keepsOut_next ?_
  repeat' first | (with_reducible first | assumption | apply State.setMailbox_keeps | apply State.raiseVector_keeps) | split

theorem execInAck_keeps {s0 : State} (fn : Fin 64) (acc : RegAccess) (v : BitVec 64) (s : State) (hk : Keeps s0 s) : KeepsOut s0 (execInAck fn acc v s) := by
  refine keepsOut_next ?_
  repeat' first | (with_reducible first | assumption | apply State.setMailbox_keeps) | split

theorem execToTenant_keeps {s0 : State} (i : Fin 64) (msg : BitVec 512) (s : State) (hk : Keeps s0 s) : KeepsOut s0 (execToTenant i msg s) :=
  keepsOut_next (State.toTenant_keeps _ _ _ hk)

theorem execFromAck_keeps {s0 : State} (i : Fin 64) (ack : Bool) (s : State) (hk : Keeps s0 s) : KeepsOut s0 (execFromAck i ack s) :=
  keepsOut_next (State.fromAck_keeps _ _ _ hk)

theorem execHostLinkTraining_keeps {s0 : State} (speed : Nat) (width : Nat) (s : State) (hk : Keeps s0 s) : KeepsOut s0 (execHostLinkTraining speed width s) := by
  refine keepsOut_next ?_
  repeat' first | (with_reducible first | assumption | apply State.raise_keeps | apply State.sendHeldMsgs_keeps) | (simp only [keeps_mk]; refine keeps_upd ?_) | split

theorem execMsixUnmask_keeps {s0 : State} (fn : Fin 64) (vec : Option (Fin 64)) (s : State) (hk : Keeps s0 s) : KeepsOut s0 (execMsixUnmask fn vec s) := by
  refine keepsOut_next ?_
  repeat' first | (with_reducible first | assumption | apply State.sendPending_keeps | apply State.setFn_keeps) | split

theorem execPmeStatusClear_keeps {s0 : State} (fn : Fin 64) (s : State) (hk : Keeps s0 s) : KeepsOut s0 (execPmeStatusClear fn s) :=
  keepsOut_next (Keeps.upd hk rfl rfl rfl)

end Sys2Proof.Machine
end

