-- ==== Sys2Proof/Laws/KeepsMerge.lean ====
section
/-! SUPPORT. What the merge, admission and object operations keep: the queue, the ordering code and the canonical form of memory. -/

namespace Sys2Proof.Machine

/-! ### Merge -/

theorem State.applyCodecHeaders_keeps {s0 : State} (s : State) (hk : Keeps s0 s) : Keeps s0 (State.applyCodecHeaders s) := by
  unfold State.applyCodecHeaders
  try dsimp only
  repeat' first | intro _ | (with_reducible first | assumption | apply State.sumMerge_keeps | apply State.writeMem_keeps | apply State.updEntry_keeps | apply keeps_foldl) | split

theorem State.applyHeader_keeps {s0 : State} (s : State) (inst : Nat) (slot : Nat) (rows : Nat) (used : Nat) (hk : Keeps s0 s) : Keeps s0 (State.applyHeader s inst slot rows used) := by
  unfold State.applyHeader
  repeat' first | (with_reducible first | assumption | apply State.sumMerge_keeps | apply State.writeMem_keeps) | split

theorem State.sumRecord_keeps {s0 : State} (s : State) (before : State) (tb : KmaTable) (key : DWord) (hk : Keeps s0 s) : Keeps s0 (State.sumRecord s before tb key) := by
  unfold State.sumRecord
  repeat' first | (with_reducible first | assumption | apply State.sumMerge_keeps) | split

theorem State.applyRecord_keeps {s0 : State} (s : State) (r : MergeRecord) (hk : Keeps s0 s) : KeepsE s0 (State.applyRecord s r) := by
  unfold State.applyRecord
  try dsimp only
  repeat' first | intro _ | (with_reducible first | assumption | apply State.applyHeader_keeps | apply State.mergeRecord_keeps | apply State.sumRecord_keeps | apply keepsE_ok | exact keepsE_error _ | apply keeps_foldl) | (simp only [keeps_mk]; refine keeps_upd ?_) | split | with_reducible refine keeps_ok ‹_ = Except.ok _› ?_

theorem State.finish_keeps {s0 : State} (s : State) (slot : Nat) (pos : Nat) (st : Nat) (detail : Nat) (hk : Keeps s0 s) : Keeps s0 (State.finish s slot pos st detail) :=
  Keeps.upd hk rfl rfl rfl

theorem State.applyRecords_keeps {s0 : State} (s : State) (a1 : List MergeRecord) (hk : Keeps s0 s) : KeepsE s0 (State.applyRecords s a1) := by
  induction a1 generalizing s with
  | nil =>
    unfold State.applyRecords
    try dsimp only
    repeat' first | intro _ | (with_reducible first | assumption | apply State.applyRecord_keeps | apply keeps_foldl | apply keeps_foldl_fst | apply keeps_foldl_snd | apply keepsE_ok | exact keepsE_error _ | apply keepsE_bind | apply keeps_foldl_E) | (simp only [keeps_mk]; refine keeps_upd ?_) | split | (with_reducible first | refine keeps_fst ‹_ = (_, _)› ?_ | refine keeps_snd ‹_ = (_, _)› ?_ | refine keeps_ok ‹_ = Except.ok _› ?_ | refine keeps_some ‹_ = some _› ?_ | refine keeps_someC ‹_ = some (_, _)› ?_ | refine keeps_inl ‹_ = Sum.inl _› ?_ | refine keeps_inr ‹_ = Sum.inr _› ?_ | exact KeepsE.keep ‹KeepsE _ (Except.ok _)› _ rfl | exact KeepsO.keep ‹KeepsO _ (some _)› _ rfl | exact KeepsC.keep ‹KeepsC _ (some _)› _ rfl | exact KeepsEff.keep ‹KeepsEff _ (Effect.done _ _)› _ rfl | refine keeps_of_done ‹_ = Effect.done _ _› ?_)
  | cons x r ih =>
    unfold State.applyRecords
    try dsimp only
    repeat' first | intro _ | (with_reducible first | assumption | apply ih | apply State.applyRecord_keeps | apply keeps_foldl | apply keeps_foldl_fst | apply keeps_foldl_snd | apply keepsE_ok | exact keepsE_error _ | apply keepsE_bind | apply keeps_foldl_E) | (simp only [keeps_mk]; refine keeps_upd ?_) | split | (with_reducible first | refine keeps_fst ‹_ = (_, _)› ?_ | refine keeps_snd ‹_ = (_, _)› ?_ | refine keeps_ok ‹_ = Except.ok _› ?_ | refine keeps_some ‹_ = some _› ?_ | refine keeps_someC ‹_ = some (_, _)› ?_ | refine keeps_inl ‹_ = Sum.inl _› ?_ | refine keeps_inr ‹_ = Sum.inr _› ?_ | exact KeepsE.keep ‹KeepsE _ (Except.ok _)› _ rfl | exact KeepsO.keep ‹KeepsO _ (some _)› _ rfl | exact KeepsC.keep ‹KeepsC _ (some _)› _ rfl | exact KeepsEff.keep ‹KeepsEff _ (Effect.done _ _)› _ rfl | refine keeps_of_done ‹_ = Effect.done _ _› ?_)

theorem State.dropContexts_keeps {s0 : State} (s : State) (slot : Nat) (hk : Keeps s0 s) : Keeps s0 (State.dropContexts s slot) :=
  Keeps.upd hk rfl rfl rfl

theorem State.commandOver_keeps {s0 : State} (s : State) (e : WorkEntry) (st : Nat) (hk : Keeps s0 s) : Keeps s0 (State.commandOver s e st) := by
  unfold State.commandOver
  repeat' first | (with_reducible first | assumption | apply State.finish_keeps | apply State.frontWrite_keeps) | split

theorem State.each_keeps {s0 : State} {α : Type} (one : State → α → Except Nat State) (s : State) (l : List α) (hk : Keeps s0 s)
    (hs : ∀ u x, Keeps s0 u → KeepsE s0 (one u x)) : Keeps s0 (State.each one s l).1 := by
  induction l generalizing s with
  | nil => exact hk
  | cons x r ih =>
    unfold State.each
    split
    · exact hk
    · exact ih _ ((hs _ _ hk).keep _ ‹_›)

theorem State.endFailed_keeps {s0 : State} (s : State) (hk : Keeps s0 s) : Keeps s0 (State.endFailed s) := by
  unfold State.endFailed
  try dsimp only
  repeat' first | intro _ | (with_reducible first | assumption | apply State.finish_keeps | apply State.dropContexts_keeps | apply keeps_foldl) | split

theorem State.hashString_keeps {s0 : State} (s : State) (str : List Byte) (hk : Keeps s0 s) : Keeps s0 (State.hashString s str) := by
  unfold State.hashString
  repeat' first | (with_reducible first | assumption | apply State.hashOn_keeps) | split

theorem State.indexCode_keeps {s0 : State} (inst : Nat) (tag : Nat) (d : BitVec 192) (s : State) (code : Nat) (hk : Keeps s0 s) : KeepsE s0 (State.indexCode inst tag d s code) := by
  unfold State.indexCode
  try dsimp only
  repeat' first | intro _ | (with_reducible first | assumption | apply andThen_keeps | apply State.mergeRead_keeps | apply State.tablePut_keeps | apply State.hashString_keeps | apply keepsE_ok | exact keepsE_error _ | apply keeps_foldl) | split

theorem State.loadOne_keeps {s0 : State} (inst : Nat) (tag : Nat) (s : State) (x : KmaEntry) (hk : Keeps s0 s) : KeepsE s0 (State.loadOne inst tag s x) := by
  unfold State.loadOne
  try dsimp only
  repeat' first | intro _ | (with_reducible first | assumption | apply State.verify_keeps | apply andThen_keeps | apply State.entryInsert_keeps | apply State.sumRecord_keeps | apply keepsE_ok | exact keepsE_error _ | apply keeps_foldl) | split

theorem settleMerge_keeps {s0 : State} (a0 : Nat) (a1 : State) (hk : Keeps s0 a1) : Keeps s0 (settleMerge a0 a1) := by
  induction a0 generalizing a1 with
  | zero =>
    unfold settleMerge
    try dsimp only
    repeat' first | intro _ | (with_reducible first | assumption | apply State.commandOver_keeps | apply keeps_foldl | apply keeps_foldl_fst | apply keeps_foldl_snd) | (simp only [keeps_mk]; refine keeps_upd ?_) | split | (with_reducible first | refine keeps_fst ‹_ = (_, _)› ?_ | refine keeps_snd ‹_ = (_, _)› ?_ | refine keeps_ok ‹_ = Except.ok _› ?_ | refine keeps_some ‹_ = some _› ?_ | refine keeps_someC ‹_ = some (_, _)› ?_ | refine keeps_inl ‹_ = Sum.inl _› ?_ | refine keeps_inr ‹_ = Sum.inr _› ?_ | exact KeepsE.keep ‹KeepsE _ (Except.ok _)› _ rfl | exact KeepsO.keep ‹KeepsO _ (some _)› _ rfl | exact KeepsC.keep ‹KeepsC _ (some _)› _ rfl | exact KeepsEff.keep ‹KeepsEff _ (Effect.done _ _)› _ rfl | refine keeps_of_done ‹_ = Effect.done _ _› ?_)
  | succ n ih =>
    unfold settleMerge
    try dsimp only
    repeat' first | intro _ | (with_reducible first | assumption | apply ih | apply State.commandOver_keeps | apply keeps_foldl | apply keeps_foldl_fst | apply keeps_foldl_snd) | (simp only [keeps_mk]; refine keeps_upd ?_) | split | (with_reducible first | refine keeps_fst ‹_ = (_, _)› ?_ | refine keeps_snd ‹_ = (_, _)› ?_ | refine keeps_ok ‹_ = Except.ok _› ?_ | refine keeps_some ‹_ = some _› ?_ | refine keeps_someC ‹_ = some (_, _)› ?_ | refine keeps_inl ‹_ = Sum.inl _› ?_ | refine keeps_inr ‹_ = Sum.inr _› ?_ | exact KeepsE.keep ‹KeepsE _ (Except.ok _)› _ rfl | exact KeepsO.keep ‹KeepsO _ (some _)› _ rfl | exact KeepsC.keep ‹KeepsC _ (some _)› _ rfl | exact KeepsEff.keep ‹KeepsEff _ (Effect.done _ _)› _ rfl | refine keeps_of_done ‹_ = Effect.done _ _› ?_)

theorem State.tableResult_keeps {s0 : State} (s : State) (e : WorkEntry) (st : Nat) (hk : Keeps s0 s) : Keeps s0 (State.tableResult s e st) := by
  unfold State.tableResult
  repeat' first | (with_reducible first | assumption | apply State.commandOver_keeps | apply settleMerge_keeps) | split

theorem State.onTable_keeps {s0 : State} (s : State) (e : WorkEntry) (k : KmaTable → State) (hk : Keeps s0 s)
    (hs : ∀ tb, Keeps s0 (k tb)) : Keeps s0 (State.onTable s e k) := by
  unfold State.onTable
  split
  · exact State.tableResult_keeps _ _ _ hk
  · split
    · exact State.tableResult_keeps _ _ _ hk
    · exact hs _

theorem State.spreadKeys_keeps {s0 : State} (s : State) (tb : KmaTable) (es : List KmaEntry) (hk : Keeps s0 s) : Keeps s0 (State.spreadKeys s tb es) := by
  unfold State.spreadKeys
  try dsimp only
  repeat' first | intro _ | (with_reducible first | assumption | apply State.setGroup_keeps | apply keeps_foldl) | split

theorem State.reloadRecord_keeps {s0 : State} (s : State) (tb : KmaTable) (ops : Nat) (ma : Nat) (hk : Keeps s0 s) : KeepsE s0 (State.reloadRecord s tb ops ma) := by
  unfold State.reloadRecord
  try dsimp only
  repeat' first | intro _ | (with_reducible first | assumption | apply andThen_keeps | apply State.mergeRead_keeps | apply State.mergeInsert_keeps | apply State.mergeUpdate_keeps | apply keepsE_ok | exact keepsE_error _ | apply keeps_foldl) | split

theorem State.reloadParts_keeps {s0 : State} (s : State) (tb : KmaTable) (ops : Nat) (ps : List Nat) (hk : Keeps s0 s) : KeepsE s0 (State.reloadParts s tb ops ps) := by
  unfold State.reloadParts
  try dsimp only
  repeat' first | intro _ | (with_reducible first | assumption | apply andThen_keeps | apply State.reloadRecord_keeps | apply keepsE_ok | exact keepsE_error _ | apply keeps_foldl | apply keeps_foldl_fst | apply keeps_foldl_snd | apply keeps_foldl_E | apply keeps_foldl_O | apply keeps_foldl_C | apply keeps_foldl_Eff | apply keepsE_bind) | (simp only [keeps_mk]; refine keeps_upd ?_) | split

theorem State.nextRound_keeps {s0 : State} (s : State) (e : WorkEntry) (img : Image) (tb : KmaTable) (hk : Keeps s0 s) : KeepsE s0 (State.nextRound s e img tb) := by
  unfold State.nextRound
  try dsimp only
  repeat' first | intro _ | (with_reducible first | assumption | apply andThen_keeps | apply State.mergeRead_keeps | apply State.updTable_keeps | apply State.clearTable_keeps | apply State.reloadParts_keeps | apply keepsE_ok | exact keepsE_error _ | apply keeps_foldl) | split

theorem State.reportUnsound_keeps {s0 : State} (s : State) (r : MergeRecord) (st : Nat) (hk : Keeps s0 s) : Keeps s0 (State.reportUnsound s r st) := by
  unfold State.reportUnsound
  repeat' first | (with_reducible first | assumption | apply State.readEntry_keeps | apply State.readUnit_keeps) | split

theorem State.stageOver_keeps {s0 : State} (s : State) (e : WorkEntry) (img : Image) (hk : Keeps s0 s) : Keeps s0 (State.stageOver s e img) := by
  unfold State.stageOver
  try dsimp only
  repeat' first | intro _ | (with_reducible first | assumption | apply State.failEntry_keeps | apply State.updEntry_keeps | apply State.updTable_keeps | apply State.nextRound_keeps | apply keeps_foldl) | (simp only [keeps_mk]; refine keeps_upd ?_) | split | with_reducible refine keeps_ok ‹_ = Except.ok _› ?_

theorem State.stagesOver_keeps {s0 : State} (s : State) (hk : Keeps s0 s) : Keeps s0 (State.stagesOver s) := by
  unfold State.stagesOver
  try dsimp only
  repeat' first | intro _ | (with_reducible first | assumption | apply State.stageOver_keeps | apply keeps_foldl) | split

theorem State.verifyRecord_keeps {s0 : State} (s : State) (r : MergeRecord) (hk : Keeps s0 s) : Keeps s0 (State.verifyRecord s r) := by
  unfold State.verifyRecord
  repeat' first | (with_reducible first | assumption | apply State.verify_keeps) | split

theorem mergeAll_keeps {s0 : State} (a0 : Nat) (a1 : State) (hk : Keeps s0 a1) : Keeps s0 (mergeAll a0 a1) := by
  induction a0 generalizing a1 with
  | zero =>
    unfold mergeAll
    try dsimp only
    repeat' first | intro _ | (with_reducible first | assumption | apply State.applyRecords_keeps | apply State.failEntry_keeps | apply State.reportUnsound_keeps | apply keeps_foldl | apply keeps_foldl_fst | apply keeps_foldl_snd) | (simp only [keeps_mk]; refine keeps_upd ?_) | split | (with_reducible first | refine keeps_fst ‹_ = (_, _)› ?_ | refine keeps_snd ‹_ = (_, _)› ?_ | refine keeps_ok ‹_ = Except.ok _› ?_ | refine keeps_some ‹_ = some _› ?_ | refine keeps_someC ‹_ = some (_, _)› ?_ | refine keeps_inl ‹_ = Sum.inl _› ?_ | refine keeps_inr ‹_ = Sum.inr _› ?_ | exact KeepsE.keep ‹KeepsE _ (Except.ok _)› _ rfl | exact KeepsO.keep ‹KeepsO _ (some _)› _ rfl | exact KeepsC.keep ‹KeepsC _ (some _)› _ rfl | exact KeepsEff.keep ‹KeepsEff _ (Effect.done _ _)› _ rfl | refine keeps_of_done ‹_ = Effect.done _ _› ?_)
  | succ n ih =>
    unfold mergeAll
    try dsimp only
    repeat' first | intro _ | (with_reducible first | assumption | apply ih | apply State.applyRecords_keeps | apply State.failEntry_keeps | apply State.reportUnsound_keeps | apply keeps_foldl | apply keeps_foldl_fst | apply keeps_foldl_snd) | (simp only [keeps_mk]; refine keeps_upd ?_) | split | (with_reducible first | refine keeps_fst ‹_ = (_, _)› ?_ | refine keeps_snd ‹_ = (_, _)› ?_ | refine keeps_ok ‹_ = Except.ok _› ?_ | refine keeps_some ‹_ = some _› ?_ | refine keeps_someC ‹_ = some (_, _)› ?_ | refine keeps_inl ‹_ = Sum.inl _› ?_ | refine keeps_inr ‹_ = Sum.inr _› ?_ | exact KeepsE.keep ‹KeepsE _ (Except.ok _)› _ rfl | exact KeepsO.keep ‹KeepsO _ (some _)› _ rfl | exact KeepsC.keep ‹KeepsC _ (some _)› _ rfl | exact KeepsEff.keep ‹KeepsEff _ (Effect.done _ _)› _ rfl | refine keeps_of_done ‹_ = Effect.done _ _› ?_)

theorem execFrameMerge_keeps {s0 : State} (s : State) (hk : Keeps s0 s) : KeepsOut s0 (execFrameMerge s) := by
  refine keepsOut_next ?_
  try dsimp only
  repeat' first | intro _ | (with_reducible first | assumption | apply State.awaitSlot_keeps | apply State.verifyRecord_keeps | apply State.applyCodecHeaders_keeps | apply mergeAll_keeps | apply State.endFailed_keeps | apply State.stagesOver_keeps | apply settleMerge_keeps | apply keeps_foldl) | (simp only [keeps_mk]; refine keeps_upd ?_) | split

theorem execTableClear_keeps {s0 : State} (slot : Fin 256) (s : State) (hk : Keeps s0 s) : KeepsOut s0 (execTableClear slot s) := by
  refine keepsOut_next ?_
  try dsimp only
  repeat' first | intro _ | (with_reducible first | assumption | apply State.onTable_keeps | apply State.tableResult_keeps | apply State.clearTable_keeps | apply keeps_foldl) | split

theorem execTableDestroy_keeps {s0 : State} (slot : Fin 256) (s : State) (hk : Keeps s0 s) : KeepsOut s0 (execTableDestroy slot s) := by
  refine keepsOut_next ?_
  try dsimp only
  repeat' first | intro _ | (with_reducible first | assumption | apply State.onTable_keeps | apply State.tableResult_keeps | apply State.dropTable_keeps | apply keeps_foldl) | split

theorem execSetDescriptor_keeps {s0 : State} (slot : Fin 256) (s : State) (hk : Keeps s0 s) : KeepsOut s0 (execSetDescriptor slot s) := by
  refine keepsOut_next ?_
  repeat' first | (with_reducible first | assumption | apply settleMerge_keeps) | (simp only [keeps_mk]; refine keeps_upd ?_) | split

/-! ### Admission -/

theorem State.batchStep_keeps {s0 : State} (s : State) (r : Nat) (index : Nat) (entry : BitVec 512) (hk : Keeps s0 s) : Keeps s0 (State.batchStep s r index entry).1 := by
  unfold State.batchStep
  dsimp only
  repeat' first | (with_reducible first | assumption | apply State.setSq_keeps) | (simp only [keeps_mk]; refine keeps_upd ?_) | split

theorem State.disableSq_keeps {s0 : State} (s : State) (r : Nat) (hk : Keeps s0 s) : Keeps s0 (State.disableSq s r) := by
  unfold State.disableSq
  repeat' first | (with_reducible first | assumption | apply State.dropReadAhead_keeps | apply State.setSq_keeps) | (simp only [keeps_mk]; refine keeps_upd ?_) | split

theorem State.disableRings_keeps {s0 : State} (s : State) (inst : Nat) (hk : Keeps s0 s) : Keeps s0 (State.disableRings s inst) := by
  unfold State.disableRings
  try dsimp only
  repeat' first | intro _ | (with_reducible first | assumption | apply State.disableSq_keeps | apply State.setSq_keeps | apply State.setCq_keeps | apply keeps_foldl) | split

theorem State.squashEntry_keeps {s0 : State} (s : State) (e : WorkEntry) (silent : Bool) (hk : Keeps s0 s) : Keeps s0 (State.squashEntry s e silent) := by
  unfold State.squashEntry
  repeat' first | (with_reducible first | assumption | apply State.finish_keeps | apply State.dropContexts_keeps) | (simp only [keeps_mk]; refine keeps_upd ?_) | split

theorem State.squashInstance_keeps {s0 : State} (s : State) (i : Fin 64) (reset : Bool) (hk : Keeps s0 s) : Keeps s0 (State.squashInstance s i reset) := by
  unfold State.squashInstance
  try dsimp only
  repeat' first | intro _ | (with_reducible first | assumption | apply State.releaseHandles_keeps | apply State.disableRings_keeps | apply State.squashEntry_keeps | apply State.clearTable_keeps | apply keeps_foldl) | (simp only [keeps_mk]; refine keeps_upd ?_) | split

theorem State.takeHead_keeps {s0 : State} (s : State) (list : List ListRecord) (r : Nat) (hk : Keeps s0 s) : Keeps s0 (State.takeHead s list r).1 := by
  unfold State.takeHead
  dsimp only
  repeat' first | (with_reducible first | assumption | apply State.batchStep_keeps | apply State.setSq_keeps) | split

theorem pick_keeps {s0 : State} (a0 : Nat) (a1 : State) (a2 : List ListRecord) (a3 : List (Nat × Nat)) (hk : Keeps s0 a1) : Keeps s0 (pick a0 a1 a2 a3).1 := by
  induction a0 generalizing a1 a2 a3 with
  | zero =>
    unfold pick
    try dsimp only
    repeat' first | intro _ | (with_reducible first | assumption | apply State.setSq_keeps | apply State.takeHead_keeps | apply keeps_foldl | apply keeps_foldl_fst | apply keeps_foldl_snd) | (simp only [keeps_mk]; refine keeps_upd ?_) | split | (with_reducible first | refine keeps_fst ‹_ = (_, _)› ?_ | refine keeps_snd ‹_ = (_, _)› ?_ | refine keeps_ok ‹_ = Except.ok _› ?_ | refine keeps_some ‹_ = some _› ?_ | refine keeps_someC ‹_ = some (_, _)› ?_ | refine keeps_inl ‹_ = Sum.inl _› ?_ | refine keeps_inr ‹_ = Sum.inr _› ?_ | exact KeepsE.keep ‹KeepsE _ (Except.ok _)› _ rfl | exact KeepsO.keep ‹KeepsO _ (some _)› _ rfl | exact KeepsC.keep ‹KeepsC _ (some _)› _ rfl | exact KeepsEff.keep ‹KeepsEff _ (Effect.done _ _)› _ rfl | refine keeps_of_done ‹_ = Effect.done _ _› ?_)
  | succ n ih =>
    unfold pick
    try dsimp only
    repeat' first | intro _ | (with_reducible first | assumption | apply ih | apply State.setSq_keeps | apply State.takeHead_keeps | apply keeps_foldl | apply keeps_foldl_fst | apply keeps_foldl_snd) | (simp only [keeps_mk]; refine keeps_upd ?_) | split | (with_reducible first | refine keeps_fst ‹_ = (_, _)› ?_ | refine keeps_snd ‹_ = (_, _)› ?_ | refine keeps_ok ‹_ = Except.ok _› ?_ | refine keeps_some ‹_ = some _› ?_ | refine keeps_someC ‹_ = some (_, _)› ?_ | refine keeps_inl ‹_ = Sum.inl _› ?_ | refine keeps_inr ‹_ = Sum.inr _› ?_ | exact KeepsE.keep ‹KeepsE _ (Except.ok _)› _ rfl | exact KeepsO.keep ‹KeepsO _ (some _)› _ rfl | exact KeepsC.keep ‹KeepsC _ (some _)› _ rfl | exact KeepsEff.keep ‹KeepsEff _ (Effect.done _ _)› _ rfl | refine keeps_of_done ‹_ = Effect.done _ _› ?_)

theorem State.writeConsumers_keeps {s0 : State} (s : State) (before : State) (hk : Keeps s0 s) : Keeps s0 (State.writeConsumers s before) := by
  unfold State.writeConsumers
  try dsimp only
  repeat' first | intro _ | (with_reducible first | assumption | apply State.frontWrite_keeps | apply keeps_foldl) | split

theorem State.buildList_keeps {s0 : State} (s : State) (hk : Keeps s0 s) : Keeps s0 (State.buildList s).1 := by
  unfold State.buildList
  repeat' first | (with_reducible first | assumption | apply pick_keeps | apply State.writeConsumers_keeps) | (simp only [keeps_mk]; refine keeps_upd ?_) | split

theorem State.freePlaces_keeps {s0 : State} (s : State) (r : Nat) (n : Nat) (hk : Keeps s0 s) : Keeps s0 (State.freePlaces s r n) :=
  State.setCq_keeps _ _ _ hk

theorem State.keepCompletion_keeps {s0 : State} (s : State) (c : Completion) (hk : Keeps s0 s) : Keeps s0 (State.keepCompletion s c) := by
  unfold State.keepCompletion
  repeat' first | (with_reducible first | assumption | apply State.setCq_keeps) | (simp only [keeps_mk]; refine keeps_upd ?_) | split

theorem State.postCompletion_keeps {s0 : State} (s : State) (ring : Nat) (c : Completion) (hk : Keeps s0 s) : Keeps s0 (State.postCompletion s ring c) := by
  unfold State.postCompletion
  repeat' first | (with_reducible first | assumption | apply State.freePlaces_keeps | apply State.countIrq_keeps | apply State.keepCompletion_keeps | apply State.writeCompletion_keeps) | split

theorem State.postBatch_keeps {s0 : State} (s : State) (b : Batch) (hk : Keeps s0 s) : Keeps s0 (State.postBatch s b) := by
  unfold State.postBatch
  dsimp only
  repeat' first | (with_reducible first | assumption | apply State.freePlaces_keeps | apply State.postCompletion_keeps) | (simp only [keeps_mk]; refine keeps_upd ?_) | split

theorem State.releaseMember_keeps {s0 : State} (s : State) (b : Batch) (m : BatchMember) (hk : Keeps s0 s) : Keeps s0 (State.releaseMember s b m) := by
  unfold State.releaseMember
  dsimp only
  repeat' first | (with_reducible first | assumption | apply State.postBatch_keeps) | (simp only [keeps_mk]; refine keeps_upd ?_) | split

theorem State.releaseEntry_keeps {s0 : State} (s : State) (e : WorkEntry) (durable : Bool) (hk : Keeps s0 s) : Keeps s0 (State.releaseEntry s e durable) := by
  unfold State.releaseEntry
  repeat' first | (with_reducible first | assumption | apply State.releaseMember_keeps | apply State.freePlaces_keeps | apply State.postCompletion_keeps) | split

theorem State.countOverload_keeps {s0 : State} (s : State) (hk : Keeps s0 s) : Keeps s0 (State.countOverload s) := by
  unfold State.countOverload
  repeat' split
  all_goals exact Keeps.upd hk rfl rfl rfl

theorem State.dropTemporaries_keeps {s0 : State} (s : State) (e : WorkEntry) (hk : Keeps s0 s) : Keeps s0 (State.dropTemporaries s e) := by
  unfold State.dropTemporaries
  try dsimp only
  repeat' first | intro _ | (with_reducible first | assumption | apply State.dropTable_keeps | apply keeps_foldl) | split

theorem State.postEnded_keeps {s0 : State} (s : State) (hk : Keeps s0 s) : Keeps s0 (State.postEnded s) := by
  unfold State.postEnded
  try dsimp only
  repeat' first | intro _ | (with_reducible first | assumption | apply State.postBatch_keeps | apply keeps_foldl) | split

theorem execSquash_keeps {s0 : State} (slot : Fin 256) (s : State) (hk : Keeps s0 s) : KeepsOut s0 (execSquash slot s) := by
  refine keepsOut_next ?_
  dsimp only
  repeat' first | (with_reducible first | assumption | apply State.squashInstance_keeps | apply State.updEntry_keeps) | split

/-! ### Objects -/

theorem State.odSet_keeps {s0 : State} (s : State) (index : Nat) (sub : Nat) (v : Nat) (hk : Keeps s0 s) : Keeps s0 (State.odSet s index sub v) :=
  Keeps.upd hk rfl rfl rfl

end Sys2Proof.Machine
end

