-- ==== Sys2Proof/Laws/KeepsTick.lean ====
section
/-! SUPPORT. What the latching, DRAM, journal, power, frame and tick operations keep: the queue, the ordering code and the canonical form of memory. -/

namespace Sys2Proof.Machine

/-! ### Latch -/

theorem State.applyDesc_keeps {s0 : State} (s : State) (inst : Nat) (sel : Nat) (d : BitVec 192) (hk : Keeps s0 s) : Keeps s0 (State.applyDesc s inst sel d) := by
  unfold State.applyDesc
  repeat' first | (with_reducible first | assumption | apply State.sumMerge_keeps) | (simp only [keeps_mk]; refine keeps_upd ?_) | split

theorem State.invalidate_keeps {s0 : State} (s : State) (gone : CacheLine → Bool) (victimGone : Nat → Bool) (hk : Keeps s0 s) : Keeps s0 (State.invalidate s gone victimGone) :=
  Keeps.upd hk rfl rfl rfl

theorem State.relock_keeps {s0 : State} (s : State) (hk : Keeps s0 s) : Keeps s0 (State.relock s) := by
  unfold State.relock
  dsimp only
  repeat' first | (with_reducible first | assumption | apply State.invalidate_keeps) | split

theorem State.invalidateRange_keeps {s0 : State} (s : State) (base : Nat) (len : Nat) (hk : Keeps s0 s) : Keeps s0 (State.invalidateRange s base len) := by
  unfold State.invalidateRange
  repeat' first | (with_reducible first | assumption | apply State.invalidate_keeps) | split

theorem State.latchSq_keeps {s0 : State} (s : State) (r : Nat) (hk : Keeps s0 s) : Keeps s0 (State.latchSq s r) := by
  unfold State.latchSq
  dsimp only
  repeat' first | (with_reducible first | assumption | apply State.disableSq_keeps | apply State.setSq_keeps) | split

theorem State.latchCq_keeps {s0 : State} (s : State) (r : Nat) (hk : Keeps s0 s) : Keeps s0 (State.latchCq s r) := by
  unfold State.latchCq
  dsimp only
  repeat' first | (with_reducible first | assumption | apply State.setCq_keeps) | split

theorem State.applySet_keeps {s0 : State} (s : State) (hk : Keeps s0 s) : Keeps s0 (State.applySet s) := by
  unfold State.applySet
  try dsimp only
  repeat' first | intro _ | (with_reducible first | assumption | apply State.relock_keeps | apply State.invalidateRange_keeps | apply State.odSet_keeps | apply State.latchSq_keeps | apply State.latchCq_keeps | apply keeps_foldl) | (simp only [keeps_mk]; refine keeps_upd ?_) | split

theorem State.refuseSet_keeps {s0 : State} (s : State) (mask : Nat) (hk : Keeps s0 s) : Keeps s0 (State.refuseSet s mask) := by
  unfold State.refuseSet
  repeat' first | (with_reducible first | assumption | apply State.raise_keeps) | (simp only [keeps_mk]; refine keeps_upd ?_) | split

theorem State.latchSet_keeps {s0 : State} (s : State) (hk : Keeps s0 s) : Keeps s0 (State.latchSet s).1 := by
  unfold State.latchSet
  dsimp only
  repeat' first | (with_reducible first | assumption | apply State.applySet_keeps | apply State.refuseSet_keeps) | split

theorem State.latchDesc_keeps {s0 : State} (s : State) (c : DescChange) (hk : Keeps s0 s) : Keeps s0 (State.latchDesc s c) := by
  unfold State.latchDesc
  dsimp only
  repeat' first | (with_reducible first | assumption | apply State.applyDesc_keeps | apply State.finish_keeps) | (simp only [keeps_mk]; refine keeps_upd ?_) | split

theorem State.latchDescs_keeps {s0 : State} (s : State) (hk : Keeps s0 s) : Keeps s0 (State.latchDescs s) := by
  unfold State.latchDescs
  try dsimp only
  repeat' first | intro _ | (with_reducible first | assumption | apply State.latchDesc_keeps | apply keeps_foldl) | split

/-! ### MirrorSend -/

theorem State.sendMirror_keeps {s0 : State} (s : State) (portB : Bool) (type : Nat) (frame : Nat) (payload : List Byte) (hk : Keeps s0 s) : Keeps s0 (State.sendMirror s portB type frame payload) := by
  unfold State.sendMirror
  dsimp only
  repeat' first | (with_reducible first | assumption) | (simp only [keeps_mk]; refine keeps_upd ?_) | split

theorem State.setFaults_keeps {s0 : State} (s : State) (f : BitVec 48) (hk : Keeps s0 s) : Keeps s0 (State.setFaults s f) :=
  Keeps.upd hk rfl rfl rfl

theorem State.latchFault_keeps {s0 : State} (s : State) (bit : Nat) (hk : Keeps s0 s) : Keeps s0 (State.latchFault s bit) :=
  State.setFaults_keeps _ _ hk

theorem State.sendT1s_keeps {s0 : State} (s : State) (h : Heartbeat) (hk : Keeps s0 s) : Keeps s0 (State.sendT1s s h) := by
  unfold State.sendT1s
  split <;> exact Keeps.upd hk rfl rfl rfl

theorem State.fence_keeps {s0 : State} (s : State) (reason : Nat) (hk : Keeps s0 s) : Keeps s0 (State.fence s reason) := by
  unfold State.fence
  repeat' first | (with_reducible first | assumption | apply State.latchFault_keeps | apply State.sendMirror_keeps | apply State.raise_keeps | apply State.sendT1s_keeps) | (simp only [keeps_mk]; refine keeps_upd ?_) | split

theorem State.sendHeartbeats_keeps {s0 : State} (s : State) (detach : Bool) (hk : Keeps s0 s) : Keeps s0 (State.sendHeartbeats s detach) := by
  unfold State.sendHeartbeats
  repeat' first | (with_reducible first | assumption | apply State.sendMirror_keeps) | split

theorem State.sendDown_keeps {s0 : State} (s : State) (type : Nat) (frame : Nat) (payload : List Byte) (hk : Keeps s0 s) : Keeps s0 (State.sendDown s type frame payload) := by
  unfold State.sendDown
  repeat' first | (with_reducible first | assumption | apply State.sendMirror_keeps) | (simp only [keeps_mk]; refine keeps_upd ?_) | split

theorem State.stageData_keeps {s0 : State} (s : State) (slot : Nat) (source : Nat) (bytes : List Byte) (hk : Keeps s0 s) : Keeps s0 (State.stageData s slot source bytes) := by
  unfold State.stageData
  dsimp only
  repeat' first | (with_reducible first | assumption | apply State.sendDown_keeps) | (simp only [keeps_mk]; refine keeps_upd ?_) | split

theorem State.fatal_keeps {s0 : State} (s : State) (bit : Nat) (loc : Nat) (hk : Keeps s0 s) : Keeps s0 (State.fatal s bit loc) := by
  unfold State.fatal
  repeat' first | (with_reducible first | assumption | apply State.fence_keeps | apply State.raiseAt_keeps | apply State.latchFault_keeps) | split

theorem State.takeData_keeps {s0 : State} (s : State) (r : DataRecord) (hk : Keeps s0 s) : Keeps s0 (State.takeData s r) :=
  State.updEntry_keeps _ _ _ hk

/-! ### DramRows -/

theorem State.cacheEnable_keeps {s0 : State} (s : State) (on : Bool) (hk : Keeps s0 s) : Keeps s0 (State.cacheEnable s on) := by
  unfold State.cacheEnable
  repeat' first | (with_reducible first | assumption | apply State.odSet_keeps | apply State.invalidate_keeps) | (simp only [keeps_mk]; refine keeps_upd ?_) | split

theorem State.endScrubPass_keeps {s0 : State} (s : State) (hk : Keeps s0 s) : Keeps s0 (State.endScrubPass s) := by
  unfold State.endScrubPass
  repeat' first | (with_reducible first | assumption | apply State.fresh_keeps) | (simp only [keeps_mk]; refine keeps_upd ?_) | split

theorem State.strikeCache_keeps {s0 : State} (s : State) (x : CacheError) (hk : Keeps s0 s) : Keeps s0 (State.strikeCache s x) := by
  unfold State.strikeCache
  split <;> exact Keeps.upd hk rfl rfl rfl

theorem State.strike_keeps {s0 : State} (s : State) (a1 : Upset) (hk : Keeps s0 s) : Keeps s0 (State.strike s a1) := by
  unfold State.strike
  repeat' first | (with_reducible first | assumption | apply State.strikeUnit_keeps | apply State.strikeCache_keeps) | (simp only [keeps_mk]; refine keeps_upd ?_) | split

theorem State.idle_keeps {s0 : State} (s : State) (hk : Keeps s0 s) : Keeps s0 (State.idle s) := by
  unfold State.idle
  repeat' first | (with_reducible first | assumption | apply State.strike_keeps) | (simp only [keeps_mk]; refine keeps_upd ?_) | split

theorem State.poisonOutcome_keeps {s0 : State} (s : State) (who : Requester) (c : Nat) (hk : Keeps s0 s) : Keeps s0 (State.poisonOutcome s who c) := by
  unfold State.poisonOutcome
  repeat' first | (with_reducible first | assumption | apply State.failEntry_keeps | apply State.tileFail_keeps | apply State.fatal_keeps) | split

theorem execRefreshIntervalExpiry_keeps {s0 : State} (c : Fin 48) (s : State) (hk : Keeps s0 s) : KeepsOut s0 (execRefreshIntervalExpiry c s) := by
  refine keepsOut_next ?_
  repeat' first | (with_reducible first | assumption | apply State.updChannel_keeps) | split

theorem execRefreshUnit_keeps {s0 : State} (c : Fin 48) (idle : Bool) (s : State) (hk : Keeps s0 s) : KeepsOut s0 (execRefreshUnit c idle s) := by
  refine keepsOut_next ?_
  repeat' first | (with_reducible first | assumption | apply State.updChannel_keeps) | split

theorem execMr4Readout_keeps {s0 : State} (stack : Fin 12) (readings : List Nat) (s : State) (hk : Keeps s0 s) : KeepsOut s0 (execMr4Readout stack readings s) := by
  refine keepsOut_next ?_
  try dsimp only
  repeat' first | intro _ | (with_reducible first | assumption | apply State.raiseAt_keeps | apply State.updChannel_keeps | apply keeps_foldl) | (simp only [keeps_mk]; refine keeps_upd ?_) | split

theorem execRecalibration_keeps {s0 : State} (_c : Fin 48) (s : State) (hk : Keeps s0 s) : KeepsOut s0 (execRecalibration _c s) :=
  keepsOut_next (Keeps.upd hk rfl rfl rfl)

theorem execScrubVisit_keeps {s0 : State} (c : Fin 48) (o : EccOutcome) (s : State) (hk : Keeps s0 s) : KeepsOut s0 (execScrubVisit c o s) := by
  refine keepsOut_next ?_
  repeat' first | (with_reducible first | assumption | apply State.readUnit_keeps | apply State.dramRead_keeps | apply State.strikeUnit_keeps | apply State.endScrubPass_keeps | apply State.updChannel_keeps) | split

theorem execScrubLate_keeps {s0 : State} (c : Fin 48) (s : State) (hk : Keeps s0 s) : KeepsOut s0 (execScrubLate c s) := by
  refine keepsOut_next ?_
  repeat' first | (with_reducible first | assumption | apply State.raise_keeps | apply State.updChannel_keeps) | split

theorem execMemoryReadReturn_keeps {s0 : State} (ma : Nat) (who : Requester) (bursts : List Nat) (s : State) (hk : Keeps s0 s) : KeepsOut s0 (execMemoryReadReturn ma who bursts s) := by
  unfold execMemoryReadReturn
  try dsimp only
  repeat' first | intro _ | (with_reducible first | assumption | apply State.updChannel_keeps | apply State.strikeUnit_keeps | apply State.readUnit_keeps | apply State.dramRead_keeps | apply State.poisonOutcome_keeps | apply keepsOut_next | exact keepsOut_fault | apply keeps_foldl | apply keeps_foldl_fst | apply keeps_foldl_snd) | (simp only [keeps_mk]; refine keeps_upd ?_) | split | (with_reducible first | refine keeps_fst ‹_ = (_, _)› ?_ | refine keeps_snd ‹_ = (_, _)› ?_ | refine keeps_ok ‹_ = Except.ok _› ?_ | refine keeps_some ‹_ = some _› ?_ | refine keeps_someC ‹_ = some (_, _)› ?_ | refine keeps_inl ‹_ = Sum.inl _› ?_ | refine keeps_inr ‹_ = Sum.inr _› ?_ | exact KeepsE.keep ‹KeepsE _ (Except.ok _)› _ rfl | exact KeepsO.keep ‹KeepsO _ (some _)› _ rfl | exact KeepsC.keep ‹KeepsC _ (some _)› _ rfl | exact KeepsEff.keep ‹KeepsEff _ (Effect.done _ _)› _ rfl | refine keeps_of_done ‹_ = Effect.done _ _› ?_)

theorem execWriteQueueDrain_keeps {s0 : State} (c : Fin 48) (s : State) (hk : Keeps s0 s) : KeepsOut s0 (execWriteQueueDrain c s) := by
  refine keepsOut_next ?_
  repeat' first | (with_reducible first | assumption | apply State.updChannel_keeps | apply State.emptyBuffers_keeps) | split

theorem execPartialWrite_keeps {s0 : State} (ma : Nat) (data : PartialData) (who : Requester) (s : State) (hk : Keeps s0 s) : KeepsOut s0 (execPartialWrite ma data who s) := by
  unfold execPartialWrite
  try dsimp only
  repeat' first | intro _ | (with_reducible first | assumption | apply State.writeLine_keeps | apply State.strikeUnit_keeps | apply State.poisonOutcome_keeps | apply keepsOut_next | exact keepsOut_fault | apply keeps_foldl | apply keeps_foldl_fst | apply keeps_foldl_snd) | (simp only [keeps_mk]; refine keeps_upd ?_) | split | (with_reducible first | refine keeps_fst ‹_ = (_, _)› ?_ | refine keeps_snd ‹_ = (_, _)› ?_ | refine keeps_ok ‹_ = Except.ok _› ?_ | refine keeps_some ‹_ = some _› ?_ | refine keeps_someC ‹_ = some (_, _)› ?_ | refine keeps_inl ‹_ = Sum.inl _› ?_ | refine keeps_inr ‹_ = Sum.inr _› ?_ | exact KeepsE.keep ‹KeepsE _ (Except.ok _)› _ rfl | exact KeepsO.keep ‹KeepsO _ (some _)› _ rfl | exact KeepsC.keep ‹KeepsC _ (some _)› _ rfl | exact KeepsEff.keep ‹KeepsEff _ (Effect.done _ _)› _ rfl | refine keeps_of_done ‹_ = Effect.done _ _› ?_)

theorem execVerifyScanRow_keeps {s0 : State} (b : Fin 24) (differs : Bool) (s : State) (hk : Keeps s0 s) : KeepsOut s0 (execVerifyScanRow b differs s) := by
  refine keepsOut_next ?_
  repeat' first | (with_reducible first | assumption | apply State.readSram_keeps | apply State.rewriteRow_keeps | apply State.kmaFault_keeps) | (simp only [keeps_mk]; refine keeps_upd ?_) | split

theorem execCacheEnableWrite_keeps {s0 : State} (on : Bool) (s : State) (hk : Keeps s0 s) : KeepsOut s0 (execCacheEnableWrite on s) :=
  keepsOut_next (State.cacheEnable_keeps _ _ hk)

theorem execCacheDrainComplete_keeps {s0 : State} (s : State) (hk : Keeps s0 s) : KeepsOut s0 (execCacheDrainComplete s) := by
  refine keepsOut_next ?_
  repeat' first | (with_reducible first | assumption | apply State.invalidate_keeps | apply State.emptyBuffers_keeps) | (simp only [keeps_mk]; refine keeps_upd ?_) | split

/-! ### DictApply -/

theorem State.ruleSet_keeps {s0 : State} (s : State) (rule : Nat) (v : Nat) (hk : Keeps s0 s) : Keeps s0 (State.ruleSet s rule v) := by
  unfold State.ruleSet
  repeat' first | (with_reducible first | assumption | apply State.odSet_keeps) | (simp only [keeps_mk]; refine keeps_upd ?_) | split

theorem State.applyImmediate_keeps {s0 : State} (s : State) (index : Nat) (sub : Nat) (v : Nat) (hk : Keeps s0 s) : Keeps s0 (State.applyImmediate s index sub v) := by
  unfold State.applyImmediate
  repeat' first | (with_reducible first | assumption | apply State.setTimeBase_keeps | apply State.cacheEnable_keeps | apply State.ruleSet_keeps | apply State.odSet_keeps) | split

theorem State.shadowSet_keeps {s0 : State} (s : State) (index : Nat) (sub : Nat) (v : Nat) (hk : Keeps s0 s) : Keeps s0 (State.shadowSet s index sub v) :=
  Keeps.upd hk rfl rfl rfl

theorem State.resetSet_keeps {s0 : State} (s : State) (index : Nat) (sub : Nat) (v : Nat) (hk : Keeps s0 s) : Keeps s0 (State.resetSet s index sub v) :=
  Keeps.upd hk rfl rfl rfl

theorem State.latchProfile_keeps {s0 : State} (s : State) (hk : Keeps s0 s) : Keeps s0 (State.latchProfile s).1 := by
  unfold State.latchProfile
  try dsimp only
  repeat' first | intro _ | (with_reducible first | assumption | apply State.latchSet_keeps | apply State.shadowSet_keeps | apply State.applyImmediate_keeps | apply State.applySet_keeps | apply State.raise_keeps | apply State.refuseSet_keeps | apply keeps_foldl) | (simp only [keeps_mk]; refine keeps_upd ?_) | split

theorem execRuleWrite_keeps {s0 : State} (rule : Fin 64) (v : Word) (s : State) (hk : Keeps s0 s) : KeepsOut s0 (execRuleWrite rule v s) := by
  refine keepsOut_next ?_
  repeat' first | (with_reducible first | assumption | apply State.ruleSet_keeps) | split

/-! ### Durable -/

theorem State.readSlot_keeps {s0 : State} (s : State) (slot : Nat) (mirror : Bool) (hk : Keeps s0 s) : Keeps s0 (State.readSlot s slot mirror) := by
  unfold State.readSlot
  repeat' first | (with_reducible first | assumption | apply State.readRange_keeps | apply State.persistRead_keeps) | split

theorem State.advanceCommit_keeps {s0 : State} (s : State) (ended : Nat) (hk : Keeps s0 s) : Keeps s0 (State.advanceCommit s ended) := by
  unfold State.advanceCommit
  dsimp only
  repeat' first | (with_reducible first | assumption) | (simp only [keeps_mk]; refine keeps_upd ?_) | split

theorem State.markDue_keeps {s0 : State} (s : State) (frame : Nat) (hk : Keeps s0 s) : Keeps s0 (State.markDue s frame) := by
  unfold State.markDue
  split <;> exact Keeps.upd hk rfl rfl rfl

theorem State.checkLow_keeps {s0 : State} (s : State) (hk : Keeps s0 s) : Keeps s0 (State.checkLow s) := by
  unfold State.checkLow
  dsimp only
  repeat' first | (with_reducible first | assumption | apply State.raise_keeps | apply State.markDue_keeps) | (simp only [keeps_mk]; refine keeps_upd ?_) | split

theorem State.dropChrysalis_keeps {s0 : State} (s : State) (hk : Keeps s0 s) : Keeps s0 (State.dropChrysalis s) := by
  unfold State.dropChrysalis
  repeat' first | (with_reducible first | assumption | apply State.markDue_keeps) | (simp only [keeps_mk]; refine keeps_upd ?_) | split

theorem pushEntry_keeps {s0 : State} (l : List (Nat × MapEntry)) (slot : Nat) (n : State × MapEntry) (hk : Keeps s0 n.1) :
    Keeps s0 (pushEntry l slot n).1 := hk

theorem State.submit_keeps {s0 : State} (s : State) (p : PersistSet) (w : PersistWrite) (hk : Keeps s0 s) : Keeps s0 (State.submit s p w) :=
  Keeps.upd hk rfl rfl rfl

theorem State.placeEntry_keeps {s0 : State} (s : State) (p : PersistSet) (used : List Nat) (slot : Nat) (e : MapEntry) (hk : Keeps s0 s) : Keeps s0 (State.placeEntry s p used slot e).1 := by
  unfold State.placeEntry
  repeat' first | (with_reducible first | assumption | apply State.fresh_keeps | apply State.submit_keeps) | split

theorem State.freshEntry_keeps {s0 : State} (s : State) (p : PersistSet) (used : List Nat) (slot : Nat) (spanId : Nat) (seq : Nat) (heat : Nat)
    (hk : Keeps s0 s) : Keeps s0 (State.freshEntry s p used slot spanId seq heat).1 := by
  rw [State.freshEntry]
  exact State.placeEntry_keeps _ _ _ _ _ (State.readSlot_keeps _ _ _ hk)

theorem newMapStep_keeps {s0 : State} (p : PersistSet) (old : List (Nat × MapEntry)) (units : List Nat) (r : State × List (Nat × MapEntry)) (q : Nat × Nat × Nat) (hk : Keeps s0 r.1) : Keeps s0 (newMapStep p old units r q).1 := by
  unfold newMapStep
  repeat' first | (with_reducible first | assumption | apply pushEntry_keeps | apply State.freshEntry_keeps) | split

theorem State.newMap_keeps {s0 : State} (s : State) (p : PersistSet) (hk : Keeps s0 s) : Keeps s0 (State.newMap s p).1 := by
  unfold State.newMap
  try dsimp only
  repeat' first | intro _ | (with_reducible first | assumption | apply newMapStep_keeps | apply keeps_foldl_fst) | split

theorem State.flushCaches_keeps {s0 : State} (s : State) (p : PersistSet) (hk : Keeps s0 s) : Keeps s0 (State.flushCaches s p) := by
  unfold State.flushCaches
  try dsimp only
  repeat' first | intro _ | (with_reducible first | assumption | apply State.submit_keeps | apply keeps_foldl) | split

theorem State.startChrysalis_keeps {s0 : State} (s : State) (k : Nat) (p : PersistSet) (format : Bool) (hk : Keeps s0 s) : Keeps s0 (State.startChrysalis s k p format) := by
  unfold State.startChrysalis
  repeat' first | (with_reducible first | assumption | apply State.newMap_keeps | apply State.flushCaches_keeps | apply State.submit_keeps) | (simp only [keeps_mk]; refine keeps_upd ?_) | split

theorem State.chrysalisTick_keeps {s0 : State} (s : State) (k : Nat) (hk : Keeps s0 s) : Keeps s0 (State.chrysalisTick s k) := by
  unfold State.chrysalisTick
  dsimp only
  repeat' first | (with_reducible first | assumption | apply State.startChrysalis_keeps | apply State.markDue_keeps | apply State.raise_keeps) | split

theorem State.countCompare_keeps {s0 : State} (s : State) (hk : Keeps s0 s) : Keeps s0 (State.countCompare s) :=
  Keeps.upd hk rfl rfl rfl

theorem State.setPort_keeps {s0 : State} (s : State) (p : Fin 4) (x : PersistPort) (hk : Keeps s0 s) : Keeps s0 (State.setPort s p x) :=
  Keeps.upd hk rfl rfl rfl

theorem State.countBlocks_keeps {s0 : State} (s : State) (v : Nat) (n : Nat) (hk : Keeps s0 s) : Keeps s0 (State.countBlocks s v n) := by
  unfold State.countBlocks
  try dsimp only
  repeat' first | intro _ | (with_reducible first | assumption | apply State.setPort_keeps | apply keeps_foldl) | split

theorem State.hashSeal_keeps {s0 : State} (s : State) (head : List Byte) (records : List Byte) (hk : Keeps s0 s) : Keeps s0 (State.hashSeal s head records) := by
  unfold State.hashSeal
  repeat' first | (with_reducible first | assumption | apply State.hashOn_keeps | apply State.hashLanes_keeps) | split

theorem State.sealCocoon_keeps {s0 : State} (s : State) (hk : Keeps s0 s) : Keeps s0 (State.sealCocoon s) := by
  unfold State.sealCocoon
  dsimp only
  repeat' first | (with_reducible first | assumption | apply State.raise_keeps | apply State.checkLow_keeps | apply State.hashSeal_keeps | apply State.submit_keeps) | (simp only [keeps_mk]; refine keeps_upd ?_) | split

theorem State.formatTick_keeps {s0 : State} (s : State) (k : Nat) (hk : Keeps s0 s) : Keeps s0 (State.formatTick s k) := by
  unfold State.formatTick
  try dsimp only
  repeat' first | intro _ | (with_reducible first | assumption | apply State.fresh_keeps | apply State.startChrysalis_keeps | apply State.submit_keeps | apply keeps_foldl) | (simp only [keeps_mk]; refine keeps_upd ?_) | split

theorem State.joined_keeps {s0 : State} (s : State) (hk : Keeps s0 s) : Keeps s0 (State.joined s) := by
  unfold State.joined
  repeat' split
  all_goals exact Keeps.upd hk rfl rfl rfl

theorem State.writeSuperblocks_keeps {s0 : State} (s : State) (p : PersistSet) (map : List Byte) (manifest : List Byte) (hk : Keeps s0 s) : Keeps s0 (State.writeSuperblocks s p map manifest) := by
  unfold State.writeSuperblocks
  try dsimp only
  repeat' first | intro _ | (with_reducible first | assumption | apply State.hashOn_keeps | apply State.submit_keeps | apply keeps_foldl) | split

theorem execCocoonAcknowledged_keeps {s0 : State} (frame : Nat) (s : State) (hk : Keeps s0 s) : KeepsOut s0 (execCocoonAcknowledged frame s) := by
  refine keepsOut_next ?_
  repeat' first | (with_reducible first | assumption | apply State.advanceCommit_keeps) | (simp only [keeps_mk]; refine keeps_upd ?_) | split

theorem execCommitTimeout_keeps {s0 : State} (s : State) (hk : Keeps s0 s) : KeepsOut s0 (execCommitTimeout s) := by
  refine keepsOut_next ?_
  dsimp only
  repeat' first | (with_reducible first | assumption | apply State.raiseAt_keeps) | (simp only [keeps_mk]; refine keeps_upd ?_) | split

theorem execChrysalisWriteAck_keeps {s0 : State} (s : State) (hk : Keeps s0 s) : KeepsOut s0 (execChrysalisWriteAck s) := by
  refine keepsOut_next ?_
  repeat' first | (with_reducible first | assumption | apply State.writeSuperblocks_keeps) | (simp only [keeps_mk]; refine keeps_upd ?_) | split

theorem execChrysalisComplete_keeps {s0 : State} (s : State) (hk : Keeps s0 s) : KeepsOut s0 (execChrysalisComplete s) := by
  refine keepsOut_next ?_
  repeat' first | (with_reducible first | assumption | apply State.advanceCommit_keeps | apply State.joined_keeps | apply State.checkLow_keeps) | (simp only [keeps_mk]; refine keeps_upd ?_) | split

theorem execFormat_keeps {s0 : State} (s : State) (hk : Keeps s0 s) : KeepsOut s0 (execFormat s) :=
  keepsOut_next (Keeps.upd hk rfl rfl rfl)

theorem execChrysalisSoon_keeps {s0 : State} (s : State) (hk : Keeps s0 s) : KeepsOut s0 (execChrysalisSoon s) :=
  keepsOut_next (State.markDue_keeps _ _ hk)

/-! ### Power -/

theorem State.setPower_keeps {s0 : State} (s : State) (p : Nat) (hk : Keeps s0 s) : Keeps s0 (State.setPower s p) :=
  Keeps.upd hk rfl rfl rfl

theorem State.moduleReset_keeps {s0 : State} (s : State) (cause : Nat) (hk : Keeps s0 s) : Keeps s0 (State.moduleReset s cause) :=
  ⟨hk.queue, hk.variant, fun _ => rfl⟩

theorem State.mothRestart_keeps {s0 : State} (s : State) (hk : Keeps s0 s) : Keeps s0 (State.mothRestart s) := by
  unfold State.mothRestart
  repeat' first | (with_reducible first | assumption | apply State.setPower_keeps | apply State.moduleReset_keeps) | split

theorem State.failPower_keeps {s0 : State} (s : State) (rule : Nat) (hk : Keeps s0 s) : Keeps s0 (State.failPower s rule) := by
  unfold State.failPower
  repeat' first | (with_reducible first | assumption | apply State.raise_keeps | apply State.sendT1s_keeps | apply State.fence_keeps) | (simp only [keeps_mk]; refine keeps_upd ?_) | split

theorem State.powerDown_keeps {s0 : State} (s : State) (power : Nat) (hk : Keeps s0 s) : Keeps s0 (State.powerDown s power) :=
  Keeps.upd hk rfl rfl rfl

theorem State.powerFailure_keeps {s0 : State} (s : State) (hk : Keeps s0 s) : Keeps s0 (State.powerFailure s) :=
  Keeps.upd hk rfl rfl rfl

theorem State.takeFired_keeps {s0 : State} (s : State) (f : Nat × Nat × Bool) (hk : Keeps s0 s) : Keeps s0 (State.takeFired s f) :=
  Keeps.upd hk rfl rfl rfl

theorem execPowerOn_keeps {s0 : State} (s : State) (hk : Keeps s0 s) : KeepsOut s0 (execPowerOn s) :=
  keepsOut_next ⟨hk.queue, hk.variant, fun _ => rfl⟩

theorem execVinOn_keeps {s0 : State} (s : State) (hk : Keeps s0 s) : KeepsOut s0 (execVinOn s) := by
  refine keepsOut_next ?_
  repeat' first | (with_reducible first | assumption | apply State.setPower_keeps) | split

theorem execRailUpTimeout_keeps {s0 : State} (s : State) (hk : Keeps s0 s) : KeepsOut s0 (execRailUpTimeout s) := by
  refine keepsOut_next ?_
  repeat' first | (with_reducible first | assumption | apply State.fresh_keeps | apply State.powerFailure_keeps | apply State.raise_keeps) | split

theorem execPowerupRetryTimer_keeps {s0 : State} (s : State) (hk : Keeps s0 s) : KeepsOut s0 (execPowerupRetryTimer s) := by
  refine keepsOut_next ?_
  repeat' first | (with_reducible first | assumption | apply State.setPower_keeps) | split

theorem execPwrgood_keeps {s0 : State} (s : State) (hk : Keeps s0 s) : KeepsOut s0 (execPwrgood s) := by
  refine keepsOut_next ?_
  repeat' first | (with_reducible first | assumption | apply State.moduleReset_keeps) | (simp only [keeps_mk]; refine keeps_upd ?_) | split

theorem execPowerFail_keeps {s0 : State} (rule : Fin 3) (s : State) (hk : Keeps s0 s) : KeepsOut s0 (execPowerFail rule s) := by
  refine keepsOut_next ?_
  repeat' first | (with_reducible first | assumption | apply State.failPower_keeps | apply State.takeFired_keeps) | split

theorem execPfRestartExpiry_keeps {s0 : State} (s : State) (hk : Keeps s0 s) : KeepsOut s0 (execPfRestartExpiry s) := by
  refine keepsOut_next ?_
  repeat' first | (with_reducible first | assumption | apply State.moduleReset_keeps | apply State.setPower_keeps) | split

theorem execVinOff_keeps {s0 : State} (s : State) (hk : Keeps s0 s) : KeepsOut s0 (execVinOff s) := by
  refine keepsOut_next ?_
  repeat' first | (with_reducible first | assumption | apply State.powerDown_keeps) | split

theorem execRailFault_keeps {s0 : State} (channel : Nat) (s : State) (hk : Keeps s0 s) : KeepsOut s0 (execRailFault channel s) := by
  refine keepsOut_next ?_
  repeat' first | (with_reducible first | assumption | apply State.fresh_keeps | apply State.takeFired_keeps | apply State.powerDown_keeps | apply State.raise_keeps | apply State.failPower_keeps | apply State.powerFailure_keeps) | split

theorem execThermalBand_keeps {s0 : State} (s : State) (hk : Keeps s0 s) : KeepsOut s0 (execThermalBand s) := by
  refine keepsOut_next ?_
  repeat' first | (with_reducible first | assumption | apply State.takeFired_keeps | apply State.raise_keeps) | (simp only [keeps_mk]; refine keeps_upd ?_) | split

theorem execThermalTrip_keeps {s0 : State} (channel : Nat) (s : State) (hk : Keeps s0 s) : KeepsOut s0 (execThermalTrip channel s) := by
  refine keepsOut_next ?_
  repeat' first | (with_reducible first | assumption | apply State.fresh_keeps | apply State.takeFired_keeps | apply State.powerDown_keeps | apply State.raise_keeps | apply State.failPower_keeps) | (simp only [keeps_mk]; refine keeps_upd ?_) | split

theorem execStackHot_keeps {s0 : State} (stack : Fin 12) (s : State) (hk : Keeps s0 s) : KeepsOut s0 (execStackHot stack s) := by
  refine keepsOut_next ?_
  repeat' first | (with_reducible first | assumption | apply State.raise_keeps | apply State.takeFired_keeps) | split

theorem execRuleAssert_keeps {s0 : State} (rule : Fin 64) (s : State) (hk : Keeps s0 s) : KeepsOut s0 (execRuleAssert rule s) := by
  refine keepsOut_next ?_
  repeat' first | (with_reducible first | assumption | apply State.raise_keeps | apply State.takeFired_keeps) | split

theorem execRuleRelease_keeps {s0 : State} (rule : Fin 64) (s : State) (hk : Keeps s0 s) : KeepsOut s0 (execRuleRelease rule s) := by
  refine keepsOut_next ?_
  repeat' first | (with_reducible first | assumption | apply State.raise_keeps | apply State.takeFired_keeps) | split

theorem execMothCmdRestart_keeps {s0 : State} (s : State) (hk : Keeps s0 s) : KeepsOut s0 (execMothCmdRestart s) :=
  keepsOut_next (State.mothRestart_keeps _ hk)

theorem execModuleReset_keeps {s0 : State} (acc : RegAccess) (v : BitVec 64) (s : State) (hk : Keeps s0 s) : KeepsOut s0 (execModuleReset acc v s) := by
  refine keepsOut_next ?_
  repeat' first | (with_reducible first | assumption | apply State.moduleReset_keeps) | split

/-! ### Frames -/

theorem State.advanceTime_keeps {s0 : State} (s : State) (us : Nat) (hk : Keeps s0 s) : Keeps s0 (State.advanceTime s us) :=
  Keeps.upd hk rfl rfl rfl

theorem State.stageList_keeps {s0 : State} (s : State) (rs : List ListRecord) (hk : Keeps s0 s) : Keeps s0 (State.stageList s rs) :=
  Keeps.upd hk rfl rfl rfl

theorem State.dropSlotTables_keeps {s0 : State} (s : State) (inst : Nat) (slot : Nat) (hk : Keeps s0 s) : Keeps s0 (State.dropSlotTables s inst slot) := by
  unfold State.dropSlotTables
  try dsimp only
  repeat' first | intro _ | (with_reducible first | assumption | apply State.dropTable_keeps | apply keeps_foldl) | split

theorem State.stagePlace_keeps {s0 : State} (s : State) (t : KmaTable) (writes : Bool) (hk : Keeps s0 s) : Keeps s0 (State.stagePlace s t writes) :=
  Keeps.upd hk rfl rfl rfl

theorem State.placeTables_keeps {s0 : State} (s : State) (e : WorkEntry) (img : Image) (recorded : Option (List KmaTable)) (hk : Keeps s0 s) : Keeps s0 (State.placeTables s e img recorded) := by
  unfold State.placeTables
  try dsimp only
  repeat' first | intro _ | (with_reducible first | assumption | apply State.finish_keeps | apply State.placeTable_keeps | apply State.stagePlace_keeps | apply keeps_foldl) | (simp only [keeps_mk]; refine keeps_upd ?_) | split

theorem State.beginStage_keeps {s0 : State} (s : State) (recorded : Option (List KmaTable)) (e0 : WorkEntry) (hk : Keeps s0 s) : Keeps s0 (State.beginStage s recorded e0) := by
  unfold State.beginStage
  try dsimp only
  repeat' first | intro _ | (with_reducible first | assumption | apply State.dropSlotTables_keeps | apply State.placeTables_keeps | apply State.setTile_keeps | apply State.updEntry_keeps | apply keeps_foldl) | split

theorem State.stepSelftest_keeps {s0 : State} (s : State) (hk : Keeps s0 s) : Keeps s0 (State.stepSelftest s) := by
  unfold State.stepSelftest
  repeat' split
  all_goals exact Keeps.upd hk rfl rfl rfl

theorem State.beginFrame_keeps {s0 : State} (s : State) (own : Bool) (recorded : Option (List KmaTable)) (hk : Keeps s0 s) : Keeps s0 (State.beginFrame s own recorded) := by
  unfold State.beginFrame
  try dsimp only
  repeat' first | intro _ | (with_reducible first | assumption | apply State.stageList_keeps | apply State.beginStage_keeps | apply State.squashInstance_keeps | apply State.stepSelftest_keeps | apply keeps_foldl) | (simp only [keeps_mk]; refine keeps_upd ?_) | split

theorem State.closeOverrun_keeps {s0 : State} (s : State) (elapsedUs : Nat) (hk : Keeps s0 s) : Keeps s0 (State.closeOverrun s elapsedUs) := by
  unfold State.closeOverrun
  dsimp only
  repeat' first | (with_reducible first | assumption | apply State.raise_keeps) | (simp only [keeps_mk]; refine keeps_upd ?_) | split

theorem State.dropEntryTables_keeps {s0 : State} (s : State) (e : WorkEntry) (hk : Keeps s0 s) : Keeps s0 (State.dropEntryTables s e) := by
  unfold State.dropEntryTables
  try dsimp only
  repeat' first | intro _ | (with_reducible first | assumption | apply State.dropTable_keeps | apply keeps_foldl) | split

theorem State.completeResets_keeps {s0 : State} (s : State) (hk : Keeps s0 s) : Keeps s0 (State.completeResets s) := by
  unfold State.completeResets
  try dsimp only
  repeat' first | intro _ | (with_reducible first | assumption | apply State.dropEntryTables_keeps | apply State.releaseEntry_keeps | apply keeps_foldl) | (simp only [keeps_mk]; refine keeps_upd ?_) | split

theorem State.sumOutputs_keeps {s0 : State} (s : State) (hk : Keeps s0 s) : Keeps s0 (State.sumOutputs s) := by
  unfold State.sumOutputs
  try dsimp only
  repeat' first | intro _ | (with_reducible first | assumption | apply State.sumOutput_keeps | apply keeps_foldl) | split

theorem State.finishDone_keeps {s0 : State} (s : State) (hk : Keeps s0 s) : Keeps s0 (State.finishDone s) := by
  unfold State.finishDone
  try dsimp only
  repeat' first | intro _ | (with_reducible first | assumption | apply State.finish_keeps | apply keeps_foldl) | split

theorem State.stepDigest_keeps {s0 : State} (s : State) (hk : Keeps s0 s) : Keeps s0 (State.stepDigest s) := by
  unfold State.stepDigest
  repeat' first | (with_reducible first | assumption | apply State.sumOutputs_keeps | apply State.finishDone_keeps | apply State.hashOn_keeps) | (simp only [keeps_mk]; refine keeps_upd ?_) | split

theorem State.writeProducers_keeps {s0 : State} (s : State) (before : State) (hk : Keeps s0 s) : Keeps s0 (State.writeProducers s before) := by
  unfold State.writeProducers
  try dsimp only
  repeat' first | intro _ | (with_reducible first | assumption | apply State.dueNow_keeps | apply State.writeProducer_keeps | apply keeps_foldl) | split

theorem State.stepRelease_keeps {s0 : State} (s : State) (hk : Keeps s0 s) : Keeps s0 (State.stepRelease s) := by
  unfold State.stepRelease
  try dsimp only
  repeat' first | intro _ | (with_reducible first | assumption | apply State.dropEntryTables_keeps | apply State.releaseEntry_keeps | apply State.postEnded_keeps | apply State.completeDrained_keeps | apply State.writeProducers_keeps | apply State.completeResets_keeps | apply keeps_foldl) | (simp only [keeps_mk]; refine keeps_upd ?_) | split

theorem State.refixHeader_keeps {s0 : State} (s : State) (hk : Keeps s0 s) : Keeps s0 (State.refixHeader s) :=
  Keeps.upd hk rfl rfl rfl

theorem State.stepList_keeps {s0 : State} (s : State) (hk : Keeps s0 s) : Keeps s0 (State.stepList s) := by
  unfold State.stepList
  repeat' first | (with_reducible first | assumption | apply State.buildList_keeps | apply State.countOverload_keeps) | (simp only [keeps_mk]; refine keeps_upd ?_) | split

theorem execFrameTimerExpiry_keeps {s0 : State} (s : State) (hk : Keeps s0 s) : KeepsOut s0 (execFrameTimerExpiry s) := by
  unfold execFrameTimerExpiry
  split <;> exact keepsOut_next (Keeps.upd hk rfl rfl rfl)

theorem execHoldWrite_keeps {s0 : State} (on : Bool) (s : State) (hk : Keeps s0 s) : KeepsOut s0 (execHoldWrite on s) :=
  keepsOut_next (State.odSet_keeps _ _ _ _ hk)

theorem execTimeBaseWrite_keeps {s0 : State} (v : Word) (s : State) (hk : Keeps s0 s) : KeepsOut s0 (execTimeBaseWrite v s) :=
  keepsOut_next (State.setTimeBase_keeps _ _ hk)

/-! ### Tick -/

theorem State.sendCopies_keeps {s0 : State} (s : State) (slots : List Nat) (hk : Keeps s0 s) : Keeps s0 (State.sendCopies s slots) := by
  unfold State.sendCopies
  try dsimp only
  repeat' first | intro _ | (with_reducible first | assumption | apply State.sendMirror_keeps | apply State.readSlot_keeps | apply keeps_foldl) | split

theorem State.followRecord_keeps {s0 : State} (s : State) (r : ListRecord) (hk : Keeps s0 s) : Keeps s0 (State.followRecord s r).1 := by
  unfold State.followRecord
  repeat' first | (with_reducible first | assumption | apply State.batchStep_keeps | apply State.setSq_keeps | apply State.frontWrite_keeps) | split

theorem State.followRecords_keeps {s0 : State} (s : State) (rs : List ListRecord) (hk : Keeps s0 s) : Keeps s0 (State.followRecords s rs).1 := by
  unfold State.followRecords
  try dsimp only
  repeat' first | intro _ | (with_reducible first | assumption | apply State.followRecord_keeps | apply keeps_foldl_fst) | split

theorem State.applyRecorded_keeps {s0 : State} (s : State) (p : Nat × Nat × BitVec 192) (hk : Keeps s0 s) : Keeps s0 (State.applyRecorded s p) := by
  unfold State.applyRecorded
  dsimp only
  repeat' first | (with_reducible first | assumption | apply State.applyDesc_keeps | apply State.finish_keeps) | (simp only [keeps_mk]; refine keeps_upd ?_) | split

theorem State.startFrames_keeps {s0 : State} (s : State) (hk : Keeps s0 s) : Keeps s0 (State.startFrames s) :=
  Keeps.upd hk rfl rfl rfl

theorem State.resendFrom_keeps {s0 : State} (s : State) (k : Nat) (hk : Keeps s0 s) : Keeps s0 (State.resendFrom s k) := by
  unfold State.resendFrom
  try dsimp only
  repeat' first | intro _ | (with_reducible first | assumption | apply State.sendMirror_keeps | apply keeps_foldl) | split

theorem State.captureJoin_keeps {s0 : State} (s : State) (k : Nat) (j : Join) (hk : Keeps s0 s) : Keeps s0 (State.captureJoin s k j) := by
  unfold State.captureJoin
  repeat' first | (with_reducible first | assumption | apply State.sendMirror_keeps | apply State.sendCopies_keeps | apply State.resendFrom_keeps) | (simp only [keeps_mk]; refine keeps_upd ?_) | split

theorem State.checkKept_keeps {s0 : State} (s : State) (hk : Keeps s0 s) : Keeps s0 (State.checkKept s) := by
  unfold State.checkKept
  repeat' first | (with_reducible first | assumption | apply State.fence_keeps) | split

theorem State.diverge_keeps {s0 : State} (s : State) (frame : Nat) (loses : Bool) (hk : Keeps s0 s) : Keeps s0 (State.diverge s frame loses) := by
  unfold State.diverge
  repeat' first | (with_reducible first | assumption | apply State.raiseAt_keeps | apply State.fence_keeps) | (simp only [keeps_mk]; refine keeps_upd ?_) | split

theorem State.dozeTick_keeps {s0 : State} (s : State) (quiescent : Bool) (hk : Keeps s0 s) : Keeps s0 (State.dozeTick s quiescent) := by
  unfold State.dozeTick
  split <;> exact Keeps.upd hk rfl rfl rfl

theorem State.endFrame_keeps {s0 : State} (s : State) (elapsedUs : Nat) (hk : Keeps s0 s) : Keeps s0 (State.endFrame s elapsedUs) := by
  unfold State.endFrame
  repeat' first | (with_reducible first | assumption | apply State.advanceTime_keeps | apply State.closeOverrun_keeps | apply State.sealCocoon_keeps | apply State.stepDigest_keeps | apply State.advanceCommit_keeps | apply State.checkKept_keeps | apply State.stepRelease_keeps) | (simp only [keeps_mk]; refine keeps_upd ?_) | split

theorem State.refuseRest_keeps {s0 : State} (s : State) (hk : Keeps s0 s) : Keeps s0 (State.refuseRest s) := by
  unfold State.refuseRest
  try dsimp only
  repeat' first | intro _ | (with_reducible first | assumption | apply State.finish_keeps | apply keeps_foldl) | (simp only [keeps_mk]; refine keeps_upd ?_) | split

theorem State.stepRecorded_keeps {s0 : State} (s : State) (ds : List (Nat × Nat × BitVec 192)) (hk : Keeps s0 s) : Keeps s0 (State.stepRecorded s ds) := by
  unfold State.stepRecorded
  try dsimp only
  repeat' first | intro _ | (with_reducible first | assumption | apply State.refuseRest_keeps | apply State.applyRecorded_keeps | apply keeps_foldl) | split

theorem State.followBegin_keeps {s0 : State} (s : State) (j : Journal) (head : FrameHeader) (list : List ListRecord) (hk : Keeps s0 s) : Keeps s0 (State.followBegin s j head list) := by
  unfold State.followBegin
  repeat' first | (with_reducible first | assumption | apply State.latchSet_keeps | apply State.stepRecorded_keeps | apply State.formatTick_keeps | apply State.followRecords_keeps | apply State.emptyBuffers_keeps | apply State.countOverload_keeps | apply State.beginFrame_keeps) | (simp only [keeps_mk]; refine keeps_upd ?_) | split

theorem State.joinTick_keeps {s0 : State} (s : State) (k : Nat) (drained : Bool) (hk : Keeps s0 s) : Keeps s0 (State.joinTick s k drained) := by
  unfold State.joinTick
  repeat' first | (with_reducible first | assumption | apply State.captureJoin_keeps | apply State.sendCopies_keeps) | (simp only [keeps_mk]; refine keeps_upd ?_) | split

theorem State.stampEvents_keeps {s0 : State} (s : State) (seq : Nat) (k : Nat) (hk : Keeps s0 s) : Keeps s0 (State.stampEvents s seq k) :=
  Keeps.upd hk rfl rfl rfl

theorem State.followSteps_keeps {s0 : State} (s : State) (elapsedUs : Nat) (hk : Keeps s0 s) : Keeps s0 (State.followSteps s elapsedUs) := by
  unfold State.followSteps
  repeat' first | (with_reducible first | assumption | apply State.chrysalisTick_keeps | apply State.endFrame_keeps | apply State.joinTick_keeps | apply State.stampEvents_keeps) | (simp only [keeps_mk]; refine keeps_upd ?_) | split

theorem State.followEnd_keeps {s0 : State} (s : State) (elapsedUs : Nat) (l : FrameHeader × List ListRecord) (hk : Keeps s0 s) : Keeps s0 (State.followEnd s elapsedUs l) := by
  unfold State.followEnd
  repeat' first | (with_reducible first | assumption | apply State.followSteps_keeps) | (simp only [keeps_mk]; refine keeps_upd ?_) | split

theorem State.useDatas_keeps {s0 : State} (s : State) (k : Nat) (hk : Keeps s0 s) : Keeps s0 (State.useDatas s k) := by
  unfold State.useDatas
  try dsimp only
  repeat' first | intro _ | (with_reducible first | assumption | apply State.takeData_keeps | apply keeps_foldl) | (simp only [keeps_mk]; refine keeps_upd ?_) | split

theorem State.tickT1s_keeps {s0 : State} (s : State) (hk : Keeps s0 s) : Keeps s0 (State.tickT1s s) := by
  unfold State.tickT1s
  repeat' first | (with_reducible first | assumption | apply State.sendT1s_keeps) | split

theorem State.trimHistory_keeps {s0 : State} (s : State) (hk : Keeps s0 s) : Keeps s0 (State.trimHistory s) :=
  Keeps.upd hk rfl rfl rfl

theorem State.followTick_keeps {s0 : State} (s : State) (elapsedUs : Nat) (t : TickPayload) (l : FrameList) (hk : Keeps s0 s) : Keeps s0 (State.followTick s elapsedUs t l) := by
  unfold State.followTick
  dsimp only
  repeat' first | (with_reducible first | assumption | apply State.followEnd_keeps | apply State.useDatas_keeps | apply State.followBegin_keeps | apply State.tickT1s_keeps | apply State.trimHistory_keeps | apply State.sendMirror_keeps | apply State.diverge_keeps) | (simp only [keeps_mk]; refine keeps_upd ?_) | split

theorem State.stepConfig_keeps {s0 : State} (s : State) (k : Nat) (quiescent : Bool) (hk : Keeps s0 s) : Keeps s0 (State.stepConfig s k quiescent) := by
  unfold State.stepConfig
  dsimp only
  repeat' first | (with_reducible first | assumption | apply State.latchProfile_keeps | apply State.latchSet_keeps | apply State.latchDescs_keeps | apply State.refixHeader_keeps | apply State.formatTick_keeps) | split

theorem State.stepMirror_keeps {s0 : State} (s : State) (refixed : Option AdmissionList) (hk : Keeps s0 s) : Keeps s0 (State.stepMirror s refixed) := by
  unfold State.stepMirror
  repeat' first | (with_reducible first | assumption | apply State.sendDown_keeps | apply State.trimHistory_keeps) | (simp only [keeps_mk]; refine keeps_upd ?_) | split

theorem State.ownTick_keeps {s0 : State} (s : State) (elapsedUs : Nat) (hk : Keeps s0 s) : Keeps s0 (State.ownTick s elapsedUs) := by
  unfold State.ownTick
  repeat' first | (with_reducible first | assumption | apply State.endFrame_keeps | apply State.chrysalisTick_keeps | apply State.dozeTick_keeps | apply State.joinTick_keeps | apply State.stepConfig_keeps | apply State.stampEvents_keeps | apply State.tickT1s_keeps | apply State.stepMirror_keeps | apply State.askPlaces_keeps | apply State.stepList_keeps | apply State.beginFrame_keeps | apply State.emptyBuffers_keeps) | (simp only [keeps_mk]; refine keeps_upd ?_) | split

theorem execTick_keeps {s0 : State} (elapsedUs : Nat) (s : State) (hk : Keeps s0 s) : KeepsOut s0 (execTick elapsedUs s) := by
  refine keepsOut_next ?_
  repeat' first | (with_reducible first | assumption | apply State.ownTick_keeps) | split

theorem execFollowerTick_keeps {s0 : State} (elapsedUs : Nat) (s : State) (hk : Keeps s0 s) : KeepsOut s0 (execFollowerTick elapsedUs s) := by
  refine keepsOut_next ?_
  repeat' first | (with_reducible first | assumption | apply State.followTick_keeps) | split

/-! ### Doze -/

theorem State.reinitSsds_keeps {s0 : State} (s : State) (hk : Keeps s0 s) : Keeps s0 (State.reinitSsds s) :=
  Keeps.upd hk rfl rfl rfl

theorem State.cancelDoze_keeps {s0 : State} (s : State) (hk : Keeps s0 s) : Keeps s0 (State.cancelDoze s) := by
  unfold State.cancelDoze
  repeat' first | (with_reducible first | assumption | apply State.reinitSsds_keeps) | (simp only [keeps_mk]; refine keeps_upd ?_) | split

theorem State.refuseDoze_keeps {s0 : State} (s : State) (code : Nat) (hk : Keeps s0 s) : Keeps s0 (State.refuseDoze s code) := by
  unfold State.refuseDoze
  repeat' first | (with_reducible first | assumption | apply State.raise_keeps) | (simp only [keeps_mk]; refine keeps_upd ?_) | split

theorem State.mothDoze_keeps {s0 : State} (s : State) (hk : Keeps s0 s) : Keeps s0 (State.mothDoze s) := by
  unfold State.mothDoze
  repeat' first | (with_reducible first | assumption | apply State.refuseDoze_keeps) | (simp only [keeps_mk]; refine keeps_upd ?_) | split

theorem State.wake_keeps {s0 : State} (s : State) (source : Nat) (hk : Keeps s0 s) : Keeps s0 (State.wake s source) := by
  unfold State.wake
  repeat' first | (with_reducible first | assumption | apply State.cancelDoze_keeps) | (simp only [keeps_mk]; refine keeps_upd ?_) | split

theorem State.ssdsDown_keeps {s0 : State} (s : State) (hk : Keeps s0 s) : Keeps s0 (State.ssdsDown s) := by
  unfold State.ssdsDown
  split <;> exact Keeps.upd hk rfl rfl rfl

theorem State.enterDoze_keeps {s0 : State} (s : State) (hk : Keeps s0 s) : Keeps s0 (State.enterDoze s) := by
  unfold State.enterDoze
  repeat' first | (with_reducible first | assumption | apply State.raise_keeps) | (simp only [keeps_mk]; refine keeps_upd ?_) | split

theorem State.freshEndpoint_keeps {s0 : State} (s : State) (hk : Keeps s0 s) : Keeps s0 (State.freshEndpoint s) := by
  unfold State.freshEndpoint
  try dsimp only
  repeat' first | intro _ | (with_reducible first | assumption | apply State.acceptReset_keeps | apply keeps_foldl) | (simp only [keeps_mk]; refine keeps_upd ?_) | split

theorem State.finishWake_keeps {s0 : State} (s : State) (dozeMs : Nat) (hk : Keeps s0 s) : Keeps s0 (State.finishWake s dozeMs) := by
  unfold State.finishWake
  repeat' first | (with_reducible first | assumption | apply State.reinitSsds_keeps | apply State.freshEndpoint_keeps | apply State.startFrames_keeps) | (simp only [keeps_mk]; refine keeps_upd ?_) | split

theorem State.shutSsds_keeps {s0 : State} (s : State) (hk : Keeps s0 s) : Keeps s0 (State.shutSsds s) := by
  unfold State.shutSsds
  repeat' first | (with_reducible first | assumption | apply State.ssdsDown_keeps) | (simp only [keeps_mk]; refine keeps_upd ?_) | split

theorem execMothCmdDoze_keeps {s0 : State} (s : State) (hk : Keeps s0 s) : KeepsOut s0 (execMothCmdDoze s) :=
  keepsOut_next (State.mothDoze_keeps _ hk)

theorem execDozeEntry_keeps {s0 : State} (s : State) (hk : Keeps s0 s) : KeepsOut s0 (execDozeEntry s) := by
  refine keepsOut_next ?_
  repeat' first | (with_reducible first | assumption | apply State.shutSsds_keeps | apply State.enterDoze_keeps) | split

theorem execSsdShutdownTimeout_keeps {s0 : State} (s : State) (hk : Keeps s0 s) : KeepsOut s0 (execSsdShutdownTimeout s) := by
  refine keepsOut_next ?_
  repeat' first | (with_reducible first | assumption | apply State.ssdsDown_keeps) | (simp only [keeps_mk]; refine keeps_upd ?_) | split

theorem execDozeLinkWaitExpiry_keeps {s0 : State} (s : State) (hk : Keeps s0 s) : KeepsOut s0 (execDozeLinkWaitExpiry s) := by
  refine keepsOut_next ?_
  repeat' first | (with_reducible first | assumption | apply State.refuseDoze_keeps | apply State.cancelDoze_keeps) | split

theorem execMothCmdWake_keeps {s0 : State} (s : State) (hk : Keeps s0 s) : KeepsOut s0 (execMothCmdWake s) :=
  keepsOut_next (State.wake_keeps _ _ hk)

theorem execDozeTimerExpiry_keeps {s0 : State} (s : State) (hk : Keeps s0 s) : KeepsOut s0 (execDozeTimerExpiry s) := by
  refine keepsOut_next ?_
  repeat' first | (with_reducible first | assumption | apply State.wake_keeps) | split

theorem execWakeSchedule_keeps {s0 : State} (ok : Bool) (dozeMs : Nat) (s : State) (hk : Keeps s0 s) : KeepsOut s0 (execWakeSchedule ok dozeMs s) := by
  refine keepsOut_next ?_
  repeat' first | (with_reducible first | assumption | apply State.finishWake_keeps | apply State.moduleReset_keeps | apply State.raise_keeps) | split

theorem execPerstNAssert_keeps {s0 : State} (s : State) (hk : Keeps s0 s) : KeepsOut s0 (execPerstNAssert s) := by
  refine keepsOut_next ?_
  repeat' first | (with_reducible first | assumption | apply State.moduleReset_keeps) | (simp only [keeps_mk]; refine keeps_upd ?_) | split

theorem execPerstNDeassert_keeps {s0 : State} (s : State) (hk : Keeps s0 s) : KeepsOut s0 (execPerstNDeassert s) := by
  refine keepsOut_next ?_
  repeat' first | (with_reducible first | assumption | apply State.wake_keeps) | (simp only [keeps_mk]; refine keeps_upd ?_) | split

theorem execSsdShutdownComplete_keeps {s0 : State} (p : Fin 4) (s : State) (hk : Keeps s0 s) : KeepsOut s0 (execSsdShutdownComplete p s) := by
  refine keepsOut_next ?_
  repeat' first | (with_reducible first | assumption | apply State.ssdsDown_keeps | apply State.setPort_keeps) | split

end Sys2Proof.Machine
end

