-- ==== Sys2Proof/Laws/KeepsMirror.lean ====
section
/-! SUPPORT. What the mirror, join, bring-up and restore operations keep: the queue, the ordering code and the canonical form of memory. -/

namespace Sys2Proof.Machine

/-! ### Mirror -/

theorem State.adoptList_keeps {s0 : State} (s : State) (hk : Keeps s0 s) : Keeps s0 (State.adoptList s) := by
  unfold State.adoptList
  dsimp only
  repeat' first | (with_reducible first | assumption | apply State.followRecords_keeps) | (simp only [keeps_mk]; refine keeps_upd ?_) | split

theorem State.setPrimary_keeps {s0 : State} (s : State) (v : Nat) (hk : Keeps s0 s) : Keeps s0 (State.setPrimary s v) := by
  unfold State.setPrimary
  repeat' first | (with_reducible first | assumption | apply State.odSet_keeps) | (simp only [keeps_mk]; refine keeps_upd ?_) | split

theorem State.becomeTail_keeps {s0 : State} (s : State) (hk : Keeps s0 s) : Keeps s0 (State.becomeTail s) := by
  unfold State.becomeTail
  repeat' first | (with_reducible first | assumption | apply State.publish_keeps | apply State.advanceCommit_keeps) | (simp only [keeps_mk]; refine keeps_upd ?_) | split

theorem State.setMirrorPort_keeps {s0 : State} (s : State) (portB : Bool) (p : MirrorPort) (hk : Keeps s0 s) : Keeps s0 (State.setMirrorPort s portB p) :=
  Keeps.upd hk rfl rfl rfl

theorem State.catchUp_keeps {s0 : State} (s : State) (recv : Nat) (hk : Keeps s0 s) : Keeps s0 (State.catchUp s recv) := by
  unfold State.catchUp
  dsimp only
  repeat' first | (with_reducible first | assumption | apply State.resendFrom_keeps | apply State.setMirrorPort_keeps) | split

theorem State.mirrorDetach_keeps {s0 : State} (s : State) (hk : Keeps s0 s) : Keeps s0 (State.mirrorDetach s) := by
  unfold State.mirrorDetach
  repeat' first | (with_reducible first | assumption | apply State.sendT1s_keeps | apply State.sendHeartbeats_keeps) | (simp only [keeps_mk]; refine keeps_upd ?_) | split

theorem State.zeroRings_keeps {s0 : State} (s : State) (hk : Keeps s0 s) : Keeps s0 (State.zeroRings s) :=
  Keeps.upd hk rfl rfl rfl

theorem State.startEpoch_keeps {s0 : State} (s : State) (first : Nat) (hk : Keeps s0 s) : Keeps s0 (State.startEpoch s first) := by
  unfold State.startEpoch
  repeat' first | (with_reducible first | assumption | apply State.raiseAt_keeps | apply State.zeroRings_keeps | apply State.setPrimary_keeps) | (simp only [keeps_mk]; refine keeps_upd ?_) | split

theorem State.formSequencer_keeps {s0 : State} (s : State) (hk : Keeps s0 s) : Keeps s0 (State.formSequencer s) :=
  State.startEpoch_keeps _ _ hk

theorem State.compareAck_keeps {s0 : State} (s : State) (msg : AckPayload) (hk : Keeps s0 s) : Keeps s0 (State.compareAck s msg) := by
  unfold State.compareAck
  repeat' first | (with_reducible first | assumption | apply State.diverge_keeps) | split

theorem State.endJoin_keeps {s0 : State} (s : State) (hk : Keeps s0 s) : Keeps s0 (State.endJoin s) := by
  unfold State.endJoin
  repeat' split
  all_goals exact Keeps.upd hk rfl rfl rfl

theorem State.downFailed_keeps {s0 : State} (s : State) (hk : Keeps s0 s) : Keeps s0 (State.downFailed s) := by
  unfold State.downFailed
  dsimp only
  repeat' first | (with_reducible first | assumption | apply State.setMirrorPort_keeps | apply State.becomeTail_keeps) | split

theorem State.takeOver_keeps {s0 : State} (s : State) (hk : Keeps s0 s) : Keeps s0 (State.takeOver s) := by
  unfold State.takeOver
  repeat' first | (with_reducible first | assumption | apply State.adoptList_keeps | apply State.startEpoch_keeps) | (simp only [keeps_mk]; refine keeps_upd ?_) | split

theorem State.upFailed_keeps {s0 : State} (s : State) (hk : Keeps s0 s) : Keeps s0 (State.upFailed s) := by
  unfold State.upFailed
  dsimp only
  repeat' first | (with_reducible first | assumption | apply State.takeOver_keeps | apply State.setMirrorPort_keeps | apply State.sendMirror_keeps) | split

theorem State.declareFailed_keeps {s0 : State} (s : State) (portB : Bool) (detached : Bool) (hk : Keeps s0 s) : Keeps s0 (State.declareFailed s portB detached) := by
  unfold State.declareFailed
  dsimp only
  repeat' first | (with_reducible first | assumption | apply State.raise_keeps | apply State.setMirrorPort_keeps | apply State.endJoin_keeps | apply State.downFailed_keeps | apply State.takeOver_keeps | apply State.upFailed_keeps) | split

theorem State.dropMessage_keeps {s0 : State} (s : State) (segs : Nat) (hk : Keeps s0 s) : Keeps s0 (State.dropMessage s segs) :=
  Keeps.upd hk rfl rfl rfl

theorem State.extendLease_keeps {s0 : State} (s : State) (recv : Nat) (hk : Keeps s0 s) : Keeps s0 (State.extendLease s recv) :=
  Keeps.upd hk rfl rfl rfl

theorem State.finishJoin_keeps {s0 : State} (s : State) (hk : Keeps s0 s) : Keeps s0 (State.finishJoin s) := by
  unfold State.finishJoin
  repeat' first | (with_reducible first | assumption | apply State.raise_keeps) | (simp only [keeps_mk]; refine keeps_upd ?_) | split

theorem State.receive_keeps {s0 : State} (s : State) (portB : Bool) (segs : Nat) (ack : Option (BitVec 32)) (hk : Keeps s0 s) : Keeps s0 (State.receive s portB segs ack) :=
  Keeps.upd hk rfl rfl rfl

theorem State.seeEpoch_keeps {s0 : State} (s : State) (e : Nat) (hk : Keeps s0 s) : Keeps s0 (State.seeEpoch s e) := by
  unfold State.seeEpoch
  repeat' first | (with_reducible first | assumption | apply State.fence_keeps) | (simp only [keeps_mk]; refine keeps_upd ?_) | split

theorem State.takeFeed_keeps {s0 : State} (s : State) (hdr : MirrorHeader) (hk : Keeps s0 s) : Keeps s0 (State.takeFeed s hdr) := by
  unfold State.takeFeed
  dsimp only
  repeat' first | (with_reducible first | assumption | apply State.fence_keeps) | (simp only [keeps_mk]; refine keeps_upd ?_) | split

theorem State.fromUpstream_keeps {s0 : State} (s : State) (hdr : MirrorHeader) (feed : Bool) (hk : Keeps s0 s) : KeepsO s0 (State.fromUpstream s hdr feed) := by
  unfold State.fromUpstream
  repeat' first | (with_reducible first | assumption | apply State.receive_keeps | apply State.seeEpoch_keeps | apply State.takeFeed_keeps | apply keepsO_some | exact keepsO_none) | split

theorem State.takeCommitted_keeps {s0 : State} (s : State) (hb : Heartbeat) (hk : Keeps s0 s) : Keeps s0 (State.takeCommitted s hb) := by
  unfold State.takeCommitted
  split <;> exact Keeps.upd hk rfl rfl rfl

theorem State.takeDrain_keeps {s0 : State} (s : State) (hb : Heartbeat) (hk : Keeps s0 s) : Keeps s0 (State.takeDrain s hb) := by
  unfold State.takeDrain
  dsimp only
  repeat' first | (with_reducible first | assumption) | (simp only [keeps_mk]; refine keeps_upd ?_) | split

theorem State.takeBlock_keeps {s0 : State} (s : State) (portB : Bool) (t1s : Bool) (hb : Heartbeat) (hk : Keeps s0 s) : Keeps s0 (State.takeBlock s portB t1s hb) := by
  unfold State.takeBlock
  dsimp only
  repeat' first | (with_reducible first | assumption | apply State.setMirrorPort_keeps | apply State.takeDrain_keeps | apply State.fence_keeps | apply State.declareFailed_keeps) | split

theorem State.noteResets_keeps {s0 : State} (s : State) (k : Nat) (recs : List ListRecord) (hk : Keeps s0 s) : Keeps s0 (State.noteResets s k recs) := by
  unfold State.noteResets
  repeat' split
  all_goals exact Keeps.upd hk rfl rfl rfl

theorem State.takeResets_keeps {s0 : State} (s : State) (req : BitVec 64) (hk : Keeps s0 s) : Keeps s0 (State.takeResets s req) := by
  unfold State.takeResets
  split <;> exact Keeps.upd hk rfl rfl rfl

theorem State.settleAck_keeps {s0 : State} (s : State) (msg : AckPayload) (hk : Keeps s0 s) : Keeps s0 (State.settleAck s msg) := by
  unfold State.settleAck
  repeat' first | (with_reducible first | assumption | apply State.compareAck_keeps | apply State.catchUp_keeps | apply State.takeResets_keeps | apply State.extendLease_keeps) | (simp only [keeps_mk]; refine keeps_upd ?_) | split

theorem State.takeAck_keeps {s0 : State} (s : State) (msg : AckPayload) (hk : Keeps s0 s) : Keeps s0 (State.takeAck s msg) := by
  unfold State.takeAck
  dsimp only
  repeat' first | (with_reducible first | assumption | apply State.compareAck_keeps | apply State.takeResets_keeps | apply State.settleAck_keeps | apply State.finishJoin_keeps | apply State.trimHistory_keeps | apply State.publish_keeps | apply State.advanceCommit_keeps) | split

theorem execLeaseExpiry_keeps {s0 : State} (s : State) (hk : Keeps s0 s) : KeepsOut s0 (execLeaseExpiry s) := by
  unfold execLeaseExpiry
  split <;> exact keepsOut_next (Keeps.upd hk rfl rfl rfl)

theorem execListMessage_keeps {s0 : State} (hdr : MirrorHeader) (list : FrameList) (s : State) (hk : Keeps s0 s) : KeepsOut s0 (execListMessage hdr list s) := by
  refine keepsOut_next ?_
  try dsimp only
  repeat' first | intro _ | (with_reducible first | assumption | apply State.dropMessage_keeps | apply State.fromUpstream_keeps | apply State.endResetWaits_keeps | apply State.noteResets_keeps | apply State.sendDown_keeps | apply keeps_foldl) | (simp only [keeps_mk]; refine keeps_upd ?_) | split | with_reducible refine keeps_some ‹_ = some _› ?_

theorem execTickMessage_keeps {s0 : State} (hdr : MirrorHeader) (msg : TickPayload) (s : State) (hk : Keeps s0 s) : KeepsOut s0 (execTickMessage hdr msg s) := by
  refine keepsOut_next ?_
  try dsimp only
  repeat' first | intro _ | (with_reducible first | assumption | apply State.dropMessage_keeps | apply State.fromUpstream_keeps | apply State.takeCommitted_keeps | apply State.sendDown_keeps | apply State.takeBlock_keeps | apply State.setMirrorPort_keeps | apply State.fence_keeps | apply keeps_foldl) | (simp only [keeps_mk]; refine keeps_upd ?_) | split | with_reducible refine keeps_some ‹_ = some _› ?_

theorem execDataMessage_keeps {s0 : State} (hdr : MirrorHeader) (recs : List DataRecord) (s : State) (hk : Keeps s0 s) : KeepsOut s0 (execDataMessage hdr recs s) := by
  refine keepsOut_next ?_
  try dsimp only
  repeat' first | intro _ | (with_reducible first | assumption | apply State.fromUpstream_keeps | apply State.sendDown_keeps | apply State.takeData_keeps | apply keeps_foldl) | (simp only [keeps_mk]; refine keeps_upd ?_) | split | with_reducible refine keeps_some ‹_ = some _› ?_

theorem execAckMessage_keeps {s0 : State} (hdr : MirrorHeader) (msg : AckPayload) (s : State) (hk : Keeps s0 s) : KeepsOut s0 (execAckMessage hdr msg s) := by
  refine keepsOut_next ?_
  dsimp only
  repeat' first | (with_reducible first | assumption | apply State.takeBlock_keeps | apply State.seeEpoch_keeps | apply State.receive_keeps | apply State.takeAck_keeps) | split

theorem execLinkack_keeps {s0 : State} (portB : Bool) (ack : BitVec 32) (s : State) (hk : Keeps s0 s) : KeepsOut s0 (execLinkack portB ack s) := by
  unfold execLinkack
  split <;> exact keepsOut_next (Keeps.upd hk rfl rfl rfl)

theorem execRetransmitTimeout_keeps {s0 : State} (portB : Bool) (s : State) (hk : Keeps s0 s) : KeepsOut s0 (execRetransmitTimeout portB s) := by
  refine keepsOut_next ?_
  repeat' split
  all_goals exact Keeps.upd hk rfl rfl rfl

theorem execLinkackTimer_keeps {s0 : State} (portB : Bool) (s : State) (hk : Keeps s0 s) : KeepsOut s0 (execLinkackTimer portB s) := by
  refine keepsOut_next ?_
  repeat' split
  all_goals exact Keeps.upd hk rfl rfl rfl

theorem execPathSilenceTimeout_keeps {s0 : State} (down : Bool) (t1s : Bool) (s : State) (hk : Keeps s0 s) : KeepsOut s0 (execPathSilenceTimeout down t1s s) := by
  refine keepsOut_next ?_
  dsimp only
  repeat' first | (with_reducible first | assumption | apply State.setMirrorPort_keeps | apply State.declareFailed_keeps | apply State.raise_keeps) | (simp only [keeps_mk]; refine keeps_upd ?_) | split

theorem execMirrorCmdDetach_keeps {s0 : State} (s : State) (hk : Keeps s0 s) : KeepsOut s0 (execMirrorCmdDetach s) :=
  keepsOut_next (State.mirrorDetach_keeps _ hk)

theorem execMirrorCmdFence_keeps {s0 : State} (s : State) (hk : Keeps s0 s) : KeepsOut s0 (execMirrorCmdFence s) :=
  keepsOut_next (State.fence_keeps _ _ hk)

theorem execMirrorPortLinkChange_keeps {s0 : State} (portB : Bool) (up : Bool) (s : State) (hk : Keeps s0 s) : KeepsOut s0 (execMirrorPortLinkChange portB up s) := by
  refine keepsOut_next ?_
  repeat' first | (with_reducible first | assumption | apply State.setMirrorPort_keeps) | split

theorem execMirrorFrameDrop_keeps {s0 : State} (portB : Bool) (f : MirrorFrame) (s : State) (hk : Keeps s0 s) : KeepsOut s0 (execMirrorFrameDrop portB f s) := by
  refine keepsOut_next ?_
  repeat' first | (with_reducible first | assumption | apply State.setMirrorPort_keeps) | (simp only [keeps_mk]; refine keeps_upd ?_) | split

/-! ### Records -/

theorem State.install_keeps {s0 : State} (s : State) (descs : List (Nat × Nat × BitVec 192)) (tables : List KmaTable) (entries : List (Nat × Bool × KmaEntry)) (hk : Keeps s0 s) : Keeps s0 (State.install s descs tables entries) :=
  Keeps.upd hk rfl rfl rfl

/-! ### Join -/

theorem State.acceptJoin_keeps {s0 : State} (s : State) (pos : Nat) (hk : Keeps s0 s) : Keeps s0 (State.acceptJoin s pos) := by
  unfold State.acceptJoin
  repeat' first | (with_reducible first | assumption | apply State.sendCopies_keeps | apply State.sendMirror_keeps) | (simp only [keeps_mk]; refine keeps_upd ?_) | split

theorem State.askJoin_keeps {s0 : State} (s : State) (hk : Keeps s0 s) : Keeps s0 (State.askJoin s) := by
  unfold State.askJoin
  repeat' first | (with_reducible first | assumption | apply State.sendMirror_keeps | apply State.setPrimary_keeps) | (simp only [keeps_mk]; refine keeps_upd ?_) | split

theorem State.beginFollowing_keeps {s0 : State} (s : State) (frame : Nat) (st : JoinStatePayload) (hk : Keeps s0 s) : Keeps s0 (State.beginFollowing s frame st) :=
  Keeps.upd hk rfl rfl rfl

theorem State.dropWork_keeps {s0 : State} (s : State) (hk : Keeps s0 s) : Keeps s0 (State.dropWork s) :=
  Keeps.upd hk rfl rfl rfl

theorem State.mirrorJoin_keeps {s0 : State} (s : State) (hk : Keeps s0 s) : Keeps s0 (State.mirrorJoin s) := by
  unfold State.mirrorJoin
  dsimp only
  repeat' first | (with_reducible first | assumption | apply State.dropWork_keeps | apply State.askJoin_keeps) | (simp only [keeps_mk]; refine keeps_upd ?_) | split

theorem State.mirrorForm_keeps {s0 : State} (s : State) (hk : Keeps s0 s) : Keeps s0 (State.mirrorForm s) := by
  unfold State.mirrorForm
  repeat' first | (with_reducible first | assumption | apply State.raise_keeps | apply State.formSequencer_keeps) | split

theorem State.formCheck_keeps {s0 : State} (s : State) (hk : Keeps s0 s) : Keeps s0 (State.formCheck s) := by
  unfold State.formCheck
  repeat' first | (with_reducible first | assumption | apply State.formSequencer_keeps) | (simp only [keeps_mk]; refine keeps_upd ?_) | split

theorem State.hearMirror_keeps {s0 : State} (s : State) (hb : Heartbeat) (hk : Keeps s0 s) : Keeps s0 (State.hearMirror s hb) := by
  unfold State.hearMirror
  dsimp only
  repeat' first | (with_reducible first | assumption | apply State.seeEpoch_keeps | apply State.takeCommitted_keeps | apply State.receive_keeps | apply State.takeBlock_keeps) | split

theorem State.keepHeard_keeps {s0 : State} (s : State) (hb : Heartbeat) (hk : Keeps s0 s) : Keeps s0 (State.keepHeard s hb) :=
  Keeps.upd hk rfl rfl rfl

theorem State.hearT1s_keeps {s0 : State} (s : State) (hb : Heartbeat) (hk : Keeps s0 s) : Keeps s0 (State.hearT1s s hb) := by
  unfold State.hearT1s
  dsimp only
  repeat' first | (with_reducible first | assumption | apply State.keepHeard_keeps | apply State.takeCommitted_keeps | apply State.seeEpoch_keeps | apply State.takeBlock_keeps | apply State.askJoin_keeps | apply State.formCheck_keeps) | split

theorem State.refuseJoin_keeps {s0 : State} (s : State) (code : Nat) (hk : Keeps s0 s) : Keeps s0 (State.refuseJoin s code) :=
  Keeps.upd hk rfl rfl rfl

theorem execHeartbeatMessage_keeps {s0 : State} (t1s : Bool) (hb : Heartbeat) (s : State) (hk : Keeps s0 s) : KeepsOut s0 (execHeartbeatMessage t1s hb s) := by
  refine keepsOut_next ?_
  repeat' first | (with_reducible first | assumption | apply State.hearT1s_keeps | apply State.hearMirror_keeps) | split

theorem execFenceMessage_keeps {s0 : State} (hb : Heartbeat) (reason : Nat) (s : State) (hk : Keeps s0 s) : KeepsOut s0 (execFenceMessage hb reason s) := by
  refine keepsOut_next ?_
  repeat' first | (with_reducible first | assumption | apply State.seeEpoch_keeps | apply State.receive_keeps | apply State.declareFailed_keeps) | (simp only [keeps_mk]; refine keeps_upd ?_) | split

theorem execJoinReq_keeps {s0 : State} (pos : Nat) (req : JoinRequest) (s : State) (hk : Keeps s0 s) : KeepsOut s0 (execJoinReq pos req s) := by
  refine keepsOut_next ?_
  repeat' first | (with_reducible first | assumption | apply State.acceptJoin_keeps | apply State.refuseJoin_keeps) | (simp only [keeps_mk]; refine keeps_upd ?_) | split

theorem execCopyMessage_keeps {s0 : State} (slot : Nat) (data : List Byte) (crc : BitVec 64) (s : State) (hk : Keeps s0 s) :
    KeepsOut s0 (execCopyMessage slot data crc s) := by
  refine keepsOut_next ?_
  split
  · exact hk
  · have h1 := State.receive_keeps s false 117 none hk
    dsimp only
    split
    · exact State.writeSlot_keeps _ _ _ h1
    · exact h1

theorem execJoinState_keeps {s0 : State} (frame : Nat) (st : JoinStatePayload) (s : State) (hk : Keeps s0 s) : KeepsOut s0 (execJoinState frame st s) := by
  refine keepsOut_next ?_
  repeat' first | (with_reducible first | assumption | apply State.dropWork_keeps | apply State.receive_keeps | apply State.install_keeps | apply State.beginFollowing_keeps) | split

theorem execJoinReply_keeps {s0 : State} (code : Nat) (s : State) (hk : Keeps s0 s) : KeepsOut s0 (execJoinReply code s) := by
  refine keepsOut_next ?_
  repeat' first | (with_reducible first | assumption | apply State.receive_keeps | apply State.raise_keeps | apply State.endJoin_keeps) | split

theorem execOverrunHeartbeatTimer_keeps {s0 : State} (t1s : Bool) (s : State) (hk : Keeps s0 s) : KeepsOut s0 (execOverrunHeartbeatTimer t1s s) := by
  refine keepsOut_next ?_
  dsimp only
  repeat' first | (with_reducible first | assumption | apply State.fresh_keeps | apply State.sendT1s_keeps | apply State.sendHeartbeats_keeps) | (simp only [keeps_mk]; refine keeps_upd ?_) | split

theorem execJoinDrainTimeout_keeps {s0 : State} (s : State) (hk : Keeps s0 s) : KeepsOut s0 (execJoinDrainTimeout s) := by
  refine keepsOut_next ?_
  repeat' first | (with_reducible first | assumption | apply State.fence_keeps) | (simp only [keeps_mk]; refine keeps_upd ?_) | split

theorem execFormingHeartbeatTimer_keeps {s0 : State} (s : State) (hk : Keeps s0 s) : KeepsOut s0 (execFormingHeartbeatTimer s) := by
  refine keepsOut_next ?_
  repeat' first | (with_reducible first | assumption | apply State.formCheck_keeps | apply State.sendT1s_keeps) | split

theorem execFormWaitExpiry_keeps {s0 : State} (s : State) (hk : Keeps s0 s) : KeepsOut s0 (execFormWaitExpiry s) := by
  refine keepsOut_next ?_
  repeat' first | (with_reducible first | assumption | apply State.raise_keeps | apply State.formSequencer_keeps) | split

theorem execMirrorCmdJoin_keeps {s0 : State} (s : State) (hk : Keeps s0 s) : KeepsOut s0 (execMirrorCmdJoin s) :=
  keepsOut_next (State.mirrorJoin_keeps _ hk)

theorem execMirrorCmdForm_keeps {s0 : State} (s : State) (hk : Keeps s0 s) : KeepsOut s0 (execMirrorCmdForm s) :=
  keepsOut_next (State.mirrorForm_keeps _ hk)

/-! ### Boot -/

theorem State.beginServing_keeps {s0 : State} (s : State) (hk : Keeps s0 s) : Keeps s0 (State.beginServing s) := by
  unfold State.beginServing
  repeat' first | (with_reducible first | assumption | apply State.startFrames_keeps) | (simp only [keeps_mk]; refine keeps_upd ?_) | split

theorem State.bootSpan_keeps {s0 : State} (s : State) (sel : Nat) (index : Nat) (sub : Nat) (slot : Nat) (n : Nat) (hk : Keeps s0 s) : Keeps s0 (State.bootSpan s sel index sub slot n) := by
  unfold State.bootSpan
  dsimp only
  repeat' first | (with_reducible first | assumption | apply State.odSet_keeps) | (simp only [keeps_mk]; refine keeps_upd ?_) | split

theorem State.bootSpans_keeps {s0 : State} (s : State) (hk : Keeps s0 s) : Keeps s0 (State.bootSpans s) := by
  unfold State.bootSpans
  dsimp only
  repeat' first | (with_reducible first | assumption | apply State.bootSpan_keeps) | split

theorem State.deriveKey_keeps {s0 : State} (s : State) (label : List Byte) (hk : Keeps s0 s) : Keeps s0 (State.deriveKey s label) := by
  unfold State.deriveKey
  repeat' first | (with_reducible first | assumption | apply State.hashOn_keeps | apply State.putKey_keeps) | split

theorem State.configure_keeps {s0 : State} (s : State) (hk : Keeps s0 s) : Keeps s0 (State.configure s) := by
  unfold State.configure
  repeat' first | (with_reducible first | assumption | apply State.deriveKey_keeps) | (simp only [keeps_mk]; refine keeps_upd ?_) | split

theorem State.failBoot_keeps {s0 : State} (s : State) (code : Nat) (hk : Keeps s0 s) : Keeps s0 (State.failBoot s code) :=
  Keeps.upd hk rfl rfl rfl

theorem State.fillDict_keeps {s0 : State} (s : State) (hk : Keeps s0 s) : Keeps s0 (State.fillDict s) := by
  unfold State.fillDict
  dsimp only
  repeat' first | (with_reducible first | assumption | apply State.raise_keeps) | (simp only [keeps_mk]; refine keeps_upd ?_) | split

theorem State.hashFirmware_keeps {s0 : State} (s : State) (b : FirmwareBank) (hk : Keeps s0 s) : Keeps s0 (State.hashFirmware s b) := by
  unfold State.hashFirmware
  repeat' first | (with_reducible first | assumption | apply State.hashOn_keeps) | split

theorem State.linkLocation_keeps {s0 : State} (s : State) (l : DieLink) (hk : Keeps s0 s) : Keeps s0 (State.linkLocation s l).2 :=
  State.fresh_keeps _ hk

theorem State.selftestFault_keeps {s0 : State} (s : State) (u : SelftestUnit) (hk : Keeps s0 s) : Keeps s0 (State.selftestFault s u) := by
  unfold State.selftestFault
  repeat' first | (with_reducible first | assumption | apply State.raiseAt_keeps | apply State.latchFault_keeps | apply State.linkLocation_keeps) | split

theorem State.setStage_keeps {s0 : State} (s : State) (n : Nat) (hk : Keeps s0 s) : Keeps s0 (State.setStage s n) :=
  Keeps.upd hk rfl rfl rfl

theorem State.startTraining_keeps {s0 : State} (s : State) (hk : Keeps s0 s) : Keeps s0 (State.startTraining s) := by
  unfold State.startTraining
  repeat' split
  all_goals exact Keeps.upd hk rfl rfl rfl

theorem execBringupStart_keeps {s0 : State} (profsel : Fin 4) (s : State) (hk : Keeps s0 s) : KeepsOut s0 (execBringupStart profsel s) := by
  unfold execBringupStart
  split <;> exact keepsOut_next (Keeps.upd hk rfl rfl rfl)

theorem execFirmwareVerify_keeps {s0 : State} (a : FirmwareBank) (b : FirmwareBank) (s : State) (hk : Keeps s0 s) : KeepsOut s0 (execFirmwareVerify a b s) := by
  refine keepsOut_next ?_
  repeat' first | (with_reducible first | assumption | apply State.hashFirmware_keeps | apply State.failBoot_keeps | apply State.setStage_keeps | apply State.startTraining_keeps | apply State.configure_keeps | apply State.fillDict_keeps) | (simp only [keeps_mk]; refine keeps_upd ?_) | split

theorem execMemoryTrainingComplete_keeps {s0 : State} (failed : List (Fin 48)) (s : State) (hk : Keeps s0 s) : KeepsOut s0 (execMemoryTrainingComplete failed s) := by
  refine keepsOut_next ?_
  try dsimp only
  repeat' first | intro _ | (with_reducible first | assumption | apply State.failBoot_keeps | apply State.channelFault_keeps | apply keeps_foldl) | (simp only [keeps_mk]; refine keeps_upd ?_) | split

theorem execStartupSelftestComplete_keeps {s0 : State} (mismatch : List SelftestUnit) (s : State) (hk : Keeps s0 s) : KeepsOut s0 (execStartupSelftestComplete mismatch s) := by
  refine keepsOut_next ?_
  try dsimp only
  repeat' first | intro _ | (with_reducible first | assumption | apply State.setStage_keeps | apply State.failBoot_keeps | apply State.fence_keeps | apply State.selftestFault_keeps | apply keeps_foldl) | (simp only [keeps_mk]; refine keeps_upd ?_) | split

theorem execSysRefclkLoss_keeps {s0 : State} (s : State) (hk : Keeps s0 s) : KeepsOut s0 (execSysRefclkLoss s) := by
  refine keepsOut_next ?_
  try dsimp only
  repeat' first | intro _ | (with_reducible first | assumption | apply State.fence_keeps | apply State.raiseAt_keeps | apply keeps_foldl) | (simp only [keeps_mk]; refine keeps_upd ?_) | split

theorem execPexRefclkLoss_keeps {s0 : State} (s : State) (hk : Keeps s0 s) : KeepsOut s0 (execPexRefclkLoss s) := by
  unfold execPexRefclkLoss
  try dsimp only
  repeat' first | intro _ | (with_reducible first | assumption | apply execHotReset_keeps | apply keepsOut_next | exact keepsOut_fault | apply keeps_foldl | apply keeps_foldl_fst | apply keeps_foldl_snd) | (simp only [keeps_mk]; refine keeps_upd ?_) | split | (with_reducible first | refine keeps_fst ‹_ = (_, _)› ?_ | refine keeps_snd ‹_ = (_, _)› ?_ | refine keeps_ok ‹_ = Except.ok _› ?_ | refine keeps_some ‹_ = some _› ?_ | refine keeps_someC ‹_ = some (_, _)› ?_ | refine keeps_inl ‹_ = Sum.inl _› ?_ | refine keeps_inr ‹_ = Sum.inr _› ?_ | exact KeepsE.keep ‹KeepsE _ (Except.ok _)› _ rfl | exact KeepsO.keep ‹KeepsO _ (some _)› _ rfl | exact KeepsC.keep ‹KeepsC _ (some _)› _ rfl | exact KeepsEff.keep ‹KeepsEff _ (Effect.done _ _)› _ rfl | refine keeps_of_done ‹_ = Effect.done _ _› ?_)

theorem execMirRefclkLoss_keeps {s0 : State} (s : State) (hk : Keeps s0 s) : KeepsOut s0 (execMirRefclkLoss s) :=
  keepsOut_next (Keeps.upd hk rfl rfl rfl)

theorem execAuxClkLoss_keeps {s0 : State} (s : State) (hk : Keeps s0 s) : KeepsOut s0 (execAuxClkLoss s) := by
  refine keepsOut_next ?_
  repeat' first | (with_reducible first | assumption | apply State.raiseAt_keeps) | (simp only [keeps_mk]; refine keeps_upd ?_) | split

theorem execAuxClkReturn_keeps {s0 : State} (s : State) (hk : Keeps s0 s) : KeepsOut s0 (execAuxClkReturn s) := by
  refine keepsOut_next ?_
  repeat' first | (with_reducible first | assumption | apply State.raiseAt_keeps) | (simp only [keeps_mk]; refine keeps_upd ?_) | split

/-! ### Restore -/

theorem State.checkReinit_keeps {s0 : State} (s : State) (hk : Keeps s0 s) : Keeps s0 (State.checkReinit s) := by
  unfold State.checkReinit
  split <;> exact Keeps.upd hk rfl rfl rfl

theorem State.checkSet_keeps {s0 : State} (s : State) (hk : Keeps s0 s) : Keeps s0 (State.checkSet s) := by
  unfold State.checkSet
  repeat' first | (with_reducible first | assumption | apply State.dropChrysalis_keeps) | (simp only [keeps_mk]; refine keeps_upd ?_) | split

theorem State.clearAbsent_keeps {s0 : State} (s : State) (hk : Keeps s0 s) : Keeps s0 (State.clearAbsent s) :=
  Keeps.upd hk rfl rfl rfl

theorem State.restoreFails_keeps {s0 : State} (s : State) (status : Nat) (hk : Keeps s0 s) : Keeps s0 (State.restoreFails s status) :=
  State.failRestore_keeps _ _ hk

theorem State.startReplay_keeps {s0 : State} (s : State) (hk : Keeps s0 s) : Keeps s0 (State.startReplay s) := by
  unfold State.startReplay
  repeat' first | (with_reducible first | assumption | apply State.fresh_keeps | apply State.startFrames_keeps) | (simp only [keeps_mk]; refine keeps_upd ?_) | split

theorem State.markAbsent_keeps {s0 : State} (s : State) (hk : Keeps s0 s) : Keeps s0 (State.markAbsent s) :=
  Keeps.upd hk rfl rfl rfl

theorem State.reinstate_keeps {s0 : State} (s : State) (b : Superblock) (map : List Byte) (manifest : List Byte) (hk : Keeps s0 s) : Keeps s0 (State.reinstate s b map manifest) := by
  unfold State.reinstate
  repeat' first | (with_reducible first | assumption | apply State.install_keeps) | (simp only [keeps_mk]; refine keeps_upd ?_) | split

theorem State.countRestoreReads_keeps {s0 : State} (s : State) (b : Superblock) (bytes : Nat) (hk : Keeps s0 s) : Keeps s0 (State.countRestoreReads s b bytes) := by
  unfold State.countRestoreReads
  repeat' first | (with_reducible first | assumption | apply State.countBlocks_keeps) | split

theorem State.restoreKeyed_keeps {s0 : State} (s : State) (b : Superblock) (rd : RestoreRead) (hk : Keeps s0 s) : Keeps s0 (State.restoreKeyed s b rd) := by
  unfold State.restoreKeyed
  try dsimp only
  repeat' first | intro _ | (with_reducible first | assumption | apply State.countCompare_keeps | apply State.hashOn_keeps | apply State.restoreFails_keeps | apply State.startReplay_keeps | apply State.markAbsent_keeps | apply State.bootSpans_keeps | apply State.reinstate_keeps | apply State.countRestoreReads_keeps | apply keeps_foldl) | (simp only [keeps_mk]; refine keeps_upd ?_) | split

theorem State.keyLoaded_keeps {s0 : State} (s : State) (hk : Keeps s0 s) : Keeps s0 (State.keyLoaded s) := by
  unfold State.keyLoaded
  dsimp only
  repeat' first | (with_reducible first | assumption | apply State.restoreKeyed_keeps) | (simp only [keeps_mk]; refine keeps_upd ?_) | split

theorem State.failMember_keeps {s0 : State} (s : State) (port : Fin 4) (reason : Nat) (counts : Bool) (hk : Keeps s0 s) : Keeps s0 (State.failMember s port reason counts) := by
  unfold State.failMember
  repeat' first | (with_reducible first | assumption | apply State.ssdsDown_keeps | apply State.checkReinit_keeps | apply State.checkSet_keeps | apply State.setPort_keeps) | split

theorem State.commandFailed_keeps {s0 : State} (s : State) (p : Fin 4) (reason : Nat) (hk : Keeps s0 s) : Keeps s0 (State.commandFailed s p reason) := by
  unfold State.commandFailed
  repeat' first | (with_reducible first | assumption | apply State.fresh_keeps | apply State.failMember_keeps | apply State.dropChrysalis_keeps) | split

theorem State.endWaits_keeps {s0 : State} (s : State) (slot : Nat) (hk : Keeps s0 s) : Keeps s0 (State.endWaits s slot) :=
  Keeps.upd hk rfl rfl rfl

theorem State.failStrangers_keeps {s0 : State} (s : State) (valid : List Superblock) (setId : List Byte) (hk : Keeps s0 s) : Keeps s0 (State.failStrangers s valid setId) := by
  unfold State.failStrangers
  try dsimp only
  repeat' first | intro _ | (with_reducible first | assumption | apply State.setPort_keeps | apply keeps_foldl) | split

theorem State.arriveSlot_keeps {s0 : State} (s : State) (slot : Nat) (hk : Keeps s0 s) : Keeps s0 (s.arriveSlot slot) := by
  have h2 := State.setResident_keeps _ slot true hk
  refine State.endWaits_keeps _ _ (State.clearAbsent_keeps _ ?_)
  split
  · exact Keeps.upd h2 rfl rfl rfl
  · exact h2

theorem State.fetchedSlot_keeps {s0 : State} (s : State) (slot : Nat) (bytes : List Byte) (hk : Keeps s0 s) :
    Keeps s0 (State.fetchedSlot s slot bytes) :=
  State.arriveSlot_keeps _ slot (State.writeSlot_keeps s slot bytes hk)

theorem State.loseSlot_keeps {s0 : State} (s : State) (slot : Nat) (hk : Keeps s0 s) : Keeps s0 (State.loseSlot s slot) := by
  unfold State.loseSlot
  dsimp only
  repeat' first | (with_reducible first | assumption | apply State.failRestore_keeps | apply State.endWaits_keeps) | (simp only [keeps_mk]; refine keeps_upd ?_) | split

theorem State.replayEnd_keeps {s0 : State} (s : State) (hk : Keeps s0 s) : Keeps s0 (State.replayEnd s) := by
  unfold State.replayEnd
  repeat' first | (with_reducible first | assumption | apply State.sealCocoon_keeps | apply State.stepDigest_keeps | apply State.stepRelease_keeps) | (simp only [keeps_mk]; refine keeps_upd ?_) | split

theorem State.replayFrame_keeps {s0 : State} (s : State) (bytes : List Byte) (hk : Keeps s0 s) : Keeps s0 (State.replayFrame s bytes) := by
  unfold State.replayFrame
  try dsimp only
  repeat' first | intro _ | (with_reducible first | assumption | apply State.replayEnd_keeps | apply State.applyDesc_keeps | apply State.takeData_keeps | apply State.beginFrame_keeps | apply keeps_foldl) | (simp only [keeps_mk]; refine keeps_upd ?_) | split

theorem State.restoreNoSet_keeps {s0 : State} (s : State) (hk : Keeps s0 s) : Keeps s0 (State.restoreNoSet s) := by
  unfold State.restoreNoSet
  repeat' first | (with_reducible first | assumption | apply State.beginServing_keeps | apply State.bootSpans_keeps) | (simp only [keeps_mk]; refine keeps_upd ?_) | split

theorem State.restoreFrom_keeps {s0 : State} (s : State) (rd : RestoreRead) (hk : Keeps s0 s) : Keeps s0 (State.restoreFrom s rd) := by
  unfold State.restoreFrom
  dsimp only
  repeat' first | (with_reducible first | assumption | apply State.restoreNoSet_keeps | apply State.failStrangers_keeps | apply State.restoreFails_keeps | apply State.restoreKeyed_keeps | apply State.deriveKey_keeps) | (simp only [keeps_mk]; refine keeps_upd ?_) | split

theorem State.stopReplay_keeps {s0 : State} (s : State) (hk : Keeps s0 s) : Keeps s0 (State.stopReplay s) := by
  unfold State.stopReplay
  try dsimp only
  repeat' first | intro _ | (with_reducible first | assumption | apply State.replayEnd_keeps | apply State.dropEntryTables_keeps | apply State.beginServing_keeps | apply keeps_foldl) | (simp only [keeps_mk]; refine keeps_upd ?_) | split

theorem execSsdCommandTimeout_keeps {s0 : State} (p : Fin 4) (s : State) (hk : Keeps s0 s) : KeepsOut s0 (execSsdCommandTimeout p s) := by
  refine keepsOut_next ?_
  repeat' first | (with_reducible first | assumption | apply State.commandFailed_keeps) | split

theorem execSsdCommandError_keeps {s0 : State} (p : Fin 4) (s : State) (hk : Keeps s0 s) : KeepsOut s0 (execSsdCommandError p s) := by
  refine keepsOut_next ?_
  repeat' first | (with_reducible first | assumption | apply State.commandFailed_keeps) | split

theorem execSsdLinkDown_keeps {s0 : State} (p : Fin 4) (s : State) (hk : Keeps s0 s) : KeepsOut s0 (execSsdLinkDown p s) := by
  refine keepsOut_next ?_
  repeat' first | (with_reducible first | assumption | apply State.failMember_keeps) | split

theorem execSmartLogPoll_keeps {s0 : State} (a0 : Fin 4) (s : State) (hk : Keeps s0 s) : KeepsOut s0 (execSmartLogPoll a0 s) :=
  keepsOut_next (Keeps.upd hk rfl rfl rfl)

theorem execKeyReady_keeps {s0 : State} (s : State) (hk : Keeps s0 s) : KeepsOut s0 (execKeyReady s) :=
  keepsOut_next (State.keyLoaded_keeps _ hk)

theorem execRestore_keeps {s0 : State} (rd : RestoreRead) (s : State) (hk : Keeps s0 s) : KeepsOut s0 (execRestore rd s) := by
  refine keepsOut_next ?_
  try dsimp only
  repeat' first | intro _ | (with_reducible first | assumption | apply State.setPort_keeps | apply State.restoreFrom_keeps | apply keeps_foldl) | split

theorem execKeyReadyTimeout_keeps {s0 : State} (s : State) (hk : Keeps s0 s) : KeepsOut s0 (execKeyReadyTimeout s) := by
  refine keepsOut_next ?_
  repeat' first | (with_reducible first | assumption | apply State.restoreFails_keeps) | split

theorem execCocoonReplay_keeps {s0 : State} (bytes : List Byte) (s : State) (hk : Keeps s0 s) : KeepsOut s0 (execCocoonReplay bytes s) := by
  refine keepsOut_next ?_
  repeat' first | (with_reducible first | assumption | apply State.countCompare_keeps | apply State.hashSeal_keeps | apply State.countBlocks_keeps | apply State.replayFrame_keeps | apply State.stopReplay_keeps) | split

theorem execSlotFetchComplete_keeps {s0 : State} (slot : Nat) (data : Option (List Byte)) (s : State) (hk : Keeps s0 s) : KeepsOut s0 (execSlotFetchComplete slot data s) := by
  refine keepsOut_next ?_
  repeat' first | (with_reducible first | assumption | apply State.countBlocks_keeps | apply State.fetchedSlot_keeps | apply State.loseSlot_keeps) | split

theorem execSsdReady_keeps {s0 : State} (p : Fin 4) (id : SsdIdentity) (s : State) (hk : Keeps s0 s) : KeepsOut s0 (execSsdReady p id s) := by
  refine keepsOut_next ?_
  repeat' first | (with_reducible first | assumption | apply State.failMember_keeps | apply State.checkReinit_keeps | apply State.setPort_keeps) | split

theorem execSsdReadyTimeout_keeps {s0 : State} (p : Fin 4) (s : State) (hk : Keeps s0 s) : KeepsOut s0 (execSsdReadyTimeout p s) := by
  refine keepsOut_next ?_
  repeat' first | (with_reducible first | assumption | apply State.failMember_keeps) | split

end Sys2Proof.Machine
end

