-- ==== Sys2Proof/Laws/KeepsSide.lean ====
section
/-! SUPPORT. What the dictionary, codec, register and test operations keep: the queue, the ordering code and the canonical form of memory. -/

namespace Sys2Proof.Machine

/-! ### Values -/

theorem State.afterRead_keeps {s0 : State} (s : State) (index : Nat) (hk : Keeps s0 s) : Keeps s0 (State.afterRead s index) := by
  unfold State.afterRead
  repeat' first | (with_reducible first | assumption | apply State.fresh_keeps) | split

theorem State.profileLoad_keeps {s0 : State} (s : State) (p : Nat) (hk : Keeps s0 s) : Keeps s0 (State.profileLoad s p) := by
  unfold State.profileLoad
  split <;> exact Keeps.upd hk rfl rfl rfl

theorem State.profileWrite_keeps {s0 : State} (s : State) (p : Nat) (defaults : Bool) (hk : Keeps s0 s) : Keeps s0 (State.profileWrite s p defaults) :=
  Keeps.upd hk rfl rfl rfl

theorem State.writeCommand_keeps {s0 : State} (s : State) (index : Nat) (sub : Nat) (v : Nat) (hk : Keeps s0 s) : KeepsE s0 (State.writeCommand s index sub v) := by
  unfold State.writeCommand
  dsimp only
  repeat' first | (with_reducible first | assumption | apply State.markDue_keeps | apply State.keyLoaded_keeps | apply State.mirrorJoin_keeps | apply State.mirrorDetach_keeps | apply State.fence_keeps | apply State.mirrorForm_keeps | apply State.mothDoze_keeps | apply State.wake_keeps | apply State.mothRestart_keeps | apply State.profileLoad_keeps | apply State.profileWrite_keeps | apply State.fromAck_keeps | apply State.toTenant_keeps | apply keepsE_ok | exact keepsE_error _) | (simp only [keeps_mk]; refine keeps_upd ?_) | split

theorem State.writeObject_keeps {s0 : State} (s : State) (index : Nat) (sub : Nat) (bs : List Byte) (bdp : Bool) (hk : Keeps s0 s) : KeepsE s0 (State.writeObject s index sub bs bdp) := by
  unfold State.writeObject
  repeat' first | (with_reducible first | assumption | apply State.writeCommand_keeps | apply State.applyImmediate_keeps | apply State.shadowSet_keeps | apply State.resetSet_keeps | apply keepsE_ok | exact keepsE_error _) | split

theorem execProfileLoad_keeps {s0 : State} (p : Nat) (s : State) (hk : Keeps s0 s) : KeepsOut s0 (execProfileLoad p s) := by
  refine keepsOut_next ?_
  repeat' first | (with_reducible first | assumption | apply State.profileLoad_keeps) | split

theorem execProfileSave_keeps {s0 : State} (p : Nat) (s : State) (hk : Keeps s0 s) : KeepsOut s0 (execProfileSave p s) := by
  refine keepsOut_next ?_
  repeat' first | (with_reducible first | assumption | apply State.profileWrite_keeps) | split

theorem execProfileDefaults_keeps {s0 : State} (p : Nat) (s : State) (hk : Keeps s0 s) : KeepsOut s0 (execProfileDefaults p s) := by
  refine keepsOut_next ?_
  repeat' first | (with_reducible first | assumption | apply State.profileWrite_keeps) | split

theorem execProfileFlashWriteDone_keeps {s0 : State} (ok : Bool) (s : State) (hk : Keeps s0 s) : KeepsOut s0 (execProfileFlashWriteDone ok s) := by
  unfold execProfileFlashWriteDone
  split <;> exact keepsOut_next (Keeps.upd hk rfl rfl rfl)

/-! ### Bdp -/

theorem State.abandon?_keeps {s0 : State} (s : State) (k : BitVec 48 × Nat × Nat × Nat) (error : Nat) (hk : Keeps s0 s) : Keeps s0 (State.abandon? s k error) := by
  unfold State.abandon?
  split <;> exact Keeps.upd hk rfl rfl rfl

theorem State.respond_keeps {s0 : State} (s : State) (f : BdpFrame) (type : Nat) (more : Bool) (error : Nat) (body : List Byte) (hk : Keeps s0 s) : Keeps s0 (State.respond s f type more error body) :=
  Keeps.upd hk rfl rfl rfl

theorem State.setTransfer_keeps {s0 : State} (s : State) (t : BdpTransfer) (hk : Keeps s0 s) : Keeps s0 (State.setTransfer s t) :=
  Keeps.upd hk rfl rfl rfl

theorem State.finishWrite_keeps {s0 : State} (s : State) (f : BdpFrame) (total : Nat) (bs : List Byte) (hk : Keeps s0 s) : Keeps s0 (State.finishWrite s f total bs) := by
  unfold State.finishWrite
  try dsimp only
  repeat' first | intro _ | (with_reducible first | assumption | apply State.respond_keeps | apply State.writeObject_keeps | apply keeps_foldl) | (simp only [keeps_mk]; refine keeps_upd ?_) | split | with_reducible refine keeps_ok ‹_ = Except.ok _› ?_

theorem State.dropTransfer_keeps {s0 : State} (s : State) (f : BdpFrame) (hk : Keeps s0 s) : Keeps s0 (State.dropTransfer s f) :=
  Keeps.upd hk rfl rfl rfl

theorem State.collect_keeps {s0 : State} (s : State) (f : BdpFrame) (t : BdpTransfer) (bs : List Byte) (hk : Keeps s0 s) : Keeps s0 (State.collect s f t bs) := by
  unfold State.collect
  repeat' first | (with_reducible first | assumption | apply State.respond_keeps | apply State.setTransfer_keeps | apply State.finishWrite_keeps | apply State.dropTransfer_keeps) | split

theorem State.nextSegment_keeps {s0 : State} (s : State) (f : BdpFrame) (t : BdpTransfer) (hk : Keeps s0 s) : Keeps s0 (State.nextSegment s f t) := by
  unfold State.nextSegment
  repeat' first | (with_reducible first | assumption | apply State.setTransfer_keeps | apply State.dropTransfer_keeps | apply State.respond_keeps) | split

theorem State.firstRead_keeps {s0 : State} (s : State) (f : BdpFrame) (hk : Keeps s0 s) : Keeps s0 (State.firstRead s f) := by
  unfold State.firstRead
  repeat' first | (with_reducible first | assumption | apply State.respond_keeps | apply State.dropTransfer_keeps | apply State.afterRead_keeps | apply State.nextSegment_keeps) | split

theorem State.requestError_keeps {s0 : State} (s : State) (f : BdpFrame) (hk : Keeps s0 s) : Keeps s0 (State.requestError s f).2 := by
  unfold State.requestError
  repeat' split
  all_goals exact Keeps.upd hk rfl rfl rfl

theorem State.serveBdp_keeps {s0 : State} (s : State) (f : Sys2Proof.BdpFrame) (serve : State → State) (hk : Keeps s0 s)
    (hs : ∀ u, Keeps s0 u → Keeps s0 (serve u)) : Keeps s0 (State.serveBdp s f serve) := by
  unfold State.serveBdp
  split
  · exact Keeps.upd hk rfl rfl rfl
  · exact hs _ hk

theorem State.serveRead_keeps {s0 : State} (s : State) (f : BdpFrame) (hk : Keeps s0 s) : Keeps s0 (State.serveRead s f) := by
  unfold State.serveRead
  dsimp only
  repeat' first | (with_reducible first | assumption | apply State.requestError_keeps | apply State.respond_keeps | apply State.firstRead_keeps | apply State.nextSegment_keeps) | split

theorem State.serveWrite_keeps {s0 : State} (s : State) (f : BdpFrame) (hk : Keeps s0 s) : Keeps s0 (State.serveWrite s f) := by
  unfold State.serveWrite
  dsimp only
  repeat' first | (with_reducible first | assumption | apply State.requestError_keeps | apply State.respond_keeps | apply State.collect_keeps | apply State.dropTransfer_keeps) | split

theorem execBdpReadReq_keeps {s0 : State} (f : BdpFrame) (s : State) (hk : Keeps s0 s) : KeepsOut s0 (execBdpReadReq f s) := by
  refine keepsOut_next ?_
  try dsimp only
  repeat' first | intro _ | (with_reducible first | assumption | apply State.serveBdp_keeps | apply State.serveRead_keeps | apply keeps_foldl) | split

theorem execBdpWriteReq_keeps {s0 : State} (f : BdpFrame) (s : State) (hk : Keeps s0 s) : KeepsOut s0 (execBdpWriteReq f s) := by
  refine keepsOut_next ?_
  try dsimp only
  repeat' first | intro _ | (with_reducible first | assumption | apply State.serveBdp_keeps | apply State.serveWrite_keeps | apply keeps_foldl) | split

theorem execBdpAbort_keeps {s0 : State} (f : BdpFrame) (s : State) (hk : Keeps s0 s) : KeepsOut s0 (execBdpAbort f s) := by
  refine keepsOut_next ?_
  repeat' first | (with_reducible first | assumption | apply State.respond_keeps | apply State.abandon?_keeps) | split

theorem execBdpFrameDrop_keeps {s0 : State} (f : BdpFrame) (s : State) (hk : Keeps s0 s) : KeepsOut s0 (execBdpFrameDrop f s) := by
  unfold execBdpFrameDrop
  split <;> exact keepsOut_next (Keeps.upd hk rfl rfl rfl)

theorem execSegmentTransferTimeout_keeps {s0 : State} (n : Nat) (s : State) (hk : Keeps s0 s) : KeepsOut s0 (execSegmentTransferTimeout n s) := by
  refine keepsOut_next ?_
  repeat' first | (with_reducible first | assumption | apply State.abandon?_keeps) | split

theorem execEventFrameSend_keeps {s0 : State} (s : State) (hk : Keeps s0 s) : KeepsOut s0 (execEventFrameSend s) := by
  refine keepsOut_next ?_
  repeat' split
  all_goals exact Keeps.upd hk rfl rfl rfl

/-! ### Codec -/

theorem State.codecStore_keeps {s0 : State} (s : State) (ma : Nat) (bs : List Byte) (hk : Keeps s0 s) : Keeps s0 (State.codecStore s ma bs) := by
  unfold State.codecStore
  repeat' first | (with_reducible first | assumption | apply State.sumStore_keeps | apply State.writeMem_keeps) | split

theorem State.clearSegment_keeps {s0 : State} (s : State) (slot : Nat) (hk : Keeps s0 s) : Keeps s0 (State.clearSegment s slot) := by
  unfold State.clearSegment
  try dsimp only
  repeat' first | intro _ | (with_reducible first | assumption | apply State.codecStore_keeps | apply keeps_foldl) | split

theorem State.codecOutput_keeps {s0 : State} (s : State) (e : WorkEntry) (ps : List (Nat × List Byte)) (hk : Keeps s0 s) : Keeps s0 (State.codecOutput s e ps) := by
  unfold State.codecOutput
  try dsimp only
  repeat' first | intro _ | (with_reducible first | assumption | apply State.sumOutput_keeps | apply State.unitWrite_keeps | apply keeps_foldl) | split

theorem State.recordedTable_keeps {s0 : State} (s : State) (p : TableSpec) (hk : Keeps s0 s) : Keeps s0 (State.recordedTable s p) := by
  unfold State.recordedTable
  split <;> exact Keeps.upd hk rfl rfl rfl

theorem State.stageCreate_keeps {s0 : State} (s : State) (t : KmaTable) (hk : Keeps s0 s) : Keeps s0 (State.stageCreate s t) :=
  Keeps.upd hk rfl rfl rfl

theorem State.createTable_keeps {s0 : State} (s : State) (p : TableSpec) (hk : Keeps s0 s) : Keeps s0 (State.createTable s p) := by
  unfold State.createTable
  try dsimp only
  repeat' first | intro _ | (with_reducible first | assumption | apply State.recordedTable_keeps | apply State.placeTable_keeps | apply State.stageCreate_keeps | apply keeps_foldl) | split

theorem State.updJob_keeps {s0 : State} (s : State) (slot : Nat) (f : CodecJob → CodecJob) (hk : Keeps s0 s) : Keeps s0 (State.updJob s slot f) :=
  State.updEntry_keeps _ _ _ hk

theorem State.readDirectory_keeps {s0 : State} (s : State) (slot : Nat) (hk : Keeps s0 s) : Keeps s0 (State.readDirectory s slot).1 := by
  rw [State.readDirectory]
  exact keeps_pair (State.readRange_keeps _ _ _ _ _ (State.readRange_keeps _ _ _ _ _ hk))

theorem State.decodeOver_keeps {s0 : State} (s : State) (e : WorkEntry) (j : Job) (o : DecodeOut) (hk : Keeps s0 s) :
    Keeps s0 (s.decodeOver e j o) :=
  State.updJob_keeps _ _ _ (State.codecOutput_keeps _ _ _ hk)

theorem State.spanEnd_keeps {s0 : State} (s : State) (d : BitVec 192) (off inLen : Nat) (o : DecodeOut) (hk : Keeps s0 s) :
    KeepsR s0 (s.spanEnd d off inLen o) := by
  unfold State.spanEnd
  split
  · exact keepsR_wait
  · exact keepsR_over hk

theorem State.decodeSpanBlock_keeps {s0 : State} (j : Job) (d : BitVec 192) (off slot : Nat) (p : SpanRun) (b : Nat) (hk : KeepsR s0 p) :
    KeepsR s0 (State.decodeSpanBlock j d off slot p b) := by
  unfold State.decodeSpanBlock
  split
  · have h0 := hk.keep _ rfl
    have hr {t : State} {a n q : Nat} {c : Bool} (h : Keeps s0 t) : Keeps s0 (t.readRange a n q c).1 := State.readRange_keeps _ _ _ _ _ h
    dsimp only
    generalize slot * slotBytes + b = ma
    repeat' first | exact keepsR_over (hr h0) | exact State.spanEnd_keeps _ _ _ _ _ (hr h0) | exact keepsR_over (hr (hr h0)) |
      exact keepsR_more (hr (hr h0)) | split
  · exact hk

theorem State.decodeBlocks_keeps {s0 : State} (s : State) (ok : Bool) (j : Job) (d : BitVec 192) (off n : Nat) (o : DecodeOut)
    (hk : Keeps s0 s) : KeepsR s0 (s.decodeBlocks ok j d off n o) := by
  unfold State.decodeBlocks
  split
  · exact keepsR_over hk
  split
  · exact keepsR_over hk
  · exact keeps_foldl_R (fun a x h => State.decodeSpanBlock_keeps _ _ _ _ a x h) (keepsR_more hk)

theorem State.decodeSegment_keeps {s0 : State} (j : Job) (d : BitVec 192) (off : Nat) (p : SpanRun) (n : Nat) (hk : KeepsR s0 p) :
    KeepsR s0 (State.decodeSegment j d off p n) := by
  unfold State.decodeSegment
  split
  · have h0 := hk.keep _ rfl
    split
    · exact keepsR_over h0
    split
    · exact keepsR_wait
    · exact State.decodeBlocks_keeps _ _ _ _ _ _ _ (State.readDirectory_keeps _ _ h0)
  · exact hk

theorem State.decodeSpan_keeps {s0 : State} (s : State) (j : Job) (d : BitVec 192) (off : Nat) (o : DecodeOut) (hk : Keeps s0 s) :
    KeepsR s0 (s.decodeSpan j d off o) :=
  keeps_foldl_R (fun a x h => State.decodeSegment_keeps _ _ _ a x h) (keepsR_more hk)

theorem State.encodeBegin_keeps {s0 : State} (s : State) (j : Job) (d : BitVec 192) (hk : Keeps s0 s) : KeepsC s0 (State.encodeBegin s j d) := by
  unfold State.encodeBegin
  try dsimp only
  repeat' first | intro _ | (with_reducible first | assumption | apply State.clearSegment_keeps | apply keeps_foldl | apply keeps_foldl_fst | apply keeps_foldl_snd | apply keepsC_some | exact keepsC_none | apply keeps_foldl_C) | (simp only [keeps_mk]; refine keeps_upd ?_) | split | (with_reducible first | refine keeps_fst ‹_ = (_, _)› ?_ | refine keeps_snd ‹_ = (_, _)› ?_ | refine keeps_ok ‹_ = Except.ok _› ?_ | refine keeps_some ‹_ = some _› ?_ | refine keeps_someC ‹_ = some (_, _)› ?_ | refine keeps_inl ‹_ = Sum.inl _› ?_ | refine keeps_inr ‹_ = Sum.inr _› ?_ | exact KeepsE.keep ‹KeepsE _ (Except.ok _)› _ rfl | exact KeepsO.keep ‹KeepsO _ (some _)› _ rfl | exact KeepsC.keep ‹KeepsC _ (some _)› _ rfl | exact KeepsEff.keep ‹KeepsEff _ (Effect.done _ _)› _ rfl | refine keeps_of_done ‹_ = Effect.done _ _› ?_)

theorem State.placeBlock_keeps {s0 : State} (s : State) (d : BitVec 192) (o : SpanOut) (ty : Nat) (at_ : Nat) (b : List Byte) (vs : List (Word × Bool)) (hk : Keeps s0 s) : Keeps s0 (State.placeBlock s d o ty at_ b vs).1 := by
  unfold State.placeBlock
  repeat' first | (with_reducible first | assumption | apply State.codecStore_keeps) | split

theorem nextSegment_keeps {s0 : State} (d : BitVec 192) (first : List Byte) (s : State) (o : SpanOut) (hk : Keeps s0 s) : KeepsC s0 (nextSegment d first s o) := by
  unfold nextSegment
  try dsimp only
  repeat' first | intro _ | (with_reducible first | assumption | apply State.clearSegment_keeps | apply keeps_foldl | apply keeps_foldl_fst | apply keeps_foldl_snd | apply keepsC_some | exact keepsC_none | apply keeps_foldl_C) | (simp only [keeps_mk]; refine keeps_upd ?_) | split | (with_reducible first | refine keeps_fst ‹_ = (_, _)› ?_ | refine keeps_snd ‹_ = (_, _)› ?_ | refine keeps_ok ‹_ = Except.ok _› ?_ | refine keeps_some ‹_ = some _› ?_ | refine keeps_someC ‹_ = some (_, _)› ?_ | refine keeps_inl ‹_ = Sum.inl _› ?_ | refine keeps_inr ‹_ = Sum.inr _› ?_ | exact KeepsE.keep ‹KeepsE _ (Except.ok _)› _ rfl | exact KeepsO.keep ‹KeepsO _ (some _)› _ rfl | exact KeepsC.keep ‹KeepsC _ (some _)› _ rfl | exact KeepsEff.keep ‹KeepsEff _ (Effect.done _ _)› _ rfl | refine keeps_of_done ‹_ = Effect.done _ _› ?_)

theorem encodePut_keeps {s0 : State} (j : Job) (d : BitVec 192) (first : List Byte) (s : State) (o : SpanOut) (vs : List (Word × Bool)) (b : List Byte) (at_ : Nat) (fits : Bool) (hk : Keeps s0 s) : Keeps s0 (encodePut j d first s o vs b at_ fits).1 := by
  unfold encodePut
  try dsimp only
  repeat' first | intro _ | (with_reducible first | assumption | apply State.placeBlock_keeps | apply nextSegment_keeps | apply keeps_foldl | apply keeps_foldl_fst | apply keeps_foldl_snd) | (simp only [keeps_mk]; refine keeps_upd ?_) | split | (with_reducible first | refine keeps_fst ‹_ = (_, _)› ?_ | refine keeps_snd ‹_ = (_, _)› ?_ | refine keeps_ok ‹_ = Except.ok _› ?_ | refine keeps_some ‹_ = some _› ?_ | refine keeps_someC ‹_ = some (_, _)› ?_ | refine keeps_inl ‹_ = Sum.inl _› ?_ | refine keeps_inr ‹_ = Sum.inr _› ?_ | exact KeepsE.keep ‹KeepsE _ (Except.ok _)› _ rfl | exact KeepsO.keep ‹KeepsO _ (some _)› _ rfl | exact KeepsC.keep ‹KeepsC _ (some _)› _ rfl | exact KeepsEff.keep ‹KeepsEff _ (Effect.done _ _)› _ rfl | refine keeps_of_done ‹_ = Effect.done _ _› ?_)

theorem encodeStep_keeps {s0 : State} (j : Job) (d : BitVec 192) (first : List Byte) (p : State × SpanOut) (vs : List (Word × Bool))
    (hk : Keeps s0 p.1) : Keeps s0 (encodeStep j d first p vs).1 := by
  have h (c : Prop) [Decidable c] (r : State × SpanOut) (hr : Keeps s0 r.1) : Keeps s0 (if c then p else r).1 := by
    split
    · exact hk
    · exact hr
  exact h _ _ (encodePut_keeps _ _ _ _ _ _ _ _ _ hk)

theorem encodeSpan_keeps {s0 : State} (j : Job) (d : BitVec 192) (first : List Byte) (s : State) (o : SpanOut) (l : List (List (Word × Bool))) (hk : Keeps s0 s) : Keeps s0 (encodeSpan j d first s o l).1 := by
  unfold encodeSpan
  try dsimp only
  repeat' first | intro _ | (with_reducible first | assumption | apply encodeStep_keeps | apply keeps_foldl_fst) | split

theorem State.encodeRunSpan_keeps {s0 : State} (s : State) (j : Job) (d : BitVec 192) (i : EncodeInput) (hk : Keeps s0 s) :
    KeepsC s0 (State.encodeRunSpan s j d i) := by
  unfold State.encodeRunSpan
  have h := State.encodeBegin_keeps s j d hk
  cases hb : s.encodeBegin j d with
  | none => exact keepsC_none
  | some p => exact keepsC_some (encodeSpan_keeps _ _ _ _ _ _ (h.keep p hb))

theorem State.endJob_keeps {s0 : State} (s : State) (slot : Nat) (st : Nat) (hk : Keeps s0 s) : Keeps s0 (State.endJob s slot st) :=
  State.updJob_keeps _ _ _ hk

theorem State.encodeInto_keeps {s0 : State} (s : State) (e : WorkEntry) (j : Job) (d : BitVec 192) (i : EncodeInput) (hk : Keeps s0 s) : Keeps s0 (State.encodeInto s e j d i) := by
  unfold State.encodeInto
  try dsimp only
  repeat' first | intro _ | (with_reducible first | assumption | apply State.encodeRunSpan_keeps | apply State.endJob_keeps | apply State.updJob_keeps | apply keeps_foldl | apply keeps_foldl_fst | apply keeps_foldl_snd) | (simp only [keeps_mk]; refine keeps_upd ?_) | split | (with_reducible first | refine keeps_fst ‹_ = (_, _)› ?_ | refine keeps_snd ‹_ = (_, _)› ?_ | refine keeps_ok ‹_ = Except.ok _› ?_ | refine keeps_some ‹_ = some _› ?_ | refine keeps_someC ‹_ = some (_, _)› ?_ | refine keeps_inl ‹_ = Sum.inl _› ?_ | refine keeps_inr ‹_ = Sum.inr _› ?_ | exact KeepsE.keep ‹KeepsE _ (Except.ok _)› _ rfl | exact KeepsO.keep ‹KeepsO _ (some _)› _ rfl | exact KeepsC.keep ‹KeepsC _ (some _)› _ rfl | exact KeepsEff.keep ‹KeepsEff _ (Effect.done _ _)› _ rfl | refine keeps_of_done ‹_ = Effect.done _ _› ?_)

theorem State.encodeResident_keeps {s0 : State} (s : State) (e : WorkEntry) (j : Job) (d : BitVec 192) (bs : List Byte) (hk : Keeps s0 s) : Keeps s0 (State.encodeResident s e j d bs) := by
  unfold State.encodeResident
  dsimp only
  repeat' first | (with_reducible first | assumption | apply State.readRange_keeps | apply State.stageData_keeps | apply State.encodeInto_keeps | apply State.endJob_keeps) | split

theorem State.noteRead_keeps {s0 : State} (s : State) (e : WorkEntry) (addr : Nat) (n : Nat) (r : HostRead) (hk : Keeps s0 s) : Keeps s0 (State.noteRead s e addr n r) := by
  unfold State.noteRead
  repeat' first | (with_reducible first | assumption | apply State.carryFails_keeps | apply State.fresh_keeps | apply State.carried_keeps) | split

theorem State.encodeToSpan_keeps {s0 : State} (s : State) (e : WorkEntry) (j : Job) (r : HostRead) (a4 : Option (BitVec 192)) (hk : Keeps s0 s) :
    Keeps s0 (State.encodeToSpan s e j r a4) := by
  cases a4 with
  | none => exact hk
  | some d =>
    unfold State.encodeToSpan
    dsimp only
    generalize s.firstAway _ = f
    split
    · exact State.awaitSlot_keeps _ _ hk
    · exact State.endJob_keeps _ _ _ hk
    · exact State.encodeResident_keeps _ _ _ _ _ (State.noteRead_keeps _ _ _ _ _ hk)

theorem State.encodeToHost_keeps {s0 : State} (s : State) (e : WorkEntry) (j : Job) (r : HostRead) (hk : Keeps s0 s) : Keeps s0 (State.encodeToHost s e j r) := by
  unfold State.encodeToHost
  repeat' first | (with_reducible first | assumption | apply State.updJob_keeps | apply State.codecOutput_keeps | apply State.noteRead_keeps) | split

theorem State.encodeRun_keeps {s0 : State} (s : State) (e : WorkEntry) (j : Job) (input : Option (List Byte)) (valid : List Byte) (hk : Keeps s0 s) : Keeps s0 (State.encodeRun s e j input valid) := by
  unfold State.encodeRun
  repeat' first | (with_reducible first | assumption | apply State.encodeToSpan_keeps | apply State.encodeToHost_keeps) | split

theorem State.failOutput_keeps {s0 : State} (s : State) (e : WorkEntry) (addr : Nat) (hk : Keeps s0 s) : Keeps s0 (State.failOutput s e addr) := by
  unfold State.failOutput
  repeat' first | (with_reducible first | assumption | apply State.carryFails_keeps | apply State.fresh_keeps) | split

theorem State.loadTable_keeps {s0 : State} (s : State) (e : WorkEntry) (n : Nat) (bs : List Byte) (hk : Keeps s0 s) : Keeps s0 (State.loadTable s e n bs) := by
  unfold State.loadTable
  try dsimp only
  repeat' first | intro _ | (with_reducible first | assumption | apply State.tableResult_keeps | apply State.onTable_keeps | apply State.spreadKeys_keeps | apply State.each_keeps | apply State.loadOne_keeps | apply keeps_foldl) | split

theorem execCodecEncode_keeps {s0 : State} (slot : Fin 256) (input : Option (List Byte)) (valid : List Byte) (s : State) (hk : Keeps s0 s) : KeepsOut s0 (execCodecEncode slot input valid s) := by
  refine keepsOut_next ?_
  dsimp only
  repeat' first | (with_reducible first | assumption | apply State.awaitSlot_keeps | apply State.endJob_keeps | apply State.encodeRun_keeps) | split

theorem execCodecDecode_keeps {s0 : State} (slot : Fin 256) (input : Option (List Byte)) (s : State) (hk : Keeps s0 s) :
    KeepsOut s0 (execCodecDecode slot input s) := by
  refine keepsOut_next ?_
  dsimp only
  repeat' first | (with_reducible first | assumption | apply State.endJob_keeps | apply State.failOutput_keeps | apply State.awaitSlot_keeps | apply State.decodeOver_keeps | apply State.noteRead_keeps) | (refine keeps_of_over ‹_ = SpanRun.over _ _› (State.decodeSpan_keeps _ _ _ _ _ hk)) | (refine keeps_of_more ‹_ = SpanRun.more _ _› (State.decodeSpan_keeps _ _ _ _ _ hk)) | split

theorem execCodecUnitGrant_keeps {s0 : State} (encoder : Bool) (s : State) (hk : Keeps s0 s) : KeepsOut s0 (execCodecUnitGrant encoder s) := by
  refine keepsOut_next ?_
  repeat' first | (with_reducible first | assumption | apply State.updJob_keeps) | split

theorem execCodecJobFinish_keeps {s0 : State} (slot : Fin 256) (s : State) (hk : Keeps s0 s) : KeepsOut s0 (execCodecJobFinish slot s) := by
  refine keepsOut_next ?_
  dsimp only
  repeat' first | (with_reducible first | assumption | apply State.failOutput_keeps | apply State.unitWrite_keeps | apply State.finish_keeps | apply State.updJob_keeps) | split

theorem execTableCreate_keeps {s0 : State} (slot : Fin 256) (s : State) (hk : Keeps s0 s) : KeepsOut s0 (execTableCreate slot s) := by
  refine keepsOut_next ?_
  dsimp only
  repeat' first | (with_reducible first | assumption | apply State.tableResult_keeps | apply State.awaitSlot_keeps | apply State.createTable_keeps | apply State.each_keeps | apply State.indexCode_keeps) | split

theorem execTableLoad_keeps {s0 : State} (slot : Fin 256) (records : Option (List Byte)) (s : State) (hk : Keeps s0 s) : KeepsOut s0 (execTableLoad slot records s) := by
  refine keepsOut_next ?_
  dsimp only
  repeat' first | (with_reducible first | assumption | apply State.tableResult_keeps | apply State.awaitSlot_keeps | apply State.frontRead_keeps | apply State.loadTable_keeps | apply State.stageData_keeps) | split

/-! ### Registers -/

theorem State.setSlot_keeps {s0 : State} (s : State) (n : Fin 8) (x : DwSlot) (hk : Keeps s0 s) : Keeps s0 (State.setSlot s n x) :=
  Keeps.upd hk rfl rfl rfl

theorem State.dwGo_keeps {s0 : State} (s : State) (n : Fin 8) (irq : Bool) (hk : Keeps s0 s) : Keeps s0 (State.dwGo s n irq) := by
  unfold State.dwGo
  try dsimp only
  repeat' first | intro _ | (with_reducible first | assumption | apply State.setSlot_keeps | apply State.afterRead_keeps | apply State.writeObject_keeps | apply keeps_foldl) | (simp only [keeps_mk]; refine keeps_upd ?_) | split | with_reducible refine keeps_ok ‹_ = Except.ok _› ?_

theorem State.maskVector_keeps {s0 : State} (s : State) (fn : Fin 64) (vec : Nat) (on : Bool) (hk : Keeps s0 s) : Keeps s0 (State.maskVector s fn vec on) := by
  unfold State.maskVector
  repeat' first | (with_reducible first | assumption | apply State.setFn_keeps | apply State.sendPending_keeps) | split

theorem State.writeChCtrl_keeps {s0 : State} (s : State) (ch : Fin 32) (acc : RegAccess) (v : BitVec 64) (hk : Keeps s0 s) : Keeps s0 (State.writeChCtrl s ch acc v) := by
  unfold State.writeChCtrl
  repeat' first | (with_reducible first | assumption | apply State.chDisable_keeps | apply State.chPause_keeps | apply State.setChannel_keeps) | split

theorem State.writeConfig_keeps {s0 : State} (s : State) (fn : Fin 64) (field : ConfigField) (v : BitVec 64) (hk : Keeps s0 s) : Keeps s0 (State.writeConfig s fn field v) := by
  unfold State.writeConfig
  repeat' first | (with_reducible first | assumption | apply State.setFn_keeps | apply State.sendPending_keeps) | split

theorem State.writeHandle_keeps {s0 : State} (s : State) (fn : Fin 64) (h : Nat) (off : Nat) (acc : RegAccess) (v : BitVec 64) (hk : Keeps s0 s) : Keeps s0 (State.writeHandle s fn h off acc v) := by
  unfold State.writeHandle
  dsimp only
  repeat' first | (with_reducible first | assumption | apply State.setHandle_keeps) | split

theorem State.writeOutMsg_keeps {s0 : State} (s : State) (fn : Fin 64) (n : Nat) (acc : RegAccess) (v : BitVec 64) (hk : Keeps s0 s) : Keeps s0 (State.writeOutMsg s fn n acc v) := by
  unfold State.writeOutMsg
  dsimp only
  repeat' first | (with_reducible first | assumption | apply State.setMailbox_keeps) | split

theorem State.writeMailbox_keeps {s0 : State} (s : State) (fn : Fin 64) (off : Nat) (acc : RegAccess) (v : BitVec 64) (hk : Keeps s0 s) : Keeps s0 (State.writeMailbox s fn off acc v) := by
  unfold State.writeMailbox
  repeat' first | (with_reducible first | assumption | apply State.writeOutMsg_keeps | apply State.setMailbox_keeps) | split

theorem State.writePage_keeps {s0 : State} (s : State) (fn : Fin 64) (off : Nat) (acc : RegAccess) (v : BitVec 64) (hk : Keeps s0 s) : Keeps s0 (State.writePage s fn off acc v) := by
  unfold State.writePage
  repeat' first | (with_reducible first | assumption | apply State.writeMailbox_keeps | apply State.setKeyPort_keeps | apply State.writeHandle_keeps) | split

theorem State.writeW0_keeps {s0 : State} (s : State) (off : Nat) (acc : RegAccess) (v : BitVec 64) (hk : Keeps s0 s) : Keeps s0 (State.writeW0 s off acc v) := by
  unfold State.writeW0
  dsimp only
  repeat' first | (with_reducible first | assumption | apply State.writePage_keeps | apply State.writeChCtrl_keeps) | split

theorem State.writeW2_keeps {s0 : State} (s : State) (off : Nat) (acc : RegAccess) (v : BitVec 64) (hk : Keeps s0 s) : Keeps s0 (State.writeW2 s off acc v) := by
  unfold State.writeW2
  dsimp only
  repeat' first | (with_reducible first | assumption | apply State.setSlot_keeps | apply State.dwGo_keeps) | split

theorem State.writeW4_keeps {s0 : State} (s : State) (fn : Fin 64) (off : Nat) (acc : RegAccess) (v : BitVec 64) (hk : Keeps s0 s) : Keeps s0 (State.writeW4 s fn off acc v) := by
  unfold State.writeW4
  dsimp only
  repeat' first | (with_reducible first | assumption | apply State.maskVector_keeps) | (simp only [keeps_mk]; refine keeps_upd ?_) | split

theorem execDwRead_keeps {s0 : State} (slot : Fin 8) (irq : Bool) (s : State) (hk : Keeps s0 s) : KeepsOut s0 (execDwRead slot irq s) := by
  refine keepsOut_next ?_
  repeat' first | (with_reducible first | assumption | apply State.dwGo_keeps) | split

theorem execDwReadShadow_keeps {s0 : State} (slot : Fin 8) (irq : Bool) (s : State) (hk : Keeps s0 s) : KeepsOut s0 (execDwReadShadow slot irq s) := by
  refine keepsOut_next ?_
  repeat' first | (with_reducible first | assumption | apply State.dwGo_keeps) | split

theorem execDwWrite_keeps {s0 : State} (slot : Fin 8) (irq : Bool) (s : State) (hk : Keeps s0 s) : KeepsOut s0 (execDwWrite slot irq s) := by
  refine keepsOut_next ?_
  repeat' first | (with_reducible first | assumption | apply State.dwGo_keeps) | split

theorem execDwRequestDone_keeps {s0 : State} (slot : Fin 8) (s : State) (hk : Keeps s0 s) : KeepsOut s0 (execDwRequestDone slot s) := by
  refine keepsOut_next ?_
  repeat' first | (with_reducible first | assumption | apply State.setSlot_keeps | apply State.raiseVector_keeps) | split

theorem execRegisterWrite_keeps {s0 : State} (fn : Fin 64) (win : Window) (off : Nat) (acc : RegAccess) (v : BitVec 64) (s : State) (hk : Keeps s0 s) : KeepsOut s0 (execRegisterWrite fn win off acc v s) := by
  refine keepsOut_next ?_
  repeat' first | (with_reducible first | assumption | apply State.writeW0_keeps | apply State.writePage_keeps | apply State.writeW2_keeps | apply State.writeW4_keeps | apply State.writeConfig_keeps) | split

/-! ### Tap -/

theorem State.tapTake_keeps {s0 : State} (s : State) (opcode : BitVec 8) (mode : Nat) (pulse : Nat) (hk : Keeps s0 s) : Keeps s0 (State.tapTake s opcode mode pulse) :=
  Keeps.upd hk rfl rfl rfl

theorem State.tapFence_keeps {s0 : State} (s : State) (opcode : BitVec 8) (mode : Nat) (pulse : Nat) (hk : Keeps s0 s) : Keeps s0 (State.tapFence s opcode mode pulse) := by
  unfold State.tapFence
  repeat' first | (with_reducible first | assumption | apply State.tapTake_keeps | apply State.fence_keeps) | (simp only [keeps_mk]; refine keeps_upd ?_) | split

theorem State.tapReset_keeps {s0 : State} (s : State) (hk : Keeps s0 s) : Keeps s0 (State.tapReset s) :=
  State.tapTake_keeps _ _ _ _ hk

theorem execTrstN_keeps {s0 : State} (s : State) (hk : Keeps s0 s) : KeepsOut s0 (execTrstN s) :=
  keepsOut_next (State.tapReset_keeps _ hk)

theorem execExtest_keeps {s0 : State} (s : State) (hk : Keeps s0 s) : KeepsOut s0 (execExtest s) := by
  refine keepsOut_next ?_
  repeat' first | (with_reducible first | assumption | apply State.tapFence_keeps) | split

theorem execIdcode_keeps {s0 : State} (s : State) (hk : Keeps s0 s) : KeepsOut s0 (execIdcode s) := by
  refine keepsOut_next ?_
  repeat' first | (with_reducible first | assumption | apply State.tapTake_keeps) | split

theorem execSamplePreload_keeps {s0 : State} (pins : BitVec 180) (preload : BitVec 180) (s : State) (hk : Keeps s0 s) : KeepsOut s0 (execSamplePreload pins preload s) := by
  refine keepsOut_next ?_
  repeat' first | (with_reducible first | assumption | apply State.tapTake_keeps) | (simp only [keeps_mk]; refine keeps_upd ?_) | split

theorem execHighz_keeps {s0 : State} (s : State) (hk : Keeps s0 s) : KeepsOut s0 (execHighz s) := by
  refine keepsOut_next ?_
  repeat' first | (with_reducible first | assumption | apply State.tapFence_keeps) | split

theorem execClamp_keeps {s0 : State} (s : State) (hk : Keeps s0 s) : KeepsOut s0 (execClamp s) := by
  refine keepsOut_next ?_
  repeat' first | (with_reducible first | assumption | apply State.tapFence_keeps) | split

theorem execExtestPulse_keeps {s0 : State} (s : State) (hk : Keeps s0 s) : KeepsOut s0 (execExtestPulse s) := by
  refine keepsOut_next ?_
  repeat' first | (with_reducible first | assumption | apply State.tapFence_keeps) | split

theorem execExtestTrain_keeps {s0 : State} (s : State) (hk : Keeps s0 s) : KeepsOut s0 (execExtestTrain s) := by
  refine keepsOut_next ?_
  repeat' first | (with_reducible first | assumption | apply State.tapFence_keeps) | split

theorem execBypass_keeps {s0 : State} (opcode : BitVec 8) (s : State) (hk : Keeps s0 s) : KeepsOut s0 (execBypass opcode s) := by
  refine keepsOut_next ?_
  repeat' first | (with_reducible first | assumption | apply State.tapTake_keeps) | split

theorem execTapReset_keeps {s0 : State} (s : State) (hk : Keeps s0 s) : KeepsOut s0 (execTapReset s) := by
  refine keepsOut_next ?_
  repeat' first | (with_reducible first | assumption | apply State.tapReset_keeps) | split

/-! ### HealthRows -/

theorem execTileHangTimeout_keeps {s0 : State} (t : Fin 64) (s : State) (hk : Keeps s0 s) : KeepsOut s0 (execTileHangTimeout t s) := by
  refine keepsOut_next ?_
  repeat' first | (with_reducible first | assumption | apply State.fatal_keeps) | split

theorem execSelftestPart_keeps {s0 : State} (t : Fin 64) (sigOk : Bool) (s : State) (hk : Keeps s0 s) : KeepsOut s0 (execSelftestPart t sigOk s) := by
  refine keepsOut_next ?_
  dsimp only
  repeat' first | (with_reducible first | assumption | apply State.fatal_keeps | apply State.setTile_keeps) | (simp only [keeps_mk]; refine keeps_upd ?_) | split

theorem execSelftestLate_keeps {s0 : State} (t : Fin 64) (s : State) (hk : Keeps s0 s) : KeepsOut s0 (execSelftestLate t s) := by
  refine keepsOut_next ?_
  repeat' first | (with_reducible first | assumption | apply State.setTile_keeps) | split

theorem execHealthEvaluation_keeps {s0 : State} (s : State) (hk : Keeps s0 s) : KeepsOut s0 (execHealthEvaluation s) := by
  refine keepsOut_next ?_
  repeat' first | (with_reducible first | assumption | apply State.setFaults_keeps) | (simp only [keeps_mk]; refine keeps_upd ?_) | split

theorem execMarginCheck_keeps {s0 : State} (mirrorPct : Nat) (hostPct : Nat) (persistPct : Nat) (s : State) (hk : Keeps s0 s) : KeepsOut s0 (execMarginCheck mirrorPct hostPct persistPct s) :=
  keepsOut_next (Keeps.upd hk rfl rfl rfl)

theorem execLinkRetryLimit_keeps {s0 : State} (link : DieLink) (s : State) (hk : Keeps s0 s) : KeepsOut s0 (execLinkRetryLimit link s) := by
  refine keepsOut_next ?_
  repeat' first | (with_reducible first | assumption | apply State.linkLocation_keeps | apply State.fatal_keeps) | (simp only [keeps_mk]; refine keeps_upd ?_) | split

/-! ### Sensors -/

theorem execChannelSample_keeps {s0 : State} (ch : Fin 64) (raw : BitVec 12) (s : State) (hk : Keeps s0 s) : KeepsOut s0 (execChannelSample ch raw s) := by
  refine keepsOut_next ?_
  repeat' split
  all_goals exact Keeps.upd hk rfl rfl rfl

end Sys2Proof.Machine
end

