-- ==== Sys2Proof/Laws/KeepsTiles.lean ====
section
/-! SUPPORT. What the Kumer-48 instructions keep: the queue, the ordering code and the canonical form of memory. -/

namespace Sys2Proof.Machine

/-! ### UnitInstr -/

theorem issueRecord_keeps {s0 : State} (t : Fin 64) (op : Nat) (k : RecordKind) (p : Option (State × Ctx)) (h : KeepsC s0 p) :
    KeepsC s0 (issueRecord t op k p) := by
  unfold issueRecord
  split
  · exact keepsC_none
  · split
    · exact keepsC_none
    · exact keepsC_some (State.setTile_keeps _ _ _ (h.keep _ rfl))

theorem aggregateLane_keeps {s0 : State} (t : Fin 64) (f : BitVec 40) (slots : Nat) (n : Fin 4) (s : State) (c : Ctx) (hk : Keeps s0 s) :
    KeepsEff s0 (aggregateLane t f slots n s c) := by
  have out (k : RecordKind) (c : Ctx) : KeepsEff s0 (match issueRecord t (uOp f) k (some (s, c)) with
      | some (s', c') => .done s' c'
      | none => .fail Status.mergeOverdraw s c) := by
    split
    · exact keepsEff_done ((issueRecord_keeps t (uOp f) k _ (keepsC_some hk)).keep _ ‹_›)
    · exact keepsEff_fail hk
  unfold aggregateLane
  dsimp only
  split
  · exact out _ _
  · split
    · exact keepsEff_done hk
    · split
      · exact keepsEff_done hk
      · split
        · exact keepsEff_done hk
        · exact out _ _

theorem withRegion_keeps {s0 : State} (s : State) (c : Ctx) (a : Word) (parts : List (Nat × Nat)) (k : Effect) (hk : Keeps s0 s)
    (h : KeepsEff s0 k) : KeepsEff s0 (withRegion s c a parts k) := by
  unfold withRegion
  split
  · exact scratchTrap_keeps _ _ _ _ _ hk
  · split
    · exact keepsEff_stall
    · exact h

theorem finishLanes_keeps {s0 : State} (p : Effect) (h : KeepsEff s0 p) : KeepsEff s0 (finishLanes p) := by
  unfold finishLanes
  split
  · exact stepOn_keeps _ _ (h.keep _ rfl)
  · exact h

theorem eachLane_keeps {s0 : State} (lanes : List (Fin 4)) (one : Fin 4 → State → Ctx → Effect) (s : State) (c : Ctx) (hk : Keeps s0 s)
    (h : ∀ n u d, Keeps s0 u → KeepsEff s0 (one n u d)) : KeepsEff s0 (eachLane lanes one s c) := by
  refine keeps_foldl_Eff (fun p n hp => ?_) (keepsEff_done hk)
  split
  · exact h _ _ _ (hp.keep _ rfl)
  · exact hp

theorem aggregateLanes_keeps {s0 : State} (t : Fin 64) (f : BitVec 40) (s : State) (c : Ctx) (e : WorkEntry) (img : Image) (hk : Keeps s0 s) : KeepsEff s0 (aggregateLanes t f s c e img) := by
  unfold aggregateLanes
  repeat' first | (with_reducible first | assumption | apply withRegion_keeps | apply stepOn_keeps | apply finishLanes_keeps | apply eachLane_keeps | apply aggregateLane_keeps | apply keepsEff_done | apply keepsEff_trap | apply keepsEff_wait | apply keepsEff_fail | exact keepsEff_stall) | split

theorem useTable_keeps {s0 : State} (s : State) (c : Ctx) (e : WorkEntry) (img : Image) (op : Nat) (k : KmaTable → Effect) (hk : Keeps s0 s)
    (h : ∀ tb, KeepsEff s0 (k tb)) : KeepsEff s0 (useTable s c e img op k) := by
  unfold useTable
  split
  · exact keepsEff_fail hk
  · split
    · exact keepsEff_fail hk
    · exact h _

theorem searchWith_keeps {s0 : State} (lanes : List (Fin 4)) (op : Nat) (s : State) (c : Ctx) (e : WorkEntry) (img : Image)
    (one : KmaTable → Fin 4 → State → Ctx → Effect) (hk : Keeps s0 s) (h : ∀ tb n u d, Keeps s0 u → KeepsEff s0 (one tb n u d)) :
    KeepsEff s0 (searchWith lanes op s c e img one) := by
  unfold searchWith
  split
  · exact stepOn_keeps _ _ hk
  · exact useTable_keeps _ _ _ _ _ _ hk fun tb => finishLanes_keeps _ (eachLane_keeps _ _ _ _ hk (h tb))

theorem searchOne_keeps {s0 : State} (t : Fin 64) (tb : KmaTable) (key : DWord) (base : Nat) (record : List Match → Bool → List Word) (s : State) (c : Ctx) (hk : Keeps s0 s) : KeepsEff s0 (searchOne t tb key base record s c) := by
  unfold searchOne
  dsimp only
  repeat' first | (with_reducible first | assumption | apply State.verify_keeps | apply keepsEff_done | apply keepsEff_trap | apply keepsEff_wait | apply keepsEff_fail | exact keepsEff_stall) | split

theorem continueLanes_keeps {s0 : State} (t : Fin 64) (f : BitVec 40) (s : State) (c : Ctx) (e : WorkEntry) (img : Image) (hk : Keeps s0 s) : KeepsEff s0 (continueLanes t f s c e img) := by
  unfold continueLanes
  try dsimp only
  repeat' first | intro _ | (with_reducible first | assumption | apply withRegion_keeps | apply searchWith_keeps | apply searchOne_keeps | apply keepsEff_done | apply keepsEff_trap | apply keepsEff_wait | apply keepsEff_fail | exact keepsEff_stall | apply keeps_foldl) | split

theorem openSel_keeps {s0 : State} (s : State) (e : WorkEntry) (img : Image) (c : Ctx) (sel : Nat) (load : Bool) (store : Bool) (k : Effect)
    (hs : Keeps s0 s) (hk : KeepsEff s0 k) : KeepsEff s0 (openSel s e img c sel load store k) := by
  unfold openSel
  dsimp only
  split
  · exact segTrap_keeps _ _ _ _ _ _ hs
  · exact segTrap_keeps _ _ _ _ _ _ hs
  · exact hk

theorem deliverRun_keeps {s0 : State} (f : BitVec 40) (s : State) (c : Ctx) (e : WorkEntry) (img : Image) (hk : Keeps s0 s) : KeepsEff s0 (deliverRun f s c e img) := by
  unfold deliverRun
  try dsimp only
  repeat' first | intro _ | (with_reducible first | assumption | apply scratchTrap_keeps | apply openSel_keeps | apply withLines_keeps | apply stepOn_keeps | apply State.updEntry_keeps | apply keepsEff_done | apply keepsEff_trap | apply keepsEff_wait | apply keepsEff_fail | exact keepsEff_stall | apply keeps_foldl) | split

theorem drainStep_keeps {s0 : State} (f : BitVec 40) (s : State) (c : Ctx) (e : WorkEntry) (img : Image) (hk : Keeps s0 s) : KeepsEff s0 (drainStep f s c e img) := by
  unfold drainStep
  try dsimp only
  repeat' first | intro _ | (with_reducible first | assumption | apply withRegion_keeps | apply useTable_keeps | apply State.readEntry_keeps | apply stepOn_keeps | apply keepsEff_done | apply keepsEff_trap | apply keepsEff_wait | apply keepsEff_fail | exact keepsEff_stall | apply keeps_foldl) | split

theorem searchLanes_keeps {s0 : State} (t : Fin 64) (f : BitVec 40) (s : State) (c : Ctx) (e : WorkEntry) (img : Image) (hk : Keeps s0 s) : KeepsEff s0 (searchLanes t f s c e img) := by
  unfold searchLanes
  try dsimp only
  repeat' first | intro _ | (with_reducible first | assumption | apply withRegion_keeps | apply searchWith_keeps | apply searchOne_keeps | apply keepsEff_done | apply keepsEff_trap | apply keepsEff_wait | apply keepsEff_fail | exact keepsEff_stall | apply keeps_foldl) | split

theorem execKsrch_keeps {s0 : State} (t : Fin 64) (f : BitVec 40) (s : State) (hk : Keeps s0 s) : KeepsOut s0 (execKsrch t f s) :=
  keepsOut_next (runInstr_keeps _ _ _ _ _ _ hk fun _ _ _ _ h => searchLanes_keeps _ _ _ _ _ _ h)

theorem execKcont_keeps {s0 : State} (t : Fin 64) (f : BitVec 40) (s : State) (hk : Keeps s0 s) : KeepsOut s0 (execKcont t f s) :=
  keepsOut_next (runInstr_keeps _ _ _ _ _ _ hk fun _ _ _ _ h => continueLanes_keeps _ _ _ _ _ _ h)

theorem wholeOrNothing_keeps {s0 : State} (s : State) (c : Ctx) (p : Effect) (hs : Keeps s0 s) (hk : KeepsEff s0 p) :
    KeepsEff s0 (wholeOrNothing s c p) := by
  unfold wholeOrNothing
  split
  · exact keepsEff_trap hs
  · exact keepsEff_wait hs
  · exact hk

theorem insertLane_keeps {s0 : State} (t : Fin 64) (f : BitVec 40) (e : WorkEntry) (img : Image) (npay : Nat) (n : Fin 4) (s : State) (c : Ctx)
    (hk : Keeps s0 s) : KeepsEff s0 (insertLane t f e img npay n s c) := by
  have put (k : RecordKind) (s : State) (c : Ctx) (hs : Keeps s0 s) : KeepsEff s0 (match issueRecord t (uOp f) k (some (s, c)) with
      | some (s', c') => .done s' c'
      | none => .fail Status.mergeOverdraw s c) := by
    split
    · exact keepsEff_done ((issueRecord_keeps t (uOp f) k _ (keepsC_some hs)).keep _ ‹_›)
    · exact keepsEff_fail hs
  unfold insertLane
  dsimp only
  split
  · exact keepsEff_fail hk
  · split
    · split
      · exact put _ _ _ hk
      · exact keepsEff_done hk
      · exact keepsEff_fail hk
      · exact segTrap_keeps _ _ _ _ _ _ hk
      · exact keepsEff_wait hk
    · exact put _ _ _ hk

theorem insertLanes_keeps {s0 : State} (t : Fin 64) (f : BitVec 40) (s : State) (c : Ctx) (e : WorkEntry) (img : Image) (hk : Keeps s0 s) : KeepsEff s0 (insertLanes t f s c e img) := by
  unfold insertLanes
  repeat' first | (with_reducible first | assumption | apply withRegion_keeps | apply stepOn_keeps | apply wholeOrNothing_keeps | apply finishLanes_keeps | apply eachLane_keeps | apply insertLane_keeps | apply keepsEff_done | apply keepsEff_trap | apply keepsEff_wait | apply keepsEff_fail | exact keepsEff_stall) | split

theorem execKins_keeps {s0 : State} (t : Fin 64) (f : BitVec 40) (s : State) (hk : Keeps s0 s) : KeepsOut s0 (execKins t f s) :=
  keepsOut_next (runInstr_keeps _ _ _ _ _ _ hk fun _ _ _ _ h => insertLanes_keeps _ _ _ _ _ _ h)

theorem execKagg_keeps {s0 : State} (t : Fin 64) (f : BitVec 40) (s : State) (hk : Keeps s0 s) : KeepsOut s0 (execKagg t f s) :=
  keepsOut_next (runInstr_keeps _ _ _ _ _ _ hk fun _ _ _ _ h => aggregateLanes_keeps _ _ _ _ _ _ h)

theorem execKdrn_keeps {s0 : State} (t : Fin 64) (f : BitVec 40) (s : State) (hk : Keeps s0 s) : KeepsOut s0 (execKdrn t f s) :=
  keepsOut_next (runInstr_keeps _ _ _ _ _ _ hk fun _ _ _ _ h => drainStep_keeps _ _ _ _ _ h)

theorem formRun_keeps {s0 : State} (f : BitVec 40) (s : State) (c : Ctx) (e : WorkEntry) (img : Image) (hk : Keeps s0 s) : KeepsEff s0 (formRun f s c e img) := by
  unfold formRun
  try dsimp only
  repeat' first | intro _ | (with_reducible first | assumption | apply withRegion_keeps | apply openSel_keeps | apply stepOn_keeps | apply withStores_keeps | apply State.updEntry_keeps | apply keepsEff_done | apply keepsEff_trap | apply keepsEff_wait | apply keepsEff_fail | exact keepsEff_stall | apply keeps_foldl) | split

theorem execSrun_keeps {s0 : State} (t : Fin 64) (f : BitVec 40) (s : State) (hk : Keeps s0 s) : KeepsOut s0 (execSrun t f s) :=
  keepsOut_next (runInstr_keeps _ _ _ _ _ _ hk fun _ _ _ _ h => formRun_keeps _ _ _ _ _ h)

theorem mergeRuns_keeps {s0 : State} (f : BitVec 40) (s : State) (c : Ctx) (e : WorkEntry) (img : Image) (hk : Keeps s0 s) : KeepsEff s0 (mergeRuns f s c e img) := by
  unfold mergeRuns
  try dsimp only
  repeat' first | intro _ | (with_reducible first | assumption | apply withRegion_keeps | apply openSel_keeps | apply stepOn_keeps | apply withLines_keeps | apply withStores_keeps | apply State.updEntry_keeps | apply keepsEff_done | apply keepsEff_trap | apply keepsEff_wait | apply keepsEff_fail | exact keepsEff_stall | apply keeps_foldl) | split

theorem execSmrg_keeps {s0 : State} (t : Fin 64) (f : BitVec 40) (s : State) (hk : Keeps s0 s) : KeepsOut s0 (execSmrg t f s) :=
  keepsOut_next (runInstr_keeps _ _ _ _ _ _ hk fun _ _ _ _ h => mergeRuns_keeps _ _ _ _ _ h)

theorem execSdlv_keeps {s0 : State} (t : Fin 64) (f : BitVec 40) (s : State) (hk : Keeps s0 s) : KeepsOut s0 (execSdlv t f s) :=
  keepsOut_next (runInstr_keeps _ _ _ _ _ _ hk fun _ _ _ _ h => deliverRun_keeps _ _ _ _ _ h)

theorem openSelTarget_keeps {s0 : State} (s : State) (e : WorkEntry) (img : Image) (c : Ctx) (sel : Nat) (k : Effect)
    (hs : Keeps s0 s) (hk : KeepsEff s0 k) : KeepsEff s0 (openSelTarget s e img c sel k) := by
  unfold openSelTarget
  split
  · exact hk
  · exact openSel_keeps _ _ _ _ _ _ _ _ hs hk

theorem handOff_keeps {s0 : State} (t : Fin 64) (f : BitVec 40) (s : State) (c : Ctx) (e : WorkEntry) (img : Image) (hk : Keeps s0 s) : KeepsEff s0 (handOff t f s c e img) := by
  unfold handOff
  dsimp only
  repeat' first | (with_reducible first | assumption | apply withRegion_keeps | apply stepOn_keeps | apply openSelTarget_keeps | apply State.updEntry_keeps | apply State.fresh_keeps | apply State.setTile_keeps | apply State.appendHead_keeps | apply keepsEff_done | apply keepsEff_trap | apply keepsEff_wait | apply keepsEff_fail | exact keepsEff_stall) | split

theorem execChand_keeps {s0 : State} (t : Fin 64) (f : BitVec 40) (s : State) (hk : Keeps s0 s) : KeepsOut s0 (execChand t f s) :=
  keepsOut_next (runInstr_keeps _ _ _ _ _ _ hk fun _ _ _ _ h => handOff_keeps _ _ _ _ _ _ h)

/-! ### Address -/

theorem branch_keeps {s0 : State} (t : Fin 64) (op : BitVec 8) (f : BitVec 40) (wellFormed : Bool) (taken : Ctx → Bool) (s : State) (hk : Keeps s0 s) : Keeps s0 (branch t op f wellFormed taken s) := by
  unfold branch
  try dsimp only
  repeat' first | intro _ | (with_reducible first | assumption | apply runInstr_keeps | apply branchTo_keeps | apply stepOn_keeps | apply keepsEff_done | apply keepsEff_trap | apply keepsEff_wait | apply keepsEff_fail | exact keepsEff_stall | apply keeps_foldl) | split

theorem simple_keeps {s0 : State} (t : Fin 64) (op : BitVec 8) (f : BitVec 40) (wellFormed : Bool) (sem : Ctx → Ctx) (s : State) (hk : Keeps s0 s) : Keeps s0 (simple t op f wellFormed sem s) := by
  unfold simple
  try dsimp only
  repeat' first | intro _ | (with_reducible first | assumption | apply runInstr_keeps | apply stepOn_keeps | apply keepsEff_done | apply keepsEff_trap | apply keepsEff_wait | apply keepsEff_fail | exact keepsEff_stall | apply keeps_foldl) | split

theorem execMova_keeps {s0 : State} (t : Fin 64) (f : BitVec 40) (s : State) (hk : Keeps s0 s) : KeepsOut s0 (execMova t f s) :=
  keepsOut_next (simple_keeps _ _ _ _ _ _ hk)

theorem execMovi_keeps {s0 : State} (t : Fin 64) (f : BitVec 40) (s : State) (hk : Keeps s0 s) : KeepsOut s0 (execMovi t f s) :=
  keepsOut_next (simple_keeps _ _ _ _ _ _ hk)

theorem execMovh_keeps {s0 : State} (t : Fin 64) (f : BitVec 40) (s : State) (hk : Keeps s0 s) : KeepsOut s0 (execMovh t f s) :=
  keepsOut_next (simple_keeps _ _ _ _ _ _ hk)

theorem execAdda_keeps {s0 : State} (t : Fin 64) (f : BitVec 40) (s : State) (hk : Keeps s0 s) : KeepsOut s0 (execAdda t f s) :=
  keepsOut_next (simple_keeps _ _ _ _ _ _ hk)

theorem execAddai_keeps {s0 : State} (t : Fin 64) (f : BitVec 40) (s : State) (hk : Keeps s0 s) : KeepsOut s0 (execAddai t f s) :=
  keepsOut_next (simple_keeps _ _ _ _ _ _ hk)

theorem execSuba_keeps {s0 : State} (t : Fin 64) (f : BitVec 40) (s : State) (hk : Keeps s0 s) : KeepsOut s0 (execSuba t f s) :=
  keepsOut_next (simple_keeps _ _ _ _ _ _ hk)

theorem execNega_keeps {s0 : State} (t : Fin 64) (f : BitVec 40) (s : State) (hk : Keeps s0 s) : KeepsOut s0 (execNega t f s) :=
  keepsOut_next (simple_keeps _ _ _ _ _ _ hk)

theorem execShla_keeps {s0 : State} (t : Fin 64) (f : BitVec 40) (s : State) (hk : Keeps s0 s) : KeepsOut s0 (execShla t f s) :=
  keepsOut_next (simple_keeps _ _ _ _ _ _ hk)

theorem execShra_keeps {s0 : State} (t : Fin 64) (f : BitVec 40) (s : State) (hk : Keeps s0 s) : KeepsOut s0 (execShra t f s) :=
  keepsOut_next (simple_keeps _ _ _ _ _ _ hk)

theorem execSara_keeps {s0 : State} (t : Fin 64) (f : BitVec 40) (s : State) (hk : Keeps s0 s) : KeepsOut s0 (execSara t f s) :=
  keepsOut_next (simple_keeps _ _ _ _ _ _ hk)

theorem execShlai_keeps {s0 : State} (t : Fin 64) (f : BitVec 40) (s : State) (hk : Keeps s0 s) : KeepsOut s0 (execShlai t f s) :=
  keepsOut_next (simple_keeps _ _ _ _ _ _ hk)

theorem execShrai_keeps {s0 : State} (t : Fin 64) (f : BitVec 40) (s : State) (hk : Keeps s0 s) : KeepsOut s0 (execShrai t f s) :=
  keepsOut_next (simple_keeps _ _ _ _ _ _ hk)

theorem execSarai_keeps {s0 : State} (t : Fin 64) (f : BitVec 40) (s : State) (hk : Keeps s0 s) : KeepsOut s0 (execSarai t f s) :=
  keepsOut_next (simple_keeps _ _ _ _ _ _ hk)

theorem execBra_keeps {s0 : State} (t : Fin 64) (f : BitVec 40) (s : State) (hk : Keeps s0 s) : KeepsOut s0 (execBra t f s) :=
  keepsOut_next (branch_keeps _ _ _ _ _ _ hk)

theorem execBrai_keeps {s0 : State} (t : Fin 64) (f : BitVec 40) (s : State) (hk : Keeps s0 s) : KeepsOut s0 (execBrai t f s) :=
  keepsOut_next (branch_keeps _ _ _ _ _ _ hk)

theorem execJmp_keeps {s0 : State} (t : Fin 64) (f : BitVec 40) (s : State) (hk : Keeps s0 s) : KeepsOut s0 (execJmp t f s) :=
  keepsOut_next (branch_keeps _ _ _ _ _ _ hk)

theorem execCall_keeps {s0 : State} (t : Fin 64) (f : BitVec 40) (s : State) (hk : Keeps s0 s) : KeepsOut s0 (execCall t f s) :=
  keepsOut_next (runInstr_keeps _ _ _ _ _ _ hk fun _ _ _ _ h => branchTo_keeps _ _ _ _ h)

theorem execJmpr_keeps {s0 : State} (t : Fin 64) (f : BitVec 40) (s : State) (hk : Keeps s0 s) : KeepsOut s0 (execJmpr t f s) := by
  refine keepsOut_next ?_
  try dsimp only
  repeat' first | intro _ | (with_reducible first | assumption | apply runInstr_keeps | apply branchTo_keeps | apply keepsEff_done | apply keepsEff_trap | apply keepsEff_wait | apply keepsEff_fail | exact keepsEff_stall | apply keeps_foldl) | split

theorem execFtime_keeps {s0 : State} (t : Fin 64) (f : BitVec 40) (s : State) (hk : Keeps s0 s) : KeepsOut s0 (execFtime t f s) :=
  keepsOut_next (runInstr_keeps _ _ _ _ _ _ hk fun _ _ _ _ h => stepOn_keeps _ _ h)

/-! ### BlockRepeat -/

theorem decodeTrap_keeps {s0 : State} (status : Nat) (addr : Word) (s : State) (c : Ctx) (hk : Keeps s0 s) : KeepsEff s0 (decodeTrap status addr s c) := by
  unfold decodeTrap
  repeat' first | (with_reducible first | assumption | apply keepsEff_done | apply keepsEff_trap | apply keepsEff_wait | apply keepsEff_fail | exact keepsEff_stall) | split

theorem endRepeat_keeps {s0 : State} (x : Effect) (hk : KeepsEff s0 x) : KeepsEff s0 (endRepeat x) := by
  unfold endRepeat
  split
  · exact keepsEff_done (hk.keep _ rfl)
  · exact keepsEff_trap (hk.keep _ rfl)
  · exact hk

theorem repeatLoop_keeps {s0 : State} (one : State → Ctx → (State × Ctx) ⊕ Effect) (n : Nat) (s : State) (c : Ctx) (hk : Keeps s0 s)
    (h : ∀ u d, Keeps s0 u → KeepsS s0 (one u d)) : KeepsEff s0 (repeatLoop one n s c) := by
  induction n generalizing s c with
  | zero => exact stepOn_keeps _ _ hk
  | succ n ih =>
    unfold repeatLoop
    split
    · exact ih _ _ ((h s c hk).goes _ ‹_›)
    · exact (h s c hk).ends _ ‹_›

theorem repeatRun_keeps {s0 : State} (one : State → Ctx → (State × Ctx) ⊕ Effect) (limit : Nat) (s : State) (c : Ctx) (hk : Keeps s0 s)
    (h : ∀ u d, Keeps s0 u → KeepsS s0 (one u d)) : KeepsEff s0 (repeatRun one limit s c) :=
  endRepeat_keeps _ (repeatLoop_keeps _ _ _ _ hk h)

theorem lgetOne_keeps {s0 : State} (f : BitVec 40) (e : WorkEntry) (img : Image) (s : State) (c : Ctx) (hk : Keeps s0 s) : KeepsS s0 (lgetOne f e img s c) := by
  unfold lgetOne
  try dsimp only
  repeat' first | intro _ | (with_reducible first | assumption | apply stepOn_keeps | apply scratchTrap_keeps | apply segTrap_keeps | apply withLines_keeps | apply keeps_foldl | apply keeps_foldl_fst | apply keeps_foldl_snd | apply keepsEff_done | apply keepsEff_trap | apply keepsEff_wait | apply keepsEff_fail | exact keepsEff_stall | apply keeps_foldl_Eff | apply keepsS_inl | apply keepsS_inr) | (simp only [keeps_mk]; refine keeps_upd ?_) | split | (with_reducible first | refine keeps_fst ‹_ = (_, _)› ?_ | refine keeps_snd ‹_ = (_, _)› ?_ | refine keeps_ok ‹_ = Except.ok _› ?_ | refine keeps_some ‹_ = some _› ?_ | refine keeps_someC ‹_ = some (_, _)› ?_ | refine keeps_inl ‹_ = Sum.inl _› ?_ | refine keeps_inr ‹_ = Sum.inr _› ?_ | exact KeepsE.keep ‹KeepsE _ (Except.ok _)› _ rfl | exact KeepsO.keep ‹KeepsO _ (some _)› _ rfl | exact KeepsC.keep ‹KeepsC _ (some _)› _ rfl | exact KeepsEff.keep ‹KeepsEff _ (Effect.done _ _)› _ rfl | refine keeps_of_done ‹_ = Effect.done _ _› ?_)

theorem execLget_keeps {s0 : State} (t : Fin 64) (f : BitVec 40) (s : State) (hk : Keeps s0 s) : KeepsOut s0 (execLget t f s) := by
  refine keepsOut_next ?_
  try dsimp only
  repeat' first | intro _ | (with_reducible first | assumption | apply runInstr_keeps | apply repeatRun_keeps | apply lgetOne_keeps | apply keepsEff_done | apply keepsEff_trap | apply keepsEff_wait | apply keepsEff_fail | exact keepsEff_stall | apply keeps_foldl) | split

theorem lputOne_keeps {s0 : State} (f : BitVec 40) (e : WorkEntry) (img : Image) (s : State) (c : Ctx) (hk : Keeps s0 s) : KeepsS s0 (lputOne f e img s c) := by
  unfold lputOne
  try dsimp only
  repeat' first | intro _ | (with_reducible first | assumption | apply stepOn_keeps | apply scratchTrap_keeps | apply segTrap_keeps | apply withStores_keeps | apply keeps_foldl | apply keeps_foldl_fst | apply keeps_foldl_snd | apply keepsEff_done | apply keepsEff_trap | apply keepsEff_wait | apply keepsEff_fail | exact keepsEff_stall | apply keeps_foldl_Eff | apply keepsS_inl | apply keepsS_inr) | (simp only [keeps_mk]; refine keeps_upd ?_) | split | (with_reducible first | refine keeps_fst ‹_ = (_, _)› ?_ | refine keeps_snd ‹_ = (_, _)› ?_ | refine keeps_ok ‹_ = Except.ok _› ?_ | refine keeps_some ‹_ = some _› ?_ | refine keeps_someC ‹_ = some (_, _)› ?_ | refine keeps_inl ‹_ = Sum.inl _› ?_ | refine keeps_inr ‹_ = Sum.inr _› ?_ | exact KeepsE.keep ‹KeepsE _ (Except.ok _)› _ rfl | exact KeepsO.keep ‹KeepsO _ (some _)› _ rfl | exact KeepsC.keep ‹KeepsC _ (some _)› _ rfl | exact KeepsEff.keep ‹KeepsEff _ (Effect.done _ _)› _ rfl | refine keeps_of_done ‹_ = Effect.done _ _› ?_)

theorem execLput_keeps {s0 : State} (t : Fin 64) (f : BitVec 40) (s : State) (hk : Keeps s0 s) : KeepsOut s0 (execLput t f s) := by
  refine keepsOut_next ?_
  try dsimp only
  repeat' first | intro _ | (with_reducible first | assumption | apply runInstr_keeps | apply repeatRun_keeps | apply lputOne_keeps | apply keepsEff_done | apply keepsEff_trap | apply keepsEff_wait | apply keepsEff_fail | exact keepsEff_stall | apply keeps_foldl) | split

theorem pfillOne_keeps {s0 : State} (f : BitVec 40) (s : State) (c : Ctx) (hk : Keeps s0 s) : KeepsS s0 (pfillOne f s c) := by
  unfold pfillOne
  dsimp only
  repeat' first | (with_reducible first | assumption | apply stepOn_keeps | apply scratchTrap_keeps | apply keepsEff_done | apply keepsEff_trap | apply keepsEff_wait | apply keepsEff_fail | exact keepsEff_stall | apply keepsS_inl | apply keepsS_inr) | split

theorem execPfill_keeps {s0 : State} (t : Fin 64) (f : BitVec 40) (s : State) (hk : Keeps s0 s) : KeepsOut s0 (execPfill t f s) := by
  refine keepsOut_next ?_
  try dsimp only
  repeat' first | intro _ | (with_reducible first | assumption | apply runInstr_keeps | apply repeatRun_keeps | apply pfillOne_keeps | apply keepsEff_done | apply keepsEff_trap | apply keepsEff_wait | apply keepsEff_fail | exact keepsEff_stall | apply keeps_foldl) | split

theorem wcmpOne_keeps {s0 : State} (f : BitVec 40) (s : State) (c : Ctx) (hk : Keeps s0 s) : KeepsS s0 (wcmpOne f s c) := by
  unfold wcmpOne
  dsimp only
  repeat' first | (with_reducible first | assumption | apply scratchTrap_keeps | apply stepOn_keeps | apply keepsEff_done | apply keepsEff_trap | apply keepsEff_wait | apply keepsEff_fail | exact keepsEff_stall | apply keepsS_inl | apply keepsS_inr) | split

theorem execWcmp_keeps {s0 : State} (t : Fin 64) (f : BitVec 40) (s : State) (hk : Keeps s0 s) : KeepsOut s0 (execWcmp t f s) := by
  refine keepsOut_next ?_
  try dsimp only
  repeat' first | intro _ | (with_reducible first | assumption | apply runInstr_keeps | apply stepOn_keeps | apply repeatRun_keeps | apply wcmpOne_keeps | apply keepsEff_done | apply keepsEff_trap | apply keepsEff_wait | apply keepsEff_fail | exact keepsEff_stall | apply keeps_foldl) | split

theorem scanLines_keeps {s0 : State} (e : WorkEntry) (img : Image) (lines : List Word) (s : State) (c : Ctx) (k : State → Effect)
    (hk : Keeps s0 s) (h : ∀ u, Keeps s0 u → KeepsEff s0 (k u)) : KeepsEff s0 (scanLines e img lines s c k) := by
  unfold scanLines
  split
  · exact segTrap_keeps _ _ _ _ _ _ hk
  · exact withLines_keeps _ _ _ _ _ hk h

theorem scanGroups_keeps {s0 : State} (form : ScanForm) (f : BitVec 40) (e : WorkEntry) (img : Image) (ab : Word) (so : Nat) (slotMa : Nat) (h : PccHeader) (a8 : Nat) (a9 : Nat) (a10 : Nat) (a11 : Word) (a12 : Word) (a13 : State) (a14 : Ctx) (hk : Keeps s0 a13) : KeepsEff s0 (scanGroups form f e img ab so slotMa h a8 a9 a10 a11 a12 a13 a14) := by
  induction a8 generalizing a9 a10 a11 a12 a13 a14 with
  | zero =>
    unfold scanGroups
    try dsimp only
    repeat' first | intro _ | (with_reducible first | assumption | apply stepOn_keeps | apply scratchTrap_keeps | apply scanLines_keeps | apply decodeTrap_keeps | apply keeps_foldl | apply keeps_foldl_fst | apply keeps_foldl_snd | apply keepsEff_done | apply keepsEff_trap | apply keepsEff_wait | apply keepsEff_fail | exact keepsEff_stall | apply keeps_foldl_Eff) | (simp only [keeps_mk]; refine keeps_upd ?_) | split | (with_reducible first | refine keeps_fst ‹_ = (_, _)› ?_ | refine keeps_snd ‹_ = (_, _)› ?_ | refine keeps_ok ‹_ = Except.ok _› ?_ | refine keeps_some ‹_ = some _› ?_ | refine keeps_someC ‹_ = some (_, _)› ?_ | refine keeps_inl ‹_ = Sum.inl _› ?_ | refine keeps_inr ‹_ = Sum.inr _› ?_ | exact KeepsE.keep ‹KeepsE _ (Except.ok _)› _ rfl | exact KeepsO.keep ‹KeepsO _ (some _)› _ rfl | exact KeepsC.keep ‹KeepsC _ (some _)› _ rfl | exact KeepsEff.keep ‹KeepsEff _ (Effect.done _ _)› _ rfl | refine keeps_of_done ‹_ = Effect.done _ _› ?_)
  | succ n ih =>
    unfold scanGroups
    try dsimp only
    repeat' first | intro _ | (with_reducible first | assumption | apply ih | apply stepOn_keeps | apply scratchTrap_keeps | apply scanLines_keeps | apply decodeTrap_keeps | apply keeps_foldl | apply keeps_foldl_fst | apply keeps_foldl_snd | apply keepsEff_done | apply keepsEff_trap | apply keepsEff_wait | apply keepsEff_fail | exact keepsEff_stall | apply keeps_foldl_Eff) | (simp only [keeps_mk]; refine keeps_upd ?_) | split | (with_reducible first | refine keeps_fst ‹_ = (_, _)› ?_ | refine keeps_snd ‹_ = (_, _)› ?_ | refine keeps_ok ‹_ = Except.ok _› ?_ | refine keeps_some ‹_ = some _› ?_ | refine keeps_someC ‹_ = some (_, _)› ?_ | refine keeps_inl ‹_ = Sum.inl _› ?_ | refine keeps_inr ‹_ = Sum.inr _› ?_ | exact KeepsE.keep ‹KeepsE _ (Except.ok _)› _ rfl | exact KeepsO.keep ‹KeepsO _ (some _)› _ rfl | exact KeepsC.keep ‹KeepsC _ (some _)› _ rfl | exact KeepsEff.keep ‹KeepsEff _ (Effect.done _ _)› _ rfl | refine keeps_of_done ‹_ = Effect.done _ _› ?_)

theorem scanBlock_keeps {s0 : State} (form : ScanForm) (f : BitVec 40) (s : State) (c : Ctx) (e : WorkEntry) (img : Image) (hk : Keeps s0 s) : KeepsEff s0 (scanBlock form f s c e img) := by
  unfold scanBlock
  try dsimp only
  repeat' first | intro _ | (with_reducible first | assumption | apply segTrap_keeps | apply scanLines_keeps | apply decodeTrap_keeps | apply scanGroups_keeps | apply keeps_foldl | apply keeps_foldl_fst | apply keeps_foldl_snd | apply keepsEff_done | apply keepsEff_trap | apply keepsEff_wait | apply keepsEff_fail | exact keepsEff_stall | apply keeps_foldl_Eff) | (simp only [keeps_mk]; refine keeps_upd ?_) | split | (with_reducible first | refine keeps_fst ‹_ = (_, _)› ?_ | refine keeps_snd ‹_ = (_, _)› ?_ | refine keeps_ok ‹_ = Except.ok _› ?_ | refine keeps_some ‹_ = some _› ?_ | refine keeps_someC ‹_ = some (_, _)› ?_ | refine keeps_inl ‹_ = Sum.inl _› ?_ | refine keeps_inr ‹_ = Sum.inr _› ?_ | exact KeepsE.keep ‹KeepsE _ (Except.ok _)› _ rfl | exact KeepsO.keep ‹KeepsO _ (some _)› _ rfl | exact KeepsC.keep ‹KeepsC _ (some _)› _ rfl | exact KeepsEff.keep ‹KeepsEff _ (Effect.done _ _)› _ rfl | refine keeps_of_done ‹_ = Effect.done _ _› ?_)

theorem execDscan_keeps {s0 : State} (t : Fin 64) (f : BitVec 40) (s : State) (hk : Keeps s0 s) : KeepsOut s0 (execDscan t f s) :=
  keepsOut_next (runInstr_keeps _ _ _ _ _ _ hk fun _ _ _ _ h => scanBlock_keeps _ _ _ _ _ _ h)

theorem execDscanf_keeps {s0 : State} (t : Fin 64) (f : BitVec 40) (s : State) (hk : Keeps s0 s) : KeepsOut s0 (execDscanf t f s) :=
  keepsOut_next (runInstr_keeps _ _ _ _ _ _ hk fun _ _ _ _ h => scanBlock_keeps _ _ _ _ _ _ h)

theorem execDscann_keeps {s0 : State} (t : Fin 64) (f : BitVec 40) (s : State) (hk : Keeps s0 s) : KeepsOut s0 (execDscann t f s) :=
  keepsOut_next (runInstr_keeps _ _ _ _ _ _ hk fun _ _ _ _ h => scanBlock_keeps _ _ _ _ _ _ h)

/-! ### Accumulator -/

theorem emulated_keeps {s0 : State} (t : Fin 64) (op : BitVec 8) (f : BitVec 40) (wellFormed : Bool) (sem : Ctx → Ctx) (s : State) (hk : Keeps s0 s) : Keeps s0 (emulated t op f wellFormed sem s) := by
  unfold emulated
  repeat' first | (with_reducible first | assumption | apply State.yieldTile_keeps | apply State.takeTrap_keeps | apply State.tileFail_keeps | apply State.setHead_keeps) | split

theorem execXadd_keeps {s0 : State} (t : Fin 64) (f : BitVec 40) (s : State) (hk : Keeps s0 s) : KeepsOut s0 (execXadd t f s) :=
  keepsOut_next (simple_keeps _ _ _ _ _ _ hk)

theorem execXaddu_keeps {s0 : State} (t : Fin 64) (f : BitVec 40) (s : State) (hk : Keeps s0 s) : KeepsOut s0 (execXaddu t f s) :=
  keepsOut_next (simple_keeps _ _ _ _ _ _ hk)

theorem execXmac_keeps {s0 : State} (t : Fin 64) (f : BitVec 40) (s : State) (hk : Keeps s0 s) : KeepsOut s0 (execXmac t f s) :=
  keepsOut_next (simple_keeps _ _ _ _ _ _ hk)

theorem execXmacu_keeps {s0 : State} (t : Fin 64) (f : BitVec 40) (s : State) (hk : Keeps s0 s) : KeepsOut s0 (execXmacu t f s) :=
  keepsOut_next (simple_keeps _ _ _ _ _ _ hk)

theorem execXmin_keeps {s0 : State} (t : Fin 64) (f : BitVec 40) (s : State) (hk : Keeps s0 s) : KeepsOut s0 (execXmin t f s) :=
  keepsOut_next (simple_keeps _ _ _ _ _ _ hk)

theorem execXmax_keeps {s0 : State} (t : Fin 64) (f : BitVec 40) (s : State) (hk : Keeps s0 s) : KeepsOut s0 (execXmax t f s) :=
  keepsOut_next (simple_keeps _ _ _ _ _ _ hk)

theorem execXcnt_keeps {s0 : State} (t : Fin 64) (f : BitVec 40) (s : State) (hk : Keeps s0 s) : KeepsOut s0 (execXcnt t f s) :=
  keepsOut_next (simple_keeps _ _ _ _ _ _ hk)

theorem execXfromd_keeps {s0 : State} (t : Fin 64) (f : BitVec 40) (s : State) (hk : Keeps s0 s) : KeepsOut s0 (execXfromd t f s) :=
  keepsOut_next (simple_keeps _ _ _ _ _ _ hk)

theorem execXtod_keeps {s0 : State} (t : Fin 64) (f : BitVec 40) (s : State) (hk : Keeps s0 s) : KeepsOut s0 (execXtod t f s) :=
  keepsOut_next (simple_keeps _ _ _ _ _ _ hk)

theorem execDivx_keeps {s0 : State} (t : Fin 64) (f : BitVec 40) (s : State) (hk : Keeps s0 s) : KeepsOut s0 (execDivx t f s) :=
  keepsOut_next (emulated_keeps _ _ _ _ _ _ hk)

theorem execDivxu_keeps {s0 : State} (t : Fin 64) (f : BitVec 40) (s : State) (hk : Keeps s0 s) : KeepsOut s0 (execDivxu t f s) :=
  keepsOut_next (emulated_keeps _ _ _ _ _ _ hk)

theorem execRscl_keeps {s0 : State} (t : Fin 64) (f : BitVec 40) (s : State) (hk : Keeps s0 s) : KeepsOut s0 (execRscl t f s) :=
  keepsOut_next (emulated_keeps _ _ _ _ _ _ hk)

theorem execRsclx_keeps {s0 : State} (t : Fin 64) (f : BitVec 40) (s : State) (hk : Keeps s0 s) : KeepsOut s0 (execRsclx t f s) :=
  keepsOut_next (emulated_keeps _ _ _ _ _ _ hk)

/-! ### Control -/

theorem quotaPoint_keeps {s0 : State} (s : State) (t : Fin 64) (c : Ctx) (e : WorkEntry) (beats : Nat) (records : Nat) (hk : Keeps s0 s) : KeepsC s0 (quotaPoint s t c e beats records) := by
  unfold quotaPoint
  dsimp only
  repeat' first | (with_reducible first | assumption | apply State.setTile_keeps | apply keepsC_some | exact keepsC_none) | split

theorem flushGroup_keeps {s0 : State} (t : Fin 64) (op : Nat) (s : State) (c : Ctx) (hk : Keeps s0 s) :
    Keeps s0 (flushGroup t op s c).1 := by
  unfold flushGroup
  split
  · exact hk
  · rename_i g r _
    cases h : issueRecord t op (.group g) (some (s, c.setLocal op r)) with
    | none => exact hk
    | some p => exact (issueRecord_keeps t _ _ _ (keepsC_some (p := (_, _)) hk)).keep _ h

theorem flushLocals_keeps {s0 : State} (t : Fin 64) (e : WorkEntry) (n : Nat) (s : State) (c : Ctx) (hk : Keeps s0 s) :
    Keeps s0 (flushLocals t e n s c).1 := by
  induction n generalizing s c with
  | zero => exact hk
  | succ n ih =>
    unfold flushLocals
    split
    · exact hk
    · split
      · exact hk
      · rename_i s1 c1 hq
        exact ih _ _ (flushGroup_keeps _ _ _ _ ((quotaPoint_keeps s t c e 1 1 hk).keep _ hq))

theorem finishPart_keeps {s0 : State} (s : State) (t : Fin 64) (c : Ctx) (hk : Keeps s0 s) : Keeps s0 (finishPart s t c) := by
  unfold finishPart
  repeat' first | (with_reducible first | assumption | apply State.updEntry_keeps | apply State.setTile_keeps) | split

theorem endInstr_keeps {s0 : State} (t : Fin 64) (s : State) (c : Ctx) (e : WorkEntry) (a4 : Image) (hk : Keeps s0 s) : Keeps s0 (endInstr t s c e a4) := by
  unfold endInstr
  try dsimp only
  repeat' first | intro _ | (with_reducible first | assumption | apply State.tileFail_keeps | apply flushLocals_keeps | apply State.yieldTile_keeps | apply State.setHead_keeps | apply finishPart_keeps | apply keeps_foldl) | (simp only [keeps_mk]; refine keeps_upd ?_) | split | with_reducible refine keeps_fst ‹_ = (_, _)› ?_

theorem runControl_keeps {s0 : State} (t : Fin 64) (w : Word) (reserved : Image → Bool) (sem : State → Ctx → WorkEntry → Image → State)
    (s : State) (hk : Keeps s0 s) (hs : ∀ u c e img, Keeps s0 u → Keeps s0 (sem u c e img)) : Keeps s0 (runControl t w reserved sem s) := by
  unfold runControl
  split
  · exact hk
  · repeat' split
    · exact State.yieldTile_keeps _ _ hk
    · exact State.takeTrap_keeps _ _ _ _ _ _ _ _ hk
    · exact hk
    · exact State.takeTrap_keeps _ _ _ _ _ _ _ _ hk
    · exact hs _ _ _ _ hk

theorem quotaInstr_keeps {s0 : State} (t : Fin 64) (f : BitVec 40) (s : State) (c : Ctx) (e : WorkEntry) (img : Image) (hk : Keeps s0 s) : Keeps s0 (quotaInstr t f s c e img) := by
  unfold quotaInstr
  try dsimp only
  repeat' first | intro _ | (with_reducible first | assumption | apply State.tileFail_keeps | apply State.yieldTile_keeps | apply State.takeTrap_keeps | apply State.tileWaits_keeps | apply quotaPoint_keeps | apply flushGroup_keeps | apply State.setHead_keeps | apply keeps_foldl) | (simp only [keeps_mk]; refine keeps_upd ?_) | split | with_reducible refine keeps_someC ‹_ = some (_, _)› ?_

theorem execQpt_keeps {s0 : State} (t : Fin 64) (f : BitVec 40) (s : State) (hk : Keeps s0 s) : KeepsOut s0 (execQpt t f s) := by
  refine keepsOut_next ?_
  repeat' first | (with_reducible first | assumption | apply runControl_keeps | apply quotaInstr_keeps) | split

theorem execEndStage_keeps {s0 : State} (t : Fin 64) (f : BitVec 40) (s : State) (hk : Keeps s0 s) : KeepsOut s0 (execEndStage t f s) := by
  refine keepsOut_next ?_
  repeat' first | (with_reducible first | assumption | apply runControl_keeps | apply endInstr_keeps) | split

theorem execNop_keeps {s0 : State} (t : Fin 64) (f : BitVec 40) (s : State) (hk : Keeps s0 s) : KeepsOut s0 (execNop t f s) :=
  keepsOut_next (runInstr_keeps _ _ _ _ _ _ hk fun _ _ _ _ h => stepOn_keeps _ _ h)

theorem execBrk_keeps {s0 : State} (t : Fin 64) (f : BitVec 40) (s : State) (hk : Keeps s0 s) : KeepsOut s0 (execBrk t f s) := by
  refine keepsOut_next ?_
  try dsimp only
  repeat' first | intro _ | (with_reducible first | assumption | apply runInstr_keeps | apply stepOn_keeps | apply keepsEff_done | apply keepsEff_trap | apply keepsEff_wait | apply keepsEff_fail | exact keepsEff_stall | apply keeps_foldl) | split

theorem withTrap_keeps {s0 : State} (c : Ctx) (k : TrapRegs → Effect) (h : ∀ r, KeepsEff s0 (k r)) : KeepsEff s0 (withTrap c k) := by
  unfold withTrap
  split
  · exact h _
  · exact keepsEff_stall

theorem execTget_keeps {s0 : State} (t : Fin 64) (f : BitVec 40) (s : State) (hk : Keeps s0 s) : KeepsOut s0 (execTget t f s) := by
  refine keepsOut_next ?_
  try dsimp only
  repeat' first | intro _ | (with_reducible first | assumption | apply runInstr_keeps | apply withTrap_keeps | apply stepOn_keeps | apply keepsEff_done | apply keepsEff_trap | apply keepsEff_wait | apply keepsEff_fail | exact keepsEff_stall | apply keeps_foldl) | split

theorem execTxa_keeps {s0 : State} (t : Fin 64) (f : BitVec 40) (s : State) (hk : Keeps s0 s) : KeepsOut s0 (execTxa t f s) := by
  refine keepsOut_next ?_
  try dsimp only
  repeat' first | intro _ | (with_reducible first | assumption | apply runInstr_keeps | apply withTrap_keeps | apply stepOn_keeps | apply keepsEff_done | apply keepsEff_trap | apply keepsEff_wait | apply keepsEff_fail | exact keepsEff_stall | apply keeps_foldl) | split

theorem execTxd_keeps {s0 : State} (t : Fin 64) (f : BitVec 40) (s : State) (hk : Keeps s0 s) : KeepsOut s0 (execTxd t f s) := by
  refine keepsOut_next ?_
  try dsimp only
  repeat' first | intro _ | (with_reducible first | assumption | apply runInstr_keeps | apply withTrap_keeps | apply stepOn_keeps | apply keepsEff_done | apply keepsEff_trap | apply keepsEff_wait | apply keepsEff_fail | exact keepsEff_stall | apply keeps_foldl) | split

theorem execTretry_keeps {s0 : State} (t : Fin 64) (f : BitVec 40) (s : State) (hk : Keeps s0 s) : KeepsOut s0 (execTretry t f s) := by
  refine keepsOut_next ?_
  try dsimp only
  repeat' first | intro _ | (with_reducible first | assumption | apply runInstr_keeps | apply withTrap_keeps | apply keepsEff_done | apply keepsEff_trap | apply keepsEff_wait | apply keepsEff_fail | exact keepsEff_stall | apply keeps_foldl) | split

theorem execTskip_keeps {s0 : State} (t : Fin 64) (f : BitVec 40) (s : State) (hk : Keeps s0 s) : KeepsOut s0 (execTskip t f s) := by
  refine keepsOut_next ?_
  try dsimp only
  repeat' first | intro _ | (with_reducible first | assumption | apply runInstr_keeps | apply withTrap_keeps | apply keepsEff_done | apply keepsEff_trap | apply keepsEff_wait | apply keepsEff_fail | exact keepsEff_stall | apply keeps_foldl) | split

theorem execTend_keeps {s0 : State} (t : Fin 64) (f : BitVec 40) (s : State) (hk : Keeps s0 s) : KeepsOut s0 (execTend t f s) := by
  refine keepsOut_next ?_
  try dsimp only
  repeat' first | intro _ | (with_reducible first | assumption | apply runInstr_keeps | apply withTrap_keeps | apply keepsEff_done | apply keepsEff_trap | apply keepsEff_wait | apply keepsEff_fail | exact keepsEff_stall | apply keeps_foldl) | split

theorem execUndefinedOpcode_keeps {s0 : State} (t : Fin 64) (w : Word) (s : State) (hk : Keeps s0 s) : KeepsOut s0 (execUndefinedOpcode t w s) := by
  refine keepsOut_next ?_
  try dsimp only
  repeat' first | intro _ | (with_reducible first | assumption | apply runInstr_keeps | apply keepsEff_done | apply keepsEff_trap | apply keepsEff_wait | apply keepsEff_fail | exact keepsEff_stall | apply keeps_foldl) | split

theorem execUnitResultArrival_keeps {s0 : State} (t : Fin 64) (n : Nat) (s : State) (hk : Keeps s0 s) : KeepsOut s0 (execUnitResultArrival t n s) := by
  refine keepsOut_next ?_
  repeat' first | (with_reducible first | assumption | apply State.setHead_keeps) | split

/-! ### DataClass -/

theorem execMovd_keeps {s0 : State} (t : Fin 64) (f : BitVec 40) (s : State) (hk : Keeps s0 s) : KeepsOut s0 (execMovd t f s) :=
  keepsOut_next (simple_keeps _ _ _ _ _ _ hk)

theorem execMovdi_keeps {s0 : State} (t : Fin 64) (f : BitVec 40) (s : State) (hk : Keeps s0 s) : KeepsOut s0 (execMovdi t f s) :=
  keepsOut_next (simple_keeps _ _ _ _ _ _ hk)

theorem execBcst_keeps {s0 : State} (t : Fin 64) (f : BitVec 40) (s : State) (hk : Keeps s0 s) : KeepsOut s0 (execBcst t f s) :=
  keepsOut_next (simple_keeps _ _ _ _ _ _ hk)

theorem execMovad_keeps {s0 : State} (t : Fin 64) (f : BitVec 40) (s : State) (hk : Keeps s0 s) : KeepsOut s0 (execMovad t f s) :=
  keepsOut_next (simple_keeps _ _ _ _ _ _ hk)

theorem execPerm_keeps {s0 : State} (t : Fin 64) (f : BitVec 40) (s : State) (hk : Keeps s0 s) : KeepsOut s0 (execPerm t f s) :=
  keepsOut_next (simple_keeps _ _ _ _ _ _ hk)

theorem execGets_keeps {s0 : State} (t : Fin 64) (f : BitVec 40) (s : State) (hk : Keeps s0 s) : KeepsOut s0 (execGets t f s) :=
  keepsOut_next (simple_keeps _ _ _ _ _ _ hk)

theorem execPuts_keeps {s0 : State} (t : Fin 64) (f : BitVec 40) (s : State) (hk : Keeps s0 s) : KeepsOut s0 (execPuts t f s) :=
  keepsOut_next (simple_keeps _ _ _ _ _ _ hk)

theorem execClrs_keeps {s0 : State} (t : Fin 64) (f : BitVec 40) (s : State) (hk : Keeps s0 s) : KeepsOut s0 (execClrs t f s) :=
  keepsOut_next (simple_keeps _ _ _ _ _ _ hk)

theorem execAdd_keeps {s0 : State} (t : Fin 64) (f : BitVec 40) (s : State) (hk : Keeps s0 s) : KeepsOut s0 (execAdd t f s) :=
  keepsOut_next (simple_keeps _ _ _ _ _ _ hk)

theorem execAddi_keeps {s0 : State} (t : Fin 64) (f : BitVec 40) (s : State) (hk : Keeps s0 s) : KeepsOut s0 (execAddi t f s) :=
  keepsOut_next (simple_keeps _ _ _ _ _ _ hk)

theorem execAdc_keeps {s0 : State} (t : Fin 64) (f : BitVec 40) (s : State) (hk : Keeps s0 s) : KeepsOut s0 (execAdc t f s) :=
  keepsOut_next (simple_keeps _ _ _ _ _ _ hk)

theorem execSub_keeps {s0 : State} (t : Fin 64) (f : BitVec 40) (s : State) (hk : Keeps s0 s) : KeepsOut s0 (execSub t f s) :=
  keepsOut_next (simple_keeps _ _ _ _ _ _ hk)

theorem execSubi_keeps {s0 : State} (t : Fin 64) (f : BitVec 40) (s : State) (hk : Keeps s0 s) : KeepsOut s0 (execSubi t f s) :=
  keepsOut_next (simple_keeps _ _ _ _ _ _ hk)

theorem execNeg_keeps {s0 : State} (t : Fin 64) (f : BitVec 40) (s : State) (hk : Keeps s0 s) : KeepsOut s0 (execNeg t f s) :=
  keepsOut_next (simple_keeps _ _ _ _ _ _ hk)

theorem execCmp_keeps {s0 : State} (t : Fin 64) (f : BitVec 40) (s : State) (hk : Keeps s0 s) : KeepsOut s0 (execCmp t f s) :=
  keepsOut_next (simple_keeps _ _ _ _ _ _ hk)

theorem execCmpi_keeps {s0 : State} (t : Fin 64) (f : BitVec 40) (s : State) (hk : Keeps s0 s) : KeepsOut s0 (execCmpi t f s) :=
  keepsOut_next (simple_keeps _ _ _ _ _ _ hk)

theorem execMul_keeps {s0 : State} (t : Fin 64) (f : BitVec 40) (s : State) (hk : Keeps s0 s) : KeepsOut s0 (execMul t f s) :=
  keepsOut_next (simple_keeps _ _ _ _ _ _ hk)

theorem execMulu_keeps {s0 : State} (t : Fin 64) (f : BitVec 40) (s : State) (hk : Keeps s0 s) : KeepsOut s0 (execMulu t f s) :=
  keepsOut_next (simple_keeps _ _ _ _ _ _ hk)

theorem execMulh_keeps {s0 : State} (t : Fin 64) (f : BitVec 40) (s : State) (hk : Keeps s0 s) : KeepsOut s0 (execMulh t f s) :=
  keepsOut_next (simple_keeps _ _ _ _ _ _ hk)

theorem execMulhu_keeps {s0 : State} (t : Fin 64) (f : BitVec 40) (s : State) (hk : Keeps s0 s) : KeepsOut s0 (execMulhu t f s) :=
  keepsOut_next (simple_keeps _ _ _ _ _ _ hk)

theorem execDiv_keeps {s0 : State} (t : Fin 64) (f : BitVec 40) (s : State) (hk : Keeps s0 s) : KeepsOut s0 (execDiv t f s) :=
  keepsOut_next (simple_keeps _ _ _ _ _ _ hk)

theorem execDivu_keeps {s0 : State} (t : Fin 64) (f : BitVec 40) (s : State) (hk : Keeps s0 s) : KeepsOut s0 (execDivu t f s) :=
  keepsOut_next (simple_keeps _ _ _ _ _ _ hk)

theorem execRem_keeps {s0 : State} (t : Fin 64) (f : BitVec 40) (s : State) (hk : Keeps s0 s) : KeepsOut s0 (execRem t f s) :=
  keepsOut_next (simple_keeps _ _ _ _ _ _ hk)

theorem execRemu_keeps {s0 : State} (t : Fin 64) (f : BitVec 40) (s : State) (hk : Keeps s0 s) : KeepsOut s0 (execRemu t f s) :=
  keepsOut_next (simple_keeps _ _ _ _ _ _ hk)

theorem execAnd_keeps {s0 : State} (t : Fin 64) (f : BitVec 40) (s : State) (hk : Keeps s0 s) : KeepsOut s0 (execAnd t f s) :=
  keepsOut_next (simple_keeps _ _ _ _ _ _ hk)

theorem execOr_keeps {s0 : State} (t : Fin 64) (f : BitVec 40) (s : State) (hk : Keeps s0 s) : KeepsOut s0 (execOr t f s) :=
  keepsOut_next (simple_keeps _ _ _ _ _ _ hk)

theorem execXor_keeps {s0 : State} (t : Fin 64) (f : BitVec 40) (s : State) (hk : Keeps s0 s) : KeepsOut s0 (execXor t f s) :=
  keepsOut_next (simple_keeps _ _ _ _ _ _ hk)

theorem execAndn_keeps {s0 : State} (t : Fin 64) (f : BitVec 40) (s : State) (hk : Keeps s0 s) : KeepsOut s0 (execAndn t f s) :=
  keepsOut_next (simple_keeps _ _ _ _ _ _ hk)

theorem execNot_keeps {s0 : State} (t : Fin 64) (f : BitVec 40) (s : State) (hk : Keeps s0 s) : KeepsOut s0 (execNot t f s) :=
  keepsOut_next (simple_keeps _ _ _ _ _ _ hk)

theorem execAndi_keeps {s0 : State} (t : Fin 64) (f : BitVec 40) (s : State) (hk : Keeps s0 s) : KeepsOut s0 (execAndi t f s) :=
  keepsOut_next (simple_keeps _ _ _ _ _ _ hk)

theorem execOri_keeps {s0 : State} (t : Fin 64) (f : BitVec 40) (s : State) (hk : Keeps s0 s) : KeepsOut s0 (execOri t f s) :=
  keepsOut_next (simple_keeps _ _ _ _ _ _ hk)

theorem execXori_keeps {s0 : State} (t : Fin 64) (f : BitVec 40) (s : State) (hk : Keeps s0 s) : KeepsOut s0 (execXori t f s) :=
  keepsOut_next (simple_keeps _ _ _ _ _ _ hk)

theorem execShl_keeps {s0 : State} (t : Fin 64) (f : BitVec 40) (s : State) (hk : Keeps s0 s) : KeepsOut s0 (execShl t f s) :=
  keepsOut_next (simple_keeps _ _ _ _ _ _ hk)

theorem execShr_keeps {s0 : State} (t : Fin 64) (f : BitVec 40) (s : State) (hk : Keeps s0 s) : KeepsOut s0 (execShr t f s) :=
  keepsOut_next (simple_keeps _ _ _ _ _ _ hk)

theorem execSar_keeps {s0 : State} (t : Fin 64) (f : BitVec 40) (s : State) (hk : Keeps s0 s) : KeepsOut s0 (execSar t f s) :=
  keepsOut_next (simple_keeps _ _ _ _ _ _ hk)

theorem execRol_keeps {s0 : State} (t : Fin 64) (f : BitVec 40) (s : State) (hk : Keeps s0 s) : KeepsOut s0 (execRol t f s) :=
  keepsOut_next (simple_keeps _ _ _ _ _ _ hk)

theorem execRor_keeps {s0 : State} (t : Fin 64) (f : BitVec 40) (s : State) (hk : Keeps s0 s) : KeepsOut s0 (execRor t f s) :=
  keepsOut_next (simple_keeps _ _ _ _ _ _ hk)

theorem execShli_keeps {s0 : State} (t : Fin 64) (f : BitVec 40) (s : State) (hk : Keeps s0 s) : KeepsOut s0 (execShli t f s) :=
  keepsOut_next (simple_keeps _ _ _ _ _ _ hk)

theorem execShri_keeps {s0 : State} (t : Fin 64) (f : BitVec 40) (s : State) (hk : Keeps s0 s) : KeepsOut s0 (execShri t f s) :=
  keepsOut_next (simple_keeps _ _ _ _ _ _ hk)

theorem execSari_keeps {s0 : State} (t : Fin 64) (f : BitVec 40) (s : State) (hk : Keeps s0 s) : KeepsOut s0 (execSari t f s) :=
  keepsOut_next (simple_keeps _ _ _ _ _ _ hk)

theorem execRoli_keeps {s0 : State} (t : Fin 64) (f : BitVec 40) (s : State) (hk : Keeps s0 s) : KeepsOut s0 (execRoli t f s) :=
  keepsOut_next (simple_keeps _ _ _ _ _ _ hk)

theorem execRori_keeps {s0 : State} (t : Fin 64) (f : BitVec 40) (s : State) (hk : Keeps s0 s) : KeepsOut s0 (execRori t f s) :=
  keepsOut_next (simple_keeps _ _ _ _ _ _ hk)

theorem execMin_keeps {s0 : State} (t : Fin 64) (f : BitVec 40) (s : State) (hk : Keeps s0 s) : KeepsOut s0 (execMin t f s) :=
  keepsOut_next (simple_keeps _ _ _ _ _ _ hk)

theorem execMax_keeps {s0 : State} (t : Fin 64) (f : BitVec 40) (s : State) (hk : Keeps s0 s) : KeepsOut s0 (execMax t f s) :=
  keepsOut_next (simple_keeps _ _ _ _ _ _ hk)

theorem execMinu_keeps {s0 : State} (t : Fin 64) (f : BitVec 40) (s : State) (hk : Keeps s0 s) : KeepsOut s0 (execMinu t f s) :=
  keepsOut_next (simple_keeps _ _ _ _ _ _ hk)

theorem execMaxu_keeps {s0 : State} (t : Fin 64) (f : BitVec 40) (s : State) (hk : Keeps s0 s) : KeepsOut s0 (execMaxu t f s) :=
  keepsOut_next (simple_keeps _ _ _ _ _ _ hk)

theorem execSel_keeps {s0 : State} (t : Fin 64) (f : BitVec 40) (s : State) (hk : Keeps s0 s) : KeepsOut s0 (execSel t f s) :=
  keepsOut_next (simple_keeps _ _ _ _ _ _ hk)

theorem execClz_keeps {s0 : State} (t : Fin 64) (f : BitVec 40) (s : State) (hk : Keeps s0 s) : KeepsOut s0 (execClz t f s) :=
  keepsOut_next (simple_keeps _ _ _ _ _ _ hk)

theorem execPopc_keeps {s0 : State} (t : Fin 64) (f : BitVec 40) (s : State) (hk : Keeps s0 s) : KeepsOut s0 (execPopc t f s) :=
  keepsOut_next (simple_keeps _ _ _ _ _ _ hk)

theorem execCmpk_keeps {s0 : State} (t : Fin 64) (f : BitVec 40) (s : State) (hk : Keeps s0 s) : KeepsOut s0 (execCmpk t f s) :=
  keepsOut_next (simple_keeps _ _ _ _ _ _ hk)

theorem execCmpki_keeps {s0 : State} (t : Fin 64) (f : BitVec 40) (s : State) (hk : Keeps s0 s) : KeepsOut s0 (execCmpki t f s) :=
  keepsOut_next (simple_keeps _ _ _ _ _ _ hk)

theorem execKand_keeps {s0 : State} (t : Fin 64) (f : BitVec 40) (s : State) (hk : Keeps s0 s) : KeepsOut s0 (execKand t f s) :=
  keepsOut_next (simple_keeps _ _ _ _ _ _ hk)

theorem execKor_keeps {s0 : State} (t : Fin 64) (f : BitVec 40) (s : State) (hk : Keeps s0 s) : KeepsOut s0 (execKor t f s) :=
  keepsOut_next (simple_keeps _ _ _ _ _ _ hk)

theorem execKandn_keeps {s0 : State} (t : Fin 64) (f : BitVec 40) (s : State) (hk : Keeps s0 s) : KeepsOut s0 (execKandn t f s) :=
  keepsOut_next (simple_keeps _ _ _ _ _ _ hk)

theorem execKxor_keeps {s0 : State} (t : Fin 64) (f : BitVec 40) (s : State) (hk : Keeps s0 s) : KeepsOut s0 (execKxor t f s) :=
  keepsOut_next (simple_keeps _ _ _ _ _ _ hk)

theorem execKnot_keeps {s0 : State} (t : Fin 64) (f : BitVec 40) (s : State) (hk : Keeps s0 s) : KeepsOut s0 (execKnot t f s) :=
  keepsOut_next (simple_keeps _ _ _ _ _ _ hk)

theorem execKmov_keeps {s0 : State} (t : Fin 64) (f : BitVec 40) (s : State) (hk : Keeps s0 s) : KeepsOut s0 (execKmov t f s) :=
  keepsOut_next (simple_keeps _ _ _ _ _ _ hk)

theorem execKset_keeps {s0 : State} (t : Fin 64) (f : BitVec 40) (s : State) (hk : Keeps s0 s) : KeepsOut s0 (execKset t f s) :=
  keepsOut_next (simple_keeps _ _ _ _ _ _ hk)

theorem execKget_keeps {s0 : State} (t : Fin 64) (f : BitVec 40) (s : State) (hk : Keeps s0 s) : KeepsOut s0 (execKget t f s) :=
  keepsOut_next (simple_keeps _ _ _ _ _ _ hk)

theorem execBrf_keeps {s0 : State} (t : Fin 64) (f : BitVec 40) (s : State) (hk : Keeps s0 s) : KeepsOut s0 (execBrf t f s) :=
  keepsOut_next (branch_keeps _ _ _ _ _ _ hk)

/-! ### MemoryInstr -/

theorem loadWord_keeps {s0 : State} (f : BitVec 40) (s : State) (c : Ctx) (e : WorkEntry) (img : Image) (hk : Keeps s0 s) : KeepsEff s0 (loadWord f s c e img) := by
  unfold loadWord
  try dsimp only
  repeat' first | intro _ | (with_reducible first | assumption | apply segTrap_keeps | apply withLines_keeps | apply stepOn_keeps | apply keepsEff_done | apply keepsEff_trap | apply keepsEff_wait | apply keepsEff_fail | exact keepsEff_stall | apply keeps_foldl) | split

theorem execLdw_keeps {s0 : State} (t : Fin 64) (f : BitVec 40) (s : State) (hk : Keeps s0 s) : KeepsOut s0 (execLdw t f s) :=
  keepsOut_next (runInstr_keeps _ _ _ _ _ _ hk fun _ _ _ _ h => loadWord_keeps _ _ _ _ _ h)

theorem storeWord_keeps {s0 : State} (f : BitVec 40) (s : State) (c : Ctx) (e : WorkEntry) (img : Image) (hk : Keeps s0 s) : KeepsEff s0 (storeWord f s c e img) := by
  unfold storeWord
  try dsimp only
  repeat' first | intro _ | (with_reducible first | assumption | apply segTrap_keeps | apply withStores_keeps | apply stepOn_keeps | apply keepsEff_done | apply keepsEff_trap | apply keepsEff_wait | apply keepsEff_fail | exact keepsEff_stall | apply keeps_foldl) | split

theorem execStw_keeps {s0 : State} (t : Fin 64) (f : BitVec 40) (s : State) (hk : Keeps s0 s) : KeepsOut s0 (execStw t f s) :=
  keepsOut_next (runInstr_keeps _ _ _ _ _ _ hk fun _ _ _ _ h => storeWord_keeps _ _ _ _ _ h)

theorem segFail_keeps {s0 : State} (k : Nat × Nat) (store : Bool) (ea : Word) (s : State) (c : Ctx) (hk : Keeps s0 s) : KeepsEff s0 (segFail k store ea s c) :=
  segTrap_keeps _ _ _ _ _ _ hk

theorem loadQuad_keeps {s0 : State} (f : BitVec 40) (s : State) (c : Ctx) (e : WorkEntry) (img : Image) (hk : Keeps s0 s) : KeepsEff s0 (loadQuad f s c e img) := by
  unfold loadQuad
  try dsimp only
  repeat' first | intro _ | (with_reducible first | assumption | apply stepOn_keeps | apply segFail_keeps | apply withLines_keeps | apply keepsEff_done | apply keepsEff_trap | apply keepsEff_wait | apply keepsEff_fail | exact keepsEff_stall | apply keeps_foldl) | split

theorem execLdq_keeps {s0 : State} (t : Fin 64) (f : BitVec 40) (s : State) (hk : Keeps s0 s) : KeepsOut s0 (execLdq t f s) :=
  keepsOut_next (runInstr_keeps _ _ _ _ _ _ hk fun _ _ _ _ h => loadQuad_keeps _ _ _ _ _ h)

theorem storeQuad_keeps {s0 : State} (f : BitVec 40) (s : State) (c : Ctx) (e : WorkEntry) (img : Image) (hk : Keeps s0 s) : KeepsEff s0 (storeQuad f s c e img) := by
  unfold storeQuad
  try dsimp only
  repeat' first | intro _ | (with_reducible first | assumption | apply stepOn_keeps | apply segFail_keeps | apply withStores_keeps | apply keepsEff_done | apply keepsEff_trap | apply keepsEff_wait | apply keepsEff_fail | exact keepsEff_stall | apply keeps_foldl) | split

theorem execStq_keeps {s0 : State} (t : Fin 64) (f : BitVec 40) (s : State) (hk : Keeps s0 s) : KeepsOut s0 (execStq t f s) :=
  keepsOut_next (runInstr_keeps _ _ _ _ _ _ hk fun _ _ _ _ h => storeQuad_keeps _ _ _ _ _ h)

theorem gather_keeps {s0 : State} (f : BitVec 40) (s : State) (c : Ctx) (e : WorkEntry) (img : Image) (hk : Keeps s0 s) : KeepsEff s0 (gather f s c e img) := by
  unfold gather
  try dsimp only
  repeat' first | intro _ | (with_reducible first | assumption | apply stepOn_keeps | apply segTrap_keeps | apply withLines_keeps | apply keepsEff_done | apply keepsEff_trap | apply keepsEff_wait | apply keepsEff_fail | exact keepsEff_stall | apply keeps_foldl) | split

theorem execGath_keeps {s0 : State} (t : Fin 64) (f : BitVec 40) (s : State) (hk : Keeps s0 s) : KeepsOut s0 (execGath t f s) :=
  keepsOut_next (runInstr_keeps _ _ _ _ _ _ hk fun _ _ _ _ h => gather_keeps _ _ _ _ _ h)

theorem withScratch_keeps {s0 : State} (s : State) (c : Ctx) (store : Bool) (a : Word) (ix : List (Nat × Nat)) (k : Effect) (hk : Keeps s0 s)
    (h : KeepsEff s0 k) : KeepsEff s0 (withScratch s c store a ix k) := by
  unfold withScratch
  split
  · exact scratchTrap_keeps _ _ _ _ _ hk
  · split
    · exact keepsEff_stall
    · exact h

theorem execLdp_keeps {s0 : State} (t : Fin 64) (f : BitVec 40) (s : State) (hk : Keeps s0 s) : KeepsOut s0 (execLdp t f s) := by
  refine keepsOut_next ?_
  try dsimp only
  repeat' first | intro _ | (with_reducible first | assumption | apply runInstr_keeps | apply withScratch_keeps | apply stepOn_keeps | apply keepsEff_done | apply keepsEff_trap | apply keepsEff_wait | apply keepsEff_fail | exact keepsEff_stall | apply keeps_foldl) | split

theorem execStp_keeps {s0 : State} (t : Fin 64) (f : BitVec 40) (s : State) (hk : Keeps s0 s) : KeepsOut s0 (execStp t f s) := by
  refine keepsOut_next ?_
  try dsimp only
  repeat' first | intro _ | (with_reducible first | assumption | apply runInstr_keeps | apply withScratch_keeps | apply stepOn_keeps | apply keepsEff_done | apply keepsEff_trap | apply keepsEff_wait | apply keepsEff_fail | exact keepsEff_stall | apply keeps_foldl) | split

theorem execLdpq_keeps {s0 : State} (t : Fin 64) (f : BitVec 40) (s : State) (hk : Keeps s0 s) : KeepsOut s0 (execLdpq t f s) := by
  refine keepsOut_next ?_
  try dsimp only
  repeat' first | intro _ | (with_reducible first | assumption | apply runInstr_keeps | apply stepOn_keeps | apply withScratch_keeps | apply keepsEff_done | apply keepsEff_trap | apply keepsEff_wait | apply keepsEff_fail | exact keepsEff_stall | apply keeps_foldl) | split

theorem execStpq_keeps {s0 : State} (t : Fin 64) (f : BitVec 40) (s : State) (hk : Keeps s0 s) : KeepsOut s0 (execStpq t f s) := by
  refine keepsOut_next ?_
  try dsimp only
  repeat' first | intro _ | (with_reducible first | assumption | apply runInstr_keeps | apply stepOn_keeps | apply withScratch_keeps | apply keepsEff_done | apply keepsEff_trap | apply keepsEff_wait | apply keepsEff_fail | exact keepsEff_stall | apply keeps_foldl) | split

theorem execGathp_keeps {s0 : State} (t : Fin 64) (f : BitVec 40) (s : State) (hk : Keeps s0 s) : KeepsOut s0 (execGathp t f s) := by
  refine keepsOut_next ?_
  try dsimp only
  repeat' first | intro _ | (with_reducible first | assumption | apply runInstr_keeps | apply stepOn_keeps | apply withScratch_keeps | apply keepsEff_done | apply keepsEff_trap | apply keepsEff_wait | apply keepsEff_fail | exact keepsEff_stall | apply keeps_foldl) | split

end Sys2Proof.Machine
end

