-- ==== Sys2Proof/Laws/PerInstr.lean ====
section
/-! SUPPORT. Per command: no word spells it. The opcode table gives none of its rows bits, so a command enters the queue as a value
and never by decoding. -/

namespace Sys2Proof.Laws.NoWord

/-- No word of any length is read as the command. -/
def Statement (i : Instr) : Prop := ∀ nbits w : Nat, decodeTableWord nbits w ≠ some i

theorem of_any (i : Instr) : Statement i := by intro _ _ h; cases h

theorem frameTimerExpiry : Statement .frameTimerExpiry := of_any _
theorem tick (elapsedUs : Nat) : Statement (.tick elapsedUs) := of_any _
theorem leaseExpiry : Statement .leaseExpiry := of_any _
theorem frameMerge : Statement .frameMerge := of_any _
theorem tileHangTimeout (t : Fin 64) : Statement (.tileHangTimeout t) := of_any _
theorem selftestPart (t : Fin 64) (sigOk : Bool) : Statement (.selftestPart t sigOk) := of_any _
theorem selftestLate (t : Fin 64) : Statement (.selftestLate t) := of_any _
theorem healthEvaluation : Statement .healthEvaluation := of_any _
theorem marginCheck (mirrorPct hostPct persistPct : Nat) : Statement (.marginCheck mirrorPct hostPct persistPct) := of_any _
theorem mova (t : Fin 64) (f : BitVec 40) : Statement (.mova t f) := of_any _
theorem movi (t : Fin 64) (f : BitVec 40) : Statement (.movi t f) := of_any _
theorem movh (t : Fin 64) (f : BitVec 40) : Statement (.movh t f) := of_any _
theorem adda (t : Fin 64) (f : BitVec 40) : Statement (.adda t f) := of_any _
theorem addai (t : Fin 64) (f : BitVec 40) : Statement (.addai t f) := of_any _
theorem suba (t : Fin 64) (f : BitVec 40) : Statement (.suba t f) := of_any _
theorem nega (t : Fin 64) (f : BitVec 40) : Statement (.nega t f) := of_any _
theorem shla (t : Fin 64) (f : BitVec 40) : Statement (.shla t f) := of_any _
theorem shra (t : Fin 64) (f : BitVec 40) : Statement (.shra t f) := of_any _
theorem sara (t : Fin 64) (f : BitVec 40) : Statement (.sara t f) := of_any _
theorem shlai (t : Fin 64) (f : BitVec 40) : Statement (.shlai t f) := of_any _
theorem shrai (t : Fin 64) (f : BitVec 40) : Statement (.shrai t f) := of_any _
theorem sarai (t : Fin 64) (f : BitVec 40) : Statement (.sarai t f) := of_any _
theorem bra (t : Fin 64) (f : BitVec 40) : Statement (.bra t f) := of_any _
theorem brai (t : Fin 64) (f : BitVec 40) : Statement (.brai t f) := of_any _
theorem jmp (t : Fin 64) (f : BitVec 40) : Statement (.jmp t f) := of_any _
theorem call (t : Fin 64) (f : BitVec 40) : Statement (.call t f) := of_any _
theorem jmpr (t : Fin 64) (f : BitVec 40) : Statement (.jmpr t f) := of_any _
theorem ftime (t : Fin 64) (f : BitVec 40) : Statement (.ftime t f) := of_any _
theorem movd (t : Fin 64) (f : BitVec 40) : Statement (.movd t f) := of_any _
theorem movdi (t : Fin 64) (f : BitVec 40) : Statement (.movdi t f) := of_any _
theorem bcst (t : Fin 64) (f : BitVec 40) : Statement (.bcst t f) := of_any _
theorem movad (t : Fin 64) (f : BitVec 40) : Statement (.movad t f) := of_any _
theorem perm (t : Fin 64) (f : BitVec 40) : Statement (.perm t f) := of_any _
theorem gets (t : Fin 64) (f : BitVec 40) : Statement (.gets t f) := of_any _
theorem puts (t : Fin 64) (f : BitVec 40) : Statement (.puts t f) := of_any _
theorem clrs (t : Fin 64) (f : BitVec 40) : Statement (.clrs t f) := of_any _
theorem add (t : Fin 64) (f : BitVec 40) : Statement (.add t f) := of_any _
theorem addi (t : Fin 64) (f : BitVec 40) : Statement (.addi t f) := of_any _
theorem adc (t : Fin 64) (f : BitVec 40) : Statement (.adc t f) := of_any _
theorem sub (t : Fin 64) (f : BitVec 40) : Statement (.sub t f) := of_any _
theorem subi (t : Fin 64) (f : BitVec 40) : Statement (.subi t f) := of_any _
theorem neg (t : Fin 64) (f : BitVec 40) : Statement (.neg t f) := of_any _
theorem cmp (t : Fin 64) (f : BitVec 40) : Statement (.cmp t f) := of_any _
theorem cmpi (t : Fin 64) (f : BitVec 40) : Statement (.cmpi t f) := of_any _
theorem mul (t : Fin 64) (f : BitVec 40) : Statement (.mul t f) := of_any _
theorem mulu (t : Fin 64) (f : BitVec 40) : Statement (.mulu t f) := of_any _
theorem mulh (t : Fin 64) (f : BitVec 40) : Statement (.mulh t f) := of_any _
theorem mulhu (t : Fin 64) (f : BitVec 40) : Statement (.mulhu t f) := of_any _
theorem div (t : Fin 64) (f : BitVec 40) : Statement (.div t f) := of_any _
theorem divu (t : Fin 64) (f : BitVec 40) : Statement (.divu t f) := of_any _
theorem rem (t : Fin 64) (f : BitVec 40) : Statement (.rem t f) := of_any _
theorem remu (t : Fin 64) (f : BitVec 40) : Statement (.remu t f) := of_any _
theorem and (t : Fin 64) (f : BitVec 40) : Statement (.and t f) := of_any _
theorem or (t : Fin 64) (f : BitVec 40) : Statement (.or t f) := of_any _
theorem xor (t : Fin 64) (f : BitVec 40) : Statement (.xor t f) := of_any _
theorem andn (t : Fin 64) (f : BitVec 40) : Statement (.andn t f) := of_any _
theorem not (t : Fin 64) (f : BitVec 40) : Statement (.not t f) := of_any _
theorem andi (t : Fin 64) (f : BitVec 40) : Statement (.andi t f) := of_any _
theorem ori (t : Fin 64) (f : BitVec 40) : Statement (.ori t f) := of_any _
theorem xori (t : Fin 64) (f : BitVec 40) : Statement (.xori t f) := of_any _
theorem shl (t : Fin 64) (f : BitVec 40) : Statement (.shl t f) := of_any _
theorem shr (t : Fin 64) (f : BitVec 40) : Statement (.shr t f) := of_any _
theorem sar (t : Fin 64) (f : BitVec 40) : Statement (.sar t f) := of_any _
theorem rol (t : Fin 64) (f : BitVec 40) : Statement (.rol t f) := of_any _
theorem ror (t : Fin 64) (f : BitVec 40) : Statement (.ror t f) := of_any _
theorem shli (t : Fin 64) (f : BitVec 40) : Statement (.shli t f) := of_any _
theorem shri (t : Fin 64) (f : BitVec 40) : Statement (.shri t f) := of_any _
theorem sari (t : Fin 64) (f : BitVec 40) : Statement (.sari t f) := of_any _
theorem roli (t : Fin 64) (f : BitVec 40) : Statement (.roli t f) := of_any _
theorem rori (t : Fin 64) (f : BitVec 40) : Statement (.rori t f) := of_any _
theorem min (t : Fin 64) (f : BitVec 40) : Statement (.min t f) := of_any _
theorem max (t : Fin 64) (f : BitVec 40) : Statement (.max t f) := of_any _
theorem minu (t : Fin 64) (f : BitVec 40) : Statement (.minu t f) := of_any _
theorem maxu (t : Fin 64) (f : BitVec 40) : Statement (.maxu t f) := of_any _
theorem sel (t : Fin 64) (f : BitVec 40) : Statement (.sel t f) := of_any _
theorem clz (t : Fin 64) (f : BitVec 40) : Statement (.clz t f) := of_any _
theorem popc (t : Fin 64) (f : BitVec 40) : Statement (.popc t f) := of_any _
theorem cmpk (t : Fin 64) (f : BitVec 40) : Statement (.cmpk t f) := of_any _
theorem cmpki (t : Fin 64) (f : BitVec 40) : Statement (.cmpki t f) := of_any _
theorem kand (t : Fin 64) (f : BitVec 40) : Statement (.kand t f) := of_any _
theorem kor (t : Fin 64) (f : BitVec 40) : Statement (.kor t f) := of_any _
theorem kandn (t : Fin 64) (f : BitVec 40) : Statement (.kandn t f) := of_any _
theorem kxor (t : Fin 64) (f : BitVec 40) : Statement (.kxor t f) := of_any _
theorem knot (t : Fin 64) (f : BitVec 40) : Statement (.knot t f) := of_any _
theorem kmov (t : Fin 64) (f : BitVec 40) : Statement (.kmov t f) := of_any _
theorem kset (t : Fin 64) (f : BitVec 40) : Statement (.kset t f) := of_any _
theorem kget (t : Fin 64) (f : BitVec 40) : Statement (.kget t f) := of_any _
theorem brf (t : Fin 64) (f : BitVec 40) : Statement (.brf t f) := of_any _
theorem xadd (t : Fin 64) (f : BitVec 40) : Statement (.xadd t f) := of_any _
theorem xaddu (t : Fin 64) (f : BitVec 40) : Statement (.xaddu t f) := of_any _
theorem xmac (t : Fin 64) (f : BitVec 40) : Statement (.xmac t f) := of_any _
theorem xmacu (t : Fin 64) (f : BitVec 40) : Statement (.xmacu t f) := of_any _
theorem xmin (t : Fin 64) (f : BitVec 40) : Statement (.xmin t f) := of_any _
theorem xmax (t : Fin 64) (f : BitVec 40) : Statement (.xmax t f) := of_any _
theorem xcnt (t : Fin 64) (f : BitVec 40) : Statement (.xcnt t f) := of_any _
theorem xfromd (t : Fin 64) (f : BitVec 40) : Statement (.xfromd t f) := of_any _
theorem xtod (t : Fin 64) (f : BitVec 40) : Statement (.xtod t f) := of_any _
theorem ldw (t : Fin 64) (f : BitVec 40) : Statement (.ldw t f) := of_any _
theorem stw (t : Fin 64) (f : BitVec 40) : Statement (.stw t f) := of_any _
theorem ldq (t : Fin 64) (f : BitVec 40) : Statement (.ldq t f) := of_any _
theorem stq (t : Fin 64) (f : BitVec 40) : Statement (.stq t f) := of_any _
theorem gath (t : Fin 64) (f : BitVec 40) : Statement (.gath t f) := of_any _
theorem ldp (t : Fin 64) (f : BitVec 40) : Statement (.ldp t f) := of_any _
theorem stp (t : Fin 64) (f : BitVec 40) : Statement (.stp t f) := of_any _
theorem ldpq (t : Fin 64) (f : BitVec 40) : Statement (.ldpq t f) := of_any _
theorem stpq (t : Fin 64) (f : BitVec 40) : Statement (.stpq t f) := of_any _
theorem gathp (t : Fin 64) (f : BitVec 40) : Statement (.gathp t f) := of_any _
theorem lget (t : Fin 64) (f : BitVec 40) : Statement (.lget t f) := of_any _
theorem lput (t : Fin 64) (f : BitVec 40) : Statement (.lput t f) := of_any _
theorem pfill (t : Fin 64) (f : BitVec 40) : Statement (.pfill t f) := of_any _
theorem wcmp (t : Fin 64) (f : BitVec 40) : Statement (.wcmp t f) := of_any _
theorem dscan (t : Fin 64) (f : BitVec 40) : Statement (.dscan t f) := of_any _
theorem dscanf (t : Fin 64) (f : BitVec 40) : Statement (.dscanf t f) := of_any _
theorem dscann (t : Fin 64) (f : BitVec 40) : Statement (.dscann t f) := of_any _
theorem ksrch (t : Fin 64) (f : BitVec 40) : Statement (.ksrch t f) := of_any _
theorem kcont (t : Fin 64) (f : BitVec 40) : Statement (.kcont t f) := of_any _
theorem kins (t : Fin 64) (f : BitVec 40) : Statement (.kins t f) := of_any _
theorem kagg (t : Fin 64) (f : BitVec 40) : Statement (.kagg t f) := of_any _
theorem kdrn (t : Fin 64) (f : BitVec 40) : Statement (.kdrn t f) := of_any _
theorem srun (t : Fin 64) (f : BitVec 40) : Statement (.srun t f) := of_any _
theorem smrg (t : Fin 64) (f : BitVec 40) : Statement (.smrg t f) := of_any _
theorem sdlv (t : Fin 64) (f : BitVec 40) : Statement (.sdlv t f) := of_any _
theorem chand (t : Fin 64) (f : BitVec 40) : Statement (.chand t f) := of_any _
theorem qpt (t : Fin 64) (f : BitVec 40) : Statement (.qpt t f) := of_any _
theorem endStage (t : Fin 64) (f : BitVec 40) : Statement (.endStage t f) := of_any _
theorem nop (t : Fin 64) (f : BitVec 40) : Statement (.nop t f) := of_any _
theorem brk (t : Fin 64) (f : BitVec 40) : Statement (.brk t f) := of_any _
theorem tget (t : Fin 64) (f : BitVec 40) : Statement (.tget t f) := of_any _
theorem txa (t : Fin 64) (f : BitVec 40) : Statement (.txa t f) := of_any _
theorem txd (t : Fin 64) (f : BitVec 40) : Statement (.txd t f) := of_any _
theorem tretry (t : Fin 64) (f : BitVec 40) : Statement (.tretry t f) := of_any _
theorem tskip (t : Fin 64) (f : BitVec 40) : Statement (.tskip t f) := of_any _
theorem tend (t : Fin 64) (f : BitVec 40) : Statement (.tend t f) := of_any _
theorem divx (t : Fin 64) (f : BitVec 40) : Statement (.divx t f) := of_any _
theorem divxu (t : Fin 64) (f : BitVec 40) : Statement (.divxu t f) := of_any _
theorem rscl (t : Fin 64) (f : BitVec 40) : Statement (.rscl t f) := of_any _
theorem rsclx (t : Fin 64) (f : BitVec 40) : Statement (.rsclx t f) := of_any _
theorem undefinedOpcode (t : Fin 64) (w : Word) : Statement (.undefinedOpcode t w) := of_any _
theorem unitResultArrival (t : Fin 64) (n : Nat) : Statement (.unitResultArrival t n) := of_any _
theorem pipelineEntry (r : Fin 4096) (entry : BitVec 512) : Statement (.pipelineEntry r entry) := of_any _
theorem codecEncode (slot : Fin 256) (input : Option (List Byte)) (valid : List Byte) : Statement (.codecEncode slot input valid) := of_any _
theorem codecDecode (slot : Fin 256) (input : Option (List Byte)) : Statement (.codecDecode slot input) := of_any _
theorem codecUnitGrant (encoder : Bool) : Statement (.codecUnitGrant encoder) := of_any _
theorem codecJobFinish (slot : Fin 256) : Statement (.codecJobFinish slot) := of_any _
theorem nopEntry (r : Fin 4096) (entry : BitVec 512) : Statement (.nopEntry r entry) := of_any _
theorem tableCreate (slot : Fin 256) : Statement (.tableCreate slot) := of_any _
theorem tableClear (slot : Fin 256) : Statement (.tableClear slot) := of_any _
theorem tableDestroy (slot : Fin 256) : Statement (.tableDestroy slot) := of_any _
theorem tableLoad (slot : Fin 256) (records : Option (List Byte)) : Statement (.tableLoad slot records) := of_any _
theorem setDescriptor (slot : Fin 256) : Statement (.setDescriptor slot) := of_any _
theorem squash (slot : Fin 256) : Statement (.squash slot) := of_any _
theorem sqDoorbell (fn : Fin 64) (r : Fin 4096) (size : Nat) : Statement (.sqDoorbell fn r size) := of_any _
theorem cqDoorbell (fn : Fin 64) (r : Fin 4096) (size : Nat) : Statement (.cqDoorbell fn r size) := of_any _
theorem indexBlockReadComplete (cq : Bool) (r : Fin 4096) (res : Option (BitVec 32 × BitVec 32)) : Statement (.indexBlockReadComplete cq r res) := of_any _
theorem entryReadComplete (r : Fin 4096) (entry : Option (BitVec 512)) (desc : Option (BitVec 512)) : Statement (.entryReadComplete r entry desc) := of_any _
theorem imageReadComplete (r : Fin 4096) (image : Option (List Byte)) : Statement (.imageReadComplete r image) := of_any _
theorem ringContextWrite (cq : Bool) (r : Fin 4096) (word : Fin 8) (acc : RegAccess) (v : BitVec 64) : Statement (.ringContextWrite cq r word acc v) := of_any _
theorem modTimerExpiry (r : Fin 4096) : Statement (.modTimerExpiry r) := of_any _
theorem functionPowerStateChange (fn : Fin 64) (d3hot : Bool) : Statement (.functionPowerStateChange fn d3hot) := of_any _
theorem busMasterEnableChange (fn : Fin 64) (enable : Bool) : Statement (.busMasterEnableChange fn enable) := of_any _
theorem linkStateChange (link : LinkState) : Statement (.linkStateChange link) := of_any _
theorem pmeResend (fn : Fin 64) : Statement (.pmeResend fn) := of_any _
theorem functionLevelReset (fn : Fin 64) : Statement (.functionLevelReset fn) := of_any _
theorem vfEnableChange (enable : Bool) (numVfs : Nat) : Statement (.vfEnableChange enable numVfs) := of_any _
theorem hotReset (linkDown : Bool) : Statement (.hotReset linkDown) := of_any _
theorem outDoorbellSend (fn : Fin 64) (acc : RegAccess) (v : BitVec 64) : Statement (.outDoorbellSend fn acc v) := of_any _
theorem inAck (fn : Fin 64) (acc : RegAccess) (v : BitVec 64) : Statement (.inAck fn acc v) := of_any _
theorem toTenant (i : Fin 64) (msg : BitVec 512) : Statement (.toTenant i msg) := of_any _
theorem fromAck (i : Fin 64) (ack : Bool) : Statement (.fromAck i ack) := of_any _
theorem chAppend (ch : Fin 32) (acc : RegAccess) (v : BitVec 64) : Statement (.chAppend ch acc v) := of_any _
theorem descriptorFetch (ch : Fin 32) : Statement (.descriptorFetch ch) := of_any _
theorem burstStart : Statement .burstStart := of_any _
theorem pacingIntervalExpiry (ch : Fin 32) : Statement (.pacingIntervalExpiry ch) := of_any _
theorem burstReadComplete (ch : Fin 32) (res : BurstResult) : Statement (.burstReadComplete ch res) := of_any _
theorem chPause (ch : Fin 32) (on : Bool) : Statement (.chPause ch on) := of_any _
theorem chDisable (ch : Fin 32) (on : Bool) : Statement (.chDisable ch on) := of_any _
theorem chErrorClear (ch : Fin 32) : Statement (.chErrorClear ch) := of_any _
theorem dgOpen (fn : Fin 64) (h : Fin 16) (v : Word) : Statement (.dgOpen fn h v) := of_any _
theorem dgAbort (fn : Fin 64) (h : Fin 16) (v : Word) : Statement (.dgAbort fn h v) := of_any _
theorem dgClose (fn : Fin 64) (h : Fin 16) (v : Word) : Statement (.dgClose fn h v) := of_any _
theorem dgCompare (fn : Fin 64) (h : Fin 16) (v : Word) : Statement (.dgCompare fn h v) := of_any _
theorem compareDone (fn : Fin 64) (h : Fin 16) : Statement (.compareDone fn h) := of_any _
theorem dgData (fn : Fin 64) (h : Fin 16) (v : Word) : Statement (.dgData fn h v) := of_any _
theorem dgKeymsg (fn : Fin 64) (h : Fin 16) (v : Word) : Statement (.dgKeymsg fn h v) := of_any _
theorem dgLast (fn : Fin 64) (h : Fin 16) (v : Word) : Statement (.dgLast fn h v) := of_any _
theorem digestFinishComplete (fn : Fin 64) (h : Fin 16) : Statement (.digestFinishComplete fn h) := of_any _
theorem dgExpect (fn : Fin 64) (h : Fin 16) (v : Word) : Statement (.dgExpect fn h v) := of_any _
theorem ksData (fn : Fin 64) (v : Word) : Statement (.ksData fn v) := of_any _
theorem ksCommit (fn : Fin 64) (v : Word) : Statement (.ksCommit fn v) := of_any _
theorem cocoonAcknowledged (frame : Nat) : Statement (.cocoonAcknowledged frame) := of_any _
theorem commitTimeout : Statement .commitTimeout := of_any _
theorem chrysalisWriteAck : Statement .chrysalisWriteAck := of_any _
theorem chrysalisComplete : Statement .chrysalisComplete := of_any _
theorem ssdCommandTimeout (p : Fin 4) : Statement (.ssdCommandTimeout p) := of_any _
theorem ssdCommandError (p : Fin 4) : Statement (.ssdCommandError p) := of_any _
theorem ssdLinkDown (p : Fin 4) : Statement (.ssdLinkDown p) := of_any _
theorem smartLogPoll (p : Fin 4) : Statement (.smartLogPoll p) := of_any _
theorem format : Statement .format := of_any _
theorem chrysalisSoon : Statement .chrysalisSoon := of_any _
theorem keyReady : Statement .keyReady := of_any _
theorem restore (rd : RestoreRead) : Statement (.restore rd) := of_any _
theorem keyReadyTimeout : Statement .keyReadyTimeout := of_any _
theorem cocoonReplay (bytes : List Byte) : Statement (.cocoonReplay bytes) := of_any _
theorem slotFetchComplete (slot : Nat) (data : Option (List Byte)) : Statement (.slotFetchComplete slot data) := of_any _
theorem listMessage (hdr : MirrorHeader) (list : FrameList) : Statement (.listMessage hdr list) := of_any _
theorem tickMessage (hdr : MirrorHeader) (msg : TickPayload) : Statement (.tickMessage hdr msg) := of_any _
theorem dataMessage (hdr : MirrorHeader) (recs : List DataRecord) : Statement (.dataMessage hdr recs) := of_any _
theorem ackMessage (hdr : MirrorHeader) (msg : AckPayload) : Statement (.ackMessage hdr msg) := of_any _
theorem heartbeatMessage (t1s : Bool) (hb : Heartbeat) : Statement (.heartbeatMessage t1s hb) := of_any _
theorem fenceMessage (hb : Heartbeat) (reason : Nat) : Statement (.fenceMessage hb reason) := of_any _
theorem joinReq (pos : Nat) (req : JoinRequest) : Statement (.joinReq pos req) := of_any _
theorem copyMessage (slot : Nat) (data : List Byte) (crc : BitVec 64) : Statement (.copyMessage slot data crc) := of_any _
theorem joinState (frame : Nat) (st : JoinStatePayload) : Statement (.joinState frame st) := of_any _
theorem joinReply (code : Nat) : Statement (.joinReply code) := of_any _
theorem linkack (portB : Bool) (linkAck : BitVec 32) : Statement (.linkack portB linkAck) := of_any _
theorem followerTick (elapsedUs : Nat) : Statement (.followerTick elapsedUs) := of_any _
theorem retransmitTimeout (portB : Bool) : Statement (.retransmitTimeout portB) := of_any _
theorem linkackTimer (portB : Bool) : Statement (.linkackTimer portB) := of_any _
theorem overrunHeartbeatTimer (t1s : Bool) : Statement (.overrunHeartbeatTimer t1s) := of_any _
theorem pathSilenceTimeout (down : Bool) (t1s : Bool) : Statement (.pathSilenceTimeout down t1s) := of_any _
theorem joinDrainTimeout : Statement .joinDrainTimeout := of_any _
theorem formingHeartbeatTimer : Statement .formingHeartbeatTimer := of_any _
theorem formWaitExpiry : Statement .formWaitExpiry := of_any _
theorem mirrorCmdJoin : Statement .mirrorCmdJoin := of_any _
theorem mirrorCmdDetach : Statement .mirrorCmdDetach := of_any _
theorem mirrorCmdFence : Statement .mirrorCmdFence := of_any _
theorem mirrorCmdForm : Statement .mirrorCmdForm := of_any _
theorem powerOn : Statement .powerOn := of_any _
theorem vinOn : Statement .vinOn := of_any _
theorem railUpTimeout : Statement .railUpTimeout := of_any _
theorem powerupRetryTimer : Statement .powerupRetryTimer := of_any _
theorem pwrgood : Statement .pwrgood := of_any _
theorem powerFail (rule : Fin 3) : Statement (.powerFail rule) := of_any _
theorem pfRestartExpiry : Statement .pfRestartExpiry := of_any _
theorem vinOff : Statement .vinOff := of_any _
theorem railFault (channel : Nat) : Statement (.railFault channel) := of_any _
theorem thermalBand : Statement .thermalBand := of_any _
theorem thermalTrip (channel : Nat) : Statement (.thermalTrip channel) := of_any _
theorem stackHot (stack : Fin 12) : Statement (.stackHot stack) := of_any _
theorem ruleAssert (rule : Fin 64) : Statement (.ruleAssert rule) := of_any _
theorem ruleRelease (rule : Fin 64) : Statement (.ruleRelease rule) := of_any _
theorem ruleWrite (rule : Fin 64) (v : Word) : Statement (.ruleWrite rule v) := of_any _
theorem mothCmdDoze : Statement .mothCmdDoze := of_any _
theorem dozeEntry : Statement .dozeEntry := of_any _
theorem ssdShutdownTimeout : Statement .ssdShutdownTimeout := of_any _
theorem dozeLinkWaitExpiry : Statement .dozeLinkWaitExpiry := of_any _
theorem mothCmdWake : Statement .mothCmdWake := of_any _
theorem mothCmdRestart : Statement .mothCmdRestart := of_any _
theorem dozeTimerExpiry : Statement .dozeTimerExpiry := of_any _
theorem wakeSchedule (ok : Bool) (dozeMs : Nat) : Statement (.wakeSchedule ok dozeMs) := of_any _
theorem perstNAssert : Statement .perstNAssert := of_any _
theorem moduleReset (acc : RegAccess) (v : BitVec 64) : Statement (.moduleReset acc v) := of_any _
theorem trstN : Statement .trstN := of_any _
theorem bringupStart (profsel : Fin 4) : Statement (.bringupStart profsel) := of_any _
theorem firmwareVerify (a : FirmwareBank) (b : FirmwareBank) : Statement (.firmwareVerify a b) := of_any _
theorem memoryTrainingComplete (failed : List (Fin 48)) : Statement (.memoryTrainingComplete failed) := of_any _
theorem startupSelftestComplete (mismatch : List SelftestUnit) : Statement (.startupSelftestComplete mismatch) := of_any _
theorem sysRefclkLoss : Statement .sysRefclkLoss := of_any _
theorem pexRefclkLoss : Statement .pexRefclkLoss := of_any _
theorem mirRefclkLoss : Statement .mirRefclkLoss := of_any _
theorem auxClkLoss : Statement .auxClkLoss := of_any _
theorem auxClkReturn : Statement .auxClkReturn := of_any _
theorem hostLinkTraining (speed : Nat) (width : Nat) : Statement (.hostLinkTraining speed width) := of_any _
theorem refreshIntervalExpiry (c : Fin 48) : Statement (.refreshIntervalExpiry c) := of_any _
theorem refreshUnit (c : Fin 48) (idle : Bool) : Statement (.refreshUnit c idle) := of_any _
theorem mr4Readout (stack : Fin 12) (readings : List Nat) : Statement (.mr4Readout stack readings) := of_any _
theorem recalibration (c : Fin 48) : Statement (.recalibration c) := of_any _
theorem scrubVisit (c : Fin 48) (o : EccOutcome) : Statement (.scrubVisit c o) := of_any _
theorem scrubLate (c : Fin 48) : Statement (.scrubLate c) := of_any _
theorem memoryReadReturn (ma : Nat) (who : Requester) (bursts : List Nat) : Statement (.memoryReadReturn ma who bursts) := of_any _
theorem writeQueueDrain (c : Fin 48) : Statement (.writeQueueDrain c) := of_any _
theorem partialWrite (ma : Nat) (data : PartialData) (who : Requester) : Statement (.partialWrite ma data who) := of_any _
theorem verifyScanRow (b : Fin 24) (differs : Bool) : Statement (.verifyScanRow b differs) := of_any _
theorem cacheEnableWrite (on : Bool) : Statement (.cacheEnableWrite on) := of_any _
theorem cacheDrainComplete : Statement .cacheDrainComplete := of_any _
theorem holdWrite (on : Bool) : Statement (.holdWrite on) := of_any _
theorem timeBaseWrite (v : Word) : Statement (.timeBaseWrite v) := of_any _
theorem bdpReadReq (f : BdpFrame) : Statement (.bdpReadReq f) := of_any _
theorem bdpWriteReq (f : BdpFrame) : Statement (.bdpWriteReq f) := of_any _
theorem bdpAbort (f : BdpFrame) : Statement (.bdpAbort f) := of_any _
theorem bdpFrameDrop (f : BdpFrame) : Statement (.bdpFrameDrop f) := of_any _
theorem segmentTransferTimeout (n : Nat) : Statement (.segmentTransferTimeout n) := of_any _
theorem eventFrameSend : Statement .eventFrameSend := of_any _
theorem dwRead (slot : Fin 8) (irq : Bool) : Statement (.dwRead slot irq) := of_any _
theorem dwReadShadow (slot : Fin 8) (irq : Bool) : Statement (.dwReadShadow slot irq) := of_any _
theorem dwWrite (slot : Fin 8) (irq : Bool) : Statement (.dwWrite slot irq) := of_any _
theorem dwRequestDone (slot : Fin 8) : Statement (.dwRequestDone slot) := of_any _
theorem profileLoad (p : Nat) : Statement (.profileLoad p) := of_any _
theorem profileSave (p : Nat) : Statement (.profileSave p) := of_any _
theorem profileDefaults (p : Nat) : Statement (.profileDefaults p) := of_any _
theorem profileFlashWriteDone (ok : Bool) : Statement (.profileFlashWriteDone ok) := of_any _
theorem extest : Statement .extest := of_any _
theorem idcode : Statement .idcode := of_any _
theorem samplePreload (pins : BitVec 180) (preload : BitVec 180) : Statement (.samplePreload pins preload) := of_any _
theorem highz : Statement .highz := of_any _
theorem clamp : Statement .clamp := of_any _
theorem extestPulse : Statement .extestPulse := of_any _
theorem extestTrain : Statement .extestTrain := of_any _
theorem bypass (opcode : BitVec 8) : Statement (.bypass opcode) := of_any _
theorem tapReset : Statement .tapReset := of_any _
theorem registerWrite (fn : Fin 64) (win : Window) (off : Nat) (acc : RegAccess) (v : BitVec 64) : Statement (.registerWrite fn win off acc v) := of_any _
theorem linkRetryLimit (link : DieLink) : Statement (.linkRetryLimit link) := of_any _
theorem hostReadTimeout (ch : Fin 32) : Statement (.hostReadTimeout ch) := of_any _
theorem msixUnmask (fn : Fin 64) (vec : Option (Fin 64)) : Statement (.msixUnmask fn vec) := of_any _
theorem pmeStatusClear (fn : Fin 64) : Statement (.pmeStatusClear fn) := of_any _
theorem perstNDeassert : Statement .perstNDeassert := of_any _
theorem mirrorPortLinkChange (portB : Bool) (up : Bool) : Statement (.mirrorPortLinkChange portB up) := of_any _
theorem mirrorFrameDrop (portB : Bool) (f : MirrorFrame) : Statement (.mirrorFrameDrop portB f) := of_any _
theorem ssdReady (p : Fin 4) (id : SsdIdentity) : Statement (.ssdReady p id) := of_any _
theorem ssdReadyTimeout (p : Fin 4) : Statement (.ssdReadyTimeout p) := of_any _
theorem ssdShutdownComplete (p : Fin 4) : Statement (.ssdShutdownComplete p) := of_any _
theorem channelSample (ch : Fin 64) (raw : BitVec 12) : Statement (.channelSample ch raw) := of_any _

end Sys2Proof.Laws.NoWord
end

