-- ==== Sys2Proof/Laws/Stays.lean ====
section
/-! SUPPORT. FRAME_NO, the key-match array and the bytes of module memory through the operations of the model: one lemma per
operation follows in the Stays files. The operations that move FRAME_NO have none; those that change the array or memory stay with
the flag true, which says nothing of the two; all others stay with any flag. -/

namespace Sys2Proof.Machine

variable {wr : Bool}

/-- t has the key-match array and the bytes of module memory of s, with the same symbols in error. -/
structure SameStore (s t : State) : Prop where
  kma : t.kma = s.kma
  bytes : t.mem.bytes = s.mem.bytes
  errors : t.dram.errors = s.dram.errors

/-- t is in the frame of s, and unless wr, it has the array and the memory of s when no error waits to be met. -/
structure Stays (wr : Bool) (s t : State) : Prop where
  number : t.frame.frameNo = s.frame.frameNo
  store : wr = false → SoundStore s → SameStore s t

/-- The state in a successful answer stays. -/
structure StaysE (wr : Bool) {ε : Type} (s : State) (r : Except ε State) : Prop where
  keep : ∀ t, r = .ok t → Stays wr s t

/-- The state in an answer, if there is one, stays. -/
structure StaysO (wr : Bool) (s : State) (r : Option State) : Prop where
  keep : ∀ t, r = some t → Stays wr s t

/-- The state of some progress, if there is any, stays. -/
structure StaysC (wr : Bool) {β : Type} (s : State) (r : Option (State × β)) : Prop where
  keep : ∀ p, r = some p → Stays wr s p.1

/-- The state an instruction's effect carries stays. -/
structure StaysEff (wr : Bool) (s : State) (e : Effect) : Prop where
  keep : ∀ t, e.state? = some t → Stays wr s t

/-- The state of a decode from a span, if it does not wait, stays. -/
structure StaysR (wr : Bool) (s : State) (r : SpanRun) : Prop where
  keep : ∀ t, r.state? = some t → Stays wr s t

/-- The state of one iteration of a repeat stays, whether it goes on or ends. -/
structure StaysS (wr : Bool) (s : State) (r : (State × Ctx) ⊕ Effect) : Prop where
  goes : ∀ p, r = .inl p → Stays wr s p.1
  ends : ∀ e, r = .inr e → StaysEff wr s e

/-- The next state of an outcome stays. -/
structure StaysOut (wr : Bool) (s : State) (o : Host.Outcome State Fault Refusal) : Prop where
  keep : ∀ t, o = .next t → Stays wr s t

theorem SameStore.trans {s t u : State} (h : SameStore s t) (g : SameStore t u) : SameStore s u :=
  ⟨g.kma.trans h.kma, g.bytes.trans h.bytes, g.errors.trans h.errors⟩

theorem SameStore.sound {s t : State} (h : SameStore s t) (g : SoundStore s) : SoundStore t :=
  ⟨by rw [h.kma]; exact g.cells, by rw [h.kma]; exact g.words, h.errors.trans g.symbols⟩

theorem Stays.refl (s : State) : Stays wr s s := ⟨rfl, fun _ _ => ⟨rfl, rfl, rfl⟩⟩

theorem Stays.trans {s t u : State} (h : Stays wr s t) (g : Stays wr t u) : Stays wr s u :=
  ⟨g.number.trans h.number, fun e k => (h.store e k).trans (g.store e ((h.store e k).sound k))⟩

theorem Stays.weaken {s t : State} (h : Stays false s t) : Stays wr s t := ⟨h.number, fun _ => h.store rfl⟩

/-- An operation that stays in the frame, and changes the store only where an error waits. -/
theorem Stays.ifSound {s u t : State} (h : Stays wr s u) (hn : Stays true u t) (hs : SoundStore u → SameStore u t) : Stays wr s t :=
  ⟨hn.number.trans h.number, fun e k => (h.store e k).trans (hs ((h.store e k).sound k))⟩

/-- An update of other fields stays. -/
theorem Stays.upd {s u t : State} (h : Stays wr s u) (hn : t.frame.frameNo = u.frame.frameNo) (hs : SameStore u t) : Stays wr s t :=
  ⟨hn.trans h.number, fun e k => (h.store e k).trans hs⟩

/-- An update of the array or of memory stays in the frame. -/
theorem Stays.updStore {s u t : State} (h : Stays true s u) (hn : t.frame.frameNo = u.frame.frameNo) : Stays true s t :=
  ⟨hn.trans h.number, fun e => nomatch e⟩

theorem stays_pair {β : Type} {s a : State} {b : β} (h : Stays wr s a) : Stays wr s (a, b).1 := h

theorem stays_fst {β : Type} {s a : State} {b : β} {p : State × β} (e : p = (a, b)) (h : Stays wr s p.1) : Stays wr s a := by
  subst e; exact h

theorem stays_snd {β : Type} {s a : State} {b : β} {p : β × State} (e : p = (b, a)) (h : Stays wr s p.2) : Stays wr s a := by
  subst e; exact h

theorem stays_ok {ε : Type} {s a : State} {p : Except ε State} (e : p = .ok a) (h : StaysE wr s p) : Stays wr s a := h.keep a e

theorem stays_some {s a : State} {p : Option State} (e : p = some a) (h : StaysO wr s p) : Stays wr s a := h.keep a e

theorem stays_someC {β : Type} {s a : State} {c : β} {p : Option (State × β)} (e : p = some (a, c)) (h : StaysC wr s p) : Stays wr s a :=
  h.keep _ e

theorem stays_inl {s a : State} {c : Ctx} {p : (State × Ctx) ⊕ Effect} (e : p = .inl (a, c)) (h : StaysS wr s p) : Stays wr s a :=
  h.goes _ e

theorem stays_inr {s : State} {f : Effect} {p : (State × Ctx) ⊕ Effect} (e : p = .inr f) (h : StaysS wr s p) : StaysEff wr s f :=
  h.ends _ e

theorem staysE_ok {ε : Type} {s a : State} (h : Stays wr s a) : StaysE wr (ε := ε) s (.ok a) := ⟨fun _ e => Except.ok.inj e ▸ h⟩

theorem staysE_error {ε : Type} {s : State} (x : ε) : StaysE wr s (.error x) := ⟨fun _ e => nomatch e⟩

theorem staysO_some {s a : State} (h : Stays wr s a) : StaysO wr s (some a) := ⟨fun _ e => Option.some.inj e ▸ h⟩

theorem staysO_none {s : State} : StaysO wr s none := ⟨fun _ e => nomatch e⟩

theorem staysC_some {β : Type} {s : State} {p : State × β} (h : Stays wr s p.1) : StaysC wr s (some p) := ⟨fun _ e => Option.some.inj e ▸ h⟩

theorem staysC_none {β : Type} {s : State} : StaysC wr (β := β) s none := ⟨fun _ e => nomatch e⟩

theorem staysOut_next {s a : State} (h : Stays wr s a) : StaysOut wr s (.next a) := ⟨fun _ e => Host.Outcome.next.inj e ▸ h⟩

theorem staysOut_fault {s : State} {f : Fault} : StaysOut wr s (.fault f) := ⟨fun _ e => nomatch e⟩

theorem staysR_wait {s : State} {x : Nat} : StaysR wr s (.wait x) := ⟨fun _ e => nomatch e⟩

theorem staysR_over {s a : State} {o : DecodeOut} (h : Stays wr s a) : StaysR wr s (.over a o) := ⟨fun _ e => Option.some.inj e ▸ h⟩

theorem staysR_more {s a : State} {o : DecodeOut} (h : Stays wr s a) : StaysR wr s (.more a o) := ⟨fun _ e => Option.some.inj e ▸ h⟩

theorem stays_of_over {s a : State} {o : DecodeOut} {r : SpanRun} (e : r = .over a o) (h : StaysR wr s r) : Stays wr s a := by
  subst e; exact h.keep a rfl

theorem stays_of_more {s a : State} {o : DecodeOut} {r : SpanRun} (e : r = .more a o) (h : StaysR wr s r) : Stays wr s a := by
  subst e; exact h.keep a rfl

/-- A fold of keeping steps stays. -/
theorem stays_foldl {α : Type} {s i : State} {f : State → α → State} {l : List α} (hf : ∀ a x, Stays wr s a → Stays wr s (f a x))
    (hi : Stays wr s i) : Stays wr s (l.foldl f i) := by
  induction l generalizing i with
  | nil => exact hi
  | cons x r ih => exact ih (hf i x hi)

theorem stays_foldl_fst {α β : Type} {s : State} {i : State × β} {f : State × β → α → State × β} {l : List α}
    (hf : ∀ p x, Stays wr s p.1 → Stays wr s (f p x).1) (hi : Stays wr s i.1) : Stays wr s (l.foldl f i).1 := by
  induction l generalizing i with
  | nil => exact hi
  | cons x r ih => exact ih (hf i x hi)

theorem stays_foldl_snd {α β : Type} {s : State} {i : β × State} {f : β × State → α → β × State} {l : List α}
    (hf : ∀ p x, Stays wr s p.2 → Stays wr s (f p x).2) (hi : Stays wr s i.2) : Stays wr s (l.foldl f i).2 := by
  induction l generalizing i with
  | nil => exact hi
  | cons x r ih => exact ih (hf i x hi)

theorem stays_foldl_E {α ε : Type} {s : State} {i : Except ε State} {f : Except ε State → α → Except ε State} {l : List α}
    (hf : ∀ p x, StaysE wr s p → StaysE wr s (f p x)) (hi : StaysE wr s i) : StaysE wr s (l.foldl f i) := by
  induction l generalizing i with
  | nil => exact hi
  | cons x r ih => exact ih (hf i x hi)

theorem stays_foldl_O {α : Type} {s : State} {i : Option State} {f : Option State → α → Option State} {l : List α}
    (hf : ∀ p x, StaysO wr s p → StaysO wr s (f p x)) (hi : StaysO wr s i) : StaysO wr s (l.foldl f i) := by
  induction l generalizing i with
  | nil => exact hi
  | cons x r ih => exact ih (hf i x hi)

theorem stays_foldl_C {α β : Type} {s : State} {i : Option (State × β)} {f : Option (State × β) → α → Option (State × β)}
    {l : List α} (hf : ∀ p x, StaysC wr s p → StaysC wr s (f p x)) (hi : StaysC wr s i) : StaysC wr s (l.foldl f i) := by
  induction l generalizing i with
  | nil => exact hi
  | cons x r ih => exact ih (hf i x hi)

theorem stays_foldl_Eff {α : Type} {s : State} {i : Effect} {f : Effect → α → Effect} {l : List α}
    (hf : ∀ p x, StaysEff wr s p → StaysEff wr s (f p x)) (hi : StaysEff wr s i) : StaysEff wr s (l.foldl f i) := by
  induction l generalizing i with
  | nil => exact hi
  | cons x r ih => exact ih (hf i x hi)

theorem stays_foldl_R {α : Type} {s : State} {i : SpanRun} {f : SpanRun → α → SpanRun} {l : List α}
    (hf : ∀ a x, StaysR wr s a → StaysR wr s (f a x)) (hi : StaysR wr s i) : StaysR wr s (l.foldl f i) := by
  induction l generalizing i with
  | nil => exact hi
  | cons x r ih => exact ih (hf i x hi)

theorem staysE_bind {ε : Type} {s : State} {m : Except ε State} {f : State → Except ε State} (hm : StaysE wr s m)
    (hf : ∀ a, Stays wr s a → StaysE wr s (f a)) : StaysE wr s (m >>= f) := by
  cases m with
  | error x => exact staysE_error x
  | ok a => exact hf a (hm.keep a rfl)

/-- A record update that leaves FRAME_NO, the array and the memory bytes stays. -/
theorem stays_mk {s : State} {q e f wk t m d c k di h mv ev dg p he mi hl mo b wi bd pr pi fr} :
    Stays wr s (State.mk q e f wk t m d c k di h mv ev dg p he mi hl mo b wi bd pr pi fr) ↔
      f.frameNo = s.frame.frameNo ∧
        (wr = false → SoundStore s → k = s.kma ∧ m.bytes = s.mem.bytes ∧ d.errors = s.dram.errors) :=
  ⟨fun g => ⟨g.number, fun e x => ⟨(g.store e x).kma, (g.store e x).bytes, (g.store e x).errors⟩⟩,
    fun g => ⟨g.1, fun e x => ⟨(g.2 e x).1, (g.2 e x).2.1, (g.2 e x).2.2⟩⟩⟩

theorem stays_upd {s u : State} (g : Stays wr s u) :
    u.frame.frameNo = s.frame.frameNo ∧
      (wr = false → SoundStore s → u.kma = s.kma ∧ u.mem.bytes = s.mem.bytes ∧ u.dram.errors = s.dram.errors) :=
  ⟨g.number, fun e x => ⟨(g.store e x).kma, (g.store e x).bytes, (g.store e x).errors⟩⟩

theorem stays_mkStore {s : State} {q e f wk t m d c k di h mv ev dg p he mi hl mo b wi bd pr pi fr} :
    Stays true s (State.mk q e f wk t m d c k di h mv ev dg p he mi hl mo b wi bd pr pi fr) ↔ f.frameNo = s.frame.frameNo :=
  ⟨fun g => g.number, fun g => ⟨g, fun e => nomatch e⟩⟩

theorem stays_updStore {s u : State} (g : Stays true s u) : u.frame.frameNo = s.frame.frameNo := g.number

theorem staysEff_done {s a : State} {c : Ctx} (h : Stays wr s a) : StaysEff wr s (.done a c) := ⟨fun _ e => Option.some.inj e ▸ h⟩

theorem staysEff_trap {s a : State} {x y : Nat} {v w : Word} {c : Ctx} (h : Stays wr s a) : StaysEff wr s (.trap x y v w a c) :=
  ⟨fun _ e => Option.some.inj e ▸ h⟩

theorem staysEff_wait {s a : State} {x : Nat} {c : Ctx} (h : Stays wr s a) : StaysEff wr s (.wait x a c) :=
  ⟨fun _ e => Option.some.inj e ▸ h⟩

theorem staysEff_fail {s a : State} {x : Nat} {c : Ctx} (h : Stays wr s a) : StaysEff wr s (.fail x a c) :=
  ⟨fun _ e => Option.some.inj e ▸ h⟩

theorem staysEff_stall {s : State} : StaysEff wr s .stall := ⟨fun _ e => nomatch e⟩

theorem staysS_inl {s : State} {p : State × Ctx} (h : Stays wr s p.1) : StaysS wr s (.inl p) :=
  ⟨fun _ e => Sum.inl.inj e ▸ h, (fun _ e => nomatch e)⟩

theorem staysS_inr {s : State} {f : Effect} (h : StaysEff wr s f) : StaysS wr s (.inr f) :=
  ⟨(fun _ e => nomatch e), fun _ e => Sum.inr.inj e ▸ h⟩

theorem stays_of_done {s a : State} {c : Ctx} {f : Effect} (e : f = .done a c) (h : StaysEff wr s f) : Stays wr s a := by
  subst e; exact h.keep a rfl

theorem stays_of_trap {s a : State} {x y : Nat} {v w : Word} {c : Ctx} {f : Effect} (e : f = .trap x y v w a c) (h : StaysEff wr s f) :
    Stays wr s a := by subst e; exact h.keep a rfl

theorem stays_of_wait {s a : State} {x : Nat} {c : Ctx} {f : Effect} (e : f = .wait x a c) (h : StaysEff wr s f) : Stays wr s a := by
  subst e; exact h.keep a rfl

theorem stays_of_fail {s a : State} {x : Nat} {c : Ctx} {f : Effect} (e : f = .fail x a c) (h : StaysEff wr s f) : Stays wr s a := by
  subst e; exact h.keep a rfl

end Sys2Proof.Machine
end

