-- ==== Sys2Proof/Laws/StaysOps.lean ====
section
/-! SUPPORT. The memory, work-table, engine-area, tile and Mover operations stay. -/

namespace Sys2Proof.Machine

variable {wr : Bool}

/-! ### Ops -/

theorem State.setTile_stays {s0 : State} (s : State) (t : Fin 64) (x : Tile) (hk : Stays wr s0 s) : Stays wr s0 (State.setTile s t x) :=
  Stays.upd hk rfl ⟨rfl, rfl, rfl⟩

theorem State.updEntry_stays {s0 : State} (s : State) (slot : Nat) (f : WorkEntry → WorkEntry) (hk : Stays wr s0 s) : Stays wr s0 (State.updEntry s slot f) :=
  Stays.upd hk rfl ⟨rfl, rfl, rfl⟩

theorem State.holdWrite_stays {s0 : State} (s : State) (w : HeldWrite) (hk : Stays wr s0 s) : Stays wr s0 (State.holdWrite s w) :=
  Stays.upd hk rfl ⟨rfl, rfl, rfl⟩

theorem State.emitHost_stays {s0 : State} (s : State) (w : HostWrite) (hk : Stays wr s0 s) : Stays wr s0 (State.emitHost s w) :=
  Stays.upd hk rfl ⟨rfl, rfl, rfl⟩

theorem State.sendHost_stays {s0 : State} (s : State) (inst : Nat) (w : HostWrite) (hk : Stays wr s0 s) : Stays wr s0 (State.sendHost s inst w) := by
  unfold State.sendHost
  repeat' first | (with_reducible first | assumption | apply State.holdWrite_stays | apply State.emitHost_stays) | split

theorem State.signalVector_stays {s0 : State} (s : State) (inst : Nat) (vec : Nat) (hk : Stays wr s0 s) : Stays wr s0 (State.signalVector s inst vec) := by
  unfold State.signalVector
  dsimp only
  repeat' first | (with_reducible first | assumption | apply State.sendHost_stays) | (simp only [stays_mk]; refine stays_upd ?_) | split

theorem State.raiseVector_stays {s0 : State} (s : State) (inst : Nat) (vec : Nat) (hk : Stays wr s0 s) : Stays wr s0 (State.raiseVector s inst vec) := by
  unfold State.raiseVector
  repeat' first | (with_reducible first | assumption | apply State.signalVector_stays) | (simp only [stays_mk]; refine stays_upd ?_) | split

theorem State.raiseAt_stays {s0 : State} (s : State) (code : Nat) (severity : Nat) (loc : Nat) (detail : Nat) (arg : Nat) (hk : Stays wr s0 s) : Stays wr s0 (State.raiseAt s code severity loc detail arg) := by
  unfold State.raiseAt
  repeat' first | (with_reducible first | assumption | apply State.raiseVector_stays) | (simp only [stays_mk]; refine stays_upd ?_) | split

theorem State.cacheFault_stays {s0 : State} (s : State) (x : CacheError) (hk : Stays wr s0 s) : Stays wr s0 (State.cacheFault s x) :=
  State.raiseAt_stays _ _ _ _ _ _ hk

theorem State.cacheDrop_stays {s0 : State} (s : State) (ma : Nat) (hk : Stays wr s0 s) : Stays wr s0 (State.cacheDrop s ma) :=
  Stays.upd hk rfl ⟨rfl, rfl, rfl⟩

theorem State.meetCacheError_stays {s0 : State} (s : State) (x : CacheError) (hk : Stays wr s0 s) : Stays wr s0 (State.meetCacheError s x) := by
  unfold State.meetCacheError
  repeat' first | (with_reducible first | assumption | apply State.cacheFault_stays | apply State.cacheDrop_stays) | (simp only [stays_mk]; refine stays_upd ?_) | split

theorem State.meetCacheErrors_stays {s0 : State} (s : State) (ma : Nat) (hk : Stays wr s0 s) : Stays wr s0 (State.meetCacheErrors s ma) := by
  unfold State.meetCacheErrors
  try dsimp only
  repeat' first | intro _ | (with_reducible first | assumption | apply State.meetCacheError_stays | apply stays_foldl) | split

theorem State.cacheFill_stays {s0 : State} (s : State) (ma : Nat) (who : Nat) (recalled : Bool) (hk : Stays wr s0 s) : Stays wr s0 (State.cacheFill s ma who recalled) :=
  Stays.upd hk rfl ⟨rfl, rfl, rfl⟩

theorem State.cacheLookup_stays {s0 : State} (s1 : State) (ma : Nat) (who : Nat) (mayFill : Bool) (hk : Stays wr s0 s1) : Stays wr s0 (State.cacheLookup s1 ma who mayFill).1 := by
  unfold State.cacheLookup
  dsimp only
  repeat' first | (with_reducible first | assumption | apply State.meetCacheErrors_stays | apply State.cacheFill_stays) | (simp only [stays_mk]; refine stays_upd ?_) | split

theorem State.channelFault_stays {s0 : State} (s : State) (c : Nat) (event : Nat) (burst : Nat) (ma : Nat) (hk : Stays wr s0 s) : Stays wr s0 (State.channelFault s c event burst ma) :=
  State.raiseAt_stays _ _ _ _ _ _ hk

theorem State.poisonUnit_stays {s0 : State} (s : State) (ma : Nat) (event : Nat) (burst : Nat) (hk : Stays wr s0 s) : Stays wr s0 (State.poisonUnit s ma event burst) := by
  unfold State.poisonUnit
  repeat' first | (with_reducible first | assumption | apply State.channelFault_stays) | (simp only [stays_mk]; refine stays_upd ?_) | split

theorem State.fresh_stays {s0 : State} (s : State) (hk : Stays wr s0 s) : Stays wr s0 (State.fresh s).2 :=
  Stays.upd hk rfl ⟨rfl, rfl, rfl⟩

theorem State.checkBurst_stays {s0 : State} (s : State) (symbols : Nat) (hk : Stays wr s0 s) : Stays wr s0 (State.checkBurst s symbols).2 := by
  unfold State.checkBurst
  repeat' first | (with_reducible first | assumption | apply State.fresh_stays) | split

theorem State.checkBursts_stays {s0 : State} (s : State) (l : Nat) (hk : Stays wr s0 s) : Stays wr s0 (State.checkBursts s l).2 := by
  unfold State.checkBursts
  try dsimp only
  repeat' first | intro _ | (with_reducible first | assumption | apply State.checkBurst_stays | apply stays_foldl | apply stays_foldl_fst | apply stays_foldl_snd | apply stays_foldl_E | apply stays_foldl_O | apply stays_foldl_C | apply stays_foldl_Eff | apply staysE_bind) | (simp only [stays_mk]; refine stays_upd ?_) | split

theorem State.alterBurst_stays {s0 : State} (s : State) (ma : Nat) (hk : Stays true s0 s) : Stays true s0 (State.alterBurst s ma) := by
  unfold State.alterBurst
  generalize leBytes 64 s.fresh.1 = bs
  exact ⟨hk.number, fun e => nomatch e⟩

theorem State.alterBursts_stays {s0 : State} (s : State) (ma : Nat) (l : List (BurstCheck × Nat)) (hk : Stays true s0 s) : Stays true s0 (State.alterBursts s ma l) := by
  unfold State.alterBursts
  try dsimp only
  repeat' first | intro _ | (with_reducible first | assumption | apply State.alterBurst_stays | apply stays_foldl) | split

theorem State.writeCheck_stays {s0 : State} (s : State) (l : Nat) (hk : Stays wr s0 s) : Stays wr s0 (State.writeCheck s l) :=
  Stays.upd hk rfl ⟨rfl, rfl, rfl⟩

theorem State.cleanUnit_frameStays {s0 : State} (s : State) (l : Nat) (hk : Stays true s0 s) : Stays true s0 (State.cleanUnit s l) := by
  unfold State.cleanUnit
  repeat' first | (with_reducible first | assumption | apply State.writeCheck_stays) | (simp only [stays_mkStore]; refine stays_updStore ?_) | split

theorem State.writeSlot_stays {s0 : State} (s : State) (slot : Nat) (bytes : List Byte) (hk : Stays true s0 s) :
    Stays true s0 (s.writeSlot slot bytes) := by
  unfold State.writeSlot
  refine stays_foldl (fun a l ha => State.writeCheck_stays a l ha) ?_
  exact ⟨hk.number, fun e => nomatch e⟩

theorem State.cleanUnit_stays {s0 : State} (s : State) (l : Nat) (hk : Stays wr s0 s) : Stays wr s0 (State.cleanUnit s l) := by
  refine hk.ifSound (State.cleanUnit_frameStays s l (Stays.refl s)) fun h => ⟨rfl, rfl, ?_⟩
  have e : (State.cleanUnit s l).dram.errors = s.dram.errors.filter fun p => lineOf p.1 != l := rfl
  rw [e, h.symbols]
  rfl

theorem State.correctUnit_stays {s0 : State} (s : State) (ma : Nat) (event : Nat) (burst : Nat) (hk : Stays wr s0 s) : Stays wr s0 (State.correctUnit s ma event burst) := by
  unfold State.correctUnit
  repeat' first | (with_reducible first | assumption | apply State.cleanUnit_stays | apply State.channelFault_stays) | (simp only [stays_mk]; refine stays_upd ?_) | split

theorem State.readUnit_frameStays {s0 : State} (s : State) (l : Nat) (scrub : Bool) (hk : Stays true s0 s) : Stays true s0 (State.readUnit s l scrub).1 := by
  unfold State.readUnit
  dsimp only
  repeat' first | (with_reducible first | assumption | apply State.poisonUnit_stays | apply State.checkBursts_stays | apply State.alterBursts_stays | apply State.correctUnit_stays | apply State.cleanUnit_stays) | split

theorem State.readUnit_stays {s0 : State} (s : State) (l : Nat) (scrub : Bool) (hk : Stays wr s0 s) :
    Stays wr s0 (State.readUnit s l scrub).1 := by
  refine hk.ifSound (State.readUnit_frameStays s l scrub (Stays.refl s)) fun h => ?_
  have all : (s.dram.errors.all fun p => lineOf p.1 != l) = true := by rw [h.symbols]; rfl
  unfold State.readUnit
  simp only [all, ↓reduceIte]
  split
  · exact (State.poisonUnit_stays s l _ _ (Stays.refl s)).store (wr := false) rfl h
  · exact ⟨rfl, rfl, rfl⟩

theorem State.updChannel_stays {s0 : State} (s : State) (c : Nat) (f : Channel → Channel) (hk : Stays wr s0 s) : Stays wr s0 (State.updChannel s c f) := by
  unfold State.updChannel
  split <;> exact Stays.upd hk rfl ⟨rfl, rfl, rfl⟩

theorem State.queueWrite_stays {s0 : State} (s : State) (ma : Nat) (hk : Stays wr s0 s) : Stays wr s0 (State.queueWrite s ma) :=
  State.updChannel_stays _ _ _ hk

theorem State.bufferLeave_stays {s0 : State} (s : State) (slice : Nat) (n : Nat) (hk : Stays wr s0 s) : Stays wr s0 (State.bufferLeave s slice n) := by
  unfold State.bufferLeave
  try dsimp only
  repeat' first | intro _ | (with_reducible first | assumption | apply State.queueWrite_stays | apply stays_foldl) | (simp only [stays_mk]; refine stays_upd ?_) | split

theorem State.bufferMatch_stays {s0 : State} (s : State) (ma : Nat) (hk : Stays wr s0 s) : Stays wr s0 (State.bufferMatch s ma) := by
  unfold State.bufferMatch
  dsimp only
  repeat' first | (with_reducible first | assumption | apply State.bufferLeave_stays) | split

theorem State.dramRead_stays {s0 : State} (s1 : State) (ma : Nat) (hk : Stays wr s0 s1) : Stays wr s0 (State.dramRead s1 ma) := by
  unfold State.dramRead
  dsimp only
  repeat' first | (with_reducible first | assumption | apply State.bufferMatch_stays | apply State.updChannel_stays) | (simp only [stays_mk]; refine stays_upd ?_) | split

theorem State.readLine_stays {s0 : State} (s : State) (ma : Nat) (who : Nat) (mayFill : Bool) (hk : Stays wr s0 s) : Stays wr s0 (State.readLine s ma who mayFill).1 := by
  unfold State.readLine
  dsimp only
  repeat' first | (with_reducible first | assumption | apply State.cacheLookup_stays | apply State.readUnit_stays | apply State.dramRead_stays | apply State.cacheFill_stays) | (simp only [stays_mk]; refine stays_upd ?_) | split

theorem State.readRange_stays {s0 : State} (s : State) (ma : Nat) (n : Nat) (who : Nat) (mayFill : Bool) (hk : Stays wr s0 s) : Stays wr s0 (State.readRange s ma n who mayFill).1 := by
  unfold State.readRange
  try dsimp only
  repeat' first | intro _ | (with_reducible first | assumption | apply State.readLine_stays | apply stays_foldl_fst) | split

theorem State.sumMerge_stays {s0 : State} (s : State) (bs : List Byte) (hk : Stays wr s0 s) : Stays wr s0 (State.sumMerge s bs) :=
  Stays.upd hk rfl ⟨rfl, rfl, rfl⟩

theorem State.markDirty_stays {s0 : State} (s : State) (slot : Nat) (hk : Stays wr s0 s) : Stays wr s0 (State.markDirty s slot) :=
  Stays.upd hk rfl ⟨rfl, rfl, rfl⟩

theorem State.dramWrite_stays {s0 : State} (s : State) (ma : Nat) (hk : Stays wr s0 s) : Stays wr s0 (State.dramWrite s ma) := by
  unfold State.dramWrite
  repeat' first | (with_reducible first | assumption | apply State.queueWrite_stays | apply State.bufferLeave_stays) | (simp only [stays_mk]; refine stays_upd ?_) | split

theorem State.writeLine_stays {s0 : State} (s : State) (l : Nat) (whole : Bool) (ps : List (Nat × List Byte)) (hk : Stays true s0 s) :
    Stays true s0 (s.writeLine l whole ps).1 := by
  have put : ∀ (u : State) (m : Sparse 8), Stays true s0 u → (sparseWf u.mem.bytes = true → sparseWf m = true) →
      Stays true s0 (((({ u with mem := { u.mem with bytes := m } } : State).cleanUnit l).dramWrite l).markDirty (l / slotBytes)) :=
    fun u m h g => State.markDirty_stays _ _ (State.dramWrite_stays _ _ (State.cleanUnit_stays _ _ ⟨h.number, fun e => nomatch e⟩))
  have hr := State.readUnit_stays ({ s with dram := { s.dram with partialWrites := s.dram.partialWrites + 1 } } : State) l false
    (Stays.updStore hk rfl)
  unfold State.writeLine
  cases whole
  · generalize State.readUnit _ l false = r at hr ⊢
    obtain ⟨u, ok⟩ := r
    cases ok
    · exact State.cacheDrop_stays _ _ hr
    · exact put _ _ hr fun w => putRuns_wf ps w
  · exact put { s with mem := { s.mem with poisoned := s.mem.poisoned.filter (· != l) } } _ (Stays.updStore hk rfl) fun w => putRuns_wf ps w

theorem State.writeMem_stays {s0 : State} (s : State) (ma : Nat) (bs : List Byte) (hk : Stays true s0 s) : Stays true s0 (State.writeMem s ma bs).1 := by
  unfold State.writeMem
  try dsimp only
  repeat' first | intro _ | (with_reducible first | assumption | apply State.writeLine_stays | apply stays_foldl_fst) | split

theorem State.setTimeBase_stays {s0 : State} (s : State) (v : Word) (hk : Stays wr s0 s) : Stays wr s0 (State.setTimeBase s v) := by
  unfold State.setTimeBase
  repeat' first | (with_reducible first | assumption | apply State.fresh_stays) | (simp only [stays_mk]; refine stays_upd ?_) | split

theorem State.askSlot_stays {s0 : State} (s : State) (slot : Nat) (hk : Stays wr s0 s) : Stays wr s0 (State.askSlot s slot) := by
  unfold State.askSlot
  split <;> exact Stays.upd hk rfl ⟨rfl, rfl, rfl⟩

theorem State.raise_stays {s0 : State} (s : State) (code : Nat) (severity : Nat) (arg : Nat) (hk : Stays wr s0 s) : Stays wr s0 (State.raise s code severity arg) :=
  State.raiseAt_stays _ _ _ _ _ _ hk

theorem State.sumStore_stays {s0 : State} (s : State) (ma : Nat) (bs : List Byte) (hk : Stays wr s0 s) : Stays wr s0 (State.sumStore s ma bs) :=
  Stays.upd hk rfl ⟨rfl, rfl, rfl⟩

theorem State.sumOutput_stays {s0 : State} (s : State) (crc : Nat) (hk : Stays wr s0 s) : Stays wr s0 (State.sumOutput s crc) :=
  Stays.upd hk rfl ⟨rfl, rfl, rfl⟩

theorem State.failEntry_stays {s0 : State} (s : State) (slot : Nat) (f : Failure) (hk : Stays wr s0 s) : Stays wr s0 (State.failEntry s slot f) :=
  State.updEntry_stays _ _ _ hk

theorem State.emptyBuffers_stays {s0 : State} (s : State) (hk : Stays wr s0 s) : Stays wr s0 (State.emptyBuffers s) := by
  unfold State.emptyBuffers
  try dsimp only
  repeat' first | intro _ | (with_reducible first | assumption | apply State.bufferLeave_stays | apply stays_foldl) | split

theorem State.setResident_stays {s0 : State} (s : State) (slot : Nat) (on : Bool) (hk : Stays wr s0 s) : Stays wr s0 (State.setResident s slot on) := by
  unfold State.setResident
  split <;> exact Stays.upd hk rfl ⟨rfl, rfl, rfl⟩

theorem State.strikeUnit_stays {s0 : State} (s : State) (l : Nat) (symbols : List Nat) (hk : Stays true s0 s) : Stays true s0 (State.strikeUnit s l symbols) :=
  Stays.updStore hk rfl

/-! ### EngineArea -/

theorem State.writeTable_stays {s0 : State} (s : State) (o : Nat) (v : Byte) (hk : Stays wr s0 s) : Stays wr s0 (State.writeTable s o v) :=
  Stays.upd hk rfl ⟨rfl, rfl, rfl⟩

theorem State.writeResidency_stays {s0 : State} (s : State) (o : Nat) (v : Byte) (hk : Stays wr s0 s) : Stays wr s0 (State.writeResidency s o v) := by
  unfold State.writeResidency
  try dsimp only
  repeat' first | intro _ | (with_reducible first | assumption | apply State.setResident_stays | apply stays_foldl) | split

theorem State.writeFirmware_stays {s0 : State} (s : State) (o : Nat) (v : Byte) (hk : Stays wr s0 s) : Stays wr s0 (State.writeFirmware s o v) := by
  unfold State.writeFirmware
  repeat' split
  all_goals exact Stays.upd hk rfl ⟨rfl, rfl, rfl⟩

theorem State.writeEngine_stays {s0 : State} (s : State) (o : Nat) (v : Byte) (hk : Stays wr s0 s) : Stays wr s0 (State.writeEngine s o v) := by
  unfold State.writeEngine
  dsimp only
  repeat' first | (with_reducible first | assumption | apply State.writeTable_stays | apply State.writeResidency_stays | apply State.writeFirmware_stays) | split

theorem State.moduleWrite_stays {s0 : State} (s : State) (ma : Nat) (bs : List Byte) (hk : Stays true s0 s) : Stays true s0 (State.moduleWrite s ma bs) := by
  unfold State.moduleWrite
  try dsimp only
  repeat' first | intro _ | (with_reducible first | assumption | apply State.writeMem_stays | apply State.writeEngine_stays | apply stays_foldl) | split

/-! ### TileOps -/

theorem State.noteWrite_stays {s0 : State} (s : State) (d : BitVec 192) (off : Nat) (n : Nat) (hk : Stays true s0 s) : Stays true s0 (State.noteWrite s d off n) := by
  unfold State.noteWrite
  repeat' first | (with_reducible first | assumption | apply State.writeMem_stays) | split

theorem State.failRestore_stays {s0 : State} (s : State) (status : Nat) (hk : Stays wr s0 s) : Stays wr s0 (State.failRestore s status) :=
  Stays.upd hk rfl ⟨rfl, rfl, rfl⟩

theorem State.awaitSlot_stays {s0 : State} (s : State) (slot : Nat) (hk : Stays wr s0 s) : Stays wr s0 (State.awaitSlot s slot) := by
  unfold State.awaitSlot
  repeat' first | (with_reducible first | assumption | apply State.failRestore_stays | apply State.askSlot_stays) | split

theorem State.setHead_stays {s0 : State} (s : State) (t : Fin 64) (c : Ctx) (hk : Stays wr s0 s) : Stays wr s0 (State.setHead s t c) :=
  State.setTile_stays _ _ _ hk

theorem State.yieldTile_stays {s0 : State} (s : State) (t : Fin 64) (hk : Stays wr s0 s) : Stays wr s0 (State.yieldTile s t) :=
  State.setTile_stays _ _ _ hk

theorem State.tileFail_stays {s0 : State} (s : State) (t : Fin 64) (c : Ctx) (status : Nat) (detail : Nat) (hk : Stays wr s0 s) : Stays wr s0 (State.tileFail s t c status detail) := by
  unfold State.tileFail
  repeat' first | (with_reducible first | assumption | apply State.yieldTile_stays | apply State.failEntry_stays | apply State.setHead_stays) | split

theorem State.takeTrap_stays {s0 : State} (s : State) (t : Fin 64) (c : Ctx) (w : Word) (cause : Nat) (status : Nat) (addr : Word) (info : Word) (hk : Stays wr s0 s) : Stays wr s0 (State.takeTrap s t c w cause status addr info) := by
  unfold State.takeTrap
  repeat' first | (with_reducible first | assumption | apply State.tileFail_stays | apply State.setHead_stays) | split

theorem State.tileWaits_stays {s0 : State} (s : State) (t : Fin 64) (c : Ctx) (slot : Nat) (hk : Stays wr s0 s) : Stays wr s0 (State.tileWaits s t c slot) := by
  unfold State.tileWaits
  repeat' first | (with_reducible first | assumption | apply State.yieldTile_stays | apply State.setHead_stays | apply State.awaitSlot_stays) | split

theorem State.conclude_stays {s0 : State} (s : State) (t : Fin 64) (w : Word) (f : Effect) (hk : Stays wr s0 s) (h : StaysEff wr s0 f) :
    Stays wr s0 (s.conclude t w f) := by
  cases f with
  | done a c => exact State.setHead_stays _ _ _ (h.keep a rfl)
  | trap x y v z a c => exact State.takeTrap_stays _ _ _ _ _ _ _ _ (h.keep a rfl)
  | wait x a c => exact State.tileWaits_stays _ _ _ _ (h.keep a rfl)
  | fail x a c => exact State.tileFail_stays _ _ _ _ _ (h.keep a rfl)
  | stall => exact hk

theorem State.endResetWaits_stays {s0 : State} (s : State) (hk : Stays wr s0 s) : Stays wr s0 (State.endResetWaits s) :=
  Stays.upd hk rfl ⟨rfl, rfl, rfl⟩

theorem scratchTrap_stays {s0 : State} (index : Nat) (lane : Nat) (store : Bool) (s : State) (c : Ctx) (hk : Stays wr s0 s) : StaysEff wr s0 (scratchTrap index lane store s c) := by
  unfold scratchTrap
  repeat' first | (with_reducible first | assumption | apply staysEff_done | apply staysEff_trap | apply staysEff_wait | apply staysEff_fail | exact staysEff_stall) | split

theorem stepOn_stays {s0 : State} (s : State) (c : Ctx) (hk : Stays wr s0 s) : StaysEff wr s0 (stepOn s c) := by
  unfold stepOn
  repeat' first | (with_reducible first | assumption | apply staysEff_done | apply staysEff_trap | apply staysEff_wait | apply staysEff_fail | exact staysEff_stall) | split

theorem runInstr_stays {s0 : State} (t : Fin 64) (w : Word) (wh : Where) (reserved : Image → Bool)
    (sem : State → Ctx → WorkEntry → Image → Effect) (s : State) (hk : Stays wr s0 s)
    (hs : ∀ u c e img, Stays wr s0 u → StaysEff wr s0 (sem u c e img)) : Stays wr s0 (runInstr t w wh reserved sem s) := by
  unfold runInstr
  split
  · exact hk
  · repeat' split
    · exact State.yieldTile_stays _ _ hk
    · exact State.takeTrap_stays _ _ _ _ _ _ _ _ hk
    · exact hk
    · exact State.takeTrap_stays _ _ _ _ _ _ _ _ hk
    · exact State.conclude_stays _ _ _ _ hk (hs _ _ _ _ hk)

theorem branchTo_stays {s0 : State} (target : BitVec 14) (s : State) (c : Ctx) (before : Ctx) (hk : Stays wr s0 s) : StaysEff wr s0 (branchTo target s c before) := by
  unfold branchTo
  repeat' first | (with_reducible first | assumption | apply staysEff_done | apply staysEff_trap | apply staysEff_wait | apply staysEff_fail | exact staysEff_stall) | split

theorem segTrap_stays {s0 : State} (check : Nat) (lane : Nat) (store : Bool) (addr : Word) (s : State) (c : Ctx) (hk : Stays wr s0 s) : StaysEff wr s0 (segTrap check lane store addr s c) := by
  unfold segTrap
  repeat' first | (with_reducible first | assumption | apply staysEff_done | apply staysEff_trap | apply staysEff_wait | apply staysEff_fail | exact staysEff_stall) | split

theorem withLines_stays {s0 : State} (s : State) (c : Ctx) (e : WorkEntry) (mas : List Nat) (k : State → Effect) (hk : Stays wr s0 s)
    (hs : ∀ u, Stays wr s0 u → StaysEff wr s0 (k u)) : StaysEff wr s0 (withLines s c e mas k) := by
  unfold withLines
  split
  · split
    · exact staysEff_fail hk
    · exact staysEff_wait hk
  · dsimp only
    have h1 : ∀ l : List Nat, Stays wr s0 (l.foldl (fun (p : State × Bool) l =>
        let (s', b) := p.1.readLine l e.inst true; (s', p.2 && b)) (s, true)).1 :=
      fun l => stays_foldl_fst (fun p x h => State.readLine_stays _ _ _ _ h) hk
    split
    · exact hs _ (h1 _)
    · exact staysEff_fail (h1 _)

theorem withStores_stays {s0 : State} (s : State) (c : Ctx) (ws : List (Nat × List Byte)) (k : State → Effect) (hk : Stays true s0 s)
    (hs : ∀ u, Stays true s0 u → StaysEff true s0 (k u)) : StaysEff true s0 (withStores s c ws k) := by
  unfold withStores
  split
  · split
    · exact staysEff_fail hk
    · exact staysEff_wait hk
  · dsimp only
    have h1 : Stays true s0 (((ws.map fun w => lineOf w.1).foldr (fun x r => if r.contains x then r else x :: r) []).foldl
        (fun (p : State × Bool) l =>
          let ps := ws.filter fun w => lineOf w.1 == l
          let (s', b) := p.1.writeLine l (ps.any fun w => w.2.length == 192) ps
          (s', p.2 && b)) (s, true)).1 :=
      stays_foldl_fst (fun p x h => State.writeLine_stays _ _ _ _ h) hk
    have h2 : Stays true s0 (ws.foldl (fun (x : State) (w : Nat × List Byte) => x.sumStore w.1 w.2) (((ws.map fun w => lineOf w.1).foldr
        (fun x r => if r.contains x then r else x :: r) []).foldl (fun (p : State × Bool) l =>
          let ps := ws.filter fun w => lineOf w.1 == l
          let (s', b) := p.1.writeLine l (ps.any fun w => w.2.length == 192) ps
          (s', p.2 && b)) (s, true)).1) :=
      stays_foldl (fun a x h => State.sumStore_stays _ _ _ h) h1
    repeat' split
    all_goals first | exact hs _ h2 | exact hs _ h1 | exact staysEff_fail h2 | exact staysEff_fail h1

/-! ### Mover -/

theorem State.pulse_stays {s0 : State} (s : State) (ch : Nat) (k : PulseKind) (d : MoverDesc) (hk : Stays wr s0 s) : Stays wr s0 (State.pulse s ch k d) :=
  Stays.upd hk rfl ⟨rfl, rfl, rfl⟩

theorem State.releaseCarafe_stays {s0 : State} (s : State) (d : MoverDesc) (hk : Stays wr s0 s) : Stays wr s0 (State.releaseCarafe s d) := by
  unfold State.releaseCarafe
  repeat' first | (with_reducible first | assumption | apply State.setTile_stays) | split

theorem State.carafeSignalled_stays {s0 : State} (s : State) (d : MoverDesc) (hk : Stays wr s0 s) : Stays wr s0 (State.carafeSignalled s d) := by
  unfold State.carafeSignalled
  repeat' first | (with_reducible first | assumption | apply State.updEntry_stays) | split

theorem State.lateStatus_stays {s0 : State} (s : State) (entry : Option Nat) (st : Nat) (hk : Stays wr s0 s) : Stays wr s0 (State.lateStatus s entry st) := by
  unfold State.lateStatus
  repeat' first | (with_reducible first | assumption | apply State.updEntry_stays) | split

theorem State.errPulse_stays {s0 : State} (s : State) (ch : Nat) (d : MoverDesc) (hk : Stays wr s0 s) : Stays wr s0 (State.errPulse s ch d) := by
  unfold State.errPulse
  repeat' first | (with_reducible first | assumption | apply State.pulse_stays | apply State.releaseCarafe_stays | apply State.carafeSignalled_stays | apply State.lateStatus_stays) | (simp only [stays_mk]; refine stays_upd ?_) | split

theorem State.setChannel_stays {s0 : State} (s : State) (ch : Fin 32) (x : MvChannel) (hk : Stays wr s0 s) : Stays wr s0 (State.setChannel s ch x) :=
  Stays.upd hk rfl ⟨rfl, rfl, rfl⟩

theorem State.closeHeld_stays {s0 : State} (s : State) (ch : Nat) (d : MoverDesc) (hk : Stays wr s0 s) : Stays wr s0 (State.closeHeld s ch d) :=
  Stays.upd hk rfl ⟨rfl, rfl, rfl⟩

theorem State.abandon_stays {s0 : State} (s : State) (ch : Fin 32) (d : MoverDesc) (cause : Nat) (hk : Stays wr s0 s) : Stays wr s0 (State.abandon s ch d cause) := by
  unfold State.abandon
  repeat' first | (with_reducible first | assumption | apply State.errPulse_stays | apply State.setChannel_stays | apply State.closeHeld_stays) | split

theorem State.countBytes_stays {s0 : State} (s : State) (ch : Nat) (n : Nat) (hk : Stays wr s0 s) : Stays wr s0 (State.countBytes s ch n) :=
  Stays.upd hk rfl ⟨rfl, rfl, rfl⟩

theorem State.carried_stays {s0 : State} (s : State) (ch : Fin 32) (d : MoverDesc) (n : Nat) (hk : Stays wr s0 s) : Stays wr s0 (State.carried s ch d n) := by
  unfold State.carried
  repeat' first | (with_reducible first | assumption | apply State.pulse_stays | apply State.countBytes_stays) | split

theorem State.persistRead_stays {s0 : State} (s : State) (ma : Nat) (n : Nat) (hk : Stays wr s0 s) : Stays wr s0 (State.persistRead s ma n) := by
  unfold State.persistRead
  repeat' first | (with_reducible first | assumption | apply State.fresh_stays | apply State.carried_stays) | split

theorem State.wrPulse_stays {s0 : State} (s : State) (ch : Nat) (d : MoverDesc) (hk : Stays wr s0 s) : Stays wr s0 (State.wrPulse s ch d) := by
  unfold State.wrPulse
  repeat' first | (with_reducible first | assumption | apply State.carafeSignalled_stays | apply State.pulse_stays) | split

theorem State.releaseWrite_stays {s0 : State} (s : State) (w : HeldWrite) (discard : Bool) (hk : Stays wr s0 s) : Stays wr s0 (State.releaseWrite s w discard) := by
  unfold State.releaseWrite
  repeat' first | (with_reducible first | assumption | apply State.sendHost_stays | apply State.carried_stays | apply State.fresh_stays | apply State.countBytes_stays | apply State.wrPulse_stays) | split

theorem State.endHold_stays {s0 : State} (s : State) (inst : Nat) (hk : Stays wr s0 s) : Stays wr s0 (State.endHold s inst) :=
  Stays.upd hk rfl ⟨rfl, rfl, rfl⟩

theorem State.frontWrite_stays {s0 : State} (s : State) (inst : Nat) (addr : Nat) (bs : List Byte) (hk : Stays wr s0 s) : Stays wr s0 (State.frontWrite s inst addr bs) := by
  unfold State.frontWrite
  repeat' first | (with_reducible first | assumption | apply State.sendHost_stays | apply State.carried_stays | apply State.fresh_stays) | split

theorem State.dropDesc_stays {s0 : State} (s : State) (ch : Fin 32) (d : MoverDesc) (hk : Stays wr s0 s) : Stays wr s0 (State.dropDesc s ch d) := by
  unfold State.dropDesc
  repeat' first | (with_reducible first | assumption | apply State.errPulse_stays | apply State.setChannel_stays) | split

theorem State.dropChain_stays {s0 : State} (s : State) (ch : Fin 32) (n : Nat) (seen : List Nat) (a : Nat) (hk : Stays wr s0 s) :
    Stays wr s0 (State.dropChain s ch n seen a) := by
  induction n generalizing s seen a with
  | zero => exact hk
  | succ n ih =>
    unfold State.dropChain
    split
    · exact hk
    · exact ih _ _ _ (State.dropDesc_stays _ _ _ hk)

theorem State.dropHead_stays {s0 : State} (s : State) (ch : Fin 32) (h : ChainHead) (hk : Stays wr s0 s) : Stays wr s0 (State.dropHead s ch h) := by
  unfold State.dropHead
  repeat' first | (with_reducible first | assumption | apply State.dropDesc_stays | apply State.dropChain_stays) | split

theorem State.appendHead_stays {s0 : State} (s : State) (ch : Fin 32) (h : ChainHead) (hk : Stays wr s0 s) : Stays wr s0 (State.appendHead s ch h) := by
  unfold State.appendHead
  dsimp only
  repeat' first | (with_reducible first | assumption | apply State.dropHead_stays | apply State.setChannel_stays) | split

theorem State.carryFails_stays {s0 : State} (s : State) (ch : Fin 32) (d : MoverDesc) (n : Nat) (cause : Nat) (hk : Stays wr s0 s) : Stays wr s0 (State.carryFails s ch d n cause) := by
  unfold State.carryFails
  repeat' first | (with_reducible first | assumption | apply State.countBytes_stays | apply State.errPulse_stays | apply State.setChannel_stays) | split

theorem State.finishSquash_stays {s0 : State} (s : State) (n : Nat) (f : Nat) (hk : Stays wr s0 s) : Stays wr s0 (State.finishSquash s n f) :=
  Stays.upd hk rfl ⟨rfl, rfl, rfl⟩

theorem State.resetDone_stays {s0 : State} (s : State) (n : Nat) (f : Nat) (hk : Stays wr s0 s) : Stays wr s0 (State.resetDone s n f) := by
  unfold State.resetDone
  repeat' first | (with_reducible first | assumption | apply State.raise_stays | apply State.finishSquash_stays) | (simp only [stays_mk]; refine stays_upd ?_) | split

theorem State.completeDrained_stays {s0 : State} (s : State) (f : Nat) (hk : Stays wr s0 s) : Stays wr s0 (State.completeDrained s f) := by
  unfold State.completeDrained
  try dsimp only
  repeat' first | intro _ | (with_reducible first | assumption | apply State.resetDone_stays | apply stays_foldl) | (simp only [stays_mk]; refine stays_upd ?_) | split

theorem State.drainedResets_stays {s0 : State} (s : State) (hk : Stays wr s0 s) : Stays wr s0 (State.drainedResets s) :=
  State.completeDrained_stays _ _ hk

theorem State.chDisable_stays {s0 : State} (s : State) (ch : Fin 32) (on : Bool) (hk : Stays wr s0 s) : Stays wr s0 (State.chDisable s ch on) := by
  unfold State.chDisable
  try dsimp only
  repeat' first | intro _ | (with_reducible first | assumption | apply State.setChannel_stays | apply State.dropDesc_stays | apply State.dropHead_stays | apply State.drainedResets_stays | apply stays_foldl) | (simp only [stays_mk]; refine stays_upd ?_) | split

theorem State.chPause_stays {s0 : State} (s : State) (ch : Fin 32) (on : Bool) (hk : Stays wr s0 s) : Stays wr s0 (State.chPause s ch on) :=
  State.setChannel_stays _ _ _ hk

theorem State.loseHost_stays {s0 : State} (s : State) (entry : Option Nat) (hk : Stays wr s0 s) : Stays wr s0 (State.loseHost s entry) := by
  unfold State.loseHost
  repeat' first | (with_reducible first | assumption | apply State.lateStatus_stays) | (simp only [stays_mk]; refine stays_upd ?_) | split

theorem State.unitWrite_stays {s0 : State} (s : State) (ch : Fin 32) (inst : Nat) (slot : Nat) (addr : Nat) (bs : List Byte) (ro : Bool) (hk : Stays wr s0 s) : Stays wr s0 (State.unitWrite s ch inst slot addr bs ro) := by
  unfold State.unitWrite
  repeat' first | (with_reducible first | assumption | apply State.fresh_stays | apply State.holdWrite_stays | apply State.pulse_stays | apply State.loseHost_stays | apply State.carried_stays | apply State.sendHost_stays) | split

theorem State.frontRead_stays {s0 : State} (s : State) (inst : Nat) (n : Nat) (good : Bool) (hk : Stays wr s0 s) : Stays wr s0 (State.frontRead s inst n good) := by
  unfold State.frontRead
  repeat' first | (with_reducible first | assumption | apply State.fresh_stays | apply State.carried_stays | apply State.carryFails_stays) | split

theorem State.refuseDesc_stays {s0 : State} (s : State) (ch : Fin 32) (d : MoverDesc) (cause : Nat) (hk : Stays wr s0 s) : Stays wr s0 (State.refuseDesc s ch d cause) := by
  unfold State.refuseDesc
  repeat' first | (with_reducible first | assumption | apply State.errPulse_stays | apply State.setChannel_stays) | split

theorem State.fetchAt_stays {s0 : State} (s : State) (ch : Fin 32) (a : Nat) (hk : Stays wr s0 s) : Stays wr s0 (State.fetchAt s ch a) := by
  unfold State.fetchAt
  try dsimp only
  repeat' first | intro _ | (with_reducible first | assumption | apply State.readRange_stays | apply State.refuseDesc_stays | apply State.setChannel_stays | apply State.awaitSlot_stays | apply stays_foldl) | split

theorem State.rdPulse_stays {s0 : State} (s : State) (ch : Nat) (d : MoverDesc) (hk : Stays wr s0 s) : Stays wr s0 (State.rdPulse s ch d) := by
  unfold State.rdPulse
  repeat' first | (with_reducible first | assumption | apply State.releaseCarafe_stays | apply State.pulse_stays) | split

theorem State.finishDesc_stays {s0 : State} (s : State) (ch : Fin 32) (d : MoverDesc) (hk : Stays wr s0 s) : Stays wr s0 (State.finishDesc s ch d) := by
  unfold State.finishDesc
  dsimp only
  repeat' first | (with_reducible first | assumption | apply State.rdPulse_stays | apply State.setChannel_stays | apply State.closeHeld_stays | apply State.wrPulse_stays) | split

theorem State.holdBurst_stays {s0 : State} (s : State) (ch : Fin 32) (d : MoverDesc) (off : Nat) (bs : List Byte) (hk : Stays wr s0 s) : Stays wr s0 (State.holdBurst s ch d off bs) := by
  unfold State.holdBurst
  repeat' first | (with_reducible first | assumption | apply State.countBytes_stays | apply State.holdWrite_stays) | split

theorem State.loseDesc_stays {s0 : State} (s : State) (ch : Fin 32) (d : MoverDesc) (hk : Stays wr s0 s) : Stays wr s0 (State.loseDesc s ch d) := by
  unfold State.loseDesc
  repeat' first | (with_reducible first | assumption | apply State.loseHost_stays | apply State.setChannel_stays) | split

theorem State.readBurst_stays {s0 : State} (s : State) (d : MoverDesc) (b : Burst) (res : BurstResult) (hk : Stays wr s0 s) : Stays wr s0 (State.readBurst s d b res).1 := by
  unfold State.readBurst
  repeat' first | (with_reducible first | assumption | apply State.readRange_stays | apply staysE_ok | exact staysE_error _) | split

theorem State.writeBurst_stays {s0 : State} (s : State) (ch : Fin 32) (d : MoverDesc) (off : Nat) (bs : List Byte) (hk : Stays true s0 s) : Stays true s0 (State.writeBurst s ch d off bs) := by
  unfold State.writeBurst
  repeat' first | (with_reducible first | assumption | apply State.sendHost_stays | apply State.countBytes_stays | apply State.holdBurst_stays | apply State.setChannel_stays | apply State.loseDesc_stays | apply State.moduleWrite_stays | apply State.sumStore_stays) | (simp only [stays_mkStore]; refine stays_updStore ?_) | split

theorem execChAppend_stays {s0 : State} (ch : Fin 32) (acc : RegAccess) (v : BitVec 64) (s : State) (hk : Stays wr s0 s) : StaysOut wr s0 (execChAppend ch acc v s) := by
  refine staysOut_next ?_
  repeat' first | (with_reducible first | assumption | apply State.appendHead_stays) | split

theorem execDescriptorFetch_stays {s0 : State} (ch : Fin 32) (s : State) (hk : Stays wr s0 s) : StaysOut wr s0 (execDescriptorFetch ch s) := by
  refine staysOut_next ?_
  repeat' first | (with_reducible first | assumption | apply State.fetchAt_stays | apply State.setChannel_stays) | split

theorem execBurstStart_stays {s0 : State} (s : State) (hk : Stays wr s0 s) : StaysOut wr s0 (execBurstStart s) := by
  refine staysOut_next ?_
  dsimp only
  repeat' first | (with_reducible first | assumption | apply State.setChannel_stays) | (simp only [stays_mk]; refine stays_upd ?_) | split

theorem execPacingIntervalExpiry_stays {s0 : State} (ch : Fin 32) (s : State) (hk : Stays wr s0 s) : StaysOut wr s0 (execPacingIntervalExpiry ch s) :=
  staysOut_next (State.setChannel_stays _ _ _ hk)

theorem execBurstReadComplete_stays {s0 : State} (ch : Fin 32) (res : BurstResult) (s : State) (hk : Stays true s0 s) : StaysOut true s0 (execBurstReadComplete ch res s) := by
  refine staysOut_next ?_
  try dsimp only
  repeat' first | intro _ | (with_reducible first | assumption | apply State.readBurst_stays | apply State.drainedResets_stays | apply State.abandon_stays | apply State.setChannel_stays | apply State.writeBurst_stays | apply State.finishDesc_stays | apply stays_foldl) | (simp only [stays_mkStore]; refine stays_updStore ?_) | split | with_reducible refine stays_fst ‹_ = (_, _)› ?_

theorem execChPause_stays {s0 : State} (ch : Fin 32) (on : Bool) (s : State) (hk : Stays wr s0 s) : StaysOut wr s0 (execChPause ch on s) :=
  staysOut_next (State.chPause_stays _ _ _ hk)

theorem execChDisable_stays {s0 : State} (ch : Fin 32) (on : Bool) (s : State) (hk : Stays wr s0 s) : StaysOut wr s0 (execChDisable ch on s) :=
  staysOut_next (State.chDisable_stays _ _ _ hk)

theorem execChErrorClear_stays {s0 : State} (ch : Fin 32) (s : State) (hk : Stays wr s0 s) : StaysOut wr s0 (execChErrorClear ch s) :=
  staysOut_next (State.setChannel_stays _ _ _ hk)

theorem execHostReadTimeout_stays {s0 : State} (ch : Fin 32) (s : State) (hk : Stays wr s0 s) : StaysOut wr s0 (execHostReadTimeout ch s) := by
  refine staysOut_next ?_
  repeat' first | (with_reducible first | assumption | apply State.drainedResets_stays | apply State.abandon_stays) | split

end Sys2Proof.Machine
end

