-- ==== Sys2Proof/Laws/StaysHost.lean ====
section
/-! SUPPORT. The array, digest and host-interface operations stay. -/

namespace Sys2Proof.Machine

variable {wr : Bool}

/-! ### Kma -/

theorem andThen_stays {s0 : State} (r : Except Nat State) (k : State → Except Nat State) (hk : StaysE wr s0 r)
    (hs : ∀ u, Stays wr s0 u → StaysE wr s0 (k u)) : StaysE wr s0 (andThen r k) := by
  unfold andThen
  split
  · exact staysE_error _
  · exact hs _ (hk.keep _ rfl)

theorem State.mergeRead_stays {s0 : State} (s : State) (ma : Nat) (n : Nat) (hk : Stays wr s0 s) : StaysE wr s0 (State.mergeRead s ma n) := by
  unfold State.mergeRead
  dsimp only
  repeat' first | (with_reducible first | assumption | apply State.readRange_stays | apply staysE_ok | exact staysE_error _) | split

theorem State.kmaFault_stays {s0 : State} (s : State) (event : Nat) (pos : Nat) (hk : Stays wr s0 s) : Stays wr s0 (State.kmaFault s event pos) :=
  State.raiseAt_stays _ _ _ _ _ _ hk

theorem State.readSramWord_stays {s0 : State} (s : State) (x : Nat × Nat × Nat) (hk : Stays true s0 s) : Stays true s0 (State.readSramWord s x) := by
  unfold State.readSramWord
  repeat' first | (with_reducible first | assumption | apply State.kmaFault_stays) | (simp only [stays_mkStore]; refine stays_updStore ?_) | split

theorem State.readSram_frameStays {s0 : State} (s : State) (words : Nat) (pos : Nat) (hk : Stays true s0 s) : Stays true s0 (State.readSram s words pos) := by
  unfold State.readSram
  try dsimp only
  repeat' first | intro _ | (with_reducible first | assumption | apply State.readSramWord_stays | apply stays_foldl) | split

theorem State.readSram_stays {s0 : State} (s : State) (words : Nat) (pos : Nat) (hk : Stays wr s0 s) :
    Stays wr s0 (State.readSram s words pos) := by
  refine hk.ifSound (State.readSram_frameStays s words pos (Stays.refl s)) fun h => ?_
  unfold State.readSram
  rw [h.words]
  exact ⟨rfl, rfl, rfl⟩

theorem State.readEntry_stays {s0 : State} (s : State) (pos : Nat) (hk : Stays wr s0 s) : Stays wr s0 (State.readEntry s pos) :=
  State.readSram_stays _ _ _ hk

theorem State.moveEntries_stays {s0 : State} (s : State) (moved : List (Nat × KmaEntry)) (k : State → State) (hk : Stays wr s0 s)
    (hs : ∀ u, Stays wr s0 u → Stays wr s0 (k u)) : StaysE wr s0 (State.moveEntries s moved k) := by
  unfold State.moveEntries
  split
  · exact staysE_error _
  · exact staysE_ok (hs _ (stays_foldl (fun a x h => State.readEntry_stays _ _ h) hk))

theorem State.kmaPut_stays {s0 : State} (s : State) (pos : Nat) (e : KmaEntry) (hk : Stays true s0 s) : Stays true s0 (State.kmaPut s pos e) :=
  Stays.updStore hk rfl

theorem State.setGroup_stays {s0 : State} (s : State) (tb : KmaTable) (g : Nat) (es : List KmaEntry) (hk : Stays true s0 s) : Stays true s0 (State.setGroup s tb g es) := by
  unfold State.setGroup
  try dsimp only
  repeat' first | intro _ | (with_reducible first | assumption | apply State.kmaPut_stays | apply stays_foldl) | (simp only [stays_mkStore]; refine stays_updStore ?_) | split

theorem State.updTable_stays {s0 : State} (s : State) (inst : Nat) (tag : Nat) (f : KmaTable → KmaTable) (hk : Stays true s0 s) : Stays true s0 (State.updTable s inst tag f) :=
  Stays.updStore hk rfl

theorem countRebalance_stays {s0 : State} (s : State) (tb : KmaTable) (n : Nat) (hk : Stays true s0 s) : Stays true s0 (countRebalance s tb n) := by
  unfold countRebalance
  repeat' first | (with_reducible first | assumption | apply State.updTable_stays) | (simp only [stays_mkStore]; refine stays_updStore ?_) | split

theorem shiftUp_stays {s0 : State} (s : State) (tb : KmaTable) (n : Nat) (g : Nat) (hk : Stays true s0 s) : Stays true s0 (shiftUp s tb n g) := by
  induction n generalizing s g with
  | zero => exact hk
  | succ n ih => exact ih _ _ (State.setGroup_stays _ _ _ _ (State.setGroup_stays _ _ _ _ hk))

theorem shiftDown_stays {s0 : State} (s : State) (tb : KmaTable) (n : Nat) (g : Nat) (hk : Stays true s0 s) : Stays true s0 (shiftDown s tb n g) := by
  induction n generalizing s g with
  | zero => exact hk
  | succ n ih => exact ih _ _ (State.setGroup_stays _ _ _ _ (State.setGroup_stays _ _ _ _ hk))

theorem State.orderedPut_stays {s0 : State} (s : State) (tb : KmaTable) (e : KmaEntry) (hk : Stays true s0 s) : StaysE true s0 (State.orderedPut s tb e) := by
  unfold State.orderedPut
  try dsimp only
  repeat' first | intro _ | (with_reducible first | assumption | apply State.moveEntries_stays | apply State.setGroup_stays | apply countRebalance_stays | apply shiftUp_stays | apply shiftDown_stays | apply staysE_ok | exact staysE_error _ | apply stays_foldl) | split

theorem State.tablePut_stays {s0 : State} (s : State) (tb : KmaTable) (e : KmaEntry) (hk : Stays true s0 s) : StaysE true s0 (State.tablePut s tb e) := by
  unfold State.tablePut
  split
  · exact State.orderedPut_stays _ _ _ hk
  · cases s.hashPlace tb e.key with
    | none => exact staysE_error _
    | some p => exact staysE_ok (State.kmaPut_stays _ _ _ hk)

theorem State.mergeWrite_stays {s0 : State} (s : State) (d : BitVec 192) (off : Nat) (bs : List Byte) (hk : Stays true s0 s) : StaysE true s0 (State.mergeWrite s d off bs) := by
  unfold State.mergeWrite
  dsimp only
  repeat' first | (with_reducible first | assumption | apply State.writeMem_stays | apply State.noteWrite_stays | apply staysE_ok | exact staysE_error _) | split

theorem State.dictAdd_stays {s0 : State} (s : State) (tb : KmaTable) (d : BitVec 192) (key : DWord) (str : List Byte) (hk : Stays true s0 s) : StaysE true s0 (State.dictAdd s tb d key str) := by
  unfold State.dictAdd
  try dsimp only
  repeat' first | intro _ | (with_reducible first | assumption | apply andThen_stays | apply State.tablePut_stays | apply State.mergeWrite_stays | apply staysE_ok | exact staysE_error _ | apply stays_foldl) | split

theorem State.dictInsert_stays {s0 : State} (s : State) (tb : KmaTable) (key : DWord) (payload : Quad) (hk : Stays true s0 s) : StaysE true s0 (State.dictInsert s tb key payload) := by
  unfold State.dictInsert
  try dsimp only
  repeat' first | intro _ | (with_reducible first | assumption | apply andThen_stays | apply State.mergeRead_stays | apply State.dictAdd_stays | apply staysE_ok | exact staysE_error _ | apply stays_foldl) | split

theorem State.spillWrite_stays {s0 : State} (s : State) (d : BitVec 192) (p : Nat) (key : DWord) (payload : Quad) (prio : Nat) (valid : Nat) (kind : Nat) (hk : Stays true s0 s) : StaysE true s0 (State.spillWrite s d p key payload prio valid kind) := by
  unfold State.spillWrite
  try dsimp only
  repeat' first | intro _ | (with_reducible first | assumption | apply andThen_stays | apply State.mergeWrite_stays | apply staysE_ok | exact staysE_error _ | apply stays_foldl) | split

theorem State.spillAll_stays {s0 : State} (s : State) (d : BitVec 192) (p : Nat) (kind : Nat) (l : List KmaEntry) (hk : Stays true s0 s) :
    StaysE true s0 (State.spillAll s d p kind l) :=
  stays_foldl_E (fun _ _ h => andThen_stays _ _ h fun _ hu => State.spillWrite_stays _ _ _ _ _ _ _ _ hu) (staysE_ok hk)

theorem State.spillPartition_stays {s0 : State} (s : State) (tb : KmaTable) (agg : Bool) (p : Nat) (hk : Stays true s0 s) : StaysE true s0 (State.spillPartition s tb agg p) := by
  unfold State.spillPartition
  try dsimp only
  repeat' first | intro _ | (with_reducible first | assumption | apply State.readEntry_stays | apply andThen_stays | apply State.mergeWrite_stays | apply State.spillAll_stays | apply State.updTable_stays | apply staysE_ok | exact staysE_error _ | apply stays_foldl) | (simp only [stays_mkStore]; refine stays_updStore ?_) | split

theorem State.spillInstead_stays {s0 : State} (s : State) (tb : KmaTable) (round : Bool) (agg : Bool) (st : Nat) (key : DWord) (payload : Quad) (prio : Nat) (valid : Nat) (kind : Nat) (hk : Stays true s0 s) : StaysE true s0 (State.spillInstead s tb round agg st key payload prio valid kind) := by
  unfold State.spillInstead
  try dsimp only
  repeat' first | intro _ | (with_reducible first | assumption | apply andThen_stays | apply State.spillPartition_stays | apply State.spillWrite_stays | apply staysE_ok | exact staysE_error _ | apply stays_foldl) | split

theorem State.entryInsert_stays {s0 : State} (s : State) (tb : KmaTable) (round : Bool) (key : DWord) (prio : Nat) (payload : Quad) (hk : Stays true s0 s) : StaysE true s0 (State.entryInsert s tb round key prio payload) := by
  unfold State.entryInsert
  try dsimp only
  repeat' first | intro _ | (with_reducible first | assumption | apply State.spillWrite_stays | apply State.tablePut_stays | apply State.spillInstead_stays | apply staysE_ok | exact staysE_error _ | apply stays_foldl) | (simp only [stays_mkStore]; refine stays_updStore ?_) | split | with_reducible refine stays_ok ‹_ = Except.ok _› ?_

theorem State.mergeInsert_stays {s0 : State} (s : State) (tb : KmaTable) (round : Bool) (key : DWord) (prio : Nat) (payload : Quad) (hk : Stays true s0 s) : StaysE true s0 (State.mergeInsert s tb round key prio payload) := by
  unfold State.mergeInsert
  repeat' first | (with_reducible first | assumption | apply State.dictInsert_stays | apply State.entryInsert_stays | apply staysE_ok | exact staysE_error _) | split

theorem State.mergeUpdate_stays {s0 : State} (s : State) (tb : KmaTable) (round : Bool) (ops : Nat) (key : DWord) (f : Quad → Quad) (src : Quad) (valid : Nat) (kind : Nat) (hk : Stays true s0 s) : StaysE true s0 (State.mergeUpdate s tb round ops key f src valid kind) := by
  unfold State.mergeUpdate
  try dsimp only
  repeat' first | intro _ | (with_reducible first | assumption | apply State.spillWrite_stays | apply State.kmaPut_stays | apply State.tablePut_stays | apply State.spillInstead_stays | apply staysE_ok | exact staysE_error _ | apply stays_foldl) | (simp only [stays_mkStore]; refine stays_updStore ?_) | split | with_reducible refine stays_ok ‹_ = Except.ok _› ?_

theorem State.updateRow_stays {s0 : State} (ops : Nat) (round : Bool) (inst : Nat) (tag : Nat) (key : DWord) (r : Except Nat State)
    (row : Quad × BitVec 4) (hk : StaysE true s0 r) : StaysE true s0 (State.updateRow ops round inst tag key r row) := by
  refine andThen_stays _ _ hk fun u hu => ?_
  split
  · exact staysE_ok hu
  · exact State.mergeUpdate_stays _ _ _ _ _ _ _ _ _ hu

theorem State.mergeRecord_stays {s0 : State} (s : State) (tb : KmaTable) (round : Bool) (ops : Nat) (k : RecordKind) (hk : Stays true s0 s) :
    StaysE true s0 (State.mergeRecord s tb round ops k) := by
  cases k with
  | insert key prio payload => exact State.mergeInsert_stays _ _ _ _ _ _ hk
  | update key src valid => exact State.updateRow_stays _ _ _ _ _ _ _ (staysE_ok hk)
  | group g => exact stays_foldl_E (fun _ _ h => State.updateRow_stays _ _ _ _ _ _ _ h) (staysE_ok hk)
  | header => exact staysE_ok hk

theorem State.clearTable_stays {s0 : State} (s : State) (inst : Nat) (tag : Nat) (hk : Stays true s0 s) : Stays true s0 (State.clearTable s inst tag) :=
  Stays.updStore hk rfl

theorem State.dropTable_stays {s0 : State} (s : State) (inst : Nat) (tag : Nat) (hk : Stays true s0 s) : Stays true s0 (State.dropTable s inst tag) := by
  unfold State.dropTable
  repeat' first | (with_reducible first | assumption | apply State.clearTable_stays) | (simp only [stays_mkStore]; refine stays_updStore ?_) | split

theorem State.placeTable_stays {s0 : State} (s : State) (p : TableSpec) (hk : Stays true s0 s) : Stays true s0 (State.placeTable s p) :=
  Stays.updStore hk rfl

theorem State.rewriteRow_stays {s0 : State} (s : State) (pos : Nat) (hk : Stays true s0 s) : Stays true s0 (State.rewriteRow s pos) := by
  unfold State.rewriteRow
  dsimp only
  repeat' first | (with_reducible first | assumption | apply State.kmaFault_stays) | (simp only [stays_mkStore]; refine stays_updStore ?_) | split

theorem State.discardMatch_stays {s0 : State} (s : State) (pos : Nat) (hk : Stays true s0 s) : Stays true s0 (State.discardMatch s pos) := by
  unfold State.discardMatch
  repeat' first | (with_reducible first | assumption | apply State.rewriteRow_stays | apply State.kmaFault_stays) | (simp only [stays_mkStore]; refine stays_updStore ?_) | split

theorem State.verify_frameStays {s0 : State} (s : State) (t : KmaTable) (key : DWord) (hk : Stays true s0 s) : Stays true s0 (State.verify s t key) := by
  unfold State.verify
  try dsimp only
  repeat' first | intro _ | (with_reducible first | assumption | apply State.discardMatch_stays | apply State.readEntry_stays | apply stays_foldl) | split

theorem State.verify_stays {s0 : State} (s : State) (t : KmaTable) (key : DWord) (hk : Stays wr s0 s) :
    Stays wr s0 (State.verify s t key) := by
  refine hk.ifSound (State.verify_frameStays s t key (Stays.refl s)) fun h => ?_
  unfold State.verify
  rw [h.cells]
  exact (stays_foldl (wr := false) (fun a x g => State.readEntry_stays _ _ g) (Stays.refl s)).store rfl h

/-! ### DigestOps -/

theorem State.setHandle_stays {s0 : State} (s : State) (n : Nat) (x : Handle) (hk : Stays wr s0 s) : Stays wr s0 (State.setHandle s n x) :=
  Stays.upd hk rfl ⟨rfl, rfl, rfl⟩

theorem State.grantFirst_stays {s0 : State} (n : Nat) (s : State) (hk : Stays wr s0 s) : Stays wr s0 (State.grantFirst n s) := by
  induction n generalizing s with
  | zero => exact hk
  | succ n ih =>
    have h1 : ∀ q, Stays wr s0 { s with digest := { s.digest with queue := q } } := fun q => Stays.upd hk rfl ⟨rfl, rfl, rfl⟩
    unfold State.grantFirst
    split
    · dsimp only
      split
      · exact ih _ (State.setHandle_stays _ _ _ (h1 _))
      · exact State.setHandle_stays _ _ _ (h1 _)
    · exact hk

theorem State.grantContext_stays {s0 : State} (s : State) (hk : Stays wr s0 s) : Stays wr s0 (State.grantContext s) := by
  unfold State.grantContext
  repeat' first | (with_reducible first | assumption | apply State.grantFirst_stays) | split

theorem State.releaseHandles_stays {s0 : State} (s : State) (inst : Nat) (reset : Bool) (hk : Stays wr s0 s) : Stays wr s0 (State.releaseHandles s inst reset) := by
  unfold State.releaseHandles
  try dsimp only
  repeat' first | intro _ | (with_reducible first | assumption | apply State.grantContext_stays | apply stays_foldl) | (simp only [stays_mk]; refine stays_upd ?_) | split

theorem State.hashOn_stays {s0 : State} (s : State) (n : Fin 3) (alg : Nat) (key : Option (List Byte)) (m : List Byte) (hk : Stays wr s0 s) : Stays wr s0 (State.hashOn s n alg key m) :=
  Stays.upd hk rfl ⟨rfl, rfl, rfl⟩

theorem State.putKey_stays {s0 : State} (s : State) (slot : Nat) (k : List Byte) (hk : Stays wr s0 s) : Stays wr s0 (State.putKey s slot k) :=
  Stays.upd hk rfl ⟨rfl, rfl, rfl⟩

theorem State.digestAbort_stays {s0 : State} (s : State) (n : Nat) (hk : Stays wr s0 s) : Stays wr s0 (State.digestAbort s n) := by
  unfold State.digestAbort
  dsimp only
  repeat' first | (with_reducible first | assumption | apply State.setHandle_stays) | split

theorem State.digestOpen_stays {s0 : State} (s : State) (n : Nat) (hk : Stays wr s0 s) : Stays wr s0 (State.digestOpen s n) := by
  unfold State.digestOpen
  dsimp only
  repeat' first | (with_reducible first | assumption | apply State.setHandle_stays) | (simp only [stays_mk]; refine stays_upd ?_) | split

theorem State.digestClose_stays {s0 : State} (s : State) (n : Nat) (hk : Stays wr s0 s) : Stays wr s0 (State.digestClose s n) := by
  unfold State.digestClose
  dsimp only
  repeat' first | (with_reducible first | assumption | apply State.setHandle_stays | apply State.grantContext_stays) | (simp only [stays_mk]; refine stays_upd ?_) | split

theorem State.digestCompare_stays {s0 : State} (s : State) (n : Nat) (hk : Stays wr s0 s) : Stays wr s0 (State.digestCompare s n) := by
  unfold State.digestCompare
  dsimp only
  repeat' first | (with_reducible first | assumption | apply State.setHandle_stays) | split

theorem State.digestKeymsg_stays {s0 : State} (s : State) (n : Nat) (slot : Nat) (hk : Stays wr s0 s) : Stays wr s0 (State.digestKeymsg s n slot) := by
  unfold State.digestKeymsg
  repeat' first | (with_reducible first | assumption | apply State.setHandle_stays) | split

theorem State.digestLast_stays {s0 : State} (s : State) (n : Nat) (v : Word) (valid : Nat) (hk : Stays wr s0 s) : Stays wr s0 (State.digestLast s n v valid) := by
  unfold State.digestLast
  dsimp only
  repeat' first | (with_reducible first | assumption | apply State.setHandle_stays) | split

theorem State.digestDo_stays {s0 : State} (s : State) (n : Nat) (op : DigestOp) (hk : Stays wr s0 s) : Stays wr s0 (State.digestDo s n op) := by
  unfold State.digestDo
  dsimp only
  repeat' first | (with_reducible first | assumption | apply State.digestOpen_stays | apply State.digestAbort_stays | apply State.digestClose_stays | apply State.digestCompare_stays | apply State.setHandle_stays | apply State.digestKeymsg_stays | apply State.digestLast_stays) | split

theorem State.digestAt_stays {s0 : State} (s : State) (fn : Fin 64) (h : Fin 16) (op : DigestOp) (hk : Stays wr s0 s) : Stays wr s0 (State.digestAt s fn h op) := by
  unfold State.digestAt
  dsimp only
  repeat' first | (with_reducible first | assumption | apply State.setHandle_stays | apply State.digestDo_stays) | split

theorem State.digestCtrl_stays {s0 : State} (s : State) (fn : Fin 64) (h : Fin 16) (v : Word) (op : DigestOp) (hk : Stays wr s0 s) : Stays wr s0 (State.digestCtrl s fn h v op) := by
  unfold State.digestCtrl
  dsimp only
  repeat' first | (with_reducible first | assumption | apply State.setHandle_stays | apply State.digestAt_stays) | split

theorem State.digestDrain_stays {s0 : State} (n : Nat) (ops : List DigestOp) (s : State) (hk : Stays wr s0 s) :
    Stays wr s0 (State.digestDrain n ops s) := by
  induction ops generalizing s with
  | nil => exact hk
  | cons op r ih =>
    unfold State.digestDrain
    split
    · exact State.setHandle_stays _ _ _ hk
    · exact ih _ (State.digestDo_stays _ _ _ hk)

theorem State.digestFinish_stays {s0 : State} (s : State) (n : Nat) (hk : Stays wr s0 s) : Stays wr s0 (State.digestFinish s n) := by
  unfold State.digestFinish
  dsimp only
  repeat' first | (with_reducible first | assumption | apply State.setHandle_stays | apply State.putKey_stays) | (simp only [stays_mk]; refine stays_upd ?_) | split

theorem State.hashLanes_stays {s0 : State} (s : State) (digests : List (List Byte)) (hk : Stays wr s0 s) : Stays wr s0 (State.hashLanes s digests) :=
  Stays.upd hk rfl ⟨rfl, rfl, rfl⟩

theorem State.setKeyPort_stays {s0 : State} (s : State) (fn : Fin 64) (p : KeyPort) (hk : Stays wr s0 s) : Stays wr s0 (State.setKeyPort s fn p) :=
  Stays.upd hk rfl ⟨rfl, rfl, rfl⟩

theorem execDgOpen_stays {s0 : State} (fn : Fin 64) (h : Fin 16) (v : Word) (s : State) (hk : Stays wr s0 s) : StaysOut wr s0 (execDgOpen fn h v s) := by
  refine staysOut_next ?_
  repeat' first | (with_reducible first | assumption | apply State.digestCtrl_stays) | split

theorem execDgAbort_stays {s0 : State} (fn : Fin 64) (h : Fin 16) (v : Word) (s : State) (hk : Stays wr s0 s) : StaysOut wr s0 (execDgAbort fn h v s) := by
  refine staysOut_next ?_
  repeat' first | (with_reducible first | assumption | apply State.digestCtrl_stays) | split

theorem execDgClose_stays {s0 : State} (fn : Fin 64) (h : Fin 16) (v : Word) (s : State) (hk : Stays wr s0 s) : StaysOut wr s0 (execDgClose fn h v s) := by
  refine staysOut_next ?_
  repeat' first | (with_reducible first | assumption | apply State.digestCtrl_stays) | split

theorem execDgCompare_stays {s0 : State} (fn : Fin 64) (h : Fin 16) (v : Word) (s : State) (hk : Stays wr s0 s) : StaysOut wr s0 (execDgCompare fn h v s) := by
  refine staysOut_next ?_
  repeat' first | (with_reducible first | assumption | apply State.digestCtrl_stays) | split

theorem execCompareDone_stays {s0 : State} (fn : Fin 64) (h : Fin 16) (s : State) (hk : Stays wr s0 s) : StaysOut wr s0 (execCompareDone fn h s) := by
  refine staysOut_next ?_
  repeat' first | (with_reducible first | assumption | apply State.setHandle_stays) | (simp only [stays_mk]; refine stays_upd ?_) | split

theorem execDgData_stays {s0 : State} (fn : Fin 64) (h : Fin 16) (v : Word) (s : State) (hk : Stays wr s0 s) : StaysOut wr s0 (execDgData fn h v s) :=
  staysOut_next (State.digestAt_stays _ _ _ _ hk)

theorem execDgKeymsg_stays {s0 : State} (fn : Fin 64) (h : Fin 16) (v : Word) (s : State) (hk : Stays wr s0 s) : StaysOut wr s0 (execDgKeymsg fn h v s) :=
  staysOut_next (State.digestAt_stays _ _ _ _ hk)

theorem execDgLast_stays {s0 : State} (fn : Fin 64) (h : Fin 16) (v : Word) (s : State) (hk : Stays wr s0 s) : StaysOut wr s0 (execDgLast fn h v s) :=
  staysOut_next (State.digestAt_stays _ _ _ _ hk)

theorem execDigestFinishComplete_stays {s0 : State} (fn : Fin 64) (h : Fin 16) (s : State) (hk : Stays wr s0 s) : StaysOut wr s0 (execDigestFinishComplete fn h s) := by
  refine staysOut_next ?_
  repeat' first | (with_reducible first | assumption | apply State.digestDrain_stays | apply State.digestFinish_stays) | split

theorem execDgExpect_stays {s0 : State} (fn : Fin 64) (h : Fin 16) (v : Word) (s : State) (hk : Stays wr s0 s) : StaysOut wr s0 (execDgExpect fn h v s) :=
  staysOut_next (State.digestAt_stays _ _ _ _ hk)

theorem execKsData_stays {s0 : State} (fn : Fin 64) (v : Word) (s : State) (hk : Stays wr s0 s) : StaysOut wr s0 (execKsData fn v s) := by
  refine staysOut_next ?_
  repeat' first | (with_reducible first | assumption | apply State.setKeyPort_stays) | split

theorem execKsCommit_stays {s0 : State} (fn : Fin 64) (v : Word) (s : State) (hk : Stays wr s0 s) : StaysOut wr s0 (execKsCommit fn v s) := by
  refine staysOut_next ?_
  repeat' first | (with_reducible first | assumption | apply State.setKeyPort_stays | apply State.putKey_stays) | split

/-! ### HostIf -/

theorem State.setFn_stays {s0 : State} (s : State) (fn : Fin 64) (f : Function) (hk : Stays wr s0 s) : Stays wr s0 (State.setFn s fn f) :=
  Stays.upd hk rfl ⟨rfl, rfl, rfl⟩

theorem State.askReset_stays {s0 : State} (s : State) (i : Fin 64) (hk : Stays wr s0 s) : Stays wr s0 (State.askReset s i) := by
  unfold State.askReset
  dsimp only
  repeat' first | (with_reducible first | assumption) | (simp only [stays_mk]; refine stays_upd ?_) | split

theorem State.setSq_stays {s0 : State} (s : State) (r : Nat) (x : SqRing) (hk : Stays wr s0 s) : Stays wr s0 (State.setSq s r x) :=
  Stays.upd hk rfl ⟨rfl, rfl, rfl⟩

theorem State.setCq_stays {s0 : State} (s : State) (r : Nat) (x : CqRing) (hk : Stays wr s0 s) : Stays wr s0 (State.setCq s r x) :=
  Stays.upd hk rfl ⟨rfl, rfl, rfl⟩

theorem State.dropReadAhead_stays {s0 : State} (s : State) (r : Nat) (hk : Stays wr s0 s) : Stays wr s0 (State.dropReadAhead s r) := by
  unfold State.dropReadAhead
  dsimp only
  repeat' first | (with_reducible first | assumption | apply State.setSq_stays | apply State.setCq_stays) | split

theorem State.clearRings_stays {s0 : State} (s : State) (inst : Nat) (hk : Stays wr s0 s) : Stays wr s0 (State.clearRings s inst) := by
  unfold State.clearRings
  try dsimp only
  repeat' first | intro _ | (with_reducible first | assumption | apply State.dropReadAhead_stays | apply State.setCq_stays | apply stays_foldl) | split

theorem State.discardHeld_stays {s0 : State} (s : State) (inst : Nat) (hk : Stays wr s0 s) : Stays wr s0 (State.discardHeld s inst) := by
  unfold State.discardHeld
  try dsimp only
  repeat' first | intro _ | (with_reducible first | assumption | apply State.releaseWrite_stays | apply State.endHold_stays | apply stays_foldl) | (simp only [stays_mk]; refine stays_upd ?_) | split

theorem State.acceptReset_stays {s0 : State} (s : State) (i : Fin 64) (hk : Stays wr s0 s) : Stays wr s0 (State.acceptReset s i) := by
  unfold State.acceptReset
  repeat' first | (with_reducible first | assumption | apply State.setFn_stays | apply State.askReset_stays | apply State.clearRings_stays | apply State.discardHeld_stays) | (simp only [stays_mk]; refine stays_upd ?_) | split

theorem State.askPlace_stays {s0 : State} (s : State) (r : Nat) (hk : Stays wr s0 s) : Stays wr s0 (State.askPlace s r) := by
  unfold State.askPlace
  repeat' first | (with_reducible first | assumption | apply State.setCq_stays) | split

theorem State.askPlaces_stays {s0 : State} (s : State) (hk : Stays wr s0 s) : Stays wr s0 (State.askPlaces s) := by
  unfold State.askPlaces
  try dsimp only
  repeat' first | intro _ | (with_reducible first | assumption | apply State.askPlace_stays | apply stays_foldl) | split

theorem State.sendPme_stays {s0 : State} (s : State) (inst : Nat) (hk : Stays wr s0 s) : Stays wr s0 (State.sendPme s inst) := by
  unfold State.sendPme
  dsimp only
  repeat' first | (with_reducible first | assumption | apply State.sendHost_stays) | (simp only [stays_mk]; refine stays_upd ?_) | split

theorem State.irqsDue_stays {s0 : State} (s : State) (rs : List Nat) (hk : Stays wr s0 s) : Stays wr s0 (State.irqsDue s rs) := by
  unfold State.irqsDue
  try dsimp only
  repeat' first | intro _ | (with_reducible first | assumption | apply State.setCq_stays | apply State.sendPme_stays | apply State.signalVector_stays | apply stays_foldl | apply stays_foldl_fst | apply stays_foldl_snd | apply stays_foldl_E | apply stays_foldl_O | apply stays_foldl_C | apply stays_foldl_Eff | apply staysE_bind) | (simp only [stays_mk]; refine stays_upd ?_) | split

theorem State.dueNow_stays {s0 : State} (s : State) (hk : Stays wr s0 s) : Stays wr s0 (State.dueNow s) :=
  State.irqsDue_stays _ _ hk

theorem State.writeProducer_stays {s0 : State} (s : State) (r : Nat) (hk : Stays wr s0 s) : Stays wr s0 (State.writeProducer s r) :=
  State.frontWrite_stays _ _ _ _ hk

theorem State.publish_stays {s0 : State} (s : State) (hk : Stays wr s0 s) : Stays wr s0 (State.publish s) := by
  unfold State.publish
  try dsimp only
  repeat' first | intro _ | (with_reducible first | assumption | apply State.dueNow_stays | apply State.writeProducer_stays | apply State.setCq_stays | apply stays_foldl) | split

theorem State.setMailbox_stays {s0 : State} (s : State) (i : Fin 64) (m : Mailbox) (hk : Stays wr s0 s) : Stays wr s0 (State.setMailbox s i m) :=
  Stays.upd hk rfl ⟨rfl, rfl, rfl⟩

theorem State.fromAck_stays {s0 : State} (s : State) (i : Fin 64) (ack : Bool) (hk : Stays wr s0 s) : Stays wr s0 (State.fromAck s i ack) := by
  unfold State.fromAck
  repeat' first | (with_reducible first | assumption | apply State.setMailbox_stays) | split

theorem State.toTenant_stays {s0 : State} (s : State) (i : Fin 64) (msg : BitVec 512) (hk : Stays wr s0 s) : Stays wr s0 (State.toTenant s i msg) := by
  unfold State.toTenant
  dsimp only
  repeat' first | (with_reducible first | assumption | apply State.setMailbox_stays | apply State.raiseVector_stays) | split

theorem State.countIrq_stays {s0 : State} (s : State) (r : Nat) (counts : Bool) (hk : Stays wr s0 s) : Stays wr s0 (State.countIrq s r counts) := by
  unfold State.countIrq
  repeat' first | (with_reducible first | assumption | apply State.setCq_stays) | split

theorem State.writeCompletion_stays {s0 : State} (s : State) (r : Nat) (c : Completion) (hk : Stays wr s0 s) : Stays wr s0 (State.writeCompletion s r c) := by
  unfold State.writeCompletion
  repeat' first | (with_reducible first | assumption | apply State.frontWrite_stays | apply State.setCq_stays) | split

theorem State.cqError_stays {s0 : State} (s : State) (r : Nat) (code : Nat) (hk : Stays wr s0 s) : Stays wr s0 (State.cqError s r code) := by
  unfold State.cqError
  repeat' first | (with_reducible first | assumption | apply State.setCq_stays | apply State.raise_stays) | (simp only [stays_mk]; refine stays_upd ?_) | split

theorem State.entryArrives_stays {s0 : State} (s : State) (r : Nat) (entry : Option (BitVec 512)) (desc : Option (BitVec 512)) (hk : Stays wr s0 s) : Stays wr s0 (State.entryArrives s r entry desc) := by
  unfold State.entryArrives
  dsimp only
  repeat' first | (with_reducible first | assumption | apply State.askPlace_stays | apply State.setCq_stays | apply State.setSq_stays | apply State.frontRead_stays) | split

theorem State.ignoreDoorbell_stays {s0 : State} (s : State) (hk : Stays wr s0 s) : Stays wr s0 (State.ignoreDoorbell s) :=
  Stays.upd hk rfl ⟨rfl, rfl, rfl⟩

theorem State.sendPending_stays {s0 : State} (s : State) (fn : Fin 64) (hk : Stays wr s0 s) : Stays wr s0 (State.sendPending s fn) := by
  unfold State.sendPending
  try dsimp only
  repeat' first | intro _ | (with_reducible first | assumption | apply State.signalVector_stays | apply State.setFn_stays | apply stays_foldl) | split

theorem State.writeFirstKept_stays {s0 : State} (s : State) (r : Nat) (hk : Stays wr s0 s) : Stays wr s0 (State.writeFirstKept s r) := by
  unfold State.writeFirstKept
  dsimp only
  repeat' first | (with_reducible first | assumption | apply State.setCq_stays | apply State.writeCompletion_stays) | split

theorem State.releaseHeld_stays {s0 : State} (s : State) (inst : Nat) (hk : Stays wr s0 s) : Stays wr s0 (State.releaseHeld s inst) := by
  unfold State.releaseHeld
  try dsimp only
  repeat' first | intro _ | (with_reducible first | assumption | apply State.releaseWrite_stays | apply State.writeFirstKept_stays | apply State.endHold_stays | apply State.writeProducer_stays | apply stays_foldl) | (simp only [stays_mk]; refine stays_upd ?_) | split

theorem State.resetPhysical_stays {s0 : State} (s : State) (hk : Stays wr s0 s) : Stays wr s0 (State.resetPhysical s) := by
  unfold State.resetPhysical
  try dsimp only
  repeat' first | intro _ | (with_reducible first | assumption | apply State.acceptReset_stays | apply stays_foldl) | (simp only [stays_mk]; refine stays_upd ?_) | split

theorem State.sendHeldMsgs_stays {s0 : State} (s : State) (hk : Stays wr s0 s) : Stays wr s0 (State.sendHeldMsgs s) := by
  unfold State.sendHeldMsgs
  try dsimp only
  repeat' first | intro _ | (with_reducible first | assumption | apply State.signalVector_stays | apply State.irqsDue_stays | apply State.sendPending_stays | apply stays_foldl) | (simp only [stays_mk]; refine stays_upd ?_) | split

theorem State.resumeHost_stays {s0 : State} (s : State) (inst : Nat) (hk : Stays wr s0 s) : Stays wr s0 (State.resumeHost s inst) := by
  unfold State.resumeHost
  repeat' first | (with_reducible first | assumption | apply State.sendHeldMsgs_stays | apply State.releaseHeld_stays) | split

theorem State.sqError_stays {s0 : State} (s : State) (r : Nat) (code : Nat) (hk : Stays wr s0 s) : Stays wr s0 (State.sqError s r code) := by
  unfold State.sqError
  repeat' first | (with_reducible first | assumption | apply State.dropReadAhead_stays | apply State.setSq_stays | apply State.raise_stays) | (simp only [stays_mk]; refine stays_upd ?_) | split

theorem State.writeKept_stays {s0 : State} (s : State) (r : Nat) (hk : Stays wr s0 s) : Stays wr s0 (State.writeKept s r) := by
  unfold State.writeKept
  try dsimp only
  repeat' first | intro _ | (with_reducible first | assumption | apply State.writeFirstKept_stays | apply State.writeProducer_stays | apply stays_foldl) | split

theorem execPipelineEntry_stays {s0 : State} (r : Fin 4096) (entry : BitVec 512) (s : State) (hk : Stays wr s0 s) : StaysOut wr s0 (execPipelineEntry r entry s) := by
  refine staysOut_next ?_
  repeat' first | (with_reducible first | assumption | apply State.entryArrives_stays) | split

theorem execNopEntry_stays {s0 : State} (r : Fin 4096) (entry : BitVec 512) (s : State) (hk : Stays wr s0 s) : StaysOut wr s0 (execNopEntry r entry s) := by
  refine staysOut_next ?_
  repeat' first | (with_reducible first | assumption | apply State.entryArrives_stays) | split

theorem execSqDoorbell_stays {s0 : State} (fn : Fin 64) (r : Fin 4096) (size : Nat) (s : State) (hk : Stays wr s0 s) : StaysOut wr s0 (execSqDoorbell fn r size s) := by
  refine staysOut_next ?_
  repeat' first | (with_reducible first | assumption | apply State.ignoreDoorbell_stays | apply State.setSq_stays) | split

theorem execCqDoorbell_stays {s0 : State} (fn : Fin 64) (r : Fin 4096) (size : Nat) (s : State) (hk : Stays wr s0 s) : StaysOut wr s0 (execCqDoorbell fn r size s) := by
  refine staysOut_next ?_
  repeat' first | (with_reducible first | assumption | apply State.ignoreDoorbell_stays | apply State.setCq_stays) | split

theorem execIndexBlockReadComplete_stays {s0 : State} (cq : Bool) (r : Fin 4096) (res : Option (BitVec 32 × BitVec 32)) (s : State) (hk : Stays wr s0 s) : StaysOut wr s0 (execIndexBlockReadComplete cq r res s) := by
  refine staysOut_next ?_
  dsimp only
  repeat' first | (with_reducible first | assumption | apply State.cqError_stays | apply State.frontRead_stays | apply State.dueNow_stays | apply State.writeKept_stays | apply State.setCq_stays | apply State.sqError_stays | apply State.askPlace_stays | apply State.setSq_stays) | split

theorem execEntryReadComplete_stays {s0 : State} (r : Fin 4096) (entry : Option (BitVec 512)) (desc : Option (BitVec 512)) (s : State) (hk : Stays wr s0 s) : StaysOut wr s0 (execEntryReadComplete r entry desc s) :=
  staysOut_next (State.entryArrives_stays _ _ _ _ hk)

theorem execImageReadComplete_stays {s0 : State} (r : Fin 4096) (image : Option (List Byte)) (s : State) (hk : Stays wr s0 s) : StaysOut wr s0 (execImageReadComplete r image s) := by
  refine staysOut_next ?_
  repeat' first | (with_reducible first | assumption | apply State.setSq_stays | apply State.frontRead_stays) | split

theorem execRingContextWrite_stays {s0 : State} (cq : Bool) (r : Fin 4096) (word : Fin 8) (acc : RegAccess) (v : BitVec 64) (s : State) (hk : Stays wr s0 s) : StaysOut wr s0 (execRingContextWrite cq r word acc v s) := by
  refine staysOut_next ?_
  repeat' first | (with_reducible first | assumption | apply State.setCq_stays | apply State.setSq_stays) | split

theorem execModTimerExpiry_stays {s0 : State} (r : Fin 4096) (s : State) (hk : Stays wr s0 s) : StaysOut wr s0 (execModTimerExpiry r s) := by
  refine staysOut_next ?_
  repeat' first | (with_reducible first | assumption | apply State.irqsDue_stays) | split

theorem execFunctionPowerStateChange_stays {s0 : State} (fn : Fin 64) (d3hot : Bool) (s : State) (hk : Stays wr s0 s) : StaysOut wr s0 (execFunctionPowerStateChange fn d3hot s) := by
  refine staysOut_next ?_
  repeat' first | (with_reducible first | assumption | apply State.resumeHost_stays) | (simp only [stays_mk]; refine stays_upd ?_) | split

theorem execBusMasterEnableChange_stays {s0 : State} (fn : Fin 64) (enable : Bool) (s : State) (hk : Stays wr s0 s) : StaysOut wr s0 (execBusMasterEnableChange fn enable s) := by
  refine staysOut_next ?_
  repeat' first | (with_reducible first | assumption | apply State.resumeHost_stays) | (simp only [stays_mk]; refine stays_upd ?_) | split

theorem execLinkStateChange_stays {s0 : State} (link : LinkState) (s : State) (hk : Stays wr s0 s) : StaysOut wr s0 (execLinkStateChange link s) := by
  refine staysOut_next ?_
  repeat' first | (with_reducible first | assumption | apply State.sendHeldMsgs_stays) | (simp only [stays_mk]; refine stays_upd ?_) | split

theorem execPmeResend_stays {s0 : State} (fn : Fin 64) (s : State) (hk : Stays wr s0 s) : StaysOut wr s0 (execPmeResend fn s) := by
  refine staysOut_next ?_
  repeat' first | (with_reducible first | assumption | apply State.sendHost_stays) | split

theorem execFunctionLevelReset_stays {s0 : State} (fn : Fin 64) (s : State) (hk : Stays wr s0 s) : StaysOut wr s0 (execFunctionLevelReset fn s) := by
  refine staysOut_next ?_
  try dsimp only
  repeat' first | intro _ | (with_reducible first | assumption | apply State.resetPhysical_stays | apply State.acceptReset_stays | apply stays_foldl) | split

theorem execVfEnableChange_stays {s0 : State} (enable : Bool) (numVfs : Nat) (s : State) (hk : Stays wr s0 s) : StaysOut wr s0 (execVfEnableChange enable numVfs s) := by
  refine staysOut_next ?_
  try dsimp only
  repeat' first | intro _ | (with_reducible first | assumption | apply State.acceptReset_stays | apply stays_foldl) | (simp only [stays_mk]; refine stays_upd ?_) | split

theorem execHotReset_stays {s0 : State} (linkDown : Bool) (s : State) (hk : Stays wr s0 s) : StaysOut wr s0 (execHotReset linkDown s) := by
  refine staysOut_next ?_
  repeat' first | (with_reducible first | assumption | apply State.resetPhysical_stays) | (simp only [stays_mk]; refine stays_upd ?_) | split

theorem execOutDoorbellSend_stays {s0 : State} (fn : Fin 64) (acc : RegAccess) (v : BitVec 64) (s : State) (hk : Stays wr s0 s) : StaysOut wr s0 (execOutDoorbellSend fn acc v s) := by
  refine staysOut_next ?_
  repeat' first | (with_reducible first | assumption | apply State.setMailbox_stays | apply State.raiseVector_stays) | split

theorem execInAck_stays {s0 : State} (fn : Fin 64) (acc : RegAccess) (v : BitVec 64) (s : State) (hk : Stays wr s0 s) : StaysOut wr s0 (execInAck fn acc v s) := by
  refine staysOut_next ?_
  repeat' first | (with_reducible first | assumption | apply State.setMailbox_stays) | split

theorem execToTenant_stays {s0 : State} (i : Fin 64) (msg : BitVec 512) (s : State) (hk : Stays wr s0 s) : StaysOut wr s0 (execToTenant i msg s) :=
  staysOut_next (State.toTenant_stays _ _ _ hk)

theorem execFromAck_stays {s0 : State} (i : Fin 64) (ack : Bool) (s : State) (hk : Stays wr s0 s) : StaysOut wr s0 (execFromAck i ack s) :=
  staysOut_next (State.fromAck_stays _ _ _ hk)

theorem execHostLinkTraining_stays {s0 : State} (speed : Nat) (width : Nat) (s : State) (hk : Stays wr s0 s) : StaysOut wr s0 (execHostLinkTraining speed width s) := by
  refine staysOut_next ?_
  repeat' first | (with_reducible first | assumption | apply State.raise_stays | apply State.sendHeldMsgs_stays) | (simp only [stays_mk]; refine stays_upd ?_) | split

theorem execMsixUnmask_stays {s0 : State} (fn : Fin 64) (vec : Option (Fin 64)) (s : State) (hk : Stays wr s0 s) : StaysOut wr s0 (execMsixUnmask fn vec s) := by
  refine staysOut_next ?_
  repeat' first | (with_reducible first | assumption | apply State.sendPending_stays | apply State.setFn_stays) | split

theorem execPmeStatusClear_stays {s0 : State} (fn : Fin 64) (s : State) (hk : Stays wr s0 s) : StaysOut wr s0 (execPmeStatusClear fn s) :=
  staysOut_next (Stays.upd hk rfl ⟨rfl, rfl, rfl⟩)

end Sys2Proof.Machine
end

