-- ==== Sys2Proof/Laws/StaysMerge.lean ====
section
/-! SUPPORT. The merge, admission and object operations stay. -/

namespace Sys2Proof.Machine

variable {wr : Bool}

/-! ### Merge -/

theorem State.applyCodecHeaders_stays {s0 : State} (s : State) (hk : Stays true s0 s) : Stays true s0 (State.applyCodecHeaders s) := by
  unfold State.applyCodecHeaders
  try dsimp only
  repeat' first | intro _ | (with_reducible first | assumption | apply State.sumMerge_stays | apply State.writeMem_stays | apply State.updEntry_stays | apply stays_foldl) | split

theorem State.applyHeader_stays {s0 : State} (s : State) (inst : Nat) (slot : Nat) (rows : Nat) (used : Nat) (hk : Stays true s0 s) : Stays true s0 (State.applyHeader s inst slot rows used) := by
  unfold State.applyHeader
  repeat' first | (with_reducible first | assumption | apply State.sumMerge_stays | apply State.writeMem_stays) | split

theorem State.sumRecord_stays {s0 : State} (s : State) (before : State) (tb : KmaTable) (key : DWord) (hk : Stays wr s0 s) : Stays wr s0 (State.sumRecord s before tb key) := by
  unfold State.sumRecord
  repeat' first | (with_reducible first | assumption | apply State.sumMerge_stays) | split

theorem State.applyRecord_stays {s0 : State} (s : State) (r : MergeRecord) (hk : Stays true s0 s) : StaysE true s0 (State.applyRecord s r) := by
  unfold State.applyRecord
  try dsimp only
  repeat' first | intro _ | (with_reducible first | assumption | apply State.applyHeader_stays | apply State.mergeRecord_stays | apply State.sumRecord_stays | apply staysE_ok | exact staysE_error _ | apply stays_foldl) | (simp only [stays_mkStore]; refine stays_updStore ?_) | split | with_reducible refine stays_ok ‹_ = Except.ok _› ?_

theorem State.finish_stays {s0 : State} (s : State) (slot : Nat) (pos : Nat) (st : Nat) (detail : Nat) (hk : Stays wr s0 s) : Stays wr s0 (State.finish s slot pos st detail) :=
  Stays.upd hk rfl ⟨rfl, rfl, rfl⟩

theorem State.applyRecords_stays {s0 : State} (s : State) (a1 : List MergeRecord) (hk : Stays true s0 s) : StaysE true s0 (State.applyRecords s a1) := by
  induction a1 generalizing s with
  | nil =>
    unfold State.applyRecords
    try dsimp only
    repeat' first | intro _ | (with_reducible first | assumption | apply State.applyRecord_stays | apply stays_foldl | apply stays_foldl_fst | apply stays_foldl_snd | apply staysE_ok | exact staysE_error _ | apply staysE_bind | apply stays_foldl_E) | (simp only [stays_mkStore]; refine stays_updStore ?_) | split | (with_reducible first | refine stays_fst ‹_ = (_, _)› ?_ | refine stays_snd ‹_ = (_, _)› ?_ | refine stays_ok ‹_ = Except.ok _› ?_ | refine stays_some ‹_ = some _› ?_ | refine stays_someC ‹_ = some (_, _)› ?_ | refine stays_inl ‹_ = Sum.inl _› ?_ | refine stays_inr ‹_ = Sum.inr _› ?_ | exact StaysE.keep ‹StaysE true _ (Except.ok _)› _ rfl | exact StaysO.keep ‹StaysO true _ (some _)› _ rfl | exact StaysC.keep ‹StaysC true _ (some _)› _ rfl | exact StaysEff.keep ‹StaysEff true _ (Effect.done _ _)› _ rfl | refine stays_of_done ‹_ = Effect.done _ _› ?_)
  | cons x r ih =>
    unfold State.applyRecords
    try dsimp only
    repeat' first | intro _ | (with_reducible first | assumption | apply ih | apply State.applyRecord_stays | apply stays_foldl | apply stays_foldl_fst | apply stays_foldl_snd | apply staysE_ok | exact staysE_error _ | apply staysE_bind | apply stays_foldl_E) | (simp only [stays_mkStore]; refine stays_updStore ?_) | split | (with_reducible first | refine stays_fst ‹_ = (_, _)› ?_ | refine stays_snd ‹_ = (_, _)› ?_ | refine stays_ok ‹_ = Except.ok _› ?_ | refine stays_some ‹_ = some _› ?_ | refine stays_someC ‹_ = some (_, _)› ?_ | refine stays_inl ‹_ = Sum.inl _› ?_ | refine stays_inr ‹_ = Sum.inr _› ?_ | exact StaysE.keep ‹StaysE true _ (Except.ok _)› _ rfl | exact StaysO.keep ‹StaysO true _ (some _)› _ rfl | exact StaysC.keep ‹StaysC true _ (some _)› _ rfl | exact StaysEff.keep ‹StaysEff true _ (Effect.done _ _)› _ rfl | refine stays_of_done ‹_ = Effect.done _ _› ?_)

theorem State.dropContexts_stays {s0 : State} (s : State) (slot : Nat) (hk : Stays wr s0 s) : Stays wr s0 (State.dropContexts s slot) :=
  Stays.upd hk rfl ⟨rfl, rfl, rfl⟩

theorem State.commandOver_stays {s0 : State} (s : State) (e : WorkEntry) (st : Nat) (hk : Stays wr s0 s) : Stays wr s0 (State.commandOver s e st) := by
  unfold State.commandOver
  repeat' first | (with_reducible first | assumption | apply State.finish_stays | apply State.frontWrite_stays) | split

theorem State.each_stays {s0 : State} {α : Type} (one : State → α → Except Nat State) (s : State) (l : List α) (hk : Stays wr s0 s)
    (hs : ∀ u x, Stays wr s0 u → StaysE wr s0 (one u x)) : Stays wr s0 (State.each one s l).1 := by
  induction l generalizing s with
  | nil => exact hk
  | cons x r ih =>
    unfold State.each
    split
    · exact hk
    · exact ih _ ((hs _ _ hk).keep _ ‹_›)

theorem State.endFailed_stays {s0 : State} (s : State) (hk : Stays wr s0 s) : Stays wr s0 (State.endFailed s) := by
  unfold State.endFailed
  try dsimp only
  repeat' first | intro _ | (with_reducible first | assumption | apply State.finish_stays | apply State.dropContexts_stays | apply stays_foldl) | split

theorem State.hashString_stays {s0 : State} (s : State) (str : List Byte) (hk : Stays wr s0 s) : Stays wr s0 (State.hashString s str) := by
  unfold State.hashString
  repeat' first | (with_reducible first | assumption | apply State.hashOn_stays) | split

theorem State.indexCode_stays {s0 : State} (inst : Nat) (tag : Nat) (d : BitVec 192) (s : State) (code : Nat) (hk : Stays true s0 s) : StaysE true s0 (State.indexCode inst tag d s code) := by
  unfold State.indexCode
  try dsimp only
  repeat' first | intro _ | (with_reducible first | assumption | apply andThen_stays | apply State.mergeRead_stays | apply State.tablePut_stays | apply State.hashString_stays | apply staysE_ok | exact staysE_error _ | apply stays_foldl) | split

theorem State.loadOne_stays {s0 : State} (inst : Nat) (tag : Nat) (s : State) (x : KmaEntry) (hk : Stays true s0 s) : StaysE true s0 (State.loadOne inst tag s x) := by
  unfold State.loadOne
  try dsimp only
  repeat' first | intro _ | (with_reducible first | assumption | apply State.verify_stays | apply andThen_stays | apply State.entryInsert_stays | apply State.sumRecord_stays | apply staysE_ok | exact staysE_error _ | apply stays_foldl) | split

theorem settleMerge_stays {s0 : State} (a0 : Nat) (a1 : State) (hk : Stays wr s0 a1) : Stays wr s0 (settleMerge a0 a1) := by
  induction a0 generalizing a1 with
  | zero =>
    unfold settleMerge
    try dsimp only
    repeat' first | intro _ | (with_reducible first | assumption | apply State.commandOver_stays | apply stays_foldl | apply stays_foldl_fst | apply stays_foldl_snd) | (simp only [stays_mk]; refine stays_upd ?_) | split | (with_reducible first | refine stays_fst ‹_ = (_, _)› ?_ | refine stays_snd ‹_ = (_, _)› ?_ | refine stays_ok ‹_ = Except.ok _› ?_ | refine stays_some ‹_ = some _› ?_ | refine stays_someC ‹_ = some (_, _)› ?_ | refine stays_inl ‹_ = Sum.inl _› ?_ | refine stays_inr ‹_ = Sum.inr _› ?_ | exact StaysE.keep ‹StaysE wr _ (Except.ok _)› _ rfl | exact StaysO.keep ‹StaysO wr _ (some _)› _ rfl | exact StaysC.keep ‹StaysC wr _ (some _)› _ rfl | exact StaysEff.keep ‹StaysEff wr _ (Effect.done _ _)› _ rfl | refine stays_of_done ‹_ = Effect.done _ _› ?_)
  | succ n ih =>
    unfold settleMerge
    try dsimp only
    repeat' first | intro _ | (with_reducible first | assumption | apply ih | apply State.commandOver_stays | apply stays_foldl | apply stays_foldl_fst | apply stays_foldl_snd) | (simp only [stays_mk]; refine stays_upd ?_) | split | (with_reducible first | refine stays_fst ‹_ = (_, _)› ?_ | refine stays_snd ‹_ = (_, _)› ?_ | refine stays_ok ‹_ = Except.ok _› ?_ | refine stays_some ‹_ = some _› ?_ | refine stays_someC ‹_ = some (_, _)› ?_ | refine stays_inl ‹_ = Sum.inl _› ?_ | refine stays_inr ‹_ = Sum.inr _› ?_ | exact StaysE.keep ‹StaysE wr _ (Except.ok _)› _ rfl | exact StaysO.keep ‹StaysO wr _ (some _)› _ rfl | exact StaysC.keep ‹StaysC wr _ (some _)› _ rfl | exact StaysEff.keep ‹StaysEff wr _ (Effect.done _ _)› _ rfl | refine stays_of_done ‹_ = Effect.done _ _› ?_)

theorem State.tableResult_stays {s0 : State} (s : State) (e : WorkEntry) (st : Nat) (hk : Stays wr s0 s) : Stays wr s0 (State.tableResult s e st) := by
  unfold State.tableResult
  repeat' first | (with_reducible first | assumption | apply State.commandOver_stays | apply settleMerge_stays) | split

theorem State.onTable_stays {s0 : State} (s : State) (e : WorkEntry) (k : KmaTable → State) (hk : Stays wr s0 s)
    (hs : ∀ tb, Stays wr s0 (k tb)) : Stays wr s0 (State.onTable s e k) := by
  unfold State.onTable
  split
  · exact State.tableResult_stays _ _ _ hk
  · split
    · exact State.tableResult_stays _ _ _ hk
    · exact hs _

theorem State.spreadKeys_stays {s0 : State} (s : State) (tb : KmaTable) (es : List KmaEntry) (hk : Stays true s0 s) : Stays true s0 (State.spreadKeys s tb es) := by
  unfold State.spreadKeys
  try dsimp only
  repeat' first | intro _ | (with_reducible first | assumption | apply State.setGroup_stays | apply stays_foldl) | split

theorem State.reloadRecord_stays {s0 : State} (s : State) (tb : KmaTable) (ops : Nat) (ma : Nat) (hk : Stays true s0 s) : StaysE true s0 (State.reloadRecord s tb ops ma) := by
  unfold State.reloadRecord
  try dsimp only
  repeat' first | intro _ | (with_reducible first | assumption | apply andThen_stays | apply State.mergeRead_stays | apply State.mergeInsert_stays | apply State.mergeUpdate_stays | apply staysE_ok | exact staysE_error _ | apply stays_foldl) | split

theorem State.reloadParts_stays {s0 : State} (s : State) (tb : KmaTable) (ops : Nat) (ps : List Nat) (hk : Stays true s0 s) : StaysE true s0 (State.reloadParts s tb ops ps) := by
  unfold State.reloadParts
  try dsimp only
  repeat' first | intro _ | (with_reducible first | assumption | apply andThen_stays | apply State.reloadRecord_stays | apply staysE_ok | exact staysE_error _ | apply stays_foldl | apply stays_foldl_fst | apply stays_foldl_snd | apply stays_foldl_E | apply stays_foldl_O | apply stays_foldl_C | apply stays_foldl_Eff | apply staysE_bind) | (simp only [stays_mkStore]; refine stays_updStore ?_) | split

theorem State.nextRound_stays {s0 : State} (s : State) (e : WorkEntry) (img : Image) (tb : KmaTable) (hk : Stays true s0 s) : StaysE true s0 (State.nextRound s e img tb) := by
  unfold State.nextRound
  try dsimp only
  repeat' first | intro _ | (with_reducible first | assumption | apply andThen_stays | apply State.mergeRead_stays | apply State.updTable_stays | apply State.clearTable_stays | apply State.reloadParts_stays | apply staysE_ok | exact staysE_error _ | apply stays_foldl) | split

theorem State.reportUnsound_stays {s0 : State} (s : State) (r : MergeRecord) (st : Nat) (hk : Stays wr s0 s) : Stays wr s0 (State.reportUnsound s r st) := by
  unfold State.reportUnsound
  repeat' first | (with_reducible first | assumption | apply State.readEntry_stays | apply State.readUnit_stays) | split

theorem State.stageOver_stays {s0 : State} (s : State) (e : WorkEntry) (img : Image) (hk : Stays true s0 s) : Stays true s0 (State.stageOver s e img) := by
  unfold State.stageOver
  try dsimp only
  repeat' first | intro _ | (with_reducible first | assumption | apply State.failEntry_stays | apply State.updEntry_stays | apply State.updTable_stays | apply State.nextRound_stays | apply stays_foldl) | (simp only [stays_mkStore]; refine stays_updStore ?_) | split | with_reducible refine stays_ok ‹_ = Except.ok _› ?_

theorem State.stagesOver_stays {s0 : State} (s : State) (hk : Stays true s0 s) : Stays true s0 (State.stagesOver s) := by
  unfold State.stagesOver
  try dsimp only
  repeat' first | intro _ | (with_reducible first | assumption | apply State.stageOver_stays | apply stays_foldl) | split

theorem State.verifyRecord_stays {s0 : State} (s : State) (r : MergeRecord) (hk : Stays wr s0 s) : Stays wr s0 (State.verifyRecord s r) := by
  unfold State.verifyRecord
  repeat' first | (with_reducible first | assumption | apply State.verify_stays) | split

theorem mergeAll_stays {s0 : State} (a0 : Nat) (a1 : State) (hk : Stays true s0 a1) : Stays true s0 (mergeAll a0 a1) := by
  induction a0 generalizing a1 with
  | zero =>
    unfold mergeAll
    try dsimp only
    repeat' first | intro _ | (with_reducible first | assumption | apply State.applyRecords_stays | apply State.failEntry_stays | apply State.reportUnsound_stays | apply stays_foldl | apply stays_foldl_fst | apply stays_foldl_snd) | (simp only [stays_mkStore]; refine stays_updStore ?_) | split | (with_reducible first | refine stays_fst ‹_ = (_, _)› ?_ | refine stays_snd ‹_ = (_, _)› ?_ | refine stays_ok ‹_ = Except.ok _› ?_ | refine stays_some ‹_ = some _› ?_ | refine stays_someC ‹_ = some (_, _)› ?_ | refine stays_inl ‹_ = Sum.inl _› ?_ | refine stays_inr ‹_ = Sum.inr _› ?_ | exact StaysE.keep ‹StaysE true _ (Except.ok _)› _ rfl | exact StaysO.keep ‹StaysO true _ (some _)› _ rfl | exact StaysC.keep ‹StaysC true _ (some _)› _ rfl | exact StaysEff.keep ‹StaysEff true _ (Effect.done _ _)› _ rfl | refine stays_of_done ‹_ = Effect.done _ _› ?_)
  | succ n ih =>
    unfold mergeAll
    try dsimp only
    repeat' first | intro _ | (with_reducible first | assumption | apply ih | apply State.applyRecords_stays | apply State.failEntry_stays | apply State.reportUnsound_stays | apply stays_foldl | apply stays_foldl_fst | apply stays_foldl_snd) | (simp only [stays_mkStore]; refine stays_updStore ?_) | split | (with_reducible first | refine stays_fst ‹_ = (_, _)› ?_ | refine stays_snd ‹_ = (_, _)› ?_ | refine stays_ok ‹_ = Except.ok _› ?_ | refine stays_some ‹_ = some _› ?_ | refine stays_someC ‹_ = some (_, _)› ?_ | refine stays_inl ‹_ = Sum.inl _› ?_ | refine stays_inr ‹_ = Sum.inr _› ?_ | exact StaysE.keep ‹StaysE true _ (Except.ok _)› _ rfl | exact StaysO.keep ‹StaysO true _ (some _)› _ rfl | exact StaysC.keep ‹StaysC true _ (some _)› _ rfl | exact StaysEff.keep ‹StaysEff true _ (Effect.done _ _)› _ rfl | refine stays_of_done ‹_ = Effect.done _ _› ?_)

theorem execFrameMerge_stays {s0 : State} (s : State) (hk : Stays true s0 s) : StaysOut true s0 (execFrameMerge s) := by
  refine staysOut_next ?_
  try dsimp only
  repeat' first | intro _ | (with_reducible first | assumption | apply State.awaitSlot_stays | apply State.verifyRecord_stays | apply State.applyCodecHeaders_stays | apply mergeAll_stays | apply State.endFailed_stays | apply State.stagesOver_stays | apply settleMerge_stays | apply stays_foldl) | (simp only [stays_mkStore]; refine stays_updStore ?_) | split

theorem execTableClear_stays {s0 : State} (slot : Fin 256) (s : State) (hk : Stays true s0 s) : StaysOut true s0 (execTableClear slot s) := by
  refine staysOut_next ?_
  try dsimp only
  repeat' first | intro _ | (with_reducible first | assumption | apply State.onTable_stays | apply State.tableResult_stays | apply State.clearTable_stays | apply stays_foldl) | split

theorem execTableDestroy_stays {s0 : State} (slot : Fin 256) (s : State) (hk : Stays true s0 s) : StaysOut true s0 (execTableDestroy slot s) := by
  refine staysOut_next ?_
  try dsimp only
  repeat' first | intro _ | (with_reducible first | assumption | apply State.onTable_stays | apply State.tableResult_stays | apply State.dropTable_stays | apply stays_foldl) | split

theorem execSetDescriptor_stays {s0 : State} (slot : Fin 256) (s : State) (hk : Stays wr s0 s) : StaysOut wr s0 (execSetDescriptor slot s) := by
  refine staysOut_next ?_
  repeat' first | (with_reducible first | assumption | apply settleMerge_stays) | (simp only [stays_mk]; refine stays_upd ?_) | split

/-! ### Admission -/

theorem State.batchStep_stays {s0 : State} (s : State) (r : Nat) (index : Nat) (entry : BitVec 512) (hk : Stays wr s0 s) : Stays wr s0 (State.batchStep s r index entry).1 := by
  unfold State.batchStep
  dsimp only
  repeat' first | (with_reducible first | assumption | apply State.setSq_stays) | (simp only [stays_mk]; refine stays_upd ?_) | split

theorem State.disableSq_stays {s0 : State} (s : State) (r : Nat) (hk : Stays wr s0 s) : Stays wr s0 (State.disableSq s r) := by
  unfold State.disableSq
  repeat' first | (with_reducible first | assumption | apply State.dropReadAhead_stays | apply State.setSq_stays) | (simp only [stays_mk]; refine stays_upd ?_) | split

theorem State.disableRings_stays {s0 : State} (s : State) (inst : Nat) (hk : Stays wr s0 s) : Stays wr s0 (State.disableRings s inst) := by
  unfold State.disableRings
  try dsimp only
  repeat' first | intro _ | (with_reducible first | assumption | apply State.disableSq_stays | apply State.setSq_stays | apply State.setCq_stays | apply stays_foldl) | split

theorem State.squashEntry_stays {s0 : State} (s : State) (e : WorkEntry) (silent : Bool) (hk : Stays wr s0 s) : Stays wr s0 (State.squashEntry s e silent) := by
  unfold State.squashEntry
  repeat' first | (with_reducible first | assumption | apply State.finish_stays | apply State.dropContexts_stays) | (simp only [stays_mk]; refine stays_upd ?_) | split

theorem State.squashInstance_stays {s0 : State} (s : State) (i : Fin 64) (reset : Bool) (hk : Stays true s0 s) : Stays true s0 (State.squashInstance s i reset) := by
  unfold State.squashInstance
  try dsimp only
  repeat' first | intro _ | (with_reducible first | assumption | apply State.releaseHandles_stays | apply State.disableRings_stays | apply State.squashEntry_stays | apply State.clearTable_stays | apply stays_foldl) | (simp only [stays_mkStore]; refine stays_updStore ?_) | split

theorem State.takeHead_stays {s0 : State} (s : State) (list : List ListRecord) (r : Nat) (hk : Stays wr s0 s) : Stays wr s0 (State.takeHead s list r).1 := by
  unfold State.takeHead
  dsimp only
  repeat' first | (with_reducible first | assumption | apply State.batchStep_stays | apply State.setSq_stays) | split

theorem pick_stays {s0 : State} (a0 : Nat) (a1 : State) (a2 : List ListRecord) (a3 : List (Nat × Nat)) (hk : Stays wr s0 a1) : Stays wr s0 (pick a0 a1 a2 a3).1 := by
  induction a0 generalizing a1 a2 a3 with
  | zero =>
    unfold pick
    try dsimp only
    repeat' first | intro _ | (with_reducible first | assumption | apply State.setSq_stays | apply State.takeHead_stays | apply stays_foldl | apply stays_foldl_fst | apply stays_foldl_snd) | (simp only [stays_mk]; refine stays_upd ?_) | split | (with_reducible first | refine stays_fst ‹_ = (_, _)› ?_ | refine stays_snd ‹_ = (_, _)› ?_ | refine stays_ok ‹_ = Except.ok _› ?_ | refine stays_some ‹_ = some _› ?_ | refine stays_someC ‹_ = some (_, _)› ?_ | refine stays_inl ‹_ = Sum.inl _› ?_ | refine stays_inr ‹_ = Sum.inr _› ?_ | exact StaysE.keep ‹StaysE wr _ (Except.ok _)› _ rfl | exact StaysO.keep ‹StaysO wr _ (some _)› _ rfl | exact StaysC.keep ‹StaysC wr _ (some _)› _ rfl | exact StaysEff.keep ‹StaysEff wr _ (Effect.done _ _)› _ rfl | refine stays_of_done ‹_ = Effect.done _ _› ?_)
  | succ n ih =>
    unfold pick
    try dsimp only
    repeat' first | intro _ | (with_reducible first | assumption | apply ih | apply State.setSq_stays | apply State.takeHead_stays | apply stays_foldl | apply stays_foldl_fst | apply stays_foldl_snd) | (simp only [stays_mk]; refine stays_upd ?_) | split | (with_reducible first | refine stays_fst ‹_ = (_, _)› ?_ | refine stays_snd ‹_ = (_, _)› ?_ | refine stays_ok ‹_ = Except.ok _› ?_ | refine stays_some ‹_ = some _› ?_ | refine stays_someC ‹_ = some (_, _)› ?_ | refine stays_inl ‹_ = Sum.inl _› ?_ | refine stays_inr ‹_ = Sum.inr _› ?_ | exact StaysE.keep ‹StaysE wr _ (Except.ok _)› _ rfl | exact StaysO.keep ‹StaysO wr _ (some _)› _ rfl | exact StaysC.keep ‹StaysC wr _ (some _)› _ rfl | exact StaysEff.keep ‹StaysEff wr _ (Effect.done _ _)› _ rfl | refine stays_of_done ‹_ = Effect.done _ _› ?_)

theorem State.writeConsumers_stays {s0 : State} (s : State) (before : State) (hk : Stays wr s0 s) : Stays wr s0 (State.writeConsumers s before) := by
  unfold State.writeConsumers
  try dsimp only
  repeat' first | intro _ | (with_reducible first | assumption | apply State.frontWrite_stays | apply stays_foldl) | split

theorem State.buildList_stays {s0 : State} (s : State) (hk : Stays wr s0 s) : Stays wr s0 (State.buildList s).1 := by
  unfold State.buildList
  repeat' first | (with_reducible first | assumption | apply pick_stays | apply State.writeConsumers_stays) | (simp only [stays_mk]; refine stays_upd ?_) | split

theorem State.freePlaces_stays {s0 : State} (s : State) (r : Nat) (n : Nat) (hk : Stays wr s0 s) : Stays wr s0 (State.freePlaces s r n) :=
  State.setCq_stays _ _ _ hk

theorem State.keepCompletion_stays {s0 : State} (s : State) (c : Completion) (hk : Stays wr s0 s) : Stays wr s0 (State.keepCompletion s c) := by
  unfold State.keepCompletion
  repeat' first | (with_reducible first | assumption | apply State.setCq_stays) | (simp only [stays_mk]; refine stays_upd ?_) | split

theorem State.postCompletion_stays {s0 : State} (s : State) (ring : Nat) (c : Completion) (hk : Stays wr s0 s) : Stays wr s0 (State.postCompletion s ring c) := by
  unfold State.postCompletion
  repeat' first | (with_reducible first | assumption | apply State.freePlaces_stays | apply State.countIrq_stays | apply State.keepCompletion_stays | apply State.writeCompletion_stays) | split

theorem State.postBatch_stays {s0 : State} (s : State) (b : Batch) (hk : Stays wr s0 s) : Stays wr s0 (State.postBatch s b) := by
  unfold State.postBatch
  dsimp only
  repeat' first | (with_reducible first | assumption | apply State.freePlaces_stays | apply State.postCompletion_stays) | (simp only [stays_mk]; refine stays_upd ?_) | split

theorem State.releaseMember_stays {s0 : State} (s : State) (b : Batch) (m : BatchMember) (hk : Stays wr s0 s) : Stays wr s0 (State.releaseMember s b m) := by
  unfold State.releaseMember
  dsimp only
  repeat' first | (with_reducible first | assumption | apply State.postBatch_stays) | (simp only [stays_mk]; refine stays_upd ?_) | split

theorem State.releaseEntry_stays {s0 : State} (s : State) (e : WorkEntry) (durable : Bool) (hk : Stays wr s0 s) : Stays wr s0 (State.releaseEntry s e durable) := by
  unfold State.releaseEntry
  repeat' first | (with_reducible first | assumption | apply State.releaseMember_stays | apply State.freePlaces_stays | apply State.postCompletion_stays) | split

theorem State.countOverload_stays {s0 : State} (s : State) (hk : Stays wr s0 s) : Stays wr s0 (State.countOverload s) := by
  unfold State.countOverload
  repeat' split
  all_goals exact Stays.upd hk rfl ⟨rfl, rfl, rfl⟩

theorem State.dropTemporaries_stays {s0 : State} (s : State) (e : WorkEntry) (hk : Stays true s0 s) : Stays true s0 (State.dropTemporaries s e) := by
  unfold State.dropTemporaries
  try dsimp only
  repeat' first | intro _ | (with_reducible first | assumption | apply State.dropTable_stays | apply stays_foldl) | split

theorem State.postEnded_stays {s0 : State} (s : State) (hk : Stays wr s0 s) : Stays wr s0 (State.postEnded s) := by
  unfold State.postEnded
  try dsimp only
  repeat' first | intro _ | (with_reducible first | assumption | apply State.postBatch_stays | apply stays_foldl) | split

theorem execSquash_stays {s0 : State} (slot : Fin 256) (s : State) (hk : Stays true s0 s) : StaysOut true s0 (execSquash slot s) := by
  refine staysOut_next ?_
  dsimp only
  repeat' first | (with_reducible first | assumption | apply State.squashInstance_stays | apply State.updEntry_stays) | split

/-! ### Objects -/

theorem State.odSet_stays {s0 : State} (s : State) (index : Nat) (sub : Nat) (v : Nat) (hk : Stays wr s0 s) : Stays wr s0 (State.odSet s index sub v) :=
  Stays.upd hk rfl ⟨rfl, rfl, rfl⟩

end Sys2Proof.Machine
end

