-- ==== Sys2Proof/Laws/StaysTick.lean ====
section
/-! SUPPORT. The latching, DRAM, journal, power, frame and tick operations stay. -/

namespace Sys2Proof.Machine

variable {wr : Bool}

/-! ### Latch -/

theorem State.applyDesc_stays {s0 : State} (s : State) (inst : Nat) (sel : Nat) (d : BitVec 192) (hk : Stays wr s0 s) : Stays wr s0 (State.applyDesc s inst sel d) := by
  unfold State.applyDesc
  repeat' first | (with_reducible first | assumption | apply State.sumMerge_stays) | (simp only [stays_mk]; refine stays_upd ?_) | split

theorem State.invalidate_stays {s0 : State} (s : State) (gone : CacheLine → Bool) (victimGone : Nat → Bool) (hk : Stays wr s0 s) : Stays wr s0 (State.invalidate s gone victimGone) :=
  Stays.upd hk rfl ⟨rfl, rfl, rfl⟩

theorem State.relock_stays {s0 : State} (s : State) (hk : Stays wr s0 s) : Stays wr s0 (State.relock s) := by
  unfold State.relock
  dsimp only
  repeat' first | (with_reducible first | assumption | apply State.invalidate_stays) | split

theorem State.invalidateRange_stays {s0 : State} (s : State) (base : Nat) (len : Nat) (hk : Stays wr s0 s) : Stays wr s0 (State.invalidateRange s base len) := by
  unfold State.invalidateRange
  repeat' first | (with_reducible first | assumption | apply State.invalidate_stays) | split

theorem State.latchSq_stays {s0 : State} (s : State) (r : Nat) (hk : Stays wr s0 s) : Stays wr s0 (State.latchSq s r) := by
  unfold State.latchSq
  dsimp only
  repeat' first | (with_reducible first | assumption | apply State.disableSq_stays | apply State.setSq_stays) | split

theorem State.latchCq_stays {s0 : State} (s : State) (r : Nat) (hk : Stays wr s0 s) : Stays wr s0 (State.latchCq s r) := by
  unfold State.latchCq
  dsimp only
  repeat' first | (with_reducible first | assumption | apply State.setCq_stays) | split

theorem State.applySet_stays {s0 : State} (s : State) (hk : Stays wr s0 s) : Stays wr s0 (State.applySet s) := by
  unfold State.applySet
  try dsimp only
  repeat' first | intro _ | (with_reducible first | assumption | apply State.relock_stays | apply State.invalidateRange_stays | apply State.odSet_stays | apply State.latchSq_stays | apply State.latchCq_stays | apply stays_foldl) | (simp only [stays_mk]; refine stays_upd ?_) | split

theorem State.refuseSet_stays {s0 : State} (s : State) (mask : Nat) (hk : Stays wr s0 s) : Stays wr s0 (State.refuseSet s mask) := by
  unfold State.refuseSet
  repeat' first | (with_reducible first | assumption | apply State.raise_stays) | (simp only [stays_mk]; refine stays_upd ?_) | split

theorem State.latchSet_stays {s0 : State} (s : State) (hk : Stays wr s0 s) : Stays wr s0 (State.latchSet s).1 := by
  unfold State.latchSet
  dsimp only
  repeat' first | (with_reducible first | assumption | apply State.applySet_stays | apply State.refuseSet_stays) | split

theorem State.latchDesc_stays {s0 : State} (s : State) (c : DescChange) (hk : Stays wr s0 s) : Stays wr s0 (State.latchDesc s c) := by
  unfold State.latchDesc
  dsimp only
  repeat' first | (with_reducible first | assumption | apply State.applyDesc_stays | apply State.finish_stays) | (simp only [stays_mk]; refine stays_upd ?_) | split

theorem State.latchDescs_stays {s0 : State} (s : State) (hk : Stays wr s0 s) : Stays wr s0 (State.latchDescs s) := by
  unfold State.latchDescs
  try dsimp only
  repeat' first | intro _ | (with_reducible first | assumption | apply State.latchDesc_stays | apply stays_foldl) | split

/-! ### MirrorSend -/

theorem State.sendMirror_stays {s0 : State} (s : State) (portB : Bool) (type : Nat) (frame : Nat) (payload : List Byte) (hk : Stays wr s0 s) : Stays wr s0 (State.sendMirror s portB type frame payload) := by
  unfold State.sendMirror
  dsimp only
  repeat' first | (with_reducible first | assumption) | (simp only [stays_mk]; refine stays_upd ?_) | split

theorem State.setFaults_stays {s0 : State} (s : State) (f : BitVec 48) (hk : Stays wr s0 s) : Stays wr s0 (State.setFaults s f) :=
  Stays.upd hk rfl ⟨rfl, rfl, rfl⟩

theorem State.latchFault_stays {s0 : State} (s : State) (bit : Nat) (hk : Stays wr s0 s) : Stays wr s0 (State.latchFault s bit) :=
  State.setFaults_stays _ _ hk

theorem State.sendT1s_stays {s0 : State} (s : State) (h : Heartbeat) (hk : Stays wr s0 s) : Stays wr s0 (State.sendT1s s h) := by
  unfold State.sendT1s
  split <;> exact Stays.upd hk rfl ⟨rfl, rfl, rfl⟩

theorem State.fence_stays {s0 : State} (s : State) (reason : Nat) (hk : Stays wr s0 s) : Stays wr s0 (State.fence s reason) := by
  unfold State.fence
  repeat' first | (with_reducible first | assumption | apply State.latchFault_stays | apply State.sendMirror_stays | apply State.raise_stays | apply State.sendT1s_stays) | (simp only [stays_mk]; refine stays_upd ?_) | split

theorem State.sendHeartbeats_stays {s0 : State} (s : State) (detach : Bool) (hk : Stays wr s0 s) : Stays wr s0 (State.sendHeartbeats s detach) := by
  unfold State.sendHeartbeats
  repeat' first | (with_reducible first | assumption | apply State.sendMirror_stays) | split

theorem State.sendDown_stays {s0 : State} (s : State) (type : Nat) (frame : Nat) (payload : List Byte) (hk : Stays wr s0 s) : Stays wr s0 (State.sendDown s type frame payload) := by
  unfold State.sendDown
  repeat' first | (with_reducible first | assumption | apply State.sendMirror_stays) | (simp only [stays_mk]; refine stays_upd ?_) | split

theorem State.stageData_stays {s0 : State} (s : State) (slot : Nat) (source : Nat) (bytes : List Byte) (hk : Stays wr s0 s) : Stays wr s0 (State.stageData s slot source bytes) := by
  unfold State.stageData
  dsimp only
  repeat' first | (with_reducible first | assumption | apply State.sendDown_stays) | (simp only [stays_mk]; refine stays_upd ?_) | split

theorem State.fatal_stays {s0 : State} (s : State) (bit : Nat) (loc : Nat) (hk : Stays wr s0 s) : Stays wr s0 (State.fatal s bit loc) := by
  unfold State.fatal
  repeat' first | (with_reducible first | assumption | apply State.fence_stays | apply State.raiseAt_stays | apply State.latchFault_stays) | split

theorem State.takeData_stays {s0 : State} (s : State) (r : DataRecord) (hk : Stays wr s0 s) : Stays wr s0 (State.takeData s r) :=
  State.updEntry_stays _ _ _ hk

/-! ### DramRows -/

theorem State.cacheEnable_stays {s0 : State} (s : State) (on : Bool) (hk : Stays wr s0 s) : Stays wr s0 (State.cacheEnable s on) := by
  unfold State.cacheEnable
  repeat' first | (with_reducible first | assumption | apply State.odSet_stays | apply State.invalidate_stays) | (simp only [stays_mk]; refine stays_upd ?_) | split

theorem State.endScrubPass_stays {s0 : State} (s : State) (hk : Stays wr s0 s) : Stays wr s0 (State.endScrubPass s) := by
  unfold State.endScrubPass
  repeat' first | (with_reducible first | assumption | apply State.fresh_stays) | (simp only [stays_mk]; refine stays_upd ?_) | split

theorem State.strikeCache_stays {s0 : State} (s : State) (x : CacheError) (hk : Stays wr s0 s) : Stays wr s0 (State.strikeCache s x) := by
  unfold State.strikeCache
  split <;> exact Stays.upd hk rfl ⟨rfl, rfl, rfl⟩

theorem State.strike_stays {s0 : State} (s : State) (a1 : Upset) (hk : Stays true s0 s) : Stays true s0 (State.strike s a1) := by
  unfold State.strike
  repeat' first | (with_reducible first | assumption | apply State.strikeUnit_stays | apply State.strikeCache_stays) | (simp only [stays_mkStore]; refine stays_updStore ?_) | split

theorem State.idle_stays {s0 : State} (s : State) (hk : Stays true s0 s) : Stays true s0 (State.idle s) := by
  unfold State.idle
  repeat' first | (with_reducible first | assumption | apply State.strike_stays) | (simp only [stays_mkStore]; refine stays_updStore ?_) | split

theorem State.poisonOutcome_stays {s0 : State} (s : State) (who : Requester) (c : Nat) (hk : Stays wr s0 s) : Stays wr s0 (State.poisonOutcome s who c) := by
  unfold State.poisonOutcome
  repeat' first | (with_reducible first | assumption | apply State.failEntry_stays | apply State.tileFail_stays | apply State.fatal_stays) | split

theorem execRefreshIntervalExpiry_stays {s0 : State} (c : Fin 48) (s : State) (hk : Stays wr s0 s) : StaysOut wr s0 (execRefreshIntervalExpiry c s) := by
  refine staysOut_next ?_
  repeat' first | (with_reducible first | assumption | apply State.updChannel_stays) | split

theorem execRefreshUnit_stays {s0 : State} (c : Fin 48) (idle : Bool) (s : State) (hk : Stays wr s0 s) : StaysOut wr s0 (execRefreshUnit c idle s) := by
  refine staysOut_next ?_
  repeat' first | (with_reducible first | assumption | apply State.updChannel_stays) | split

theorem execMr4Readout_stays {s0 : State} (stack : Fin 12) (readings : List Nat) (s : State) (hk : Stays wr s0 s) : StaysOut wr s0 (execMr4Readout stack readings s) := by
  refine staysOut_next ?_
  try dsimp only
  repeat' first | intro _ | (with_reducible first | assumption | apply State.raiseAt_stays | apply State.updChannel_stays | apply stays_foldl) | (simp only [stays_mk]; refine stays_upd ?_) | split

theorem execRecalibration_stays {s0 : State} (_c : Fin 48) (s : State) (hk : Stays wr s0 s) : StaysOut wr s0 (execRecalibration _c s) :=
  staysOut_next (Stays.upd hk rfl ⟨rfl, rfl, rfl⟩)

theorem execScrubVisit_stays {s0 : State} (c : Fin 48) (o : EccOutcome) (s : State) (hk : Stays true s0 s) : StaysOut true s0 (execScrubVisit c o s) := by
  refine staysOut_next ?_
  repeat' first | (with_reducible first | assumption | apply State.readUnit_stays | apply State.dramRead_stays | apply State.strikeUnit_stays | apply State.endScrubPass_stays | apply State.updChannel_stays) | split

theorem execScrubLate_stays {s0 : State} (c : Fin 48) (s : State) (hk : Stays wr s0 s) : StaysOut wr s0 (execScrubLate c s) := by
  refine staysOut_next ?_
  repeat' first | (with_reducible first | assumption | apply State.raise_stays | apply State.updChannel_stays) | split

theorem execMemoryReadReturn_stays {s0 : State} (ma : Nat) (who : Requester) (bursts : List Nat) (s : State) (hk : Stays true s0 s) : StaysOut true s0 (execMemoryReadReturn ma who bursts s) := by
  unfold execMemoryReadReturn
  try dsimp only
  repeat' first | intro _ | (with_reducible first | assumption | apply State.updChannel_stays | apply State.strikeUnit_stays | apply State.readUnit_stays | apply State.dramRead_stays | apply State.poisonOutcome_stays | apply staysOut_next | exact staysOut_fault | apply stays_foldl | apply stays_foldl_fst | apply stays_foldl_snd) | (simp only [stays_mkStore]; refine stays_updStore ?_) | split | (with_reducible first | refine stays_fst ‹_ = (_, _)› ?_ | refine stays_snd ‹_ = (_, _)› ?_ | refine stays_ok ‹_ = Except.ok _› ?_ | refine stays_some ‹_ = some _› ?_ | refine stays_someC ‹_ = some (_, _)› ?_ | refine stays_inl ‹_ = Sum.inl _› ?_ | refine stays_inr ‹_ = Sum.inr _› ?_ | exact StaysE.keep ‹StaysE true _ (Except.ok _)› _ rfl | exact StaysO.keep ‹StaysO true _ (some _)› _ rfl | exact StaysC.keep ‹StaysC true _ (some _)› _ rfl | exact StaysEff.keep ‹StaysEff true _ (Effect.done _ _)› _ rfl | refine stays_of_done ‹_ = Effect.done _ _› ?_)

theorem execWriteQueueDrain_stays {s0 : State} (c : Fin 48) (s : State) (hk : Stays wr s0 s) : StaysOut wr s0 (execWriteQueueDrain c s) := by
  refine staysOut_next ?_
  repeat' first | (with_reducible first | assumption | apply State.updChannel_stays | apply State.emptyBuffers_stays) | split

theorem execPartialWrite_stays {s0 : State} (ma : Nat) (data : PartialData) (who : Requester) (s : State) (hk : Stays true s0 s) : StaysOut true s0 (execPartialWrite ma data who s) := by
  unfold execPartialWrite
  try dsimp only
  repeat' first | intro _ | (with_reducible first | assumption | apply State.writeLine_stays | apply State.strikeUnit_stays | apply State.poisonOutcome_stays | apply staysOut_next | exact staysOut_fault | apply stays_foldl | apply stays_foldl_fst | apply stays_foldl_snd) | (simp only [stays_mkStore]; refine stays_updStore ?_) | split | (with_reducible first | refine stays_fst ‹_ = (_, _)› ?_ | refine stays_snd ‹_ = (_, _)› ?_ | refine stays_ok ‹_ = Except.ok _› ?_ | refine stays_some ‹_ = some _› ?_ | refine stays_someC ‹_ = some (_, _)› ?_ | refine stays_inl ‹_ = Sum.inl _› ?_ | refine stays_inr ‹_ = Sum.inr _› ?_ | exact StaysE.keep ‹StaysE true _ (Except.ok _)› _ rfl | exact StaysO.keep ‹StaysO true _ (some _)› _ rfl | exact StaysC.keep ‹StaysC true _ (some _)› _ rfl | exact StaysEff.keep ‹StaysEff true _ (Effect.done _ _)› _ rfl | refine stays_of_done ‹_ = Effect.done _ _› ?_)

theorem execVerifyScanRow_stays {s0 : State} (b : Fin 24) (differs : Bool) (s : State) (hk : Stays true s0 s) : StaysOut true s0 (execVerifyScanRow b differs s) := by
  refine staysOut_next ?_
  repeat' first | (with_reducible first | assumption | apply State.readSram_stays | apply State.rewriteRow_stays | apply State.kmaFault_stays) | (simp only [stays_mkStore]; refine stays_updStore ?_) | split

theorem execCacheEnableWrite_stays {s0 : State} (on : Bool) (s : State) (hk : Stays wr s0 s) : StaysOut wr s0 (execCacheEnableWrite on s) :=
  staysOut_next (State.cacheEnable_stays _ _ hk)

theorem execCacheDrainComplete_stays {s0 : State} (s : State) (hk : Stays wr s0 s) : StaysOut wr s0 (execCacheDrainComplete s) := by
  refine staysOut_next ?_
  repeat' first | (with_reducible first | assumption | apply State.invalidate_stays | apply State.emptyBuffers_stays) | (simp only [stays_mk]; refine stays_upd ?_) | split

/-! ### DictApply -/

theorem State.ruleSet_stays {s0 : State} (s : State) (rule : Nat) (v : Nat) (hk : Stays wr s0 s) : Stays wr s0 (State.ruleSet s rule v) := by
  unfold State.ruleSet
  repeat' first | (with_reducible first | assumption | apply State.odSet_stays) | (simp only [stays_mk]; refine stays_upd ?_) | split

theorem State.applyImmediate_stays {s0 : State} (s : State) (index : Nat) (sub : Nat) (v : Nat) (hk : Stays wr s0 s) : Stays wr s0 (State.applyImmediate s index sub v) := by
  unfold State.applyImmediate
  repeat' first | (with_reducible first | assumption | apply State.setTimeBase_stays | apply State.cacheEnable_stays | apply State.ruleSet_stays | apply State.odSet_stays) | split

theorem State.shadowSet_stays {s0 : State} (s : State) (index : Nat) (sub : Nat) (v : Nat) (hk : Stays wr s0 s) : Stays wr s0 (State.shadowSet s index sub v) :=
  Stays.upd hk rfl ⟨rfl, rfl, rfl⟩

theorem State.resetSet_stays {s0 : State} (s : State) (index : Nat) (sub : Nat) (v : Nat) (hk : Stays wr s0 s) : Stays wr s0 (State.resetSet s index sub v) :=
  Stays.upd hk rfl ⟨rfl, rfl, rfl⟩

theorem State.latchProfile_stays {s0 : State} (s : State) (hk : Stays wr s0 s) : Stays wr s0 (State.latchProfile s).1 := by
  unfold State.latchProfile
  try dsimp only
  repeat' first | intro _ | (with_reducible first | assumption | apply State.latchSet_stays | apply State.shadowSet_stays | apply State.applyImmediate_stays | apply State.applySet_stays | apply State.raise_stays | apply State.refuseSet_stays | apply stays_foldl) | (simp only [stays_mk]; refine stays_upd ?_) | split

theorem execRuleWrite_stays {s0 : State} (rule : Fin 64) (v : Word) (s : State) (hk : Stays wr s0 s) : StaysOut wr s0 (execRuleWrite rule v s) := by
  refine staysOut_next ?_
  repeat' first | (with_reducible first | assumption | apply State.ruleSet_stays) | split

/-! ### Durable -/

theorem State.readSlot_stays {s0 : State} (s : State) (slot : Nat) (mirror : Bool) (hk : Stays wr s0 s) : Stays wr s0 (State.readSlot s slot mirror) := by
  unfold State.readSlot
  repeat' first | (with_reducible first | assumption | apply State.readRange_stays | apply State.persistRead_stays) | split

theorem State.advanceCommit_stays {s0 : State} (s : State) (ended : Nat) (hk : Stays wr s0 s) : Stays wr s0 (State.advanceCommit s ended) := by
  unfold State.advanceCommit
  dsimp only
  repeat' first | (with_reducible first | assumption) | (simp only [stays_mk]; refine stays_upd ?_) | split

theorem State.markDue_stays {s0 : State} (s : State) (frame : Nat) (hk : Stays wr s0 s) : Stays wr s0 (State.markDue s frame) := by
  unfold State.markDue
  split <;> exact Stays.upd hk rfl ⟨rfl, rfl, rfl⟩

theorem State.checkLow_stays {s0 : State} (s : State) (hk : Stays wr s0 s) : Stays wr s0 (State.checkLow s) := by
  unfold State.checkLow
  dsimp only
  repeat' first | (with_reducible first | assumption | apply State.raise_stays | apply State.markDue_stays) | (simp only [stays_mk]; refine stays_upd ?_) | split

theorem State.dropChrysalis_stays {s0 : State} (s : State) (hk : Stays wr s0 s) : Stays wr s0 (State.dropChrysalis s) := by
  unfold State.dropChrysalis
  repeat' first | (with_reducible first | assumption | apply State.markDue_stays) | (simp only [stays_mk]; refine stays_upd ?_) | split

theorem pushEntry_stays {s0 : State} (l : List (Nat × MapEntry)) (slot : Nat) (n : State × MapEntry) (hk : Stays wr s0 n.1) :
    Stays wr s0 (pushEntry l slot n).1 := hk

theorem State.submit_stays {s0 : State} (s : State) (p : PersistSet) (w : PersistWrite) (hk : Stays wr s0 s) : Stays wr s0 (State.submit s p w) :=
  Stays.upd hk rfl ⟨rfl, rfl, rfl⟩

theorem State.placeEntry_stays {s0 : State} (s : State) (p : PersistSet) (used : List Nat) (slot : Nat) (e : MapEntry) (hk : Stays wr s0 s) : Stays wr s0 (State.placeEntry s p used slot e).1 := by
  unfold State.placeEntry
  repeat' first | (with_reducible first | assumption | apply State.fresh_stays | apply State.submit_stays) | split

theorem State.freshEntry_stays {s0 : State} (s : State) (p : PersistSet) (used : List Nat) (slot : Nat) (spanId : Nat) (seq : Nat) (heat : Nat)
    (hk : Stays wr s0 s) : Stays wr s0 (State.freshEntry s p used slot spanId seq heat).1 := by
  rw [State.freshEntry]
  exact State.placeEntry_stays _ _ _ _ _ (State.readSlot_stays _ _ _ hk)

theorem newMapStep_stays {s0 : State} (p : PersistSet) (old : List (Nat × MapEntry)) (units : List Nat) (r : State × List (Nat × MapEntry)) (q : Nat × Nat × Nat) (hk : Stays wr s0 r.1) : Stays wr s0 (newMapStep p old units r q).1 := by
  unfold newMapStep
  repeat' first | (with_reducible first | assumption | apply pushEntry_stays | apply State.freshEntry_stays) | split

theorem State.newMap_stays {s0 : State} (s : State) (p : PersistSet) (hk : Stays wr s0 s) : Stays wr s0 (State.newMap s p).1 := by
  unfold State.newMap
  try dsimp only
  repeat' first | intro _ | (with_reducible first | assumption | apply newMapStep_stays | apply stays_foldl_fst) | split

theorem State.flushCaches_stays {s0 : State} (s : State) (p : PersistSet) (hk : Stays wr s0 s) : Stays wr s0 (State.flushCaches s p) := by
  unfold State.flushCaches
  try dsimp only
  repeat' first | intro _ | (with_reducible first | assumption | apply State.submit_stays | apply stays_foldl) | split

theorem State.startChrysalis_stays {s0 : State} (s : State) (k : Nat) (p : PersistSet) (format : Bool) (hk : Stays wr s0 s) : Stays wr s0 (State.startChrysalis s k p format) := by
  unfold State.startChrysalis
  repeat' first | (with_reducible first | assumption | apply State.newMap_stays | apply State.flushCaches_stays | apply State.submit_stays) | (simp only [stays_mk]; refine stays_upd ?_) | split

theorem State.chrysalisTick_stays {s0 : State} (s : State) (k : Nat) (hk : Stays wr s0 s) : Stays wr s0 (State.chrysalisTick s k) := by
  unfold State.chrysalisTick
  dsimp only
  repeat' first | (with_reducible first | assumption | apply State.startChrysalis_stays | apply State.markDue_stays | apply State.raise_stays) | split

theorem State.countCompare_stays {s0 : State} (s : State) (hk : Stays wr s0 s) : Stays wr s0 (State.countCompare s) :=
  Stays.upd hk rfl ⟨rfl, rfl, rfl⟩

theorem State.setPort_stays {s0 : State} (s : State) (p : Fin 4) (x : PersistPort) (hk : Stays wr s0 s) : Stays wr s0 (State.setPort s p x) :=
  Stays.upd hk rfl ⟨rfl, rfl, rfl⟩

theorem State.countBlocks_stays {s0 : State} (s : State) (v : Nat) (n : Nat) (hk : Stays wr s0 s) : Stays wr s0 (State.countBlocks s v n) := by
  unfold State.countBlocks
  try dsimp only
  repeat' first | intro _ | (with_reducible first | assumption | apply State.setPort_stays | apply stays_foldl) | split

theorem State.hashSeal_stays {s0 : State} (s : State) (head : List Byte) (records : List Byte) (hk : Stays wr s0 s) : Stays wr s0 (State.hashSeal s head records) := by
  unfold State.hashSeal
  repeat' first | (with_reducible first | assumption | apply State.hashOn_stays | apply State.hashLanes_stays) | split

theorem State.sealCocoon_stays {s0 : State} (s : State) (hk : Stays wr s0 s) : Stays wr s0 (State.sealCocoon s) := by
  unfold State.sealCocoon
  dsimp only
  repeat' first | (with_reducible first | assumption | apply State.raise_stays | apply State.checkLow_stays | apply State.hashSeal_stays | apply State.submit_stays) | (simp only [stays_mk]; refine stays_upd ?_) | split

theorem State.formatTick_stays {s0 : State} (s : State) (k : Nat) (hk : Stays wr s0 s) : Stays wr s0 (State.formatTick s k) := by
  unfold State.formatTick
  try dsimp only
  repeat' first | intro _ | (with_reducible first | assumption | apply State.fresh_stays | apply State.startChrysalis_stays | apply State.submit_stays | apply stays_foldl) | (simp only [stays_mk]; refine stays_upd ?_) | split

theorem State.joined_stays {s0 : State} (s : State) (hk : Stays wr s0 s) : Stays wr s0 (State.joined s) := by
  unfold State.joined
  repeat' split
  all_goals exact Stays.upd hk rfl ⟨rfl, rfl, rfl⟩

theorem State.writeSuperblocks_stays {s0 : State} (s : State) (p : PersistSet) (map : List Byte) (manifest : List Byte) (hk : Stays wr s0 s) : Stays wr s0 (State.writeSuperblocks s p map manifest) := by
  unfold State.writeSuperblocks
  try dsimp only
  repeat' first | intro _ | (with_reducible first | assumption | apply State.hashOn_stays | apply State.submit_stays | apply stays_foldl) | split

theorem execCocoonAcknowledged_stays {s0 : State} (frame : Nat) (s : State) (hk : Stays wr s0 s) : StaysOut wr s0 (execCocoonAcknowledged frame s) := by
  refine staysOut_next ?_
  repeat' first | (with_reducible first | assumption | apply State.advanceCommit_stays) | (simp only [stays_mk]; refine stays_upd ?_) | split

theorem execCommitTimeout_stays {s0 : State} (s : State) (hk : Stays wr s0 s) : StaysOut wr s0 (execCommitTimeout s) := by
  refine staysOut_next ?_
  dsimp only
  repeat' first | (with_reducible first | assumption | apply State.raiseAt_stays) | (simp only [stays_mk]; refine stays_upd ?_) | split

theorem execChrysalisWriteAck_stays {s0 : State} (s : State) (hk : Stays wr s0 s) : StaysOut wr s0 (execChrysalisWriteAck s) := by
  refine staysOut_next ?_
  repeat' first | (with_reducible first | assumption | apply State.writeSuperblocks_stays) | (simp only [stays_mk]; refine stays_upd ?_) | split

theorem execChrysalisComplete_stays {s0 : State} (s : State) (hk : Stays wr s0 s) : StaysOut wr s0 (execChrysalisComplete s) := by
  refine staysOut_next ?_
  repeat' first | (with_reducible first | assumption | apply State.advanceCommit_stays | apply State.joined_stays | apply State.checkLow_stays) | (simp only [stays_mk]; refine stays_upd ?_) | split

theorem execFormat_stays {s0 : State} (s : State) (hk : Stays wr s0 s) : StaysOut wr s0 (execFormat s) :=
  staysOut_next (Stays.upd hk rfl ⟨rfl, rfl, rfl⟩)

theorem execChrysalisSoon_stays {s0 : State} (s : State) (hk : Stays wr s0 s) : StaysOut wr s0 (execChrysalisSoon s) :=
  staysOut_next (State.markDue_stays _ _ hk)

/-! ### Power -/

theorem State.setPower_stays {s0 : State} (s : State) (p : Nat) (hk : Stays wr s0 s) : Stays wr s0 (State.setPower s p) :=
  Stays.upd hk rfl ⟨rfl, rfl, rfl⟩

theorem State.failPower_stays {s0 : State} (s : State) (rule : Nat) (hk : Stays wr s0 s) : Stays wr s0 (State.failPower s rule) := by
  unfold State.failPower
  repeat' first | (with_reducible first | assumption | apply State.raise_stays | apply State.sendT1s_stays | apply State.fence_stays) | (simp only [stays_mk]; refine stays_upd ?_) | split

theorem State.powerDown_stays {s0 : State} (s : State) (power : Nat) (hk : Stays wr s0 s) : Stays wr s0 (State.powerDown s power) :=
  Stays.upd hk rfl ⟨rfl, rfl, rfl⟩

theorem State.powerFailure_stays {s0 : State} (s : State) (hk : Stays wr s0 s) : Stays wr s0 (State.powerFailure s) :=
  Stays.upd hk rfl ⟨rfl, rfl, rfl⟩

theorem State.takeFired_stays {s0 : State} (s : State) (f : Nat × Nat × Bool) (hk : Stays wr s0 s) : Stays wr s0 (State.takeFired s f) :=
  Stays.upd hk rfl ⟨rfl, rfl, rfl⟩

theorem execVinOn_stays {s0 : State} (s : State) (hk : Stays wr s0 s) : StaysOut wr s0 (execVinOn s) := by
  refine staysOut_next ?_
  repeat' first | (with_reducible first | assumption | apply State.setPower_stays) | split

theorem execRailUpTimeout_stays {s0 : State} (s : State) (hk : Stays wr s0 s) : StaysOut wr s0 (execRailUpTimeout s) := by
  refine staysOut_next ?_
  repeat' first | (with_reducible first | assumption | apply State.fresh_stays | apply State.powerFailure_stays | apply State.raise_stays) | split

theorem execPowerupRetryTimer_stays {s0 : State} (s : State) (hk : Stays wr s0 s) : StaysOut wr s0 (execPowerupRetryTimer s) := by
  refine staysOut_next ?_
  repeat' first | (with_reducible first | assumption | apply State.setPower_stays) | split

theorem execPowerFail_stays {s0 : State} (rule : Fin 3) (s : State) (hk : Stays wr s0 s) : StaysOut wr s0 (execPowerFail rule s) := by
  refine staysOut_next ?_
  repeat' first | (with_reducible first | assumption | apply State.failPower_stays | apply State.takeFired_stays) | split

theorem execVinOff_stays {s0 : State} (s : State) (hk : Stays wr s0 s) : StaysOut wr s0 (execVinOff s) := by
  refine staysOut_next ?_
  repeat' first | (with_reducible first | assumption | apply State.powerDown_stays) | split

theorem execRailFault_stays {s0 : State} (channel : Nat) (s : State) (hk : Stays wr s0 s) : StaysOut wr s0 (execRailFault channel s) := by
  refine staysOut_next ?_
  repeat' first | (with_reducible first | assumption | apply State.fresh_stays | apply State.takeFired_stays | apply State.powerDown_stays | apply State.raise_stays | apply State.failPower_stays | apply State.powerFailure_stays) | split

theorem execThermalBand_stays {s0 : State} (s : State) (hk : Stays wr s0 s) : StaysOut wr s0 (execThermalBand s) := by
  refine staysOut_next ?_
  repeat' first | (with_reducible first | assumption | apply State.takeFired_stays | apply State.raise_stays) | (simp only [stays_mk]; refine stays_upd ?_) | split

theorem execThermalTrip_stays {s0 : State} (channel : Nat) (s : State) (hk : Stays wr s0 s) : StaysOut wr s0 (execThermalTrip channel s) := by
  refine staysOut_next ?_
  repeat' first | (with_reducible first | assumption | apply State.fresh_stays | apply State.takeFired_stays | apply State.powerDown_stays | apply State.raise_stays | apply State.failPower_stays) | (simp only [stays_mk]; refine stays_upd ?_) | split

theorem execStackHot_stays {s0 : State} (stack : Fin 12) (s : State) (hk : Stays wr s0 s) : StaysOut wr s0 (execStackHot stack s) := by
  refine staysOut_next ?_
  repeat' first | (with_reducible first | assumption | apply State.raise_stays | apply State.takeFired_stays) | split

theorem execRuleAssert_stays {s0 : State} (rule : Fin 64) (s : State) (hk : Stays wr s0 s) : StaysOut wr s0 (execRuleAssert rule s) := by
  refine staysOut_next ?_
  repeat' first | (with_reducible first | assumption | apply State.raise_stays | apply State.takeFired_stays) | split

theorem execRuleRelease_stays {s0 : State} (rule : Fin 64) (s : State) (hk : Stays wr s0 s) : StaysOut wr s0 (execRuleRelease rule s) := by
  refine staysOut_next ?_
  repeat' first | (with_reducible first | assumption | apply State.raise_stays | apply State.takeFired_stays) | split

/-! ### Frames -/

theorem State.advanceTime_stays {s0 : State} (s : State) (us : Nat) (hk : Stays wr s0 s) : Stays wr s0 (State.advanceTime s us) :=
  Stays.upd hk rfl ⟨rfl, rfl, rfl⟩

theorem State.stageList_stays {s0 : State} (s : State) (rs : List ListRecord) (hk : Stays wr s0 s) : Stays wr s0 (State.stageList s rs) :=
  Stays.upd hk rfl ⟨rfl, rfl, rfl⟩

theorem State.dropSlotTables_stays {s0 : State} (s : State) (inst : Nat) (slot : Nat) (hk : Stays true s0 s) : Stays true s0 (State.dropSlotTables s inst slot) := by
  unfold State.dropSlotTables
  try dsimp only
  repeat' first | intro _ | (with_reducible first | assumption | apply State.dropTable_stays | apply stays_foldl) | split

theorem State.stagePlace_stays {s0 : State} (s : State) (t : KmaTable) (writes : Bool) (hk : Stays wr s0 s) : Stays wr s0 (State.stagePlace s t writes) :=
  Stays.upd hk rfl ⟨rfl, rfl, rfl⟩

theorem State.placeTables_stays {s0 : State} (s : State) (e : WorkEntry) (img : Image) (recorded : Option (List KmaTable)) (hk : Stays true s0 s) : Stays true s0 (State.placeTables s e img recorded) := by
  unfold State.placeTables
  try dsimp only
  repeat' first | intro _ | (with_reducible first | assumption | apply State.finish_stays | apply State.placeTable_stays | apply State.stagePlace_stays | apply stays_foldl) | (simp only [stays_mkStore]; refine stays_updStore ?_) | split

theorem State.beginStage_stays {s0 : State} (s : State) (recorded : Option (List KmaTable)) (e0 : WorkEntry) (hk : Stays true s0 s) : Stays true s0 (State.beginStage s recorded e0) := by
  unfold State.beginStage
  try dsimp only
  repeat' first | intro _ | (with_reducible first | assumption | apply State.dropSlotTables_stays | apply State.placeTables_stays | apply State.setTile_stays | apply State.updEntry_stays | apply stays_foldl) | split

theorem State.stepSelftest_stays {s0 : State} (s : State) (hk : Stays wr s0 s) : Stays wr s0 (State.stepSelftest s) := by
  unfold State.stepSelftest
  repeat' split
  all_goals exact Stays.upd hk rfl ⟨rfl, rfl, rfl⟩

theorem State.beginFrame_stays {s0 : State} (s : State) (own : Bool) (recorded : Option (List KmaTable)) (hk : Stays true s0 s) : Stays true s0 (State.beginFrame s own recorded) := by
  unfold State.beginFrame
  try dsimp only
  repeat' first | intro _ | (with_reducible first | assumption | apply State.stageList_stays | apply State.beginStage_stays | apply State.squashInstance_stays | apply State.stepSelftest_stays | apply stays_foldl) | (simp only [stays_mkStore]; refine stays_updStore ?_) | split

theorem State.closeOverrun_stays {s0 : State} (s : State) (elapsedUs : Nat) (hk : Stays wr s0 s) : Stays wr s0 (State.closeOverrun s elapsedUs) := by
  unfold State.closeOverrun
  dsimp only
  repeat' first | (with_reducible first | assumption | apply State.raise_stays) | (simp only [stays_mk]; refine stays_upd ?_) | split

theorem State.dropEntryTables_stays {s0 : State} (s : State) (e : WorkEntry) (hk : Stays true s0 s) : Stays true s0 (State.dropEntryTables s e) := by
  unfold State.dropEntryTables
  try dsimp only
  repeat' first | intro _ | (with_reducible first | assumption | apply State.dropTable_stays | apply stays_foldl) | split

theorem State.completeResets_stays {s0 : State} (s : State) (hk : Stays true s0 s) : Stays true s0 (State.completeResets s) := by
  unfold State.completeResets
  try dsimp only
  repeat' first | intro _ | (with_reducible first | assumption | apply State.dropEntryTables_stays | apply State.releaseEntry_stays | apply stays_foldl) | (simp only [stays_mkStore]; refine stays_updStore ?_) | split

theorem State.sumOutputs_stays {s0 : State} (s : State) (hk : Stays wr s0 s) : Stays wr s0 (State.sumOutputs s) := by
  unfold State.sumOutputs
  try dsimp only
  repeat' first | intro _ | (with_reducible first | assumption | apply State.sumOutput_stays | apply stays_foldl) | split

theorem State.finishDone_stays {s0 : State} (s : State) (hk : Stays wr s0 s) : Stays wr s0 (State.finishDone s) := by
  unfold State.finishDone
  try dsimp only
  repeat' first | intro _ | (with_reducible first | assumption | apply State.finish_stays | apply stays_foldl) | split

theorem State.stepDigest_stays {s0 : State} (s : State) (hk : Stays wr s0 s) : Stays wr s0 (State.stepDigest s) := by
  unfold State.stepDigest
  repeat' first | (with_reducible first | assumption | apply State.sumOutputs_stays | apply State.finishDone_stays | apply State.hashOn_stays) | (simp only [stays_mk]; refine stays_upd ?_) | split

theorem State.writeProducers_stays {s0 : State} (s : State) (before : State) (hk : Stays wr s0 s) : Stays wr s0 (State.writeProducers s before) := by
  unfold State.writeProducers
  try dsimp only
  repeat' first | intro _ | (with_reducible first | assumption | apply State.dueNow_stays | apply State.writeProducer_stays | apply stays_foldl) | split

theorem State.stepRelease_stays {s0 : State} (s : State) (hk : Stays true s0 s) : Stays true s0 (State.stepRelease s) := by
  unfold State.stepRelease
  try dsimp only
  repeat' first | intro _ | (with_reducible first | assumption | apply State.dropEntryTables_stays | apply State.releaseEntry_stays | apply State.postEnded_stays | apply State.completeDrained_stays | apply State.writeProducers_stays | apply State.completeResets_stays | apply stays_foldl) | (simp only [stays_mkStore]; refine stays_updStore ?_) | split

theorem State.refixHeader_stays {s0 : State} (s : State) (hk : Stays wr s0 s) : Stays wr s0 (State.refixHeader s) :=
  Stays.upd hk rfl ⟨rfl, rfl, rfl⟩

theorem State.stepList_stays {s0 : State} (s : State) (hk : Stays wr s0 s) : Stays wr s0 (State.stepList s) := by
  unfold State.stepList
  repeat' first | (with_reducible first | assumption | apply State.buildList_stays | apply State.countOverload_stays) | (simp only [stays_mk]; refine stays_upd ?_) | split

theorem execFrameTimerExpiry_stays {s0 : State} (s : State) (hk : Stays wr s0 s) : StaysOut wr s0 (execFrameTimerExpiry s) := by
  unfold execFrameTimerExpiry
  split <;> exact staysOut_next (Stays.upd hk rfl ⟨rfl, rfl, rfl⟩)

theorem execHoldWrite_stays {s0 : State} (on : Bool) (s : State) (hk : Stays wr s0 s) : StaysOut wr s0 (execHoldWrite on s) :=
  staysOut_next (State.odSet_stays _ _ _ _ hk)

theorem execTimeBaseWrite_stays {s0 : State} (v : Word) (s : State) (hk : Stays wr s0 s) : StaysOut wr s0 (execTimeBaseWrite v s) :=
  staysOut_next (State.setTimeBase_stays _ _ hk)

/-! ### Tick -/

theorem State.sendCopies_stays {s0 : State} (s : State) (slots : List Nat) (hk : Stays wr s0 s) : Stays wr s0 (State.sendCopies s slots) := by
  unfold State.sendCopies
  try dsimp only
  repeat' first | intro _ | (with_reducible first | assumption | apply State.sendMirror_stays | apply State.readSlot_stays | apply stays_foldl) | split

theorem State.followRecord_stays {s0 : State} (s : State) (r : ListRecord) (hk : Stays wr s0 s) : Stays wr s0 (State.followRecord s r).1 := by
  unfold State.followRecord
  repeat' first | (with_reducible first | assumption | apply State.batchStep_stays | apply State.setSq_stays | apply State.frontWrite_stays) | split

theorem State.followRecords_stays {s0 : State} (s : State) (rs : List ListRecord) (hk : Stays wr s0 s) : Stays wr s0 (State.followRecords s rs).1 := by
  unfold State.followRecords
  try dsimp only
  repeat' first | intro _ | (with_reducible first | assumption | apply State.followRecord_stays | apply stays_foldl_fst) | split

theorem State.applyRecorded_stays {s0 : State} (s : State) (p : Nat × Nat × BitVec 192) (hk : Stays wr s0 s) : Stays wr s0 (State.applyRecorded s p) := by
  unfold State.applyRecorded
  dsimp only
  repeat' first | (with_reducible first | assumption | apply State.applyDesc_stays | apply State.finish_stays) | (simp only [stays_mk]; refine stays_upd ?_) | split

theorem State.startFrames_stays {s0 : State} (s : State) (hk : Stays wr s0 s) : Stays wr s0 (State.startFrames s) :=
  Stays.upd hk rfl ⟨rfl, rfl, rfl⟩

theorem State.resendFrom_stays {s0 : State} (s : State) (k : Nat) (hk : Stays wr s0 s) : Stays wr s0 (State.resendFrom s k) := by
  unfold State.resendFrom
  try dsimp only
  repeat' first | intro _ | (with_reducible first | assumption | apply State.sendMirror_stays | apply stays_foldl) | split

theorem State.captureJoin_stays {s0 : State} (s : State) (k : Nat) (j : Join) (hk : Stays wr s0 s) : Stays wr s0 (State.captureJoin s k j) := by
  unfold State.captureJoin
  repeat' first | (with_reducible first | assumption | apply State.sendMirror_stays | apply State.sendCopies_stays | apply State.resendFrom_stays) | (simp only [stays_mk]; refine stays_upd ?_) | split

theorem State.checkKept_stays {s0 : State} (s : State) (hk : Stays wr s0 s) : Stays wr s0 (State.checkKept s) := by
  unfold State.checkKept
  repeat' first | (with_reducible first | assumption | apply State.fence_stays) | split

theorem State.diverge_stays {s0 : State} (s : State) (frame : Nat) (loses : Bool) (hk : Stays wr s0 s) : Stays wr s0 (State.diverge s frame loses) := by
  unfold State.diverge
  repeat' first | (with_reducible first | assumption | apply State.raiseAt_stays | apply State.fence_stays) | (simp only [stays_mk]; refine stays_upd ?_) | split

theorem State.dozeTick_stays {s0 : State} (s : State) (quiescent : Bool) (hk : Stays wr s0 s) : Stays wr s0 (State.dozeTick s quiescent) := by
  unfold State.dozeTick
  split <;> exact Stays.upd hk rfl ⟨rfl, rfl, rfl⟩

theorem State.endFrame_stays {s0 : State} (s : State) (elapsedUs : Nat) (hk : Stays true s0 s) : Stays true s0 (State.endFrame s elapsedUs) := by
  unfold State.endFrame
  repeat' first | (with_reducible first | assumption | apply State.advanceTime_stays | apply State.closeOverrun_stays | apply State.sealCocoon_stays | apply State.stepDigest_stays | apply State.advanceCommit_stays | apply State.checkKept_stays | apply State.stepRelease_stays) | (simp only [stays_mkStore]; refine stays_updStore ?_) | split

theorem State.refuseRest_stays {s0 : State} (s : State) (hk : Stays wr s0 s) : Stays wr s0 (State.refuseRest s) := by
  unfold State.refuseRest
  try dsimp only
  repeat' first | intro _ | (with_reducible first | assumption | apply State.finish_stays | apply stays_foldl) | (simp only [stays_mk]; refine stays_upd ?_) | split

theorem State.stepRecorded_stays {s0 : State} (s : State) (ds : List (Nat × Nat × BitVec 192)) (hk : Stays wr s0 s) : Stays wr s0 (State.stepRecorded s ds) := by
  unfold State.stepRecorded
  try dsimp only
  repeat' first | intro _ | (with_reducible first | assumption | apply State.refuseRest_stays | apply State.applyRecorded_stays | apply stays_foldl) | split

theorem State.followBegin_stays {s0 : State} (s : State) (j : Journal) (head : FrameHeader) (list : List ListRecord) (hk : Stays true s0 s) : Stays true s0 (State.followBegin s j head list) := by
  unfold State.followBegin
  repeat' first | (with_reducible first | assumption | apply State.latchSet_stays | apply State.stepRecorded_stays | apply State.formatTick_stays | apply State.followRecords_stays | apply State.emptyBuffers_stays | apply State.countOverload_stays | apply State.beginFrame_stays) | (simp only [stays_mkStore]; refine stays_updStore ?_) | split

theorem State.joinTick_stays {s0 : State} (s : State) (k : Nat) (drained : Bool) (hk : Stays wr s0 s) : Stays wr s0 (State.joinTick s k drained) := by
  unfold State.joinTick
  repeat' first | (with_reducible first | assumption | apply State.captureJoin_stays | apply State.sendCopies_stays) | (simp only [stays_mk]; refine stays_upd ?_) | split

theorem State.stampEvents_stays {s0 : State} (s : State) (seq : Nat) (k : Nat) (hk : Stays wr s0 s) : Stays wr s0 (State.stampEvents s seq k) :=
  Stays.upd hk rfl ⟨rfl, rfl, rfl⟩

theorem State.useDatas_stays {s0 : State} (s : State) (k : Nat) (hk : Stays wr s0 s) : Stays wr s0 (State.useDatas s k) := by
  unfold State.useDatas
  try dsimp only
  repeat' first | intro _ | (with_reducible first | assumption | apply State.takeData_stays | apply stays_foldl) | (simp only [stays_mk]; refine stays_upd ?_) | split

theorem State.tickT1s_stays {s0 : State} (s : State) (hk : Stays wr s0 s) : Stays wr s0 (State.tickT1s s) := by
  unfold State.tickT1s
  repeat' first | (with_reducible first | assumption | apply State.sendT1s_stays) | split

theorem State.trimHistory_stays {s0 : State} (s : State) (hk : Stays wr s0 s) : Stays wr s0 (State.trimHistory s) :=
  Stays.upd hk rfl ⟨rfl, rfl, rfl⟩

theorem State.stepConfig_stays {s0 : State} (s : State) (k : Nat) (quiescent : Bool) (hk : Stays wr s0 s) : Stays wr s0 (State.stepConfig s k quiescent) := by
  unfold State.stepConfig
  dsimp only
  repeat' first | (with_reducible first | assumption | apply State.latchProfile_stays | apply State.latchSet_stays | apply State.latchDescs_stays | apply State.refixHeader_stays | apply State.formatTick_stays) | split

theorem State.stepMirror_stays {s0 : State} (s : State) (refixed : Option AdmissionList) (hk : Stays wr s0 s) : Stays wr s0 (State.stepMirror s refixed) := by
  unfold State.stepMirror
  repeat' first | (with_reducible first | assumption | apply State.sendDown_stays | apply State.trimHistory_stays) | (simp only [stays_mk]; refine stays_upd ?_) | split

/-! ### Doze -/

theorem State.reinitSsds_stays {s0 : State} (s : State) (hk : Stays wr s0 s) : Stays wr s0 (State.reinitSsds s) :=
  Stays.upd hk rfl ⟨rfl, rfl, rfl⟩

theorem State.cancelDoze_stays {s0 : State} (s : State) (hk : Stays wr s0 s) : Stays wr s0 (State.cancelDoze s) := by
  unfold State.cancelDoze
  repeat' first | (with_reducible first | assumption | apply State.reinitSsds_stays) | (simp only [stays_mk]; refine stays_upd ?_) | split

theorem State.refuseDoze_stays {s0 : State} (s : State) (code : Nat) (hk : Stays wr s0 s) : Stays wr s0 (State.refuseDoze s code) := by
  unfold State.refuseDoze
  repeat' first | (with_reducible first | assumption | apply State.raise_stays) | (simp only [stays_mk]; refine stays_upd ?_) | split

theorem State.mothDoze_stays {s0 : State} (s : State) (hk : Stays wr s0 s) : Stays wr s0 (State.mothDoze s) := by
  unfold State.mothDoze
  repeat' first | (with_reducible first | assumption | apply State.refuseDoze_stays) | (simp only [stays_mk]; refine stays_upd ?_) | split

theorem State.wake_stays {s0 : State} (s : State) (source : Nat) (hk : Stays wr s0 s) : Stays wr s0 (State.wake s source) := by
  unfold State.wake
  repeat' first | (with_reducible first | assumption | apply State.cancelDoze_stays) | (simp only [stays_mk]; refine stays_upd ?_) | split

theorem State.ssdsDown_stays {s0 : State} (s : State) (hk : Stays wr s0 s) : Stays wr s0 (State.ssdsDown s) := by
  unfold State.ssdsDown
  split <;> exact Stays.upd hk rfl ⟨rfl, rfl, rfl⟩

theorem State.enterDoze_stays {s0 : State} (s : State) (hk : Stays wr s0 s) : Stays wr s0 (State.enterDoze s) := by
  unfold State.enterDoze
  repeat' first | (with_reducible first | assumption | apply State.raise_stays) | (simp only [stays_mk]; refine stays_upd ?_) | split

theorem State.freshEndpoint_stays {s0 : State} (s : State) (hk : Stays wr s0 s) : Stays wr s0 (State.freshEndpoint s) := by
  unfold State.freshEndpoint
  try dsimp only
  repeat' first | intro _ | (with_reducible first | assumption | apply State.acceptReset_stays | apply stays_foldl) | (simp only [stays_mk]; refine stays_upd ?_) | split

theorem State.finishWake_stays {s0 : State} (s : State) (dozeMs : Nat) (hk : Stays wr s0 s) : Stays wr s0 (State.finishWake s dozeMs) := by
  unfold State.finishWake
  repeat' first | (with_reducible first | assumption | apply State.reinitSsds_stays | apply State.freshEndpoint_stays | apply State.startFrames_stays) | (simp only [stays_mk]; refine stays_upd ?_) | split

theorem State.shutSsds_stays {s0 : State} (s : State) (hk : Stays wr s0 s) : Stays wr s0 (State.shutSsds s) := by
  unfold State.shutSsds
  repeat' first | (with_reducible first | assumption | apply State.ssdsDown_stays) | (simp only [stays_mk]; refine stays_upd ?_) | split

theorem execMothCmdDoze_stays {s0 : State} (s : State) (hk : Stays wr s0 s) : StaysOut wr s0 (execMothCmdDoze s) :=
  staysOut_next (State.mothDoze_stays _ hk)

theorem execDozeEntry_stays {s0 : State} (s : State) (hk : Stays wr s0 s) : StaysOut wr s0 (execDozeEntry s) := by
  refine staysOut_next ?_
  repeat' first | (with_reducible first | assumption | apply State.shutSsds_stays | apply State.enterDoze_stays) | split

theorem execSsdShutdownTimeout_stays {s0 : State} (s : State) (hk : Stays wr s0 s) : StaysOut wr s0 (execSsdShutdownTimeout s) := by
  refine staysOut_next ?_
  repeat' first | (with_reducible first | assumption | apply State.ssdsDown_stays) | (simp only [stays_mk]; refine stays_upd ?_) | split

theorem execDozeLinkWaitExpiry_stays {s0 : State} (s : State) (hk : Stays wr s0 s) : StaysOut wr s0 (execDozeLinkWaitExpiry s) := by
  refine staysOut_next ?_
  repeat' first | (with_reducible first | assumption | apply State.refuseDoze_stays | apply State.cancelDoze_stays) | split

theorem execMothCmdWake_stays {s0 : State} (s : State) (hk : Stays wr s0 s) : StaysOut wr s0 (execMothCmdWake s) :=
  staysOut_next (State.wake_stays _ _ hk)

theorem execDozeTimerExpiry_stays {s0 : State} (s : State) (hk : Stays wr s0 s) : StaysOut wr s0 (execDozeTimerExpiry s) := by
  refine staysOut_next ?_
  repeat' first | (with_reducible first | assumption | apply State.wake_stays) | split

theorem execPerstNDeassert_stays {s0 : State} (s : State) (hk : Stays wr s0 s) : StaysOut wr s0 (execPerstNDeassert s) := by
  refine staysOut_next ?_
  repeat' first | (with_reducible first | assumption | apply State.wake_stays) | (simp only [stays_mk]; refine stays_upd ?_) | split

theorem execSsdShutdownComplete_stays {s0 : State} (p : Fin 4) (s : State) (hk : Stays wr s0 s) : StaysOut wr s0 (execSsdShutdownComplete p s) := by
  refine staysOut_next ?_
  repeat' first | (with_reducible first | assumption | apply State.ssdsDown_stays | apply State.setPort_stays) | split

end Sys2Proof.Machine
end

