-- ==== Sys2Proof/Laws/StaysMirror.lean ====
section
/-! SUPPORT. The mirror, join, bring-up and restore operations stay. -/

namespace Sys2Proof.Machine

variable {wr : Bool}

/-! ### Mirror -/

theorem State.adoptList_stays {s0 : State} (s : State) (hk : Stays wr s0 s) : Stays wr s0 (State.adoptList s) := by
  unfold State.adoptList
  dsimp only
  repeat' first | (with_reducible first | assumption | apply State.followRecords_stays) | (simp only [stays_mk]; refine stays_upd ?_) | split

theorem State.setPrimary_stays {s0 : State} (s : State) (v : Nat) (hk : Stays wr s0 s) : Stays wr s0 (State.setPrimary s v) := by
  unfold State.setPrimary
  repeat' first | (with_reducible first | assumption | apply State.odSet_stays) | (simp only [stays_mk]; refine stays_upd ?_) | split

theorem State.becomeTail_stays {s0 : State} (s : State) (hk : Stays wr s0 s) : Stays wr s0 (State.becomeTail s) := by
  unfold State.becomeTail
  repeat' first | (with_reducible first | assumption | apply State.publish_stays | apply State.advanceCommit_stays) | (simp only [stays_mk]; refine stays_upd ?_) | split

theorem State.setMirrorPort_stays {s0 : State} (s : State) (portB : Bool) (p : MirrorPort) (hk : Stays wr s0 s) : Stays wr s0 (State.setMirrorPort s portB p) :=
  Stays.upd hk rfl ⟨rfl, rfl, rfl⟩

theorem State.catchUp_stays {s0 : State} (s : State) (recv : Nat) (hk : Stays wr s0 s) : Stays wr s0 (State.catchUp s recv) := by
  unfold State.catchUp
  dsimp only
  repeat' first | (with_reducible first | assumption | apply State.resendFrom_stays | apply State.setMirrorPort_stays) | split

theorem State.mirrorDetach_stays {s0 : State} (s : State) (hk : Stays wr s0 s) : Stays wr s0 (State.mirrorDetach s) := by
  unfold State.mirrorDetach
  repeat' first | (with_reducible first | assumption | apply State.sendT1s_stays | apply State.sendHeartbeats_stays) | (simp only [stays_mk]; refine stays_upd ?_) | split

theorem State.zeroRings_stays {s0 : State} (s : State) (hk : Stays wr s0 s) : Stays wr s0 (State.zeroRings s) :=
  Stays.upd hk rfl ⟨rfl, rfl, rfl⟩

theorem State.startEpoch_stays {s0 : State} (s : State) (first : Nat) (hk : Stays wr s0 s) : Stays wr s0 (State.startEpoch s first) := by
  unfold State.startEpoch
  repeat' first | (with_reducible first | assumption | apply State.raiseAt_stays | apply State.zeroRings_stays | apply State.setPrimary_stays) | (simp only [stays_mk]; refine stays_upd ?_) | split

theorem State.formSequencer_stays {s0 : State} (s : State) (hk : Stays wr s0 s) : Stays wr s0 (State.formSequencer s) :=
  State.startEpoch_stays _ _ hk

theorem State.compareAck_stays {s0 : State} (s : State) (msg : AckPayload) (hk : Stays wr s0 s) : Stays wr s0 (State.compareAck s msg) := by
  unfold State.compareAck
  repeat' first | (with_reducible first | assumption | apply State.diverge_stays) | split

theorem State.endJoin_stays {s0 : State} (s : State) (hk : Stays wr s0 s) : Stays wr s0 (State.endJoin s) := by
  unfold State.endJoin
  repeat' split
  all_goals exact Stays.upd hk rfl ⟨rfl, rfl, rfl⟩

theorem State.downFailed_stays {s0 : State} (s : State) (hk : Stays wr s0 s) : Stays wr s0 (State.downFailed s) := by
  unfold State.downFailed
  dsimp only
  repeat' first | (with_reducible first | assumption | apply State.setMirrorPort_stays | apply State.becomeTail_stays) | split

theorem State.takeOver_stays {s0 : State} (s : State) (hk : Stays wr s0 s) : Stays wr s0 (State.takeOver s) := by
  unfold State.takeOver
  repeat' first | (with_reducible first | assumption | apply State.adoptList_stays | apply State.startEpoch_stays) | (simp only [stays_mk]; refine stays_upd ?_) | split

theorem State.upFailed_stays {s0 : State} (s : State) (hk : Stays wr s0 s) : Stays wr s0 (State.upFailed s) := by
  unfold State.upFailed
  dsimp only
  repeat' first | (with_reducible first | assumption | apply State.takeOver_stays | apply State.setMirrorPort_stays | apply State.sendMirror_stays) | split

theorem State.declareFailed_stays {s0 : State} (s : State) (portB : Bool) (detached : Bool) (hk : Stays wr s0 s) : Stays wr s0 (State.declareFailed s portB detached) := by
  unfold State.declareFailed
  dsimp only
  repeat' first | (with_reducible first | assumption | apply State.raise_stays | apply State.setMirrorPort_stays | apply State.endJoin_stays | apply State.downFailed_stays | apply State.takeOver_stays | apply State.upFailed_stays) | split

theorem State.dropMessage_stays {s0 : State} (s : State) (segs : Nat) (hk : Stays wr s0 s) : Stays wr s0 (State.dropMessage s segs) :=
  Stays.upd hk rfl ⟨rfl, rfl, rfl⟩

theorem State.extendLease_stays {s0 : State} (s : State) (recv : Nat) (hk : Stays wr s0 s) : Stays wr s0 (State.extendLease s recv) :=
  Stays.upd hk rfl ⟨rfl, rfl, rfl⟩

theorem State.finishJoin_stays {s0 : State} (s : State) (hk : Stays wr s0 s) : Stays wr s0 (State.finishJoin s) := by
  unfold State.finishJoin
  repeat' first | (with_reducible first | assumption | apply State.raise_stays) | (simp only [stays_mk]; refine stays_upd ?_) | split

theorem State.receive_stays {s0 : State} (s : State) (portB : Bool) (segs : Nat) (ack : Option (BitVec 32)) (hk : Stays wr s0 s) : Stays wr s0 (State.receive s portB segs ack) :=
  Stays.upd hk rfl ⟨rfl, rfl, rfl⟩

theorem State.seeEpoch_stays {s0 : State} (s : State) (e : Nat) (hk : Stays wr s0 s) : Stays wr s0 (State.seeEpoch s e) := by
  unfold State.seeEpoch
  repeat' first | (with_reducible first | assumption | apply State.fence_stays) | (simp only [stays_mk]; refine stays_upd ?_) | split

theorem State.takeFeed_stays {s0 : State} (s : State) (hdr : MirrorHeader) (hk : Stays wr s0 s) : Stays wr s0 (State.takeFeed s hdr) := by
  unfold State.takeFeed
  dsimp only
  repeat' first | (with_reducible first | assumption | apply State.fence_stays) | (simp only [stays_mk]; refine stays_upd ?_) | split

theorem State.fromUpstream_stays {s0 : State} (s : State) (hdr : MirrorHeader) (feed : Bool) (hk : Stays wr s0 s) : StaysO wr s0 (State.fromUpstream s hdr feed) := by
  unfold State.fromUpstream
  repeat' first | (with_reducible first | assumption | apply State.receive_stays | apply State.seeEpoch_stays | apply State.takeFeed_stays | apply staysO_some | exact staysO_none) | split

theorem State.takeCommitted_stays {s0 : State} (s : State) (hb : Heartbeat) (hk : Stays wr s0 s) : Stays wr s0 (State.takeCommitted s hb) := by
  unfold State.takeCommitted
  split <;> exact Stays.upd hk rfl ⟨rfl, rfl, rfl⟩

theorem State.takeDrain_stays {s0 : State} (s : State) (hb : Heartbeat) (hk : Stays wr s0 s) : Stays wr s0 (State.takeDrain s hb) := by
  unfold State.takeDrain
  dsimp only
  repeat' first | (with_reducible first | assumption) | (simp only [stays_mk]; refine stays_upd ?_) | split

theorem State.takeBlock_stays {s0 : State} (s : State) (portB : Bool) (t1s : Bool) (hb : Heartbeat) (hk : Stays wr s0 s) : Stays wr s0 (State.takeBlock s portB t1s hb) := by
  unfold State.takeBlock
  dsimp only
  repeat' first | (with_reducible first | assumption | apply State.setMirrorPort_stays | apply State.takeDrain_stays | apply State.fence_stays | apply State.declareFailed_stays) | split

theorem State.noteResets_stays {s0 : State} (s : State) (k : Nat) (recs : List ListRecord) (hk : Stays wr s0 s) : Stays wr s0 (State.noteResets s k recs) := by
  unfold State.noteResets
  repeat' split
  all_goals exact Stays.upd hk rfl ⟨rfl, rfl, rfl⟩

theorem State.takeResets_stays {s0 : State} (s : State) (req : BitVec 64) (hk : Stays wr s0 s) : Stays wr s0 (State.takeResets s req) := by
  unfold State.takeResets
  split <;> exact Stays.upd hk rfl ⟨rfl, rfl, rfl⟩

theorem State.settleAck_stays {s0 : State} (s : State) (msg : AckPayload) (hk : Stays wr s0 s) : Stays wr s0 (State.settleAck s msg) := by
  unfold State.settleAck
  repeat' first | (with_reducible first | assumption | apply State.compareAck_stays | apply State.catchUp_stays | apply State.takeResets_stays | apply State.extendLease_stays) | (simp only [stays_mk]; refine stays_upd ?_) | split

theorem State.takeAck_stays {s0 : State} (s : State) (msg : AckPayload) (hk : Stays wr s0 s) : Stays wr s0 (State.takeAck s msg) := by
  unfold State.takeAck
  dsimp only
  repeat' first | (with_reducible first | assumption | apply State.compareAck_stays | apply State.takeResets_stays | apply State.settleAck_stays | apply State.finishJoin_stays | apply State.trimHistory_stays | apply State.publish_stays | apply State.advanceCommit_stays) | split

theorem execLeaseExpiry_stays {s0 : State} (s : State) (hk : Stays wr s0 s) : StaysOut wr s0 (execLeaseExpiry s) := by
  unfold execLeaseExpiry
  split <;> exact staysOut_next (Stays.upd hk rfl ⟨rfl, rfl, rfl⟩)

theorem execListMessage_stays {s0 : State} (hdr : MirrorHeader) (list : FrameList) (s : State) (hk : Stays wr s0 s) : StaysOut wr s0 (execListMessage hdr list s) := by
  refine staysOut_next ?_
  try dsimp only
  repeat' first | intro _ | (with_reducible first | assumption | apply State.dropMessage_stays | apply State.fromUpstream_stays | apply State.endResetWaits_stays | apply State.noteResets_stays | apply State.sendDown_stays | apply stays_foldl) | (simp only [stays_mk]; refine stays_upd ?_) | split | with_reducible refine stays_some ‹_ = some _› ?_

theorem execTickMessage_stays {s0 : State} (hdr : MirrorHeader) (msg : TickPayload) (s : State) (hk : Stays wr s0 s) : StaysOut wr s0 (execTickMessage hdr msg s) := by
  refine staysOut_next ?_
  try dsimp only
  repeat' first | intro _ | (with_reducible first | assumption | apply State.dropMessage_stays | apply State.fromUpstream_stays | apply State.takeCommitted_stays | apply State.sendDown_stays | apply State.takeBlock_stays | apply State.setMirrorPort_stays | apply State.fence_stays | apply stays_foldl) | (simp only [stays_mk]; refine stays_upd ?_) | split | with_reducible refine stays_some ‹_ = some _› ?_

theorem execDataMessage_stays {s0 : State} (hdr : MirrorHeader) (recs : List DataRecord) (s : State) (hk : Stays wr s0 s) : StaysOut wr s0 (execDataMessage hdr recs s) := by
  refine staysOut_next ?_
  try dsimp only
  repeat' first | intro _ | (with_reducible first | assumption | apply State.fromUpstream_stays | apply State.sendDown_stays | apply State.takeData_stays | apply stays_foldl) | (simp only [stays_mk]; refine stays_upd ?_) | split | with_reducible refine stays_some ‹_ = some _› ?_

theorem execAckMessage_stays {s0 : State} (hdr : MirrorHeader) (msg : AckPayload) (s : State) (hk : Stays wr s0 s) : StaysOut wr s0 (execAckMessage hdr msg s) := by
  refine staysOut_next ?_
  dsimp only
  repeat' first | (with_reducible first | assumption | apply State.takeBlock_stays | apply State.seeEpoch_stays | apply State.receive_stays | apply State.takeAck_stays) | split

theorem execLinkack_stays {s0 : State} (portB : Bool) (ack : BitVec 32) (s : State) (hk : Stays wr s0 s) : StaysOut wr s0 (execLinkack portB ack s) := by
  unfold execLinkack
  split <;> exact staysOut_next (Stays.upd hk rfl ⟨rfl, rfl, rfl⟩)

theorem execRetransmitTimeout_stays {s0 : State} (portB : Bool) (s : State) (hk : Stays wr s0 s) : StaysOut wr s0 (execRetransmitTimeout portB s) := by
  refine staysOut_next ?_
  repeat' split
  all_goals exact Stays.upd hk rfl ⟨rfl, rfl, rfl⟩

theorem execLinkackTimer_stays {s0 : State} (portB : Bool) (s : State) (hk : Stays wr s0 s) : StaysOut wr s0 (execLinkackTimer portB s) := by
  refine staysOut_next ?_
  repeat' split
  all_goals exact Stays.upd hk rfl ⟨rfl, rfl, rfl⟩

theorem execPathSilenceTimeout_stays {s0 : State} (down : Bool) (t1s : Bool) (s : State) (hk : Stays wr s0 s) : StaysOut wr s0 (execPathSilenceTimeout down t1s s) := by
  refine staysOut_next ?_
  dsimp only
  repeat' first | (with_reducible first | assumption | apply State.setMirrorPort_stays | apply State.declareFailed_stays | apply State.raise_stays) | (simp only [stays_mk]; refine stays_upd ?_) | split

theorem execMirrorCmdDetach_stays {s0 : State} (s : State) (hk : Stays wr s0 s) : StaysOut wr s0 (execMirrorCmdDetach s) :=
  staysOut_next (State.mirrorDetach_stays _ hk)

theorem execMirrorCmdFence_stays {s0 : State} (s : State) (hk : Stays wr s0 s) : StaysOut wr s0 (execMirrorCmdFence s) :=
  staysOut_next (State.fence_stays _ _ hk)

theorem execMirrorPortLinkChange_stays {s0 : State} (portB : Bool) (up : Bool) (s : State) (hk : Stays wr s0 s) : StaysOut wr s0 (execMirrorPortLinkChange portB up s) := by
  refine staysOut_next ?_
  repeat' first | (with_reducible first | assumption | apply State.setMirrorPort_stays) | split

theorem execMirrorFrameDrop_stays {s0 : State} (portB : Bool) (f : MirrorFrame) (s : State) (hk : Stays wr s0 s) : StaysOut wr s0 (execMirrorFrameDrop portB f s) := by
  refine staysOut_next ?_
  repeat' first | (with_reducible first | assumption | apply State.setMirrorPort_stays) | (simp only [stays_mk]; refine stays_upd ?_) | split

/-! ### Records -/

theorem State.install_stays {s0 : State} (s : State) (descs : List (Nat × Nat × BitVec 192)) (tables : List KmaTable) (entries : List (Nat × Bool × KmaEntry)) (hk : Stays true s0 s) : Stays true s0 (State.install s descs tables entries) :=
  Stays.updStore hk rfl

/-! ### Join -/

theorem State.acceptJoin_stays {s0 : State} (s : State) (pos : Nat) (hk : Stays wr s0 s) : Stays wr s0 (State.acceptJoin s pos) := by
  unfold State.acceptJoin
  repeat' first | (with_reducible first | assumption | apply State.sendCopies_stays | apply State.sendMirror_stays) | (simp only [stays_mk]; refine stays_upd ?_) | split

theorem State.askJoin_stays {s0 : State} (s : State) (hk : Stays wr s0 s) : Stays wr s0 (State.askJoin s) := by
  unfold State.askJoin
  repeat' first | (with_reducible first | assumption | apply State.sendMirror_stays | apply State.setPrimary_stays) | (simp only [stays_mk]; refine stays_upd ?_) | split

theorem State.dropWork_stays {s0 : State} (s : State) (hk : Stays wr s0 s) : Stays wr s0 (State.dropWork s) :=
  Stays.upd hk rfl ⟨rfl, rfl, rfl⟩

theorem State.mirrorJoin_stays {s0 : State} (s : State) (hk : Stays wr s0 s) : Stays wr s0 (State.mirrorJoin s) := by
  unfold State.mirrorJoin
  dsimp only
  repeat' first | (with_reducible first | assumption | apply State.dropWork_stays | apply State.askJoin_stays) | (simp only [stays_mk]; refine stays_upd ?_) | split

theorem State.mirrorForm_stays {s0 : State} (s : State) (hk : Stays wr s0 s) : Stays wr s0 (State.mirrorForm s) := by
  unfold State.mirrorForm
  repeat' first | (with_reducible first | assumption | apply State.raise_stays | apply State.formSequencer_stays) | split

theorem State.formCheck_stays {s0 : State} (s : State) (hk : Stays wr s0 s) : Stays wr s0 (State.formCheck s) := by
  unfold State.formCheck
  repeat' first | (with_reducible first | assumption | apply State.formSequencer_stays) | (simp only [stays_mk]; refine stays_upd ?_) | split

theorem State.hearMirror_stays {s0 : State} (s : State) (hb : Heartbeat) (hk : Stays wr s0 s) : Stays wr s0 (State.hearMirror s hb) := by
  unfold State.hearMirror
  dsimp only
  repeat' first | (with_reducible first | assumption | apply State.seeEpoch_stays | apply State.takeCommitted_stays | apply State.receive_stays | apply State.takeBlock_stays) | split

theorem State.keepHeard_stays {s0 : State} (s : State) (hb : Heartbeat) (hk : Stays wr s0 s) : Stays wr s0 (State.keepHeard s hb) :=
  Stays.upd hk rfl ⟨rfl, rfl, rfl⟩

theorem State.hearT1s_stays {s0 : State} (s : State) (hb : Heartbeat) (hk : Stays wr s0 s) : Stays wr s0 (State.hearT1s s hb) := by
  unfold State.hearT1s
  dsimp only
  repeat' first | (with_reducible first | assumption | apply State.keepHeard_stays | apply State.takeCommitted_stays | apply State.seeEpoch_stays | apply State.takeBlock_stays | apply State.askJoin_stays | apply State.formCheck_stays) | split

theorem State.refuseJoin_stays {s0 : State} (s : State) (code : Nat) (hk : Stays wr s0 s) : Stays wr s0 (State.refuseJoin s code) :=
  Stays.upd hk rfl ⟨rfl, rfl, rfl⟩

theorem execHeartbeatMessage_stays {s0 : State} (t1s : Bool) (hb : Heartbeat) (s : State) (hk : Stays wr s0 s) : StaysOut wr s0 (execHeartbeatMessage t1s hb s) := by
  refine staysOut_next ?_
  repeat' first | (with_reducible first | assumption | apply State.hearT1s_stays | apply State.hearMirror_stays) | split

theorem execFenceMessage_stays {s0 : State} (hb : Heartbeat) (reason : Nat) (s : State) (hk : Stays wr s0 s) : StaysOut wr s0 (execFenceMessage hb reason s) := by
  refine staysOut_next ?_
  repeat' first | (with_reducible first | assumption | apply State.seeEpoch_stays | apply State.receive_stays | apply State.declareFailed_stays) | (simp only [stays_mk]; refine stays_upd ?_) | split

theorem execJoinReq_stays {s0 : State} (pos : Nat) (req : JoinRequest) (s : State) (hk : Stays wr s0 s) : StaysOut wr s0 (execJoinReq pos req s) := by
  refine staysOut_next ?_
  repeat' first | (with_reducible first | assumption | apply State.acceptJoin_stays | apply State.refuseJoin_stays) | (simp only [stays_mk]; refine stays_upd ?_) | split

theorem execCopyMessage_stays {s0 : State} (slot : Nat) (data : List Byte) (crc : BitVec 64) (s : State) (hk : Stays true s0 s) :
    StaysOut true s0 (execCopyMessage slot data crc s) := by
  refine staysOut_next ?_
  split
  · exact hk
  · have h1 := State.receive_stays s false 117 none hk
    dsimp only
    split
    · exact State.writeSlot_stays _ _ _ h1
    · exact h1

theorem execJoinReply_stays {s0 : State} (code : Nat) (s : State) (hk : Stays wr s0 s) : StaysOut wr s0 (execJoinReply code s) := by
  refine staysOut_next ?_
  repeat' first | (with_reducible first | assumption | apply State.receive_stays | apply State.raise_stays | apply State.endJoin_stays) | split

theorem execOverrunHeartbeatTimer_stays {s0 : State} (t1s : Bool) (s : State) (hk : Stays wr s0 s) : StaysOut wr s0 (execOverrunHeartbeatTimer t1s s) := by
  refine staysOut_next ?_
  dsimp only
  repeat' first | (with_reducible first | assumption | apply State.fresh_stays | apply State.sendT1s_stays | apply State.sendHeartbeats_stays) | (simp only [stays_mk]; refine stays_upd ?_) | split

theorem execJoinDrainTimeout_stays {s0 : State} (s : State) (hk : Stays wr s0 s) : StaysOut wr s0 (execJoinDrainTimeout s) := by
  refine staysOut_next ?_
  repeat' first | (with_reducible first | assumption | apply State.fence_stays) | (simp only [stays_mk]; refine stays_upd ?_) | split

theorem execFormingHeartbeatTimer_stays {s0 : State} (s : State) (hk : Stays wr s0 s) : StaysOut wr s0 (execFormingHeartbeatTimer s) := by
  refine staysOut_next ?_
  repeat' first | (with_reducible first | assumption | apply State.formCheck_stays | apply State.sendT1s_stays) | split

theorem execFormWaitExpiry_stays {s0 : State} (s : State) (hk : Stays wr s0 s) : StaysOut wr s0 (execFormWaitExpiry s) := by
  refine staysOut_next ?_
  repeat' first | (with_reducible first | assumption | apply State.raise_stays | apply State.formSequencer_stays) | split

theorem execMirrorCmdJoin_stays {s0 : State} (s : State) (hk : Stays wr s0 s) : StaysOut wr s0 (execMirrorCmdJoin s) :=
  staysOut_next (State.mirrorJoin_stays _ hk)

theorem execMirrorCmdForm_stays {s0 : State} (s : State) (hk : Stays wr s0 s) : StaysOut wr s0 (execMirrorCmdForm s) :=
  staysOut_next (State.mirrorForm_stays _ hk)

/-! ### Boot -/

theorem State.beginServing_stays {s0 : State} (s : State) (hk : Stays wr s0 s) : Stays wr s0 (State.beginServing s) := by
  unfold State.beginServing
  repeat' first | (with_reducible first | assumption | apply State.startFrames_stays) | (simp only [stays_mk]; refine stays_upd ?_) | split

theorem State.bootSpan_stays {s0 : State} (s : State) (sel : Nat) (index : Nat) (sub : Nat) (slot : Nat) (n : Nat) (hk : Stays wr s0 s) : Stays wr s0 (State.bootSpan s sel index sub slot n) := by
  unfold State.bootSpan
  dsimp only
  repeat' first | (with_reducible first | assumption | apply State.odSet_stays) | (simp only [stays_mk]; refine stays_upd ?_) | split

theorem State.bootSpans_stays {s0 : State} (s : State) (hk : Stays wr s0 s) : Stays wr s0 (State.bootSpans s) := by
  unfold State.bootSpans
  dsimp only
  repeat' first | (with_reducible first | assumption | apply State.bootSpan_stays) | split

theorem State.deriveKey_stays {s0 : State} (s : State) (label : List Byte) (hk : Stays wr s0 s) : Stays wr s0 (State.deriveKey s label) := by
  unfold State.deriveKey
  repeat' first | (with_reducible first | assumption | apply State.hashOn_stays | apply State.putKey_stays) | split

theorem State.configure_stays {s0 : State} (s : State) (hk : Stays true s0 s) : Stays true s0 (State.configure s) := by
  unfold State.configure
  repeat' first | (with_reducible first | assumption | apply State.deriveKey_stays) | (simp only [stays_mkStore]; refine stays_updStore ?_) | split

theorem State.failBoot_stays {s0 : State} (s : State) (code : Nat) (hk : Stays wr s0 s) : Stays wr s0 (State.failBoot s code) :=
  Stays.upd hk rfl ⟨rfl, rfl, rfl⟩

theorem State.fillDict_stays {s0 : State} (s : State) (hk : Stays wr s0 s) : Stays wr s0 (State.fillDict s) := by
  unfold State.fillDict
  dsimp only
  repeat' first | (with_reducible first | assumption | apply State.raise_stays) | (simp only [stays_mk]; refine stays_upd ?_) | split

theorem State.hashFirmware_stays {s0 : State} (s : State) (b : FirmwareBank) (hk : Stays wr s0 s) : Stays wr s0 (State.hashFirmware s b) := by
  unfold State.hashFirmware
  repeat' first | (with_reducible first | assumption | apply State.hashOn_stays) | split

theorem State.linkLocation_stays {s0 : State} (s : State) (l : DieLink) (hk : Stays wr s0 s) : Stays wr s0 (State.linkLocation s l).2 :=
  State.fresh_stays _ hk

theorem State.selftestFault_stays {s0 : State} (s : State) (u : SelftestUnit) (hk : Stays wr s0 s) : Stays wr s0 (State.selftestFault s u) := by
  unfold State.selftestFault
  repeat' first | (with_reducible first | assumption | apply State.raiseAt_stays | apply State.latchFault_stays | apply State.linkLocation_stays) | split

theorem State.setStage_stays {s0 : State} (s : State) (n : Nat) (hk : Stays wr s0 s) : Stays wr s0 (State.setStage s n) :=
  Stays.upd hk rfl ⟨rfl, rfl, rfl⟩

theorem State.startTraining_stays {s0 : State} (s : State) (hk : Stays wr s0 s) : Stays wr s0 (State.startTraining s) := by
  unfold State.startTraining
  repeat' split
  all_goals exact Stays.upd hk rfl ⟨rfl, rfl, rfl⟩

theorem execBringupStart_stays {s0 : State} (profsel : Fin 4) (s : State) (hk : Stays wr s0 s) : StaysOut wr s0 (execBringupStart profsel s) := by
  unfold execBringupStart
  split <;> exact staysOut_next (Stays.upd hk rfl ⟨rfl, rfl, rfl⟩)

theorem execFirmwareVerify_stays {s0 : State} (a : FirmwareBank) (b : FirmwareBank) (s : State) (hk : Stays true s0 s) : StaysOut true s0 (execFirmwareVerify a b s) := by
  refine staysOut_next ?_
  repeat' first | (with_reducible first | assumption | apply State.hashFirmware_stays | apply State.failBoot_stays | apply State.setStage_stays | apply State.startTraining_stays | apply State.configure_stays | apply State.fillDict_stays) | (simp only [stays_mkStore]; refine stays_updStore ?_) | split

theorem execMemoryTrainingComplete_stays {s0 : State} (failed : List (Fin 48)) (s : State) (hk : Stays wr s0 s) : StaysOut wr s0 (execMemoryTrainingComplete failed s) := by
  refine staysOut_next ?_
  try dsimp only
  repeat' first | intro _ | (with_reducible first | assumption | apply State.failBoot_stays | apply State.channelFault_stays | apply stays_foldl) | (simp only [stays_mk]; refine stays_upd ?_) | split

theorem execStartupSelftestComplete_stays {s0 : State} (mismatch : List SelftestUnit) (s : State) (hk : Stays wr s0 s) : StaysOut wr s0 (execStartupSelftestComplete mismatch s) := by
  refine staysOut_next ?_
  try dsimp only
  repeat' first | intro _ | (with_reducible first | assumption | apply State.setStage_stays | apply State.failBoot_stays | apply State.fence_stays | apply State.selftestFault_stays | apply stays_foldl) | (simp only [stays_mk]; refine stays_upd ?_) | split

theorem execSysRefclkLoss_stays {s0 : State} (s : State) (hk : Stays wr s0 s) : StaysOut wr s0 (execSysRefclkLoss s) := by
  refine staysOut_next ?_
  try dsimp only
  repeat' first | intro _ | (with_reducible first | assumption | apply State.fence_stays | apply State.raiseAt_stays | apply stays_foldl) | (simp only [stays_mk]; refine stays_upd ?_) | split

theorem execPexRefclkLoss_stays {s0 : State} (s : State) (hk : Stays wr s0 s) : StaysOut wr s0 (execPexRefclkLoss s) := by
  unfold execPexRefclkLoss
  try dsimp only
  repeat' first | intro _ | (with_reducible first | assumption | apply execHotReset_stays | apply staysOut_next | exact staysOut_fault | apply stays_foldl | apply stays_foldl_fst | apply stays_foldl_snd) | (simp only [stays_mk]; refine stays_upd ?_) | split | (with_reducible first | refine stays_fst ‹_ = (_, _)› ?_ | refine stays_snd ‹_ = (_, _)› ?_ | refine stays_ok ‹_ = Except.ok _› ?_ | refine stays_some ‹_ = some _› ?_ | refine stays_someC ‹_ = some (_, _)› ?_ | refine stays_inl ‹_ = Sum.inl _› ?_ | refine stays_inr ‹_ = Sum.inr _› ?_ | exact StaysE.keep ‹StaysE wr _ (Except.ok _)› _ rfl | exact StaysO.keep ‹StaysO wr _ (some _)› _ rfl | exact StaysC.keep ‹StaysC wr _ (some _)› _ rfl | exact StaysEff.keep ‹StaysEff wr _ (Effect.done _ _)› _ rfl | refine stays_of_done ‹_ = Effect.done _ _› ?_)

theorem execMirRefclkLoss_stays {s0 : State} (s : State) (hk : Stays wr s0 s) : StaysOut wr s0 (execMirRefclkLoss s) :=
  staysOut_next (Stays.upd hk rfl ⟨rfl, rfl, rfl⟩)

theorem execAuxClkLoss_stays {s0 : State} (s : State) (hk : Stays wr s0 s) : StaysOut wr s0 (execAuxClkLoss s) := by
  refine staysOut_next ?_
  repeat' first | (with_reducible first | assumption | apply State.raiseAt_stays) | (simp only [stays_mk]; refine stays_upd ?_) | split

theorem execAuxClkReturn_stays {s0 : State} (s : State) (hk : Stays wr s0 s) : StaysOut wr s0 (execAuxClkReturn s) := by
  refine staysOut_next ?_
  repeat' first | (with_reducible first | assumption | apply State.raiseAt_stays) | (simp only [stays_mk]; refine stays_upd ?_) | split

/-! ### Restore -/

theorem State.checkReinit_stays {s0 : State} (s : State) (hk : Stays wr s0 s) : Stays wr s0 (State.checkReinit s) := by
  unfold State.checkReinit
  split <;> exact Stays.upd hk rfl ⟨rfl, rfl, rfl⟩

theorem State.checkSet_stays {s0 : State} (s : State) (hk : Stays wr s0 s) : Stays wr s0 (State.checkSet s) := by
  unfold State.checkSet
  repeat' first | (with_reducible first | assumption | apply State.dropChrysalis_stays) | (simp only [stays_mk]; refine stays_upd ?_) | split

theorem State.clearAbsent_stays {s0 : State} (s : State) (hk : Stays wr s0 s) : Stays wr s0 (State.clearAbsent s) :=
  Stays.upd hk rfl ⟨rfl, rfl, rfl⟩

theorem State.restoreFails_stays {s0 : State} (s : State) (status : Nat) (hk : Stays wr s0 s) : Stays wr s0 (State.restoreFails s status) :=
  State.failRestore_stays _ _ hk

theorem State.startReplay_stays {s0 : State} (s : State) (hk : Stays wr s0 s) : Stays wr s0 (State.startReplay s) := by
  unfold State.startReplay
  repeat' first | (with_reducible first | assumption | apply State.fresh_stays | apply State.startFrames_stays) | (simp only [stays_mk]; refine stays_upd ?_) | split

theorem State.markAbsent_stays {s0 : State} (s : State) (hk : Stays wr s0 s) : Stays wr s0 (State.markAbsent s) :=
  Stays.upd hk rfl ⟨rfl, rfl, rfl⟩

theorem State.countRestoreReads_stays {s0 : State} (s : State) (b : Superblock) (bytes : Nat) (hk : Stays wr s0 s) : Stays wr s0 (State.countRestoreReads s b bytes) := by
  unfold State.countRestoreReads
  repeat' first | (with_reducible first | assumption | apply State.countBlocks_stays) | split

theorem State.failMember_stays {s0 : State} (s : State) (port : Fin 4) (reason : Nat) (counts : Bool) (hk : Stays wr s0 s) : Stays wr s0 (State.failMember s port reason counts) := by
  unfold State.failMember
  repeat' first | (with_reducible first | assumption | apply State.ssdsDown_stays | apply State.checkReinit_stays | apply State.checkSet_stays | apply State.setPort_stays) | split

theorem State.commandFailed_stays {s0 : State} (s : State) (p : Fin 4) (reason : Nat) (hk : Stays wr s0 s) : Stays wr s0 (State.commandFailed s p reason) := by
  unfold State.commandFailed
  repeat' first | (with_reducible first | assumption | apply State.fresh_stays | apply State.failMember_stays | apply State.dropChrysalis_stays) | split

theorem State.endWaits_stays {s0 : State} (s : State) (slot : Nat) (hk : Stays wr s0 s) : Stays wr s0 (State.endWaits s slot) :=
  Stays.upd hk rfl ⟨rfl, rfl, rfl⟩

theorem State.failStrangers_stays {s0 : State} (s : State) (valid : List Superblock) (setId : List Byte) (hk : Stays wr s0 s) : Stays wr s0 (State.failStrangers s valid setId) := by
  unfold State.failStrangers
  try dsimp only
  repeat' first | intro _ | (with_reducible first | assumption | apply State.setPort_stays | apply stays_foldl) | split

theorem State.arriveSlot_stays {s0 : State} (s : State) (slot : Nat) (hk : Stays true s0 s) : Stays true s0 (s.arriveSlot slot) := by
  have h2 := State.setResident_stays _ slot true hk
  refine State.endWaits_stays _ _ (State.clearAbsent_stays _ ?_)
  split
  · exact Stays.updStore h2 rfl
  · exact h2

theorem State.fetchedSlot_stays {s0 : State} (s : State) (slot : Nat) (bytes : List Byte) (hk : Stays true s0 s) :
    Stays true s0 (State.fetchedSlot s slot bytes) :=
  State.arriveSlot_stays _ slot (State.writeSlot_stays s slot bytes hk)

theorem State.loseSlot_stays {s0 : State} (s : State) (slot : Nat) (hk : Stays wr s0 s) : Stays wr s0 (State.loseSlot s slot) := by
  unfold State.loseSlot
  dsimp only
  repeat' first | (with_reducible first | assumption | apply State.failRestore_stays | apply State.endWaits_stays) | (simp only [stays_mk]; refine stays_upd ?_) | split

theorem State.replayEnd_stays {s0 : State} (s : State) (hk : Stays true s0 s) : Stays true s0 (State.replayEnd s) := by
  unfold State.replayEnd
  repeat' first | (with_reducible first | assumption | apply State.sealCocoon_stays | apply State.stepDigest_stays | apply State.stepRelease_stays) | (simp only [stays_mkStore]; refine stays_updStore ?_) | split

theorem State.restoreNoSet_stays {s0 : State} (s : State) (hk : Stays wr s0 s) : Stays wr s0 (State.restoreNoSet s) := by
  unfold State.restoreNoSet
  repeat' first | (with_reducible first | assumption | apply State.beginServing_stays | apply State.bootSpans_stays) | (simp only [stays_mk]; refine stays_upd ?_) | split

theorem execSsdCommandTimeout_stays {s0 : State} (p : Fin 4) (s : State) (hk : Stays wr s0 s) : StaysOut wr s0 (execSsdCommandTimeout p s) := by
  refine staysOut_next ?_
  repeat' first | (with_reducible first | assumption | apply State.commandFailed_stays) | split

theorem execSsdCommandError_stays {s0 : State} (p : Fin 4) (s : State) (hk : Stays wr s0 s) : StaysOut wr s0 (execSsdCommandError p s) := by
  refine staysOut_next ?_
  repeat' first | (with_reducible first | assumption | apply State.commandFailed_stays) | split

theorem execSsdLinkDown_stays {s0 : State} (p : Fin 4) (s : State) (hk : Stays wr s0 s) : StaysOut wr s0 (execSsdLinkDown p s) := by
  refine staysOut_next ?_
  repeat' first | (with_reducible first | assumption | apply State.failMember_stays) | split

theorem execSmartLogPoll_stays {s0 : State} (a0 : Fin 4) (s : State) (hk : Stays wr s0 s) : StaysOut wr s0 (execSmartLogPoll a0 s) :=
  staysOut_next (Stays.upd hk rfl ⟨rfl, rfl, rfl⟩)

theorem execKeyReadyTimeout_stays {s0 : State} (s : State) (hk : Stays wr s0 s) : StaysOut wr s0 (execKeyReadyTimeout s) := by
  refine staysOut_next ?_
  repeat' first | (with_reducible first | assumption | apply State.restoreFails_stays) | split

theorem execSlotFetchComplete_stays {s0 : State} (slot : Nat) (data : Option (List Byte)) (s : State) (hk : Stays true s0 s) : StaysOut true s0 (execSlotFetchComplete slot data s) := by
  refine staysOut_next ?_
  repeat' first | (with_reducible first | assumption | apply State.countBlocks_stays | apply State.fetchedSlot_stays | apply State.loseSlot_stays) | split

theorem execSsdReady_stays {s0 : State} (p : Fin 4) (id : SsdIdentity) (s : State) (hk : Stays wr s0 s) : StaysOut wr s0 (execSsdReady p id s) := by
  refine staysOut_next ?_
  repeat' first | (with_reducible first | assumption | apply State.failMember_stays | apply State.checkReinit_stays | apply State.setPort_stays) | split

theorem execSsdReadyTimeout_stays {s0 : State} (p : Fin 4) (s : State) (hk : Stays wr s0 s) : StaysOut wr s0 (execSsdReadyTimeout p s) := by
  refine staysOut_next ?_
  repeat' first | (with_reducible first | assumption | apply State.failMember_stays) | split

end Sys2Proof.Machine
end

