-- ==== Sys2Proof/Laws/StaysSide.lean ====
section
/-! SUPPORT. The dictionary, codec, register and test operations stay. -/

namespace Sys2Proof.Machine

variable {wr : Bool}

/-! ### Values -/

theorem State.afterRead_stays {s0 : State} (s : State) (index : Nat) (hk : Stays wr s0 s) : Stays wr s0 (State.afterRead s index) := by
  unfold State.afterRead
  repeat' first | (with_reducible first | assumption | apply State.fresh_stays) | split

theorem State.profileLoad_stays {s0 : State} (s : State) (p : Nat) (hk : Stays wr s0 s) : Stays wr s0 (State.profileLoad s p) := by
  unfold State.profileLoad
  split <;> exact Stays.upd hk rfl ⟨rfl, rfl, rfl⟩

theorem State.profileWrite_stays {s0 : State} (s : State) (p : Nat) (defaults : Bool) (hk : Stays wr s0 s) : Stays wr s0 (State.profileWrite s p defaults) :=
  Stays.upd hk rfl ⟨rfl, rfl, rfl⟩

theorem execProfileLoad_stays {s0 : State} (p : Nat) (s : State) (hk : Stays wr s0 s) : StaysOut wr s0 (execProfileLoad p s) := by
  refine staysOut_next ?_
  repeat' first | (with_reducible first | assumption | apply State.profileLoad_stays) | split

theorem execProfileSave_stays {s0 : State} (p : Nat) (s : State) (hk : Stays wr s0 s) : StaysOut wr s0 (execProfileSave p s) := by
  refine staysOut_next ?_
  repeat' first | (with_reducible first | assumption | apply State.profileWrite_stays) | split

theorem execProfileDefaults_stays {s0 : State} (p : Nat) (s : State) (hk : Stays wr s0 s) : StaysOut wr s0 (execProfileDefaults p s) := by
  refine staysOut_next ?_
  repeat' first | (with_reducible first | assumption | apply State.profileWrite_stays) | split

theorem execProfileFlashWriteDone_stays {s0 : State} (ok : Bool) (s : State) (hk : Stays wr s0 s) : StaysOut wr s0 (execProfileFlashWriteDone ok s) := by
  unfold execProfileFlashWriteDone
  split <;> exact staysOut_next (Stays.upd hk rfl ⟨rfl, rfl, rfl⟩)

/-! ### Bdp -/

theorem State.abandon?_stays {s0 : State} (s : State) (k : BitVec 48 × Nat × Nat × Nat) (error : Nat) (hk : Stays wr s0 s) : Stays wr s0 (State.abandon? s k error) := by
  unfold State.abandon?
  split <;> exact Stays.upd hk rfl ⟨rfl, rfl, rfl⟩

theorem State.respond_stays {s0 : State} (s : State) (f : BdpFrame) (type : Nat) (more : Bool) (error : Nat) (body : List Byte) (hk : Stays wr s0 s) : Stays wr s0 (State.respond s f type more error body) :=
  Stays.upd hk rfl ⟨rfl, rfl, rfl⟩

theorem State.setTransfer_stays {s0 : State} (s : State) (t : BdpTransfer) (hk : Stays wr s0 s) : Stays wr s0 (State.setTransfer s t) :=
  Stays.upd hk rfl ⟨rfl, rfl, rfl⟩

theorem State.dropTransfer_stays {s0 : State} (s : State) (f : BdpFrame) (hk : Stays wr s0 s) : Stays wr s0 (State.dropTransfer s f) :=
  Stays.upd hk rfl ⟨rfl, rfl, rfl⟩

theorem State.nextSegment_stays {s0 : State} (s : State) (f : BdpFrame) (t : BdpTransfer) (hk : Stays wr s0 s) : Stays wr s0 (State.nextSegment s f t) := by
  unfold State.nextSegment
  repeat' first | (with_reducible first | assumption | apply State.setTransfer_stays | apply State.dropTransfer_stays | apply State.respond_stays) | split

theorem State.firstRead_stays {s0 : State} (s : State) (f : BdpFrame) (hk : Stays wr s0 s) : Stays wr s0 (State.firstRead s f) := by
  unfold State.firstRead
  repeat' first | (with_reducible first | assumption | apply State.respond_stays | apply State.dropTransfer_stays | apply State.afterRead_stays | apply State.nextSegment_stays) | split

theorem State.requestError_stays {s0 : State} (s : State) (f : BdpFrame) (hk : Stays wr s0 s) : Stays wr s0 (State.requestError s f).2 := by
  unfold State.requestError
  repeat' split
  all_goals exact Stays.upd hk rfl ⟨rfl, rfl, rfl⟩

theorem State.serveBdp_stays {s0 : State} (s : State) (f : Sys2Proof.BdpFrame) (serve : State → State) (hk : Stays wr s0 s)
    (hs : ∀ u, Stays wr s0 u → Stays wr s0 (serve u)) : Stays wr s0 (State.serveBdp s f serve) := by
  unfold State.serveBdp
  split
  · exact Stays.upd hk rfl ⟨rfl, rfl, rfl⟩
  · exact hs _ hk

theorem State.serveRead_stays {s0 : State} (s : State) (f : BdpFrame) (hk : Stays wr s0 s) : Stays wr s0 (State.serveRead s f) := by
  unfold State.serveRead
  dsimp only
  repeat' first | (with_reducible first | assumption | apply State.requestError_stays | apply State.respond_stays | apply State.firstRead_stays | apply State.nextSegment_stays) | split

theorem execBdpReadReq_stays {s0 : State} (f : BdpFrame) (s : State) (hk : Stays wr s0 s) : StaysOut wr s0 (execBdpReadReq f s) := by
  refine staysOut_next ?_
  try dsimp only
  repeat' first | intro _ | (with_reducible first | assumption | apply State.serveBdp_stays | apply State.serveRead_stays | apply stays_foldl) | split

theorem execBdpAbort_stays {s0 : State} (f : BdpFrame) (s : State) (hk : Stays wr s0 s) : StaysOut wr s0 (execBdpAbort f s) := by
  refine staysOut_next ?_
  repeat' first | (with_reducible first | assumption | apply State.respond_stays | apply State.abandon?_stays) | split

theorem execBdpFrameDrop_stays {s0 : State} (f : BdpFrame) (s : State) (hk : Stays wr s0 s) : StaysOut wr s0 (execBdpFrameDrop f s) := by
  unfold execBdpFrameDrop
  split <;> exact staysOut_next (Stays.upd hk rfl ⟨rfl, rfl, rfl⟩)

theorem execSegmentTransferTimeout_stays {s0 : State} (n : Nat) (s : State) (hk : Stays wr s0 s) : StaysOut wr s0 (execSegmentTransferTimeout n s) := by
  refine staysOut_next ?_
  repeat' first | (with_reducible first | assumption | apply State.abandon?_stays) | split

theorem execEventFrameSend_stays {s0 : State} (s : State) (hk : Stays wr s0 s) : StaysOut wr s0 (execEventFrameSend s) := by
  refine staysOut_next ?_
  repeat' split
  all_goals exact Stays.upd hk rfl ⟨rfl, rfl, rfl⟩

/-! ### Codec -/

theorem State.codecStore_stays {s0 : State} (s : State) (ma : Nat) (bs : List Byte) (hk : Stays true s0 s) : Stays true s0 (State.codecStore s ma bs) := by
  unfold State.codecStore
  repeat' first | (with_reducible first | assumption | apply State.sumStore_stays | apply State.writeMem_stays) | split

theorem State.clearSegment_stays {s0 : State} (s : State) (slot : Nat) (hk : Stays true s0 s) : Stays true s0 (State.clearSegment s slot) := by
  unfold State.clearSegment
  try dsimp only
  repeat' first | intro _ | (with_reducible first | assumption | apply State.codecStore_stays | apply stays_foldl) | split

theorem State.codecOutput_stays {s0 : State} (s : State) (e : WorkEntry) (ps : List (Nat × List Byte)) (hk : Stays wr s0 s) : Stays wr s0 (State.codecOutput s e ps) := by
  unfold State.codecOutput
  try dsimp only
  repeat' first | intro _ | (with_reducible first | assumption | apply State.sumOutput_stays | apply State.unitWrite_stays | apply stays_foldl) | split

theorem State.recordedTable_stays {s0 : State} (s : State) (p : TableSpec) (hk : Stays true s0 s) : Stays true s0 (State.recordedTable s p) := by
  unfold State.recordedTable
  split <;> exact Stays.updStore hk rfl

theorem State.stageCreate_stays {s0 : State} (s : State) (t : KmaTable) (hk : Stays wr s0 s) : Stays wr s0 (State.stageCreate s t) :=
  Stays.upd hk rfl ⟨rfl, rfl, rfl⟩

theorem State.createTable_stays {s0 : State} (s : State) (p : TableSpec) (hk : Stays true s0 s) : Stays true s0 (State.createTable s p) := by
  unfold State.createTable
  try dsimp only
  repeat' first | intro _ | (with_reducible first | assumption | apply State.recordedTable_stays | apply State.placeTable_stays | apply State.stageCreate_stays | apply stays_foldl) | split

theorem State.updJob_stays {s0 : State} (s : State) (slot : Nat) (f : CodecJob → CodecJob) (hk : Stays wr s0 s) : Stays wr s0 (State.updJob s slot f) :=
  State.updEntry_stays _ _ _ hk

theorem State.readDirectory_stays {s0 : State} (s : State) (slot : Nat) (hk : Stays wr s0 s) : Stays wr s0 (State.readDirectory s slot).1 := by
  rw [State.readDirectory]
  exact stays_pair (State.readRange_stays _ _ _ _ _ (State.readRange_stays _ _ _ _ _ hk))

theorem State.decodeOver_stays {s0 : State} (s : State) (e : WorkEntry) (j : Job) (o : DecodeOut) (hk : Stays wr s0 s) :
    Stays wr s0 (s.decodeOver e j o) :=
  State.updJob_stays _ _ _ (State.codecOutput_stays _ _ _ hk)

theorem State.spanEnd_stays {s0 : State} (s : State) (d : BitVec 192) (off inLen : Nat) (o : DecodeOut) (hk : Stays wr s0 s) :
    StaysR wr s0 (s.spanEnd d off inLen o) := by
  unfold State.spanEnd
  split
  · exact staysR_wait
  · exact staysR_over hk

theorem State.decodeSpanBlock_stays {s0 : State} (j : Job) (d : BitVec 192) (off slot : Nat) (p : SpanRun) (b : Nat) (hk : StaysR wr s0 p) :
    StaysR wr s0 (State.decodeSpanBlock j d off slot p b) := by
  unfold State.decodeSpanBlock
  split
  · have h0 := hk.keep _ rfl
    have hr {t : State} {a n q : Nat} {c : Bool} (h : Stays wr s0 t) : Stays wr s0 (t.readRange a n q c).1 := State.readRange_stays _ _ _ _ _ h
    dsimp only
    generalize slot * slotBytes + b = ma
    repeat' first | exact staysR_over (hr h0) | exact State.spanEnd_stays _ _ _ _ _ (hr h0) | exact staysR_over (hr (hr h0)) |
      exact staysR_more (hr (hr h0)) | split
  · exact hk

theorem State.decodeBlocks_stays {s0 : State} (s : State) (ok : Bool) (j : Job) (d : BitVec 192) (off n : Nat) (o : DecodeOut)
    (hk : Stays wr s0 s) : StaysR wr s0 (s.decodeBlocks ok j d off n o) := by
  unfold State.decodeBlocks
  split
  · exact staysR_over hk
  split
  · exact staysR_over hk
  · exact stays_foldl_R (fun a x h => State.decodeSpanBlock_stays _ _ _ _ a x h) (staysR_more hk)

theorem State.decodeSegment_stays {s0 : State} (j : Job) (d : BitVec 192) (off : Nat) (p : SpanRun) (n : Nat) (hk : StaysR wr s0 p) :
    StaysR wr s0 (State.decodeSegment j d off p n) := by
  unfold State.decodeSegment
  split
  · have h0 := hk.keep _ rfl
    split
    · exact staysR_over h0
    split
    · exact staysR_wait
    · exact State.decodeBlocks_stays _ _ _ _ _ _ _ (State.readDirectory_stays _ _ h0)
  · exact hk

theorem State.decodeSpan_stays {s0 : State} (s : State) (j : Job) (d : BitVec 192) (off : Nat) (o : DecodeOut) (hk : Stays wr s0 s) :
    StaysR wr s0 (s.decodeSpan j d off o) :=
  stays_foldl_R (fun a x h => State.decodeSegment_stays _ _ _ a x h) (staysR_more hk)

theorem State.encodeBegin_stays {s0 : State} (s : State) (j : Job) (d : BitVec 192) (hk : Stays true s0 s) : StaysC true s0 (State.encodeBegin s j d) := by
  unfold State.encodeBegin
  try dsimp only
  repeat' first | intro _ | (with_reducible first | assumption | apply State.clearSegment_stays | apply stays_foldl | apply stays_foldl_fst | apply stays_foldl_snd | apply staysC_some | exact staysC_none | apply stays_foldl_C) | (simp only [stays_mkStore]; refine stays_updStore ?_) | split | (with_reducible first | refine stays_fst ‹_ = (_, _)› ?_ | refine stays_snd ‹_ = (_, _)› ?_ | refine stays_ok ‹_ = Except.ok _› ?_ | refine stays_some ‹_ = some _› ?_ | refine stays_someC ‹_ = some (_, _)› ?_ | refine stays_inl ‹_ = Sum.inl _› ?_ | refine stays_inr ‹_ = Sum.inr _› ?_ | exact StaysE.keep ‹StaysE true _ (Except.ok _)› _ rfl | exact StaysO.keep ‹StaysO true _ (some _)› _ rfl | exact StaysC.keep ‹StaysC true _ (some _)› _ rfl | exact StaysEff.keep ‹StaysEff true _ (Effect.done _ _)› _ rfl | refine stays_of_done ‹_ = Effect.done _ _› ?_)

theorem State.placeBlock_stays {s0 : State} (s : State) (d : BitVec 192) (o : SpanOut) (ty : Nat) (at_ : Nat) (b : List Byte) (vs : List (Word × Bool)) (hk : Stays true s0 s) : Stays true s0 (State.placeBlock s d o ty at_ b vs).1 := by
  unfold State.placeBlock
  repeat' first | (with_reducible first | assumption | apply State.codecStore_stays) | split

theorem nextSegment_stays {s0 : State} (d : BitVec 192) (first : List Byte) (s : State) (o : SpanOut) (hk : Stays true s0 s) : StaysC true s0 (nextSegment d first s o) := by
  unfold nextSegment
  try dsimp only
  repeat' first | intro _ | (with_reducible first | assumption | apply State.clearSegment_stays | apply stays_foldl | apply stays_foldl_fst | apply stays_foldl_snd | apply staysC_some | exact staysC_none | apply stays_foldl_C) | (simp only [stays_mkStore]; refine stays_updStore ?_) | split | (with_reducible first | refine stays_fst ‹_ = (_, _)› ?_ | refine stays_snd ‹_ = (_, _)› ?_ | refine stays_ok ‹_ = Except.ok _› ?_ | refine stays_some ‹_ = some _› ?_ | refine stays_someC ‹_ = some (_, _)› ?_ | refine stays_inl ‹_ = Sum.inl _› ?_ | refine stays_inr ‹_ = Sum.inr _› ?_ | exact StaysE.keep ‹StaysE true _ (Except.ok _)› _ rfl | exact StaysO.keep ‹StaysO true _ (some _)› _ rfl | exact StaysC.keep ‹StaysC true _ (some _)› _ rfl | exact StaysEff.keep ‹StaysEff true _ (Effect.done _ _)› _ rfl | refine stays_of_done ‹_ = Effect.done _ _› ?_)

theorem encodePut_stays {s0 : State} (j : Job) (d : BitVec 192) (first : List Byte) (s : State) (o : SpanOut) (vs : List (Word × Bool)) (b : List Byte) (at_ : Nat) (fits : Bool) (hk : Stays true s0 s) : Stays true s0 (encodePut j d first s o vs b at_ fits).1 := by
  unfold encodePut
  try dsimp only
  repeat' first | intro _ | (with_reducible first | assumption | apply State.placeBlock_stays | apply nextSegment_stays | apply stays_foldl | apply stays_foldl_fst | apply stays_foldl_snd) | (simp only [stays_mkStore]; refine stays_updStore ?_) | split | (with_reducible first | refine stays_fst ‹_ = (_, _)› ?_ | refine stays_snd ‹_ = (_, _)› ?_ | refine stays_ok ‹_ = Except.ok _› ?_ | refine stays_some ‹_ = some _› ?_ | refine stays_someC ‹_ = some (_, _)› ?_ | refine stays_inl ‹_ = Sum.inl _› ?_ | refine stays_inr ‹_ = Sum.inr _› ?_ | exact StaysE.keep ‹StaysE true _ (Except.ok _)› _ rfl | exact StaysO.keep ‹StaysO true _ (some _)› _ rfl | exact StaysC.keep ‹StaysC true _ (some _)› _ rfl | exact StaysEff.keep ‹StaysEff true _ (Effect.done _ _)› _ rfl | refine stays_of_done ‹_ = Effect.done _ _› ?_)

theorem encodeStep_stays {s0 : State} (j : Job) (d : BitVec 192) (first : List Byte) (p : State × SpanOut) (vs : List (Word × Bool))
    (hk : Stays true s0 p.1) : Stays true s0 (encodeStep j d first p vs).1 := by
  have h (c : Prop) [Decidable c] (r : State × SpanOut) (hr : Stays true s0 r.1) : Stays true s0 (if c then p else r).1 := by
    split
    · exact hk
    · exact hr
  exact h _ _ (encodePut_stays _ _ _ _ _ _ _ _ _ hk)

theorem encodeSpan_stays {s0 : State} (j : Job) (d : BitVec 192) (first : List Byte) (s : State) (o : SpanOut) (l : List (List (Word × Bool))) (hk : Stays true s0 s) : Stays true s0 (encodeSpan j d first s o l).1 := by
  unfold encodeSpan
  try dsimp only
  repeat' first | intro _ | (with_reducible first | assumption | apply encodeStep_stays | apply stays_foldl_fst) | split

theorem State.encodeRunSpan_stays {s0 : State} (s : State) (j : Job) (d : BitVec 192) (i : EncodeInput) (hk : Stays true s0 s) :
    StaysC true s0 (State.encodeRunSpan s j d i) := by
  unfold State.encodeRunSpan
  have h := State.encodeBegin_stays s j d hk
  cases hb : s.encodeBegin j d with
  | none => exact staysC_none
  | some p => exact staysC_some (encodeSpan_stays _ _ _ _ _ _ (h.keep p hb))

theorem State.endJob_stays {s0 : State} (s : State) (slot : Nat) (st : Nat) (hk : Stays wr s0 s) : Stays wr s0 (State.endJob s slot st) :=
  State.updJob_stays _ _ _ hk

theorem State.encodeInto_stays {s0 : State} (s : State) (e : WorkEntry) (j : Job) (d : BitVec 192) (i : EncodeInput) (hk : Stays true s0 s) : Stays true s0 (State.encodeInto s e j d i) := by
  unfold State.encodeInto
  try dsimp only
  repeat' first | intro _ | (with_reducible first | assumption | apply State.encodeRunSpan_stays | apply State.endJob_stays | apply State.updJob_stays | apply stays_foldl | apply stays_foldl_fst | apply stays_foldl_snd) | (simp only [stays_mkStore]; refine stays_updStore ?_) | split | (with_reducible first | refine stays_fst ‹_ = (_, _)› ?_ | refine stays_snd ‹_ = (_, _)› ?_ | refine stays_ok ‹_ = Except.ok _› ?_ | refine stays_some ‹_ = some _› ?_ | refine stays_someC ‹_ = some (_, _)› ?_ | refine stays_inl ‹_ = Sum.inl _› ?_ | refine stays_inr ‹_ = Sum.inr _› ?_ | exact StaysE.keep ‹StaysE true _ (Except.ok _)› _ rfl | exact StaysO.keep ‹StaysO true _ (some _)› _ rfl | exact StaysC.keep ‹StaysC true _ (some _)› _ rfl | exact StaysEff.keep ‹StaysEff true _ (Effect.done _ _)› _ rfl | refine stays_of_done ‹_ = Effect.done _ _› ?_)

theorem State.encodeResident_stays {s0 : State} (s : State) (e : WorkEntry) (j : Job) (d : BitVec 192) (bs : List Byte) (hk : Stays true s0 s) : Stays true s0 (State.encodeResident s e j d bs) := by
  unfold State.encodeResident
  dsimp only
  repeat' first | (with_reducible first | assumption | apply State.readRange_stays | apply State.stageData_stays | apply State.encodeInto_stays | apply State.endJob_stays) | split

theorem State.noteRead_stays {s0 : State} (s : State) (e : WorkEntry) (addr : Nat) (n : Nat) (r : HostRead) (hk : Stays wr s0 s) : Stays wr s0 (State.noteRead s e addr n r) := by
  unfold State.noteRead
  repeat' first | (with_reducible first | assumption | apply State.carryFails_stays | apply State.fresh_stays | apply State.carried_stays) | split

theorem State.encodeToSpan_stays {s0 : State} (s : State) (e : WorkEntry) (j : Job) (r : HostRead) (a4 : Option (BitVec 192)) (hk : Stays true s0 s) :
    Stays true s0 (State.encodeToSpan s e j r a4) := by
  cases a4 with
  | none => exact hk
  | some d =>
    unfold State.encodeToSpan
    dsimp only
    generalize s.firstAway _ = f
    split
    · exact State.awaitSlot_stays _ _ hk
    · exact State.endJob_stays _ _ _ hk
    · exact State.encodeResident_stays _ _ _ _ _ (State.noteRead_stays _ _ _ _ _ hk)

theorem State.encodeToHost_stays {s0 : State} (s : State) (e : WorkEntry) (j : Job) (r : HostRead) (hk : Stays wr s0 s) : Stays wr s0 (State.encodeToHost s e j r) := by
  unfold State.encodeToHost
  repeat' first | (with_reducible first | assumption | apply State.updJob_stays | apply State.codecOutput_stays | apply State.noteRead_stays) | split

theorem State.encodeRun_stays {s0 : State} (s : State) (e : WorkEntry) (j : Job) (input : Option (List Byte)) (valid : List Byte) (hk : Stays true s0 s) : Stays true s0 (State.encodeRun s e j input valid) := by
  unfold State.encodeRun
  repeat' first | (with_reducible first | assumption | apply State.encodeToSpan_stays | apply State.encodeToHost_stays) | split

theorem State.failOutput_stays {s0 : State} (s : State) (e : WorkEntry) (addr : Nat) (hk : Stays wr s0 s) : Stays wr s0 (State.failOutput s e addr) := by
  unfold State.failOutput
  repeat' first | (with_reducible first | assumption | apply State.carryFails_stays | apply State.fresh_stays) | split

theorem State.loadTable_stays {s0 : State} (s : State) (e : WorkEntry) (n : Nat) (bs : List Byte) (hk : Stays true s0 s) : Stays true s0 (State.loadTable s e n bs) := by
  unfold State.loadTable
  try dsimp only
  repeat' first | intro _ | (with_reducible first | assumption | apply State.tableResult_stays | apply State.onTable_stays | apply State.spreadKeys_stays | apply State.each_stays | apply State.loadOne_stays | apply stays_foldl) | split

theorem execCodecEncode_stays {s0 : State} (slot : Fin 256) (input : Option (List Byte)) (valid : List Byte) (s : State) (hk : Stays true s0 s) : StaysOut true s0 (execCodecEncode slot input valid s) := by
  refine staysOut_next ?_
  dsimp only
  repeat' first | (with_reducible first | assumption | apply State.awaitSlot_stays | apply State.endJob_stays | apply State.encodeRun_stays) | split

theorem execCodecDecode_stays {s0 : State} (slot : Fin 256) (input : Option (List Byte)) (s : State) (hk : Stays wr s0 s) :
    StaysOut wr s0 (execCodecDecode slot input s) := by
  refine staysOut_next ?_
  dsimp only
  repeat' first | (with_reducible first | assumption | apply State.endJob_stays | apply State.failOutput_stays | apply State.awaitSlot_stays | apply State.decodeOver_stays | apply State.noteRead_stays) | (refine stays_of_over ‹_ = SpanRun.over _ _› (State.decodeSpan_stays _ _ _ _ _ hk)) | (refine stays_of_more ‹_ = SpanRun.more _ _› (State.decodeSpan_stays _ _ _ _ _ hk)) | split

theorem execCodecUnitGrant_stays {s0 : State} (encoder : Bool) (s : State) (hk : Stays wr s0 s) : StaysOut wr s0 (execCodecUnitGrant encoder s) := by
  refine staysOut_next ?_
  repeat' first | (with_reducible first | assumption | apply State.updJob_stays) | split

theorem execCodecJobFinish_stays {s0 : State} (slot : Fin 256) (s : State) (hk : Stays wr s0 s) : StaysOut wr s0 (execCodecJobFinish slot s) := by
  refine staysOut_next ?_
  dsimp only
  repeat' first | (with_reducible first | assumption | apply State.failOutput_stays | apply State.unitWrite_stays | apply State.finish_stays | apply State.updJob_stays) | split

theorem execTableCreate_stays {s0 : State} (slot : Fin 256) (s : State) (hk : Stays true s0 s) : StaysOut true s0 (execTableCreate slot s) := by
  refine staysOut_next ?_
  dsimp only
  repeat' first | (with_reducible first | assumption | apply State.tableResult_stays | apply State.awaitSlot_stays | apply State.createTable_stays | apply State.each_stays | apply State.indexCode_stays) | split

theorem execTableLoad_stays {s0 : State} (slot : Fin 256) (records : Option (List Byte)) (s : State) (hk : Stays true s0 s) : StaysOut true s0 (execTableLoad slot records s) := by
  refine staysOut_next ?_
  dsimp only
  repeat' first | (with_reducible first | assumption | apply State.tableResult_stays | apply State.awaitSlot_stays | apply State.frontRead_stays | apply State.loadTable_stays | apply State.stageData_stays) | split

/-! ### Registers -/

theorem State.setSlot_stays {s0 : State} (s : State) (n : Fin 8) (x : DwSlot) (hk : Stays wr s0 s) : Stays wr s0 (State.setSlot s n x) :=
  Stays.upd hk rfl ⟨rfl, rfl, rfl⟩

theorem State.maskVector_stays {s0 : State} (s : State) (fn : Fin 64) (vec : Nat) (on : Bool) (hk : Stays wr s0 s) : Stays wr s0 (State.maskVector s fn vec on) := by
  unfold State.maskVector
  repeat' first | (with_reducible first | assumption | apply State.setFn_stays | apply State.sendPending_stays) | split

theorem State.writeChCtrl_stays {s0 : State} (s : State) (ch : Fin 32) (acc : RegAccess) (v : BitVec 64) (hk : Stays wr s0 s) : Stays wr s0 (State.writeChCtrl s ch acc v) := by
  unfold State.writeChCtrl
  repeat' first | (with_reducible first | assumption | apply State.chDisable_stays | apply State.chPause_stays | apply State.setChannel_stays) | split

theorem State.writeConfig_stays {s0 : State} (s : State) (fn : Fin 64) (field : ConfigField) (v : BitVec 64) (hk : Stays wr s0 s) : Stays wr s0 (State.writeConfig s fn field v) := by
  unfold State.writeConfig
  repeat' first | (with_reducible first | assumption | apply State.setFn_stays | apply State.sendPending_stays) | split

theorem State.writeHandle_stays {s0 : State} (s : State) (fn : Fin 64) (h : Nat) (off : Nat) (acc : RegAccess) (v : BitVec 64) (hk : Stays wr s0 s) : Stays wr s0 (State.writeHandle s fn h off acc v) := by
  unfold State.writeHandle
  dsimp only
  repeat' first | (with_reducible first | assumption | apply State.setHandle_stays) | split

theorem State.writeOutMsg_stays {s0 : State} (s : State) (fn : Fin 64) (n : Nat) (acc : RegAccess) (v : BitVec 64) (hk : Stays wr s0 s) : Stays wr s0 (State.writeOutMsg s fn n acc v) := by
  unfold State.writeOutMsg
  dsimp only
  repeat' first | (with_reducible first | assumption | apply State.setMailbox_stays) | split

theorem State.writeMailbox_stays {s0 : State} (s : State) (fn : Fin 64) (off : Nat) (acc : RegAccess) (v : BitVec 64) (hk : Stays wr s0 s) : Stays wr s0 (State.writeMailbox s fn off acc v) := by
  unfold State.writeMailbox
  repeat' first | (with_reducible first | assumption | apply State.writeOutMsg_stays | apply State.setMailbox_stays) | split

theorem State.writePage_stays {s0 : State} (s : State) (fn : Fin 64) (off : Nat) (acc : RegAccess) (v : BitVec 64) (hk : Stays wr s0 s) : Stays wr s0 (State.writePage s fn off acc v) := by
  unfold State.writePage
  repeat' first | (with_reducible first | assumption | apply State.writeMailbox_stays | apply State.setKeyPort_stays | apply State.writeHandle_stays) | split

theorem State.writeW0_stays {s0 : State} (s : State) (off : Nat) (acc : RegAccess) (v : BitVec 64) (hk : Stays wr s0 s) : Stays wr s0 (State.writeW0 s off acc v) := by
  unfold State.writeW0
  dsimp only
  repeat' first | (with_reducible first | assumption | apply State.writePage_stays | apply State.writeChCtrl_stays) | split

theorem State.writeW4_stays {s0 : State} (s : State) (fn : Fin 64) (off : Nat) (acc : RegAccess) (v : BitVec 64) (hk : Stays wr s0 s) : Stays wr s0 (State.writeW4 s fn off acc v) := by
  unfold State.writeW4
  dsimp only
  repeat' first | (with_reducible first | assumption | apply State.maskVector_stays) | (simp only [stays_mk]; refine stays_upd ?_) | split

theorem execDwRequestDone_stays {s0 : State} (slot : Fin 8) (s : State) (hk : Stays wr s0 s) : StaysOut wr s0 (execDwRequestDone slot s) := by
  refine staysOut_next ?_
  repeat' first | (with_reducible first | assumption | apply State.setSlot_stays | apply State.raiseVector_stays) | split

/-! ### Tap -/

theorem State.tapTake_stays {s0 : State} (s : State) (opcode : BitVec 8) (mode : Nat) (pulse : Nat) (hk : Stays wr s0 s) : Stays wr s0 (State.tapTake s opcode mode pulse) :=
  Stays.upd hk rfl ⟨rfl, rfl, rfl⟩

theorem State.tapFence_stays {s0 : State} (s : State) (opcode : BitVec 8) (mode : Nat) (pulse : Nat) (hk : Stays wr s0 s) : Stays wr s0 (State.tapFence s opcode mode pulse) := by
  unfold State.tapFence
  repeat' first | (with_reducible first | assumption | apply State.tapTake_stays | apply State.fence_stays) | (simp only [stays_mk]; refine stays_upd ?_) | split

theorem State.tapReset_stays {s0 : State} (s : State) (hk : Stays wr s0 s) : Stays wr s0 (State.tapReset s) :=
  State.tapTake_stays _ _ _ _ hk

theorem execTrstN_stays {s0 : State} (s : State) (hk : Stays wr s0 s) : StaysOut wr s0 (execTrstN s) :=
  staysOut_next (State.tapReset_stays _ hk)

theorem execExtest_stays {s0 : State} (s : State) (hk : Stays wr s0 s) : StaysOut wr s0 (execExtest s) := by
  refine staysOut_next ?_
  repeat' first | (with_reducible first | assumption | apply State.tapFence_stays) | split

theorem execIdcode_stays {s0 : State} (s : State) (hk : Stays wr s0 s) : StaysOut wr s0 (execIdcode s) := by
  refine staysOut_next ?_
  repeat' first | (with_reducible first | assumption | apply State.tapTake_stays) | split

theorem execSamplePreload_stays {s0 : State} (pins : BitVec 180) (preload : BitVec 180) (s : State) (hk : Stays wr s0 s) : StaysOut wr s0 (execSamplePreload pins preload s) := by
  refine staysOut_next ?_
  repeat' first | (with_reducible first | assumption | apply State.tapTake_stays) | (simp only [stays_mk]; refine stays_upd ?_) | split

theorem execHighz_stays {s0 : State} (s : State) (hk : Stays wr s0 s) : StaysOut wr s0 (execHighz s) := by
  refine staysOut_next ?_
  repeat' first | (with_reducible first | assumption | apply State.tapFence_stays) | split

theorem execClamp_stays {s0 : State} (s : State) (hk : Stays wr s0 s) : StaysOut wr s0 (execClamp s) := by
  refine staysOut_next ?_
  repeat' first | (with_reducible first | assumption | apply State.tapFence_stays) | split

theorem execExtestPulse_stays {s0 : State} (s : State) (hk : Stays wr s0 s) : StaysOut wr s0 (execExtestPulse s) := by
  refine staysOut_next ?_
  repeat' first | (with_reducible first | assumption | apply State.tapFence_stays) | split

theorem execExtestTrain_stays {s0 : State} (s : State) (hk : Stays wr s0 s) : StaysOut wr s0 (execExtestTrain s) := by
  refine staysOut_next ?_
  repeat' first | (with_reducible first | assumption | apply State.tapFence_stays) | split

theorem execBypass_stays {s0 : State} (opcode : BitVec 8) (s : State) (hk : Stays wr s0 s) : StaysOut wr s0 (execBypass opcode s) := by
  refine staysOut_next ?_
  repeat' first | (with_reducible first | assumption | apply State.tapTake_stays) | split

theorem execTapReset_stays {s0 : State} (s : State) (hk : Stays wr s0 s) : StaysOut wr s0 (execTapReset s) := by
  refine staysOut_next ?_
  repeat' first | (with_reducible first | assumption | apply State.tapReset_stays) | split

/-! ### HealthRows -/

theorem execTileHangTimeout_stays {s0 : State} (t : Fin 64) (s : State) (hk : Stays wr s0 s) : StaysOut wr s0 (execTileHangTimeout t s) := by
  refine staysOut_next ?_
  repeat' first | (with_reducible first | assumption | apply State.fatal_stays) | split

theorem execSelftestPart_stays {s0 : State} (t : Fin 64) (sigOk : Bool) (s : State) (hk : Stays wr s0 s) : StaysOut wr s0 (execSelftestPart t sigOk s) := by
  refine staysOut_next ?_
  dsimp only
  repeat' first | (with_reducible first | assumption | apply State.fatal_stays | apply State.setTile_stays) | (simp only [stays_mk]; refine stays_upd ?_) | split

theorem execSelftestLate_stays {s0 : State} (t : Fin 64) (s : State) (hk : Stays wr s0 s) : StaysOut wr s0 (execSelftestLate t s) := by
  refine staysOut_next ?_
  repeat' first | (with_reducible first | assumption | apply State.setTile_stays) | split

theorem execHealthEvaluation_stays {s0 : State} (s : State) (hk : Stays wr s0 s) : StaysOut wr s0 (execHealthEvaluation s) := by
  refine staysOut_next ?_
  repeat' first | (with_reducible first | assumption | apply State.setFaults_stays) | (simp only [stays_mk]; refine stays_upd ?_) | split

theorem execMarginCheck_stays {s0 : State} (mirrorPct : Nat) (hostPct : Nat) (persistPct : Nat) (s : State) (hk : Stays wr s0 s) : StaysOut wr s0 (execMarginCheck mirrorPct hostPct persistPct s) :=
  staysOut_next (Stays.upd hk rfl ⟨rfl, rfl, rfl⟩)

theorem execLinkRetryLimit_stays {s0 : State} (link : DieLink) (s : State) (hk : Stays wr s0 s) : StaysOut wr s0 (execLinkRetryLimit link s) := by
  refine staysOut_next ?_
  repeat' first | (with_reducible first | assumption | apply State.linkLocation_stays | apply State.fatal_stays) | (simp only [stays_mk]; refine stays_upd ?_) | split

/-! ### Sensors -/

theorem execChannelSample_stays {s0 : State} (ch : Fin 64) (raw : BitVec 12) (s : State) (hk : Stays wr s0 s) : StaysOut wr s0 (execChannelSample ch raw s) := by
  refine staysOut_next ?_
  repeat' split
  all_goals exact Stays.upd hk rfl ⟨rfl, rfl, rfl⟩

end Sys2Proof.Machine
end

