-- ==== Sys2Proof/Laws/StaysTiles.lean ====
section
/-! SUPPORT. The Kumer-48 instructions stay. -/

namespace Sys2Proof.Machine

variable {wr : Bool}

/-! ### UnitInstr -/

theorem issueRecord_stays {s0 : State} (t : Fin 64) (op : Nat) (k : RecordKind) (p : Option (State × Ctx)) (h : StaysC wr s0 p) :
    StaysC wr s0 (issueRecord t op k p) := by
  unfold issueRecord
  split
  · exact staysC_none
  · split
    · exact staysC_none
    · exact staysC_some (State.setTile_stays _ _ _ (h.keep _ rfl))

theorem aggregateLane_stays {s0 : State} (t : Fin 64) (f : BitVec 40) (slots : Nat) (n : Fin 4) (s : State) (c : Ctx) (hk : Stays wr s0 s) :
    StaysEff wr s0 (aggregateLane t f slots n s c) := by
  have out (k : RecordKind) (c : Ctx) : StaysEff wr s0 (match issueRecord t (uOp f) k (some (s, c)) with
      | some (s', c') => .done s' c'
      | none => .fail Status.mergeOverdraw s c) := by
    split
    · exact staysEff_done ((issueRecord_stays t (uOp f) k _ (staysC_some hk)).keep _ ‹_›)
    · exact staysEff_fail hk
  unfold aggregateLane
  dsimp only
  split
  · exact out _ _
  · split
    · exact staysEff_done hk
    · split
      · exact staysEff_done hk
      · split
        · exact staysEff_done hk
        · exact out _ _

theorem withRegion_stays {s0 : State} (s : State) (c : Ctx) (a : Word) (parts : List (Nat × Nat)) (k : Effect) (hk : Stays wr s0 s)
    (h : StaysEff wr s0 k) : StaysEff wr s0 (withRegion s c a parts k) := by
  unfold withRegion
  split
  · exact scratchTrap_stays _ _ _ _ _ hk
  · split
    · exact staysEff_stall
    · exact h

theorem finishLanes_stays {s0 : State} (p : Effect) (h : StaysEff wr s0 p) : StaysEff wr s0 (finishLanes p) := by
  unfold finishLanes
  split
  · exact stepOn_stays _ _ (h.keep _ rfl)
  · exact h

theorem eachLane_stays {s0 : State} (lanes : List (Fin 4)) (one : Fin 4 → State → Ctx → Effect) (s : State) (c : Ctx) (hk : Stays wr s0 s)
    (h : ∀ n u d, Stays wr s0 u → StaysEff wr s0 (one n u d)) : StaysEff wr s0 (eachLane lanes one s c) := by
  refine stays_foldl_Eff (fun p n hp => ?_) (staysEff_done hk)
  split
  · exact h _ _ _ (hp.keep _ rfl)
  · exact hp

theorem aggregateLanes_stays {s0 : State} (t : Fin 64) (f : BitVec 40) (s : State) (c : Ctx) (e : WorkEntry) (img : Image) (hk : Stays wr s0 s) : StaysEff wr s0 (aggregateLanes t f s c e img) := by
  unfold aggregateLanes
  repeat' first | (with_reducible first | assumption | apply withRegion_stays | apply stepOn_stays | apply finishLanes_stays | apply eachLane_stays | apply aggregateLane_stays | apply staysEff_done | apply staysEff_trap | apply staysEff_wait | apply staysEff_fail | exact staysEff_stall) | split

theorem useTable_stays {s0 : State} (s : State) (c : Ctx) (e : WorkEntry) (img : Image) (op : Nat) (k : KmaTable → Effect) (hk : Stays wr s0 s)
    (h : ∀ tb, StaysEff wr s0 (k tb)) : StaysEff wr s0 (useTable s c e img op k) := by
  unfold useTable
  split
  · exact staysEff_fail hk
  · split
    · exact staysEff_fail hk
    · exact h _

theorem searchWith_stays {s0 : State} (lanes : List (Fin 4)) (op : Nat) (s : State) (c : Ctx) (e : WorkEntry) (img : Image)
    (one : KmaTable → Fin 4 → State → Ctx → Effect) (hk : Stays wr s0 s) (h : ∀ tb n u d, Stays wr s0 u → StaysEff wr s0 (one tb n u d)) :
    StaysEff wr s0 (searchWith lanes op s c e img one) := by
  unfold searchWith
  split
  · exact stepOn_stays _ _ hk
  · exact useTable_stays _ _ _ _ _ _ hk fun tb => finishLanes_stays _ (eachLane_stays _ _ _ _ hk (h tb))

theorem searchOne_stays {s0 : State} (t : Fin 64) (tb : KmaTable) (key : DWord) (base : Nat) (record : List Match → Bool → List Word) (s : State) (c : Ctx) (hk : Stays wr s0 s) : StaysEff wr s0 (searchOne t tb key base record s c) := by
  unfold searchOne
  dsimp only
  repeat' first | (with_reducible first | assumption | apply State.verify_stays | apply staysEff_done | apply staysEff_trap | apply staysEff_wait | apply staysEff_fail | exact staysEff_stall) | split

theorem continueLanes_stays {s0 : State} (t : Fin 64) (f : BitVec 40) (s : State) (c : Ctx) (e : WorkEntry) (img : Image) (hk : Stays wr s0 s) : StaysEff wr s0 (continueLanes t f s c e img) := by
  unfold continueLanes
  try dsimp only
  repeat' first | intro _ | (with_reducible first | assumption | apply withRegion_stays | apply searchWith_stays | apply searchOne_stays | apply staysEff_done | apply staysEff_trap | apply staysEff_wait | apply staysEff_fail | exact staysEff_stall | apply stays_foldl) | split

theorem openSel_stays {s0 : State} (s : State) (e : WorkEntry) (img : Image) (c : Ctx) (sel : Nat) (load : Bool) (store : Bool) (k : Effect)
    (hs : Stays wr s0 s) (hk : StaysEff wr s0 k) : StaysEff wr s0 (openSel s e img c sel load store k) := by
  unfold openSel
  dsimp only
  split
  · exact segTrap_stays _ _ _ _ _ _ hs
  · exact segTrap_stays _ _ _ _ _ _ hs
  · exact hk

theorem deliverRun_stays {s0 : State} (f : BitVec 40) (s : State) (c : Ctx) (e : WorkEntry) (img : Image) (hk : Stays wr s0 s) : StaysEff wr s0 (deliverRun f s c e img) := by
  unfold deliverRun
  try dsimp only
  repeat' first | intro _ | (with_reducible first | assumption | apply scratchTrap_stays | apply openSel_stays | apply withLines_stays | apply stepOn_stays | apply State.updEntry_stays | apply staysEff_done | apply staysEff_trap | apply staysEff_wait | apply staysEff_fail | exact staysEff_stall | apply stays_foldl) | split

theorem drainStep_stays {s0 : State} (f : BitVec 40) (s : State) (c : Ctx) (e : WorkEntry) (img : Image) (hk : Stays wr s0 s) : StaysEff wr s0 (drainStep f s c e img) := by
  unfold drainStep
  try dsimp only
  repeat' first | intro _ | (with_reducible first | assumption | apply withRegion_stays | apply useTable_stays | apply State.readEntry_stays | apply stepOn_stays | apply staysEff_done | apply staysEff_trap | apply staysEff_wait | apply staysEff_fail | exact staysEff_stall | apply stays_foldl) | split

theorem searchLanes_stays {s0 : State} (t : Fin 64) (f : BitVec 40) (s : State) (c : Ctx) (e : WorkEntry) (img : Image) (hk : Stays wr s0 s) : StaysEff wr s0 (searchLanes t f s c e img) := by
  unfold searchLanes
  try dsimp only
  repeat' first | intro _ | (with_reducible first | assumption | apply withRegion_stays | apply searchWith_stays | apply searchOne_stays | apply staysEff_done | apply staysEff_trap | apply staysEff_wait | apply staysEff_fail | exact staysEff_stall | apply stays_foldl) | split

theorem execKsrch_stays {s0 : State} (t : Fin 64) (f : BitVec 40) (s : State) (hk : Stays wr s0 s) : StaysOut wr s0 (execKsrch t f s) :=
  staysOut_next (runInstr_stays _ _ _ _ _ _ hk fun _ _ _ _ h => searchLanes_stays _ _ _ _ _ _ h)

theorem execKcont_stays {s0 : State} (t : Fin 64) (f : BitVec 40) (s : State) (hk : Stays wr s0 s) : StaysOut wr s0 (execKcont t f s) :=
  staysOut_next (runInstr_stays _ _ _ _ _ _ hk fun _ _ _ _ h => continueLanes_stays _ _ _ _ _ _ h)

theorem wholeOrNothing_stays {s0 : State} (s : State) (c : Ctx) (p : Effect) (hs : Stays wr s0 s) (hk : StaysEff wr s0 p) :
    StaysEff wr s0 (wholeOrNothing s c p) := by
  unfold wholeOrNothing
  split
  · exact staysEff_trap hs
  · exact staysEff_wait hs
  · exact hk

theorem insertLane_stays {s0 : State} (t : Fin 64) (f : BitVec 40) (e : WorkEntry) (img : Image) (npay : Nat) (n : Fin 4) (s : State) (c : Ctx)
    (hk : Stays wr s0 s) : StaysEff wr s0 (insertLane t f e img npay n s c) := by
  have put (k : RecordKind) (s : State) (c : Ctx) (hs : Stays wr s0 s) : StaysEff wr s0 (match issueRecord t (uOp f) k (some (s, c)) with
      | some (s', c') => .done s' c'
      | none => .fail Status.mergeOverdraw s c) := by
    split
    · exact staysEff_done ((issueRecord_stays t (uOp f) k _ (staysC_some hs)).keep _ ‹_›)
    · exact staysEff_fail hs
  unfold insertLane
  dsimp only
  split
  · exact staysEff_fail hk
  · split
    · split
      · exact put _ _ _ hk
      · exact staysEff_done hk
      · exact staysEff_fail hk
      · exact segTrap_stays _ _ _ _ _ _ hk
      · exact staysEff_wait hk
    · exact put _ _ _ hk

theorem insertLanes_stays {s0 : State} (t : Fin 64) (f : BitVec 40) (s : State) (c : Ctx) (e : WorkEntry) (img : Image) (hk : Stays wr s0 s) : StaysEff wr s0 (insertLanes t f s c e img) := by
  unfold insertLanes
  repeat' first | (with_reducible first | assumption | apply withRegion_stays | apply stepOn_stays | apply wholeOrNothing_stays | apply finishLanes_stays | apply eachLane_stays | apply insertLane_stays | apply staysEff_done | apply staysEff_trap | apply staysEff_wait | apply staysEff_fail | exact staysEff_stall) | split

theorem execKins_stays {s0 : State} (t : Fin 64) (f : BitVec 40) (s : State) (hk : Stays wr s0 s) : StaysOut wr s0 (execKins t f s) :=
  staysOut_next (runInstr_stays _ _ _ _ _ _ hk fun _ _ _ _ h => insertLanes_stays _ _ _ _ _ _ h)

theorem execKagg_stays {s0 : State} (t : Fin 64) (f : BitVec 40) (s : State) (hk : Stays wr s0 s) : StaysOut wr s0 (execKagg t f s) :=
  staysOut_next (runInstr_stays _ _ _ _ _ _ hk fun _ _ _ _ h => aggregateLanes_stays _ _ _ _ _ _ h)

theorem execKdrn_stays {s0 : State} (t : Fin 64) (f : BitVec 40) (s : State) (hk : Stays wr s0 s) : StaysOut wr s0 (execKdrn t f s) :=
  staysOut_next (runInstr_stays _ _ _ _ _ _ hk fun _ _ _ _ h => drainStep_stays _ _ _ _ _ h)

theorem formRun_stays {s0 : State} (f : BitVec 40) (s : State) (c : Ctx) (e : WorkEntry) (img : Image) (hk : Stays true s0 s) : StaysEff true s0 (formRun f s c e img) := by
  unfold formRun
  try dsimp only
  repeat' first | intro _ | (with_reducible first | assumption | apply withRegion_stays | apply openSel_stays | apply stepOn_stays | apply withStores_stays | apply State.updEntry_stays | apply staysEff_done | apply staysEff_trap | apply staysEff_wait | apply staysEff_fail | exact staysEff_stall | apply stays_foldl) | split

theorem execSrun_stays {s0 : State} (t : Fin 64) (f : BitVec 40) (s : State) (hk : Stays true s0 s) : StaysOut true s0 (execSrun t f s) :=
  staysOut_next (runInstr_stays _ _ _ _ _ _ hk fun _ _ _ _ h => formRun_stays _ _ _ _ _ h)

theorem mergeRuns_stays {s0 : State} (f : BitVec 40) (s : State) (c : Ctx) (e : WorkEntry) (img : Image) (hk : Stays true s0 s) : StaysEff true s0 (mergeRuns f s c e img) := by
  unfold mergeRuns
  try dsimp only
  repeat' first | intro _ | (with_reducible first | assumption | apply withRegion_stays | apply openSel_stays | apply stepOn_stays | apply withLines_stays | apply withStores_stays | apply State.updEntry_stays | apply staysEff_done | apply staysEff_trap | apply staysEff_wait | apply staysEff_fail | exact staysEff_stall | apply stays_foldl) | split

theorem execSmrg_stays {s0 : State} (t : Fin 64) (f : BitVec 40) (s : State) (hk : Stays true s0 s) : StaysOut true s0 (execSmrg t f s) :=
  staysOut_next (runInstr_stays _ _ _ _ _ _ hk fun _ _ _ _ h => mergeRuns_stays _ _ _ _ _ h)

theorem execSdlv_stays {s0 : State} (t : Fin 64) (f : BitVec 40) (s : State) (hk : Stays wr s0 s) : StaysOut wr s0 (execSdlv t f s) :=
  staysOut_next (runInstr_stays _ _ _ _ _ _ hk fun _ _ _ _ h => deliverRun_stays _ _ _ _ _ h)

theorem openSelTarget_stays {s0 : State} (s : State) (e : WorkEntry) (img : Image) (c : Ctx) (sel : Nat) (k : Effect)
    (hs : Stays wr s0 s) (hk : StaysEff wr s0 k) : StaysEff wr s0 (openSelTarget s e img c sel k) := by
  unfold openSelTarget
  split
  · exact hk
  · exact openSel_stays _ _ _ _ _ _ _ _ hs hk

theorem handOff_stays {s0 : State} (t : Fin 64) (f : BitVec 40) (s : State) (c : Ctx) (e : WorkEntry) (img : Image) (hk : Stays wr s0 s) : StaysEff wr s0 (handOff t f s c e img) := by
  unfold handOff
  dsimp only
  repeat' first | (with_reducible first | assumption | apply withRegion_stays | apply stepOn_stays | apply openSelTarget_stays | apply State.updEntry_stays | apply State.fresh_stays | apply State.setTile_stays | apply State.appendHead_stays | apply staysEff_done | apply staysEff_trap | apply staysEff_wait | apply staysEff_fail | exact staysEff_stall) | split

theorem execChand_stays {s0 : State} (t : Fin 64) (f : BitVec 40) (s : State) (hk : Stays wr s0 s) : StaysOut wr s0 (execChand t f s) :=
  staysOut_next (runInstr_stays _ _ _ _ _ _ hk fun _ _ _ _ h => handOff_stays _ _ _ _ _ _ h)

/-! ### Address -/

theorem branch_stays {s0 : State} (t : Fin 64) (op : BitVec 8) (f : BitVec 40) (wellFormed : Bool) (taken : Ctx → Bool) (s : State) (hk : Stays wr s0 s) : Stays wr s0 (branch t op f wellFormed taken s) := by
  unfold branch
  try dsimp only
  repeat' first | intro _ | (with_reducible first | assumption | apply runInstr_stays | apply branchTo_stays | apply stepOn_stays | apply staysEff_done | apply staysEff_trap | apply staysEff_wait | apply staysEff_fail | exact staysEff_stall | apply stays_foldl) | split

theorem simple_stays {s0 : State} (t : Fin 64) (op : BitVec 8) (f : BitVec 40) (wellFormed : Bool) (sem : Ctx → Ctx) (s : State) (hk : Stays wr s0 s) : Stays wr s0 (simple t op f wellFormed sem s) := by
  unfold simple
  try dsimp only
  repeat' first | intro _ | (with_reducible first | assumption | apply runInstr_stays | apply stepOn_stays | apply staysEff_done | apply staysEff_trap | apply staysEff_wait | apply staysEff_fail | exact staysEff_stall | apply stays_foldl) | split

theorem execMova_stays {s0 : State} (t : Fin 64) (f : BitVec 40) (s : State) (hk : Stays wr s0 s) : StaysOut wr s0 (execMova t f s) :=
  staysOut_next (simple_stays _ _ _ _ _ _ hk)

theorem execMovi_stays {s0 : State} (t : Fin 64) (f : BitVec 40) (s : State) (hk : Stays wr s0 s) : StaysOut wr s0 (execMovi t f s) :=
  staysOut_next (simple_stays _ _ _ _ _ _ hk)

theorem execMovh_stays {s0 : State} (t : Fin 64) (f : BitVec 40) (s : State) (hk : Stays wr s0 s) : StaysOut wr s0 (execMovh t f s) :=
  staysOut_next (simple_stays _ _ _ _ _ _ hk)

theorem execAdda_stays {s0 : State} (t : Fin 64) (f : BitVec 40) (s : State) (hk : Stays wr s0 s) : StaysOut wr s0 (execAdda t f s) :=
  staysOut_next (simple_stays _ _ _ _ _ _ hk)

theorem execAddai_stays {s0 : State} (t : Fin 64) (f : BitVec 40) (s : State) (hk : Stays wr s0 s) : StaysOut wr s0 (execAddai t f s) :=
  staysOut_next (simple_stays _ _ _ _ _ _ hk)

theorem execSuba_stays {s0 : State} (t : Fin 64) (f : BitVec 40) (s : State) (hk : Stays wr s0 s) : StaysOut wr s0 (execSuba t f s) :=
  staysOut_next (simple_stays _ _ _ _ _ _ hk)

theorem execNega_stays {s0 : State} (t : Fin 64) (f : BitVec 40) (s : State) (hk : Stays wr s0 s) : StaysOut wr s0 (execNega t f s) :=
  staysOut_next (simple_stays _ _ _ _ _ _ hk)

theorem execShla_stays {s0 : State} (t : Fin 64) (f : BitVec 40) (s : State) (hk : Stays wr s0 s) : StaysOut wr s0 (execShla t f s) :=
  staysOut_next (simple_stays _ _ _ _ _ _ hk)

theorem execShra_stays {s0 : State} (t : Fin 64) (f : BitVec 40) (s : State) (hk : Stays wr s0 s) : StaysOut wr s0 (execShra t f s) :=
  staysOut_next (simple_stays _ _ _ _ _ _ hk)

theorem execSara_stays {s0 : State} (t : Fin 64) (f : BitVec 40) (s : State) (hk : Stays wr s0 s) : StaysOut wr s0 (execSara t f s) :=
  staysOut_next (simple_stays _ _ _ _ _ _ hk)

theorem execShlai_stays {s0 : State} (t : Fin 64) (f : BitVec 40) (s : State) (hk : Stays wr s0 s) : StaysOut wr s0 (execShlai t f s) :=
  staysOut_next (simple_stays _ _ _ _ _ _ hk)

theorem execShrai_stays {s0 : State} (t : Fin 64) (f : BitVec 40) (s : State) (hk : Stays wr s0 s) : StaysOut wr s0 (execShrai t f s) :=
  staysOut_next (simple_stays _ _ _ _ _ _ hk)

theorem execSarai_stays {s0 : State} (t : Fin 64) (f : BitVec 40) (s : State) (hk : Stays wr s0 s) : StaysOut wr s0 (execSarai t f s) :=
  staysOut_next (simple_stays _ _ _ _ _ _ hk)

theorem execBra_stays {s0 : State} (t : Fin 64) (f : BitVec 40) (s : State) (hk : Stays wr s0 s) : StaysOut wr s0 (execBra t f s) :=
  staysOut_next (branch_stays _ _ _ _ _ _ hk)

theorem execBrai_stays {s0 : State} (t : Fin 64) (f : BitVec 40) (s : State) (hk : Stays wr s0 s) : StaysOut wr s0 (execBrai t f s) :=
  staysOut_next (branch_stays _ _ _ _ _ _ hk)

theorem execJmp_stays {s0 : State} (t : Fin 64) (f : BitVec 40) (s : State) (hk : Stays wr s0 s) : StaysOut wr s0 (execJmp t f s) :=
  staysOut_next (branch_stays _ _ _ _ _ _ hk)

theorem execCall_stays {s0 : State} (t : Fin 64) (f : BitVec 40) (s : State) (hk : Stays wr s0 s) : StaysOut wr s0 (execCall t f s) :=
  staysOut_next (runInstr_stays _ _ _ _ _ _ hk fun _ _ _ _ h => branchTo_stays _ _ _ _ h)

theorem execJmpr_stays {s0 : State} (t : Fin 64) (f : BitVec 40) (s : State) (hk : Stays wr s0 s) : StaysOut wr s0 (execJmpr t f s) := by
  refine staysOut_next ?_
  try dsimp only
  repeat' first | intro _ | (with_reducible first | assumption | apply runInstr_stays | apply branchTo_stays | apply staysEff_done | apply staysEff_trap | apply staysEff_wait | apply staysEff_fail | exact staysEff_stall | apply stays_foldl) | split

theorem execFtime_stays {s0 : State} (t : Fin 64) (f : BitVec 40) (s : State) (hk : Stays wr s0 s) : StaysOut wr s0 (execFtime t f s) :=
  staysOut_next (runInstr_stays _ _ _ _ _ _ hk fun _ _ _ _ h => stepOn_stays _ _ h)

/-! ### BlockRepeat -/

theorem decodeTrap_stays {s0 : State} (status : Nat) (addr : Word) (s : State) (c : Ctx) (hk : Stays wr s0 s) : StaysEff wr s0 (decodeTrap status addr s c) := by
  unfold decodeTrap
  repeat' first | (with_reducible first | assumption | apply staysEff_done | apply staysEff_trap | apply staysEff_wait | apply staysEff_fail | exact staysEff_stall) | split

theorem endRepeat_stays {s0 : State} (x : Effect) (hk : StaysEff wr s0 x) : StaysEff wr s0 (endRepeat x) := by
  unfold endRepeat
  split
  · exact staysEff_done (hk.keep _ rfl)
  · exact staysEff_trap (hk.keep _ rfl)
  · exact hk

theorem repeatLoop_stays {s0 : State} (one : State → Ctx → (State × Ctx) ⊕ Effect) (n : Nat) (s : State) (c : Ctx) (hk : Stays wr s0 s)
    (h : ∀ u d, Stays wr s0 u → StaysS wr s0 (one u d)) : StaysEff wr s0 (repeatLoop one n s c) := by
  induction n generalizing s c with
  | zero => exact stepOn_stays _ _ hk
  | succ n ih =>
    unfold repeatLoop
    split
    · exact ih _ _ ((h s c hk).goes _ ‹_›)
    · exact (h s c hk).ends _ ‹_›

theorem repeatRun_stays {s0 : State} (one : State → Ctx → (State × Ctx) ⊕ Effect) (limit : Nat) (s : State) (c : Ctx) (hk : Stays wr s0 s)
    (h : ∀ u d, Stays wr s0 u → StaysS wr s0 (one u d)) : StaysEff wr s0 (repeatRun one limit s c) :=
  endRepeat_stays _ (repeatLoop_stays _ _ _ _ hk h)

theorem lgetOne_stays {s0 : State} (f : BitVec 40) (e : WorkEntry) (img : Image) (s : State) (c : Ctx) (hk : Stays wr s0 s) : StaysS wr s0 (lgetOne f e img s c) := by
  unfold lgetOne
  try dsimp only
  repeat' first | intro _ | (with_reducible first | assumption | apply stepOn_stays | apply scratchTrap_stays | apply segTrap_stays | apply withLines_stays | apply stays_foldl | apply stays_foldl_fst | apply stays_foldl_snd | apply staysEff_done | apply staysEff_trap | apply staysEff_wait | apply staysEff_fail | exact staysEff_stall | apply stays_foldl_Eff | apply staysS_inl | apply staysS_inr) | (simp only [stays_mk]; refine stays_upd ?_) | split | (with_reducible first | refine stays_fst ‹_ = (_, _)› ?_ | refine stays_snd ‹_ = (_, _)› ?_ | refine stays_ok ‹_ = Except.ok _› ?_ | refine stays_some ‹_ = some _› ?_ | refine stays_someC ‹_ = some (_, _)› ?_ | refine stays_inl ‹_ = Sum.inl _› ?_ | refine stays_inr ‹_ = Sum.inr _› ?_ | exact StaysE.keep ‹StaysE wr _ (Except.ok _)› _ rfl | exact StaysO.keep ‹StaysO wr _ (some _)› _ rfl | exact StaysC.keep ‹StaysC wr _ (some _)› _ rfl | exact StaysEff.keep ‹StaysEff wr _ (Effect.done _ _)› _ rfl | refine stays_of_done ‹_ = Effect.done _ _› ?_)

theorem execLget_stays {s0 : State} (t : Fin 64) (f : BitVec 40) (s : State) (hk : Stays wr s0 s) : StaysOut wr s0 (execLget t f s) := by
  refine staysOut_next ?_
  try dsimp only
  repeat' first | intro _ | (with_reducible first | assumption | apply runInstr_stays | apply repeatRun_stays | apply lgetOne_stays | apply staysEff_done | apply staysEff_trap | apply staysEff_wait | apply staysEff_fail | exact staysEff_stall | apply stays_foldl) | split

theorem lputOne_stays {s0 : State} (f : BitVec 40) (e : WorkEntry) (img : Image) (s : State) (c : Ctx) (hk : Stays true s0 s) : StaysS true s0 (lputOne f e img s c) := by
  unfold lputOne
  try dsimp only
  repeat' first | intro _ | (with_reducible first | assumption | apply stepOn_stays | apply scratchTrap_stays | apply segTrap_stays | apply withStores_stays | apply stays_foldl | apply stays_foldl_fst | apply stays_foldl_snd | apply staysEff_done | apply staysEff_trap | apply staysEff_wait | apply staysEff_fail | exact staysEff_stall | apply stays_foldl_Eff | apply staysS_inl | apply staysS_inr) | (simp only [stays_mkStore]; refine stays_updStore ?_) | split | (with_reducible first | refine stays_fst ‹_ = (_, _)› ?_ | refine stays_snd ‹_ = (_, _)› ?_ | refine stays_ok ‹_ = Except.ok _› ?_ | refine stays_some ‹_ = some _› ?_ | refine stays_someC ‹_ = some (_, _)› ?_ | refine stays_inl ‹_ = Sum.inl _› ?_ | refine stays_inr ‹_ = Sum.inr _› ?_ | exact StaysE.keep ‹StaysE true _ (Except.ok _)› _ rfl | exact StaysO.keep ‹StaysO true _ (some _)› _ rfl | exact StaysC.keep ‹StaysC true _ (some _)› _ rfl | exact StaysEff.keep ‹StaysEff true _ (Effect.done _ _)› _ rfl | refine stays_of_done ‹_ = Effect.done _ _› ?_)

theorem execLput_stays {s0 : State} (t : Fin 64) (f : BitVec 40) (s : State) (hk : Stays true s0 s) : StaysOut true s0 (execLput t f s) := by
  refine staysOut_next ?_
  try dsimp only
  repeat' first | intro _ | (with_reducible first | assumption | apply runInstr_stays | apply repeatRun_stays | apply lputOne_stays | apply staysEff_done | apply staysEff_trap | apply staysEff_wait | apply staysEff_fail | exact staysEff_stall | apply stays_foldl) | split

theorem pfillOne_stays {s0 : State} (f : BitVec 40) (s : State) (c : Ctx) (hk : Stays wr s0 s) : StaysS wr s0 (pfillOne f s c) := by
  unfold pfillOne
  dsimp only
  repeat' first | (with_reducible first | assumption | apply stepOn_stays | apply scratchTrap_stays | apply staysEff_done | apply staysEff_trap | apply staysEff_wait | apply staysEff_fail | exact staysEff_stall | apply staysS_inl | apply staysS_inr) | split

theorem execPfill_stays {s0 : State} (t : Fin 64) (f : BitVec 40) (s : State) (hk : Stays wr s0 s) : StaysOut wr s0 (execPfill t f s) := by
  refine staysOut_next ?_
  try dsimp only
  repeat' first | intro _ | (with_reducible first | assumption | apply runInstr_stays | apply repeatRun_stays | apply pfillOne_stays | apply staysEff_done | apply staysEff_trap | apply staysEff_wait | apply staysEff_fail | exact staysEff_stall | apply stays_foldl) | split

theorem wcmpOne_stays {s0 : State} (f : BitVec 40) (s : State) (c : Ctx) (hk : Stays wr s0 s) : StaysS wr s0 (wcmpOne f s c) := by
  unfold wcmpOne
  dsimp only
  repeat' first | (with_reducible first | assumption | apply scratchTrap_stays | apply stepOn_stays | apply staysEff_done | apply staysEff_trap | apply staysEff_wait | apply staysEff_fail | exact staysEff_stall | apply staysS_inl | apply staysS_inr) | split

theorem execWcmp_stays {s0 : State} (t : Fin 64) (f : BitVec 40) (s : State) (hk : Stays wr s0 s) : StaysOut wr s0 (execWcmp t f s) := by
  refine staysOut_next ?_
  try dsimp only
  repeat' first | intro _ | (with_reducible first | assumption | apply runInstr_stays | apply stepOn_stays | apply repeatRun_stays | apply wcmpOne_stays | apply staysEff_done | apply staysEff_trap | apply staysEff_wait | apply staysEff_fail | exact staysEff_stall | apply stays_foldl) | split

theorem scanLines_stays {s0 : State} (e : WorkEntry) (img : Image) (lines : List Word) (s : State) (c : Ctx) (k : State → Effect)
    (hk : Stays wr s0 s) (h : ∀ u, Stays wr s0 u → StaysEff wr s0 (k u)) : StaysEff wr s0 (scanLines e img lines s c k) := by
  unfold scanLines
  split
  · exact segTrap_stays _ _ _ _ _ _ hk
  · exact withLines_stays _ _ _ _ _ hk h

theorem scanGroups_stays {s0 : State} (form : ScanForm) (f : BitVec 40) (e : WorkEntry) (img : Image) (ab : Word) (so : Nat) (slotMa : Nat) (h : PccHeader) (a8 : Nat) (a9 : Nat) (a10 : Nat) (a11 : Word) (a12 : Word) (a13 : State) (a14 : Ctx) (hk : Stays wr s0 a13) : StaysEff wr s0 (scanGroups form f e img ab so slotMa h a8 a9 a10 a11 a12 a13 a14) := by
  induction a8 generalizing a9 a10 a11 a12 a13 a14 with
  | zero =>
    unfold scanGroups
    try dsimp only
    repeat' first | intro _ | (with_reducible first | assumption | apply stepOn_stays | apply scratchTrap_stays | apply scanLines_stays | apply decodeTrap_stays | apply stays_foldl | apply stays_foldl_fst | apply stays_foldl_snd | apply staysEff_done | apply staysEff_trap | apply staysEff_wait | apply staysEff_fail | exact staysEff_stall | apply stays_foldl_Eff) | (simp only [stays_mk]; refine stays_upd ?_) | split | (with_reducible first | refine stays_fst ‹_ = (_, _)› ?_ | refine stays_snd ‹_ = (_, _)› ?_ | refine stays_ok ‹_ = Except.ok _› ?_ | refine stays_some ‹_ = some _› ?_ | refine stays_someC ‹_ = some (_, _)› ?_ | refine stays_inl ‹_ = Sum.inl _› ?_ | refine stays_inr ‹_ = Sum.inr _› ?_ | exact StaysE.keep ‹StaysE wr _ (Except.ok _)› _ rfl | exact StaysO.keep ‹StaysO wr _ (some _)› _ rfl | exact StaysC.keep ‹StaysC wr _ (some _)› _ rfl | exact StaysEff.keep ‹StaysEff wr _ (Effect.done _ _)› _ rfl | refine stays_of_done ‹_ = Effect.done _ _› ?_)
  | succ n ih =>
    unfold scanGroups
    try dsimp only
    repeat' first | intro _ | (with_reducible first | assumption | apply ih | apply stepOn_stays | apply scratchTrap_stays | apply scanLines_stays | apply decodeTrap_stays | apply stays_foldl | apply stays_foldl_fst | apply stays_foldl_snd | apply staysEff_done | apply staysEff_trap | apply staysEff_wait | apply staysEff_fail | exact staysEff_stall | apply stays_foldl_Eff) | (simp only [stays_mk]; refine stays_upd ?_) | split | (with_reducible first | refine stays_fst ‹_ = (_, _)› ?_ | refine stays_snd ‹_ = (_, _)› ?_ | refine stays_ok ‹_ = Except.ok _› ?_ | refine stays_some ‹_ = some _› ?_ | refine stays_someC ‹_ = some (_, _)› ?_ | refine stays_inl ‹_ = Sum.inl _› ?_ | refine stays_inr ‹_ = Sum.inr _› ?_ | exact StaysE.keep ‹StaysE wr _ (Except.ok _)› _ rfl | exact StaysO.keep ‹StaysO wr _ (some _)› _ rfl | exact StaysC.keep ‹StaysC wr _ (some _)› _ rfl | exact StaysEff.keep ‹StaysEff wr _ (Effect.done _ _)› _ rfl | refine stays_of_done ‹_ = Effect.done _ _› ?_)

theorem scanBlock_stays {s0 : State} (form : ScanForm) (f : BitVec 40) (s : State) (c : Ctx) (e : WorkEntry) (img : Image) (hk : Stays wr s0 s) : StaysEff wr s0 (scanBlock form f s c e img) := by
  unfold scanBlock
  try dsimp only
  repeat' first | intro _ | (with_reducible first | assumption | apply segTrap_stays | apply scanLines_stays | apply decodeTrap_stays | apply scanGroups_stays | apply stays_foldl | apply stays_foldl_fst | apply stays_foldl_snd | apply staysEff_done | apply staysEff_trap | apply staysEff_wait | apply staysEff_fail | exact staysEff_stall | apply stays_foldl_Eff) | (simp only [stays_mk]; refine stays_upd ?_) | split | (with_reducible first | refine stays_fst ‹_ = (_, _)› ?_ | refine stays_snd ‹_ = (_, _)› ?_ | refine stays_ok ‹_ = Except.ok _› ?_ | refine stays_some ‹_ = some _› ?_ | refine stays_someC ‹_ = some (_, _)› ?_ | refine stays_inl ‹_ = Sum.inl _› ?_ | refine stays_inr ‹_ = Sum.inr _› ?_ | exact StaysE.keep ‹StaysE wr _ (Except.ok _)› _ rfl | exact StaysO.keep ‹StaysO wr _ (some _)› _ rfl | exact StaysC.keep ‹StaysC wr _ (some _)› _ rfl | exact StaysEff.keep ‹StaysEff wr _ (Effect.done _ _)› _ rfl | refine stays_of_done ‹_ = Effect.done _ _› ?_)

theorem execDscan_stays {s0 : State} (t : Fin 64) (f : BitVec 40) (s : State) (hk : Stays wr s0 s) : StaysOut wr s0 (execDscan t f s) :=
  staysOut_next (runInstr_stays _ _ _ _ _ _ hk fun _ _ _ _ h => scanBlock_stays _ _ _ _ _ _ h)

theorem execDscanf_stays {s0 : State} (t : Fin 64) (f : BitVec 40) (s : State) (hk : Stays wr s0 s) : StaysOut wr s0 (execDscanf t f s) :=
  staysOut_next (runInstr_stays _ _ _ _ _ _ hk fun _ _ _ _ h => scanBlock_stays _ _ _ _ _ _ h)

theorem execDscann_stays {s0 : State} (t : Fin 64) (f : BitVec 40) (s : State) (hk : Stays wr s0 s) : StaysOut wr s0 (execDscann t f s) :=
  staysOut_next (runInstr_stays _ _ _ _ _ _ hk fun _ _ _ _ h => scanBlock_stays _ _ _ _ _ _ h)

/-! ### Accumulator -/

theorem emulated_stays {s0 : State} (t : Fin 64) (op : BitVec 8) (f : BitVec 40) (wellFormed : Bool) (sem : Ctx → Ctx) (s : State) (hk : Stays wr s0 s) : Stays wr s0 (emulated t op f wellFormed sem s) := by
  unfold emulated
  repeat' first | (with_reducible first | assumption | apply State.yieldTile_stays | apply State.takeTrap_stays | apply State.tileFail_stays | apply State.setHead_stays) | split

theorem execXadd_stays {s0 : State} (t : Fin 64) (f : BitVec 40) (s : State) (hk : Stays wr s0 s) : StaysOut wr s0 (execXadd t f s) :=
  staysOut_next (simple_stays _ _ _ _ _ _ hk)

theorem execXaddu_stays {s0 : State} (t : Fin 64) (f : BitVec 40) (s : State) (hk : Stays wr s0 s) : StaysOut wr s0 (execXaddu t f s) :=
  staysOut_next (simple_stays _ _ _ _ _ _ hk)

theorem execXmac_stays {s0 : State} (t : Fin 64) (f : BitVec 40) (s : State) (hk : Stays wr s0 s) : StaysOut wr s0 (execXmac t f s) :=
  staysOut_next (simple_stays _ _ _ _ _ _ hk)

theorem execXmacu_stays {s0 : State} (t : Fin 64) (f : BitVec 40) (s : State) (hk : Stays wr s0 s) : StaysOut wr s0 (execXmacu t f s) :=
  staysOut_next (simple_stays _ _ _ _ _ _ hk)

theorem execXmin_stays {s0 : State} (t : Fin 64) (f : BitVec 40) (s : State) (hk : Stays wr s0 s) : StaysOut wr s0 (execXmin t f s) :=
  staysOut_next (simple_stays _ _ _ _ _ _ hk)

theorem execXmax_stays {s0 : State} (t : Fin 64) (f : BitVec 40) (s : State) (hk : Stays wr s0 s) : StaysOut wr s0 (execXmax t f s) :=
  staysOut_next (simple_stays _ _ _ _ _ _ hk)

theorem execXcnt_stays {s0 : State} (t : Fin 64) (f : BitVec 40) (s : State) (hk : Stays wr s0 s) : StaysOut wr s0 (execXcnt t f s) :=
  staysOut_next (simple_stays _ _ _ _ _ _ hk)

theorem execXfromd_stays {s0 : State} (t : Fin 64) (f : BitVec 40) (s : State) (hk : Stays wr s0 s) : StaysOut wr s0 (execXfromd t f s) :=
  staysOut_next (simple_stays _ _ _ _ _ _ hk)

theorem execXtod_stays {s0 : State} (t : Fin 64) (f : BitVec 40) (s : State) (hk : Stays wr s0 s) : StaysOut wr s0 (execXtod t f s) :=
  staysOut_next (simple_stays _ _ _ _ _ _ hk)

theorem execDivx_stays {s0 : State} (t : Fin 64) (f : BitVec 40) (s : State) (hk : Stays wr s0 s) : StaysOut wr s0 (execDivx t f s) :=
  staysOut_next (emulated_stays _ _ _ _ _ _ hk)

theorem execDivxu_stays {s0 : State} (t : Fin 64) (f : BitVec 40) (s : State) (hk : Stays wr s0 s) : StaysOut wr s0 (execDivxu t f s) :=
  staysOut_next (emulated_stays _ _ _ _ _ _ hk)

theorem execRscl_stays {s0 : State} (t : Fin 64) (f : BitVec 40) (s : State) (hk : Stays wr s0 s) : StaysOut wr s0 (execRscl t f s) :=
  staysOut_next (emulated_stays _ _ _ _ _ _ hk)

theorem execRsclx_stays {s0 : State} (t : Fin 64) (f : BitVec 40) (s : State) (hk : Stays wr s0 s) : StaysOut wr s0 (execRsclx t f s) :=
  staysOut_next (emulated_stays _ _ _ _ _ _ hk)

/-! ### Control -/

theorem quotaPoint_stays {s0 : State} (s : State) (t : Fin 64) (c : Ctx) (e : WorkEntry) (beats : Nat) (records : Nat) (hk : Stays wr s0 s) : StaysC wr s0 (quotaPoint s t c e beats records) := by
  unfold quotaPoint
  dsimp only
  repeat' first | (with_reducible first | assumption | apply State.setTile_stays | apply staysC_some | exact staysC_none) | split

theorem flushGroup_stays {s0 : State} (t : Fin 64) (op : Nat) (s : State) (c : Ctx) (hk : Stays wr s0 s) :
    Stays wr s0 (flushGroup t op s c).1 := by
  unfold flushGroup
  split
  · exact hk
  · rename_i g r _
    cases h : issueRecord t op (.group g) (some (s, c.setLocal op r)) with
    | none => exact hk
    | some p => exact (issueRecord_stays t _ _ _ (staysC_some (p := (_, _)) hk)).keep _ h

theorem flushLocals_stays {s0 : State} (t : Fin 64) (e : WorkEntry) (n : Nat) (s : State) (c : Ctx) (hk : Stays wr s0 s) :
    Stays wr s0 (flushLocals t e n s c).1 := by
  induction n generalizing s c with
  | zero => exact hk
  | succ n ih =>
    unfold flushLocals
    split
    · exact hk
    · split
      · exact hk
      · rename_i s1 c1 hq
        exact ih _ _ (flushGroup_stays _ _ _ _ ((quotaPoint_stays s t c e 1 1 hk).keep _ hq))

theorem finishPart_stays {s0 : State} (s : State) (t : Fin 64) (c : Ctx) (hk : Stays wr s0 s) : Stays wr s0 (finishPart s t c) := by
  unfold finishPart
  repeat' first | (with_reducible first | assumption | apply State.updEntry_stays | apply State.setTile_stays) | split

theorem endInstr_stays {s0 : State} (t : Fin 64) (s : State) (c : Ctx) (e : WorkEntry) (a4 : Image) (hk : Stays wr s0 s) : Stays wr s0 (endInstr t s c e a4) := by
  unfold endInstr
  try dsimp only
  repeat' first | intro _ | (with_reducible first | assumption | apply State.tileFail_stays | apply flushLocals_stays | apply State.yieldTile_stays | apply State.setHead_stays | apply finishPart_stays | apply stays_foldl) | (simp only [stays_mk]; refine stays_upd ?_) | split | with_reducible refine stays_fst ‹_ = (_, _)› ?_

theorem runControl_stays {s0 : State} (t : Fin 64) (w : Word) (reserved : Image → Bool) (sem : State → Ctx → WorkEntry → Image → State)
    (s : State) (hk : Stays wr s0 s) (hs : ∀ u c e img, Stays wr s0 u → Stays wr s0 (sem u c e img)) : Stays wr s0 (runControl t w reserved sem s) := by
  unfold runControl
  split
  · exact hk
  · repeat' split
    · exact State.yieldTile_stays _ _ hk
    · exact State.takeTrap_stays _ _ _ _ _ _ _ _ hk
    · exact hk
    · exact State.takeTrap_stays _ _ _ _ _ _ _ _ hk
    · exact hs _ _ _ _ hk

theorem quotaInstr_stays {s0 : State} (t : Fin 64) (f : BitVec 40) (s : State) (c : Ctx) (e : WorkEntry) (img : Image) (hk : Stays wr s0 s) : Stays wr s0 (quotaInstr t f s c e img) := by
  unfold quotaInstr
  try dsimp only
  repeat' first | intro _ | (with_reducible first | assumption | apply State.tileFail_stays | apply State.yieldTile_stays | apply State.takeTrap_stays | apply State.tileWaits_stays | apply quotaPoint_stays | apply flushGroup_stays | apply State.setHead_stays | apply stays_foldl) | (simp only [stays_mk]; refine stays_upd ?_) | split | with_reducible refine stays_someC ‹_ = some (_, _)› ?_

theorem execQpt_stays {s0 : State} (t : Fin 64) (f : BitVec 40) (s : State) (hk : Stays wr s0 s) : StaysOut wr s0 (execQpt t f s) := by
  refine staysOut_next ?_
  repeat' first | (with_reducible first | assumption | apply runControl_stays | apply quotaInstr_stays) | split

theorem execEndStage_stays {s0 : State} (t : Fin 64) (f : BitVec 40) (s : State) (hk : Stays wr s0 s) : StaysOut wr s0 (execEndStage t f s) := by
  refine staysOut_next ?_
  repeat' first | (with_reducible first | assumption | apply runControl_stays | apply endInstr_stays) | split

theorem execNop_stays {s0 : State} (t : Fin 64) (f : BitVec 40) (s : State) (hk : Stays wr s0 s) : StaysOut wr s0 (execNop t f s) :=
  staysOut_next (runInstr_stays _ _ _ _ _ _ hk fun _ _ _ _ h => stepOn_stays _ _ h)

theorem execBrk_stays {s0 : State} (t : Fin 64) (f : BitVec 40) (s : State) (hk : Stays wr s0 s) : StaysOut wr s0 (execBrk t f s) := by
  refine staysOut_next ?_
  try dsimp only
  repeat' first | intro _ | (with_reducible first | assumption | apply runInstr_stays | apply stepOn_stays | apply staysEff_done | apply staysEff_trap | apply staysEff_wait | apply staysEff_fail | exact staysEff_stall | apply stays_foldl) | split

theorem withTrap_stays {s0 : State} (c : Ctx) (k : TrapRegs → Effect) (h : ∀ r, StaysEff wr s0 (k r)) : StaysEff wr s0 (withTrap c k) := by
  unfold withTrap
  split
  · exact h _
  · exact staysEff_stall

theorem execTget_stays {s0 : State} (t : Fin 64) (f : BitVec 40) (s : State) (hk : Stays wr s0 s) : StaysOut wr s0 (execTget t f s) := by
  refine staysOut_next ?_
  try dsimp only
  repeat' first | intro _ | (with_reducible first | assumption | apply runInstr_stays | apply withTrap_stays | apply stepOn_stays | apply staysEff_done | apply staysEff_trap | apply staysEff_wait | apply staysEff_fail | exact staysEff_stall | apply stays_foldl) | split

theorem execTxa_stays {s0 : State} (t : Fin 64) (f : BitVec 40) (s : State) (hk : Stays wr s0 s) : StaysOut wr s0 (execTxa t f s) := by
  refine staysOut_next ?_
  try dsimp only
  repeat' first | intro _ | (with_reducible first | assumption | apply runInstr_stays | apply withTrap_stays | apply stepOn_stays | apply staysEff_done | apply staysEff_trap | apply staysEff_wait | apply staysEff_fail | exact staysEff_stall | apply stays_foldl) | split

theorem execTxd_stays {s0 : State} (t : Fin 64) (f : BitVec 40) (s : State) (hk : Stays wr s0 s) : StaysOut wr s0 (execTxd t f s) := by
  refine staysOut_next ?_
  try dsimp only
  repeat' first | intro _ | (with_reducible first | assumption | apply runInstr_stays | apply withTrap_stays | apply stepOn_stays | apply staysEff_done | apply staysEff_trap | apply staysEff_wait | apply staysEff_fail | exact staysEff_stall | apply stays_foldl) | split

theorem execTretry_stays {s0 : State} (t : Fin 64) (f : BitVec 40) (s : State) (hk : Stays wr s0 s) : StaysOut wr s0 (execTretry t f s) := by
  refine staysOut_next ?_
  try dsimp only
  repeat' first | intro _ | (with_reducible first | assumption | apply runInstr_stays | apply withTrap_stays | apply staysEff_done | apply staysEff_trap | apply staysEff_wait | apply staysEff_fail | exact staysEff_stall | apply stays_foldl) | split

theorem execTskip_stays {s0 : State} (t : Fin 64) (f : BitVec 40) (s : State) (hk : Stays wr s0 s) : StaysOut wr s0 (execTskip t f s) := by
  refine staysOut_next ?_
  try dsimp only
  repeat' first | intro _ | (with_reducible first | assumption | apply runInstr_stays | apply withTrap_stays | apply staysEff_done | apply staysEff_trap | apply staysEff_wait | apply staysEff_fail | exact staysEff_stall | apply stays_foldl) | split

theorem execTend_stays {s0 : State} (t : Fin 64) (f : BitVec 40) (s : State) (hk : Stays wr s0 s) : StaysOut wr s0 (execTend t f s) := by
  refine staysOut_next ?_
  try dsimp only
  repeat' first | intro _ | (with_reducible first | assumption | apply runInstr_stays | apply withTrap_stays | apply staysEff_done | apply staysEff_trap | apply staysEff_wait | apply staysEff_fail | exact staysEff_stall | apply stays_foldl) | split

theorem execUndefinedOpcode_stays {s0 : State} (t : Fin 64) (w : Word) (s : State) (hk : Stays wr s0 s) : StaysOut wr s0 (execUndefinedOpcode t w s) := by
  refine staysOut_next ?_
  try dsimp only
  repeat' first | intro _ | (with_reducible first | assumption | apply runInstr_stays | apply staysEff_done | apply staysEff_trap | apply staysEff_wait | apply staysEff_fail | exact staysEff_stall | apply stays_foldl) | split

theorem execUnitResultArrival_stays {s0 : State} (t : Fin 64) (n : Nat) (s : State) (hk : Stays wr s0 s) : StaysOut wr s0 (execUnitResultArrival t n s) := by
  refine staysOut_next ?_
  repeat' first | (with_reducible first | assumption | apply State.setHead_stays) | split

/-! ### DataClass -/

theorem execMovd_stays {s0 : State} (t : Fin 64) (f : BitVec 40) (s : State) (hk : Stays wr s0 s) : StaysOut wr s0 (execMovd t f s) :=
  staysOut_next (simple_stays _ _ _ _ _ _ hk)

theorem execMovdi_stays {s0 : State} (t : Fin 64) (f : BitVec 40) (s : State) (hk : Stays wr s0 s) : StaysOut wr s0 (execMovdi t f s) :=
  staysOut_next (simple_stays _ _ _ _ _ _ hk)

theorem execBcst_stays {s0 : State} (t : Fin 64) (f : BitVec 40) (s : State) (hk : Stays wr s0 s) : StaysOut wr s0 (execBcst t f s) :=
  staysOut_next (simple_stays _ _ _ _ _ _ hk)

theorem execMovad_stays {s0 : State} (t : Fin 64) (f : BitVec 40) (s : State) (hk : Stays wr s0 s) : StaysOut wr s0 (execMovad t f s) :=
  staysOut_next (simple_stays _ _ _ _ _ _ hk)

theorem execPerm_stays {s0 : State} (t : Fin 64) (f : BitVec 40) (s : State) (hk : Stays wr s0 s) : StaysOut wr s0 (execPerm t f s) :=
  staysOut_next (simple_stays _ _ _ _ _ _ hk)

theorem execGets_stays {s0 : State} (t : Fin 64) (f : BitVec 40) (s : State) (hk : Stays wr s0 s) : StaysOut wr s0 (execGets t f s) :=
  staysOut_next (simple_stays _ _ _ _ _ _ hk)

theorem execPuts_stays {s0 : State} (t : Fin 64) (f : BitVec 40) (s : State) (hk : Stays wr s0 s) : StaysOut wr s0 (execPuts t f s) :=
  staysOut_next (simple_stays _ _ _ _ _ _ hk)

theorem execClrs_stays {s0 : State} (t : Fin 64) (f : BitVec 40) (s : State) (hk : Stays wr s0 s) : StaysOut wr s0 (execClrs t f s) :=
  staysOut_next (simple_stays _ _ _ _ _ _ hk)

theorem execAdd_stays {s0 : State} (t : Fin 64) (f : BitVec 40) (s : State) (hk : Stays wr s0 s) : StaysOut wr s0 (execAdd t f s) :=
  staysOut_next (simple_stays _ _ _ _ _ _ hk)

theorem execAddi_stays {s0 : State} (t : Fin 64) (f : BitVec 40) (s : State) (hk : Stays wr s0 s) : StaysOut wr s0 (execAddi t f s) :=
  staysOut_next (simple_stays _ _ _ _ _ _ hk)

theorem execAdc_stays {s0 : State} (t : Fin 64) (f : BitVec 40) (s : State) (hk : Stays wr s0 s) : StaysOut wr s0 (execAdc t f s) :=
  staysOut_next (simple_stays _ _ _ _ _ _ hk)

theorem execSub_stays {s0 : State} (t : Fin 64) (f : BitVec 40) (s : State) (hk : Stays wr s0 s) : StaysOut wr s0 (execSub t f s) :=
  staysOut_next (simple_stays _ _ _ _ _ _ hk)

theorem execSubi_stays {s0 : State} (t : Fin 64) (f : BitVec 40) (s : State) (hk : Stays wr s0 s) : StaysOut wr s0 (execSubi t f s) :=
  staysOut_next (simple_stays _ _ _ _ _ _ hk)

theorem execNeg_stays {s0 : State} (t : Fin 64) (f : BitVec 40) (s : State) (hk : Stays wr s0 s) : StaysOut wr s0 (execNeg t f s) :=
  staysOut_next (simple_stays _ _ _ _ _ _ hk)

theorem execCmp_stays {s0 : State} (t : Fin 64) (f : BitVec 40) (s : State) (hk : Stays wr s0 s) : StaysOut wr s0 (execCmp t f s) :=
  staysOut_next (simple_stays _ _ _ _ _ _ hk)

theorem execCmpi_stays {s0 : State} (t : Fin 64) (f : BitVec 40) (s : State) (hk : Stays wr s0 s) : StaysOut wr s0 (execCmpi t f s) :=
  staysOut_next (simple_stays _ _ _ _ _ _ hk)

theorem execMul_stays {s0 : State} (t : Fin 64) (f : BitVec 40) (s : State) (hk : Stays wr s0 s) : StaysOut wr s0 (execMul t f s) :=
  staysOut_next (simple_stays _ _ _ _ _ _ hk)

theorem execMulu_stays {s0 : State} (t : Fin 64) (f : BitVec 40) (s : State) (hk : Stays wr s0 s) : StaysOut wr s0 (execMulu t f s) :=
  staysOut_next (simple_stays _ _ _ _ _ _ hk)

theorem execMulh_stays {s0 : State} (t : Fin 64) (f : BitVec 40) (s : State) (hk : Stays wr s0 s) : StaysOut wr s0 (execMulh t f s) :=
  staysOut_next (simple_stays _ _ _ _ _ _ hk)

theorem execMulhu_stays {s0 : State} (t : Fin 64) (f : BitVec 40) (s : State) (hk : Stays wr s0 s) : StaysOut wr s0 (execMulhu t f s) :=
  staysOut_next (simple_stays _ _ _ _ _ _ hk)

theorem execDiv_stays {s0 : State} (t : Fin 64) (f : BitVec 40) (s : State) (hk : Stays wr s0 s) : StaysOut wr s0 (execDiv t f s) :=
  staysOut_next (simple_stays _ _ _ _ _ _ hk)

theorem execDivu_stays {s0 : State} (t : Fin 64) (f : BitVec 40) (s : State) (hk : Stays wr s0 s) : StaysOut wr s0 (execDivu t f s) :=
  staysOut_next (simple_stays _ _ _ _ _ _ hk)

theorem execRem_stays {s0 : State} (t : Fin 64) (f : BitVec 40) (s : State) (hk : Stays wr s0 s) : StaysOut wr s0 (execRem t f s) :=
  staysOut_next (simple_stays _ _ _ _ _ _ hk)

theorem execRemu_stays {s0 : State} (t : Fin 64) (f : BitVec 40) (s : State) (hk : Stays wr s0 s) : StaysOut wr s0 (execRemu t f s) :=
  staysOut_next (simple_stays _ _ _ _ _ _ hk)

theorem execAnd_stays {s0 : State} (t : Fin 64) (f : BitVec 40) (s : State) (hk : Stays wr s0 s) : StaysOut wr s0 (execAnd t f s) :=
  staysOut_next (simple_stays _ _ _ _ _ _ hk)

theorem execOr_stays {s0 : State} (t : Fin 64) (f : BitVec 40) (s : State) (hk : Stays wr s0 s) : StaysOut wr s0 (execOr t f s) :=
  staysOut_next (simple_stays _ _ _ _ _ _ hk)

theorem execXor_stays {s0 : State} (t : Fin 64) (f : BitVec 40) (s : State) (hk : Stays wr s0 s) : StaysOut wr s0 (execXor t f s) :=
  staysOut_next (simple_stays _ _ _ _ _ _ hk)

theorem execAndn_stays {s0 : State} (t : Fin 64) (f : BitVec 40) (s : State) (hk : Stays wr s0 s) : StaysOut wr s0 (execAndn t f s) :=
  staysOut_next (simple_stays _ _ _ _ _ _ hk)

theorem execNot_stays {s0 : State} (t : Fin 64) (f : BitVec 40) (s : State) (hk : Stays wr s0 s) : StaysOut wr s0 (execNot t f s) :=
  staysOut_next (simple_stays _ _ _ _ _ _ hk)

theorem execAndi_stays {s0 : State} (t : Fin 64) (f : BitVec 40) (s : State) (hk : Stays wr s0 s) : StaysOut wr s0 (execAndi t f s) :=
  staysOut_next (simple_stays _ _ _ _ _ _ hk)

theorem execOri_stays {s0 : State} (t : Fin 64) (f : BitVec 40) (s : State) (hk : Stays wr s0 s) : StaysOut wr s0 (execOri t f s) :=
  staysOut_next (simple_stays _ _ _ _ _ _ hk)

theorem execXori_stays {s0 : State} (t : Fin 64) (f : BitVec 40) (s : State) (hk : Stays wr s0 s) : StaysOut wr s0 (execXori t f s) :=
  staysOut_next (simple_stays _ _ _ _ _ _ hk)

theorem execShl_stays {s0 : State} (t : Fin 64) (f : BitVec 40) (s : State) (hk : Stays wr s0 s) : StaysOut wr s0 (execShl t f s) :=
  staysOut_next (simple_stays _ _ _ _ _ _ hk)

theorem execShr_stays {s0 : State} (t : Fin 64) (f : BitVec 40) (s : State) (hk : Stays wr s0 s) : StaysOut wr s0 (execShr t f s) :=
  staysOut_next (simple_stays _ _ _ _ _ _ hk)

theorem execSar_stays {s0 : State} (t : Fin 64) (f : BitVec 40) (s : State) (hk : Stays wr s0 s) : StaysOut wr s0 (execSar t f s) :=
  staysOut_next (simple_stays _ _ _ _ _ _ hk)

theorem execRol_stays {s0 : State} (t : Fin 64) (f : BitVec 40) (s : State) (hk : Stays wr s0 s) : StaysOut wr s0 (execRol t f s) :=
  staysOut_next (simple_stays _ _ _ _ _ _ hk)

theorem execRor_stays {s0 : State} (t : Fin 64) (f : BitVec 40) (s : State) (hk : Stays wr s0 s) : StaysOut wr s0 (execRor t f s) :=
  staysOut_next (simple_stays _ _ _ _ _ _ hk)

theorem execShli_stays {s0 : State} (t : Fin 64) (f : BitVec 40) (s : State) (hk : Stays wr s0 s) : StaysOut wr s0 (execShli t f s) :=
  staysOut_next (simple_stays _ _ _ _ _ _ hk)

theorem execShri_stays {s0 : State} (t : Fin 64) (f : BitVec 40) (s : State) (hk : Stays wr s0 s) : StaysOut wr s0 (execShri t f s) :=
  staysOut_next (simple_stays _ _ _ _ _ _ hk)

theorem execSari_stays {s0 : State} (t : Fin 64) (f : BitVec 40) (s : State) (hk : Stays wr s0 s) : StaysOut wr s0 (execSari t f s) :=
  staysOut_next (simple_stays _ _ _ _ _ _ hk)

theorem execRoli_stays {s0 : State} (t : Fin 64) (f : BitVec 40) (s : State) (hk : Stays wr s0 s) : StaysOut wr s0 (execRoli t f s) :=
  staysOut_next (simple_stays _ _ _ _ _ _ hk)

theorem execRori_stays {s0 : State} (t : Fin 64) (f : BitVec 40) (s : State) (hk : Stays wr s0 s) : StaysOut wr s0 (execRori t f s) :=
  staysOut_next (simple_stays _ _ _ _ _ _ hk)

theorem execMin_stays {s0 : State} (t : Fin 64) (f : BitVec 40) (s : State) (hk : Stays wr s0 s) : StaysOut wr s0 (execMin t f s) :=
  staysOut_next (simple_stays _ _ _ _ _ _ hk)

theorem execMax_stays {s0 : State} (t : Fin 64) (f : BitVec 40) (s : State) (hk : Stays wr s0 s) : StaysOut wr s0 (execMax t f s) :=
  staysOut_next (simple_stays _ _ _ _ _ _ hk)

theorem execMinu_stays {s0 : State} (t : Fin 64) (f : BitVec 40) (s : State) (hk : Stays wr s0 s) : StaysOut wr s0 (execMinu t f s) :=
  staysOut_next (simple_stays _ _ _ _ _ _ hk)

theorem execMaxu_stays {s0 : State} (t : Fin 64) (f : BitVec 40) (s : State) (hk : Stays wr s0 s) : StaysOut wr s0 (execMaxu t f s) :=
  staysOut_next (simple_stays _ _ _ _ _ _ hk)

theorem execSel_stays {s0 : State} (t : Fin 64) (f : BitVec 40) (s : State) (hk : Stays wr s0 s) : StaysOut wr s0 (execSel t f s) :=
  staysOut_next (simple_stays _ _ _ _ _ _ hk)

theorem execClz_stays {s0 : State} (t : Fin 64) (f : BitVec 40) (s : State) (hk : Stays wr s0 s) : StaysOut wr s0 (execClz t f s) :=
  staysOut_next (simple_stays _ _ _ _ _ _ hk)

theorem execPopc_stays {s0 : State} (t : Fin 64) (f : BitVec 40) (s : State) (hk : Stays wr s0 s) : StaysOut wr s0 (execPopc t f s) :=
  staysOut_next (simple_stays _ _ _ _ _ _ hk)

theorem execCmpk_stays {s0 : State} (t : Fin 64) (f : BitVec 40) (s : State) (hk : Stays wr s0 s) : StaysOut wr s0 (execCmpk t f s) :=
  staysOut_next (simple_stays _ _ _ _ _ _ hk)

theorem execCmpki_stays {s0 : State} (t : Fin 64) (f : BitVec 40) (s : State) (hk : Stays wr s0 s) : StaysOut wr s0 (execCmpki t f s) :=
  staysOut_next (simple_stays _ _ _ _ _ _ hk)

theorem execKand_stays {s0 : State} (t : Fin 64) (f : BitVec 40) (s : State) (hk : Stays wr s0 s) : StaysOut wr s0 (execKand t f s) :=
  staysOut_next (simple_stays _ _ _ _ _ _ hk)

theorem execKor_stays {s0 : State} (t : Fin 64) (f : BitVec 40) (s : State) (hk : Stays wr s0 s) : StaysOut wr s0 (execKor t f s) :=
  staysOut_next (simple_stays _ _ _ _ _ _ hk)

theorem execKandn_stays {s0 : State} (t : Fin 64) (f : BitVec 40) (s : State) (hk : Stays wr s0 s) : StaysOut wr s0 (execKandn t f s) :=
  staysOut_next (simple_stays _ _ _ _ _ _ hk)

theorem execKxor_stays {s0 : State} (t : Fin 64) (f : BitVec 40) (s : State) (hk : Stays wr s0 s) : StaysOut wr s0 (execKxor t f s) :=
  staysOut_next (simple_stays _ _ _ _ _ _ hk)

theorem execKnot_stays {s0 : State} (t : Fin 64) (f : BitVec 40) (s : State) (hk : Stays wr s0 s) : StaysOut wr s0 (execKnot t f s) :=
  staysOut_next (simple_stays _ _ _ _ _ _ hk)

theorem execKmov_stays {s0 : State} (t : Fin 64) (f : BitVec 40) (s : State) (hk : Stays wr s0 s) : StaysOut wr s0 (execKmov t f s) :=
  staysOut_next (simple_stays _ _ _ _ _ _ hk)

theorem execKset_stays {s0 : State} (t : Fin 64) (f : BitVec 40) (s : State) (hk : Stays wr s0 s) : StaysOut wr s0 (execKset t f s) :=
  staysOut_next (simple_stays _ _ _ _ _ _ hk)

theorem execKget_stays {s0 : State} (t : Fin 64) (f : BitVec 40) (s : State) (hk : Stays wr s0 s) : StaysOut wr s0 (execKget t f s) :=
  staysOut_next (simple_stays _ _ _ _ _ _ hk)

theorem execBrf_stays {s0 : State} (t : Fin 64) (f : BitVec 40) (s : State) (hk : Stays wr s0 s) : StaysOut wr s0 (execBrf t f s) :=
  staysOut_next (branch_stays _ _ _ _ _ _ hk)

/-! ### MemoryInstr -/

theorem loadWord_stays {s0 : State} (f : BitVec 40) (s : State) (c : Ctx) (e : WorkEntry) (img : Image) (hk : Stays wr s0 s) : StaysEff wr s0 (loadWord f s c e img) := by
  unfold loadWord
  try dsimp only
  repeat' first | intro _ | (with_reducible first | assumption | apply segTrap_stays | apply withLines_stays | apply stepOn_stays | apply staysEff_done | apply staysEff_trap | apply staysEff_wait | apply staysEff_fail | exact staysEff_stall | apply stays_foldl) | split

theorem execLdw_stays {s0 : State} (t : Fin 64) (f : BitVec 40) (s : State) (hk : Stays wr s0 s) : StaysOut wr s0 (execLdw t f s) :=
  staysOut_next (runInstr_stays _ _ _ _ _ _ hk fun _ _ _ _ h => loadWord_stays _ _ _ _ _ h)

theorem storeWord_stays {s0 : State} (f : BitVec 40) (s : State) (c : Ctx) (e : WorkEntry) (img : Image) (hk : Stays true s0 s) : StaysEff true s0 (storeWord f s c e img) := by
  unfold storeWord
  try dsimp only
  repeat' first | intro _ | (with_reducible first | assumption | apply segTrap_stays | apply withStores_stays | apply stepOn_stays | apply staysEff_done | apply staysEff_trap | apply staysEff_wait | apply staysEff_fail | exact staysEff_stall | apply stays_foldl) | split

theorem execStw_stays {s0 : State} (t : Fin 64) (f : BitVec 40) (s : State) (hk : Stays true s0 s) : StaysOut true s0 (execStw t f s) :=
  staysOut_next (runInstr_stays _ _ _ _ _ _ hk fun _ _ _ _ h => storeWord_stays _ _ _ _ _ h)

theorem segFail_stays {s0 : State} (k : Nat × Nat) (store : Bool) (ea : Word) (s : State) (c : Ctx) (hk : Stays wr s0 s) : StaysEff wr s0 (segFail k store ea s c) :=
  segTrap_stays _ _ _ _ _ _ hk

theorem loadQuad_stays {s0 : State} (f : BitVec 40) (s : State) (c : Ctx) (e : WorkEntry) (img : Image) (hk : Stays wr s0 s) : StaysEff wr s0 (loadQuad f s c e img) := by
  unfold loadQuad
  try dsimp only
  repeat' first | intro _ | (with_reducible first | assumption | apply stepOn_stays | apply segFail_stays | apply withLines_stays | apply staysEff_done | apply staysEff_trap | apply staysEff_wait | apply staysEff_fail | exact staysEff_stall | apply stays_foldl) | split

theorem execLdq_stays {s0 : State} (t : Fin 64) (f : BitVec 40) (s : State) (hk : Stays wr s0 s) : StaysOut wr s0 (execLdq t f s) :=
  staysOut_next (runInstr_stays _ _ _ _ _ _ hk fun _ _ _ _ h => loadQuad_stays _ _ _ _ _ h)

theorem storeQuad_stays {s0 : State} (f : BitVec 40) (s : State) (c : Ctx) (e : WorkEntry) (img : Image) (hk : Stays true s0 s) : StaysEff true s0 (storeQuad f s c e img) := by
  unfold storeQuad
  try dsimp only
  repeat' first | intro _ | (with_reducible first | assumption | apply stepOn_stays | apply segFail_stays | apply withStores_stays | apply staysEff_done | apply staysEff_trap | apply staysEff_wait | apply staysEff_fail | exact staysEff_stall | apply stays_foldl) | split

theorem execStq_stays {s0 : State} (t : Fin 64) (f : BitVec 40) (s : State) (hk : Stays true s0 s) : StaysOut true s0 (execStq t f s) :=
  staysOut_next (runInstr_stays _ _ _ _ _ _ hk fun _ _ _ _ h => storeQuad_stays _ _ _ _ _ h)

theorem gather_stays {s0 : State} (f : BitVec 40) (s : State) (c : Ctx) (e : WorkEntry) (img : Image) (hk : Stays wr s0 s) : StaysEff wr s0 (gather f s c e img) := by
  unfold gather
  try dsimp only
  repeat' first | intro _ | (with_reducible first | assumption | apply stepOn_stays | apply segTrap_stays | apply withLines_stays | apply staysEff_done | apply staysEff_trap | apply staysEff_wait | apply staysEff_fail | exact staysEff_stall | apply stays_foldl) | split

theorem execGath_stays {s0 : State} (t : Fin 64) (f : BitVec 40) (s : State) (hk : Stays wr s0 s) : StaysOut wr s0 (execGath t f s) :=
  staysOut_next (runInstr_stays _ _ _ _ _ _ hk fun _ _ _ _ h => gather_stays _ _ _ _ _ h)

theorem withScratch_stays {s0 : State} (s : State) (c : Ctx) (store : Bool) (a : Word) (ix : List (Nat × Nat)) (k : Effect) (hk : Stays wr s0 s)
    (h : StaysEff wr s0 k) : StaysEff wr s0 (withScratch s c store a ix k) := by
  unfold withScratch
  split
  · exact scratchTrap_stays _ _ _ _ _ hk
  · split
    · exact staysEff_stall
    · exact h

theorem execLdp_stays {s0 : State} (t : Fin 64) (f : BitVec 40) (s : State) (hk : Stays wr s0 s) : StaysOut wr s0 (execLdp t f s) := by
  refine staysOut_next ?_
  try dsimp only
  repeat' first | intro _ | (with_reducible first | assumption | apply runInstr_stays | apply withScratch_stays | apply stepOn_stays | apply staysEff_done | apply staysEff_trap | apply staysEff_wait | apply staysEff_fail | exact staysEff_stall | apply stays_foldl) | split

theorem execStp_stays {s0 : State} (t : Fin 64) (f : BitVec 40) (s : State) (hk : Stays wr s0 s) : StaysOut wr s0 (execStp t f s) := by
  refine staysOut_next ?_
  try dsimp only
  repeat' first | intro _ | (with_reducible first | assumption | apply runInstr_stays | apply withScratch_stays | apply stepOn_stays | apply staysEff_done | apply staysEff_trap | apply staysEff_wait | apply staysEff_fail | exact staysEff_stall | apply stays_foldl) | split

theorem execLdpq_stays {s0 : State} (t : Fin 64) (f : BitVec 40) (s : State) (hk : Stays wr s0 s) : StaysOut wr s0 (execLdpq t f s) := by
  refine staysOut_next ?_
  try dsimp only
  repeat' first | intro _ | (with_reducible first | assumption | apply runInstr_stays | apply stepOn_stays | apply withScratch_stays | apply staysEff_done | apply staysEff_trap | apply staysEff_wait | apply staysEff_fail | exact staysEff_stall | apply stays_foldl) | split

theorem execStpq_stays {s0 : State} (t : Fin 64) (f : BitVec 40) (s : State) (hk : Stays wr s0 s) : StaysOut wr s0 (execStpq t f s) := by
  refine staysOut_next ?_
  try dsimp only
  repeat' first | intro _ | (with_reducible first | assumption | apply runInstr_stays | apply stepOn_stays | apply withScratch_stays | apply staysEff_done | apply staysEff_trap | apply staysEff_wait | apply staysEff_fail | exact staysEff_stall | apply stays_foldl) | split

theorem execGathp_stays {s0 : State} (t : Fin 64) (f : BitVec 40) (s : State) (hk : Stays wr s0 s) : StaysOut wr s0 (execGathp t f s) := by
  refine staysOut_next ?_
  try dsimp only
  repeat' first | intro _ | (with_reducible first | assumption | apply runInstr_stays | apply stepOn_stays | apply withScratch_stays | apply staysEff_done | apply staysEff_trap | apply staysEff_wait | apply staysEff_fail | exact staysEff_stall | apply stays_foldl) | split

end Sys2Proof.Machine
end

