-- ==== Sys2Proof/Laws/Tile.lean ====
section
/-! SUPPORT. What running one instruction comes to, once per way of running it: the order of the checks is passed here and
nowhere else. -/

namespace Sys2Proof.Machine

variable {s : State} {t : Fin 64} {w : Word} {c : Ctx} {e : WorkEntry} {img : Image}

/-- An instruction whose checks pass has its own effect. -/
theorem runInstr_effect {wh : Where} {reserved : Image → Bool} {sem : State → Ctx → WorkEntry → Image → Effect}
    (h : Runs s t w c e img) (hr : reserved img = false)
    (hw : wh = .anywhere ∨ (wh = .program ∧ c.trap = none) ∨ (wh = .handler ∧ c.trap ≠ none)) :
    runInstr t w wh reserved sem s = s.conclude t w (sem s c e img) := by
  have hp := h.place
  have key : (c.trap.isSome && wh == .program) = false ∧ (c.trap.isNone && wh == .handler) = false := by
    rcases hw with rfl | ⟨rfl, hc⟩ | ⟨rfl, hc⟩
    · constructor <;> simp <;> intros <;> rfl
    · constructor
      · simp [hc]
      · simp
    · constructor
      · simp
      · cases ht : c.trap <;> simp_all
  unfold runInstr
  rw [h.runner]
  simp only [h.ahead, hr, key.1, key.2]
  cases ht : c.trap with
  | none =>
    have : ¬ (0x3C00 ≤ c.pc.toNat) := by have := hp.1 ht; omega
    simp [this, hp.2]
  | some r => simp [hp.2]

/-- A reserved field value takes the EMULATE trap (R173, R185). -/
theorem runInstr_reserved {wh : Where} {reserved : Image → Bool} {sem : State → Ctx → WorkEntry → Image → Effect}
    (h : Runs s t w c e img) (hr : reserved img = true) :
    runInstr t w wh reserved sem s = s.takeTrap t c w 1 Status.illegalInstruction 0 0 := by
  unfold runInstr
  rw [h.runner]
  simp only [h.ahead, hr]
  cases ht : c.trap with
  | none =>
    have : ¬ (0x3C00 ≤ c.pc.toNat) := by have := h.place.1 ht; omega
    simp [this, h.place.2]
  | some r => simp [h.place.2]

/-- Moving on to the next instruction. -/
theorem stepOn_done (hg : goesOn c) (s : State) : stepOn s c = .done s { c with pc := c.pc + 1 } := by
  unfold stepOn
  rcases hg with h | h
  · simp [h]
  · exact if_neg fun x => h x.2

/-- A branch to an index of its own region. -/
theorem branchTo_done {target : BitVec 14} {before : Ctx} (hb : c.trap = none → target.toNat < 0x3C00) (s : State) :
    branchTo target s c before = .done s { c with pc := target } := by
  unfold branchTo
  cases ht : c.trap with
  | none => have := hb ht; simp [show ¬ (0x3C00 ≤ target.toNat) by omega]
  | some r => simp

/-- An instruction on its tile's registers alone. -/
theorem simple_done {op : BitVec 8} {f : BitVec 40} {ok : Bool} {sem : Ctx → Ctx} (h : Runs s t (instrWord op f) c e img)
    (hg : goesOn c) (hk : ok = true) (hp : (sem c).pc = c.pc) (ht : (sem c).trap = c.trap) :
    simple t op f ok sem s = s.setHead t { sem c with pc := c.pc + 1 } := by
  unfold simple
  rw [runInstr_effect h (by simp [hk]) (.inl rfl)]
  have : goesOn (sem c) := by unfold goesOn; rw [hp, ht]; exact hg
  rw [stepOn_done this, hp]; rfl

/-- A branch that is taken. -/
theorem branch_taken {op : BitVec 8} {f : BitVec 40} {ok : Bool} {taken : Ctx → Bool} (h : Runs s t (instrWord op f) c e img)
    (hk : ok = true) (hb : taken c = true) (hin : c.trap = none → (fTarget f).toNat < 0x3C00) :
    branch t op f ok taken s = s.setHead t { c with pc := fTarget f } := by
  unfold branch
  rw [runInstr_effect h (by simp [hk]) (.inl rfl)]
  simp only [hb, if_true]
  rw [branchTo_done hin]; rfl

/-- A branch that is not taken. -/
theorem branch_not_taken {op : BitVec 8} {f : BitVec 40} {ok : Bool} {taken : Ctx → Bool}
    (h : Runs s t (instrWord op f) c e img) (hg : goesOn c) (hk : ok = true) (hb : taken c = false) :
    branch t op f ok taken s = s.setHead t { c with pc := c.pc + 1 } := by
  unfold branch
  rw [runInstr_effect h (by simp [hk]) (.inl rfl)]
  simp only [hb]
  rw [show (if false = true then branchTo (fTarget f) s c c else stepOn s c) = stepOn s c from rfl, stepOn_done hg]; rfl

/-- An emulated instruction outside trap mode. -/
theorem emulated_done {op : BitVec 8} {f : BitVec 40} {ok : Bool} {sem : Ctx → Ctx} (h : Runs s t (instrWord op f) c e img)
    (hn : c.trap = none) (hk : ok = true) : emulated t op f ok sem s = s.setHead t { sem c with pc := c.pc + 1 } := by
  have h1 := h.place.1 hn
  have h2 := h.place.2
  unfold emulated
  rw [h.runner]
  have : ¬ (0x3C00 ≤ c.pc.toNat) := by omega
  simp [h.ahead, hn, hk, h2, this]

/-- An instruction that decides about the whole tile. -/
theorem runControl_effect {reserved : Image → Bool} {sem : State → Ctx → WorkEntry → Image → State}
    (h : Runs s t w c e img) (hn : c.trap = none) (hr : reserved img = false) : runControl t w reserved sem s = sem s c e img := by
  have h1 := h.place.1 hn
  have h2 := h.place.2
  unfold runControl
  rw [h.runner]
  have : ¬ (0x3C00 ≤ c.pc.toNat) := by omega
  simp [h.ahead, hn, hr, h2, this]

end Sys2Proof.Machine
end

