-- ==== Sys2Proof/Tests/Slice0.lean ====
section
/-! SUPPORT. Tests: ill-formed operands that the checks refuse, worked examples of the spec, and, for every statement with hypotheses,
states and operands that meet them. -/

set_option Elab.async false

namespace Sys2Proof.Tests

open Sys2Proof Sys2Proof.Machine

/-! ### Ill-formed commands -/

def hb0 : Heartbeat :=
  { epoch := 7, position := 0, role := 3, flags := 0, health := 1000, faults := 0, frameNo := 100, committed := 90, upPos := 0,
    downPos := 1, toPos := 1 }

theorem test_wf_heartbeat : hb0.wf = true ∧ { hb0 with role := 7 }.wf = false ∧ { hb0 with health := 1001 }.wf = false
    ∧ { hb0 with flags := 0x80 }.wf = false ∧ { hb0 with epoch := 2 ^ 48 }.wf = false ∧ { hb0 with position := 65536 }.wf = false
    ∧ { hb0 with faults := 2 ^ 48 }.wf = false ∧ { hb0 with frameNo := 2 ^ 48 }.wf = false ∧ { hb0 with committed := 2 ^ 48 }.wf = false
    ∧ { hb0 with upPos := 65536 }.wf = false ∧ { hb0 with downPos := 65536 }.wf = false ∧ { hb0 with toPos := 65536 }.wf = false := by
  decide

def hdr0 : MirrorHeader := { senderPos := 0, epoch := 7, frameNo := 101, linkAck := 0, segs := 1 }

theorem test_wf_header : hdr0.wf = true ∧ { hdr0 with segs := 0 }.wf = false ∧ { hdr0 with senderPos := 65536 }.wf = false
    ∧ { hdr0 with epoch := 2 ^ 48 }.wf = false ∧ { hdr0 with frameNo := 2 ^ 48 }.wf = false := by decide

def list0 : FrameList := { header := List.replicate 24 0, records := [] }

theorem test_wf_list : (Instr.listMessage hdr0 list0).wf = true ∧ (Instr.listMessage hdr0 { list0 with header := [] }).wf = false
    ∧ (Instr.listMessage hdr0 { list0 with records := [0] }).wf = false := by decide

def tick0 : TickPayload := { hb := hb0, digestFrame := 99, digest := List.replicate 32 0, records := [] }

theorem test_wf_tick : (Instr.tickMessage hdr0 tick0).wf = true ∧ (Instr.tickMessage hdr0 { tick0 with digest := [] }).wf = false
    ∧ (Instr.tickMessage hdr0 { tick0 with records := [0] }).wf = false
    ∧ (Instr.tickMessage hdr0 { tick0 with digestFrame := 2 ^ 48 }).wf = false := by decide

theorem test_wf_data : (Instr.dataMessage hdr0 [⟨1, 2, 192, false, [1]⟩]).wf = true ∧ (Instr.dataMessage hdr0 [⟨65536, 2, 0, false, []⟩]).wf = false
    ∧ (Instr.dataMessage hdr0 [⟨1, 256, 0, false, []⟩]).wf = false ∧ (Instr.dataMessage hdr0 [⟨1, 2, 2 ^ 48, false, []⟩]).wf = false := by
  decide

def ack0 : AckPayload :=
  { hb := hb0, recv := 101, exec := 100, ack := 99, out := 98, digestFrame := 100, digest := List.replicate 32 0, resetReq := 0 }

theorem test_wf_ack : (Instr.ackMessage hdr0 ack0).wf = true ∧ (Instr.ackMessage hdr0 { ack0 with recv := 2 ^ 48 }).wf = false
    ∧ (Instr.ackMessage hdr0 { ack0 with exec := 2 ^ 48 }).wf = false ∧ (Instr.ackMessage hdr0 { ack0 with ack := 2 ^ 48 }).wf = false
    ∧ (Instr.ackMessage hdr0 { ack0 with out := 2 ^ 48 }).wf = false ∧ (Instr.ackMessage hdr0 { ack0 with digestFrame := 2 ^ 48 }).wf = false
    ∧ (Instr.ackMessage hdr0 { ack0 with digest := [] }).wf = false := by decide

def join0 : JoinRequest := { name := List.replicate 16 0, firmware := List.replicate 16 0, persistBase := 96, mode := 1 }

theorem test_wf_join : (Instr.joinReq 2 join0).wf = true ∧ (Instr.joinReq 65536 join0).wf = false
    ∧ (Instr.joinReq 2 { join0 with name := [] }).wf = false ∧ (Instr.joinReq 2 { join0 with firmware := [] }).wf = false
    ∧ (Instr.joinReq 2 { join0 with persistBase := 256 }).wf = false ∧ (Instr.joinReq 2 { join0 with mode := 256 }).wf = false
    ∧ (Instr.joinReply 7).wf = false ∧ (Instr.fenceMessage hb0 0).wf = false ∧ (Instr.fenceMessage hb0 9).wf = false
    ∧ (Instr.copyMessage 5 [] 0).wf = false := by decide

def st0 : JoinStatePayload := { tstamp := 5, digest := List.replicate 32 0, descs := [], tables := [], entries := [] }

theorem test_wf_join_state : (Instr.joinState 100 st0).wf = true ∧ (Instr.joinState (2 ^ 48) st0).wf = false
    ∧ (Instr.joinState 100 { st0 with digest := [] }).wf = false ∧ (Instr.joinState 100 { st0 with descs := [0] }).wf = false
    ∧ (Instr.joinState 100 { st0 with entries := [0] }).wf = false := by decide

def bdp0 : BdpFrame :=
  { dest := 0, src := 2, version := 1, type := 1, flags := 0, reserved := 0, transId := 5, bodyLen := 0, index := 0x1000, subindex := 1,
    dataType := 0, error := 0, reserved2 := 0, body := [], queueFull := false }

theorem test_wf_bdp : (Instr.bdpReadReq bdp0).wf = true ∧ (Instr.bdpReadReq { bdp0 with version := 256 }).wf = false
    ∧ (Instr.bdpWriteReq { bdp0 with type := 256 }).wf = false ∧ (Instr.bdpAbort { bdp0 with transId := 65536 }).wf = false
    ∧ (Instr.bdpFrameDrop { bdp0 with bodyLen := 65536 }).wf = false ∧ (Instr.bdpReadReq { bdp0 with index := 65536 }).wf = false
    ∧ (Instr.bdpReadReq { bdp0 with subindex := 256 }).wf = false ∧ (Instr.bdpReadReq { bdp0 with dataType := 256 }).wf = false
    ∧ (Instr.bdpReadReq { bdp0 with error := 65536 }).wf = false := by decide

theorem test_wf_host : (Instr.sqDoorbell 3 7 3).wf = false ∧ (Instr.cqDoorbell 3 7 0).wf = false
    ∧ (Instr.registerWrite 3 .functionPage 4096 .qword 0).wf = false ∧ (Instr.registerWrite 0 .w4 16383 .low 0).wf = true := by decide

theorem test_wf_numbers : (Instr.vfEnableChange true 64).wf = false
    ∧ (Instr.marginCheck 101 100 100).wf = false ∧ (Instr.marginCheck 100 101 100).wf = false
    ∧ (Instr.marginCheck 100 100 101).wf = false ∧ (Instr.railFault 1).wf = false ∧ (Instr.railFault 14).wf = false
    ∧ (Instr.thermalTrip 15).wf = false ∧ (Instr.thermalTrip 44).wf = false ∧ (Instr.hostLinkTraining 6 16).wf = false
    ∧ (Instr.hostLinkTraining 5 17).wf = false ∧ (Instr.mr4Readout 0 [256]).wf = false ∧ (Instr.segmentTransferTimeout 4).wf = false
    ∧ (Instr.profileLoad 4).wf = false ∧ (Instr.profileSave 4).wf = false ∧ (Instr.profileDefaults 4).wf = false
    ∧ (Instr.cocoonAcknowledged (2 ^ 48)).wf = false ∧ (Instr.cocoonReplay [0]).wf = false ∧ (Instr.slotFetchComplete 380928 none).wf = false
    ∧ (Instr.slotFetchComplete 7 (some [])).wf = false ∧ (Instr.partialWrite 0 ⟨[], []⟩ .mover).wf = false := by decide

theorem test_wf_storage : (Instr.restore { superblocks := [(4, none, none)], map := none, manifest := none }).wf = false
    ∧ (Instr.restore { superblocks := [(0, some [], none)], map := none, manifest := none }).wf = false
    ∧ (Instr.restore { superblocks := [(0, none, some [])], map := none, manifest := none }).wf = false
    ∧ (Instr.firmwareVerify { header := [], body := [] } { header := [], body := [] }).wf = false
    ∧ (Instr.ssdReady 0 ⟨true, 4096, false, 131072, 1, 8, true, 65536, none⟩).wf = false := by decide

theorem test_wf_long_bodies : (Instr.bdpReadReq { bdp0 with body := List.replicate 1501 0 }).wf = false := by decide +kernel

/-! ### A tile with one instruction -/

/-- A context at index 0 of a program that is the word w. -/
def ctxOf (w : Word) : Ctx :=
  { slot := 3, stage := 0, rank := 0, tiles := 1, a := Vector.replicate 16 0, d := Vector.replicate 32 (quadOf 0),
    x := Vector.replicate 8 (Vector.replicate 4 0), k := Vector.replicate 3 0, fl := 0, xs := 0, lx := 0, pc := 0, sp := [],
    code := [w], trap := none, waiting := none, pending := [], locals := [], ran := 0, qpos := 0, probed := [], allowed := 4, checked := false }

/-- The image: selector 5 read and written, selector 4 read. -/
def img0 : Image :=
  { bytes := [], writes := true, maxGap := 0, sets := [(4, false), (5, true)], stages := [], ops := [], constSp := 0, consts := [], code := [] }

def ent0 : WorkEntry :=
  { slot := 3, frame := 1, pos := 0, inst := 1, ring := none, sqIndex := 0, batch := none, cq := 0, refuse := 0, entry := 0, desc := 0,
    image := some img0, input := [], begun := true, stage := 0, active := true, round := 0, done := [], fail := none, late := 0,
    silent := false, carafes := 0, seqs := [], out := [], cursors := [], runs := [], sorts := [], job := none, finished := none }

/-- A serving engine: selectors 4 and 5 of instance 1 name a span of three slots from slot 2, and every slot is resident. -/
def serving0 : State :=
  { State.reset with
    boot := { State.reset.boot with stage := 6 }
    moth := { State.reset.moth with state := 0 }
    mirror := { State.reset.mirror with state := 0 }
    mem := { State.reset.mem with allResident := true }
    frame := { State.reset.frame with header := { State.reset.frame.header with quota := 500, mergeAllow := 100, tstamp := 1717200000000 } }
    host := { State.reset.host with descs :=
      [(4096 + 4, BitVec.ofNat 192 (2 * 1048576 + (3 * 1048576 - 1) * 2 ^ 48 + 3 * 2 ^ 96 + 2 ^ 108)),
       (4096 + 5, BitVec.ofNat 192 (2 * 1048576 + (3 * 1048576 - 1) * 2 ^ 48 + 3 * 2 ^ 96 + 2 ^ 108))] } }

/-- Tile 0 of a serving engine runs a context for an entry, with an emulation library. -/
def runningWith (lib : List Word) (c : Ctx) (e : WorkEntry) : State :=
  { serving0 with work := [e], tiles := serving0.tiles.set 0 { resetTile with ctxs := [c], yielded := false }
                  boot := { serving0.boot with library := lib } }

abbrev running (c : Ctx) (e : WorkEntry) : State := runningWith [] c e

/-- The context of tile 0 after a command. -/
def after (o : Host.Outcome State Fault Refusal) : Option Ctx := match o with
  | .next u => u.head? 0
  | _ => none

theorem running_runner (lib : List Word) (c : Ctx) (e : WorkEntry) (img : Image) (hs : c.slot = 3) (hw : c.waiting = none) (he : e.slot = 3)
    (hi : e.image = some img) (hq : e.squashes = false) : (runningWith lib c e).runner 0 = some (c, e, img) := by
  have h1 : (runningWith lib c e).head? 0 = some c := by simp [State.head?, runningWith]
  have h2 : (runningWith lib c e).entry? 3 = some e := by simp [State.entry?, runningWith, he]
  have h3 : (runningWith lib c e).executing = true := by
    have hs : serving0.serving = true := by decide +kernel
    have hd : (!serving0.frame.mergeDone && !serving0.frame.merging) = true := by decide +kernel
    show ((serving0.serving || serving0.replaying) && !serving0.frame.mergeDone && !serving0.frame.merging
      && !([e].any WorkEntry.squashes)) = true
    simp [hs, hq] at hd ⊢
    exact hd
  have h4 : (runningWith lib c e).tiles[(0 : Fin 64)].yielded = false := by simp [runningWith]
  have h5 : (runningWith lib c e).mayRun 0 3 = true := by simp [State.mayRun, runningWith, resetTile]
  unfold State.runner
  rw [h1]
  simp only [hs, h2, h3, h4, h5, hi, hw]
  rfl

theorem running_not_overtaken (lib : List Word) (c : Ctx) (e : WorkEntry) : (runningWith lib c e).overtaken 0 = false := by
  simp [State.overtaken, runningWith, resetTile]

/-- Tile 0 takes the word of its program as the next one, whatever else its registers hold. -/
theorem running_runs (c : Ctx) (e : WorkEntry) (img : Image) (w : Word) (hs : c.slot = 3) (hw : c.waiting = none) (he : e.slot = 3)
    (hi : e.image = some img) (hq : e.squashes = false) (hp : c.pc = 0) (hc : (running c e).fetch c = w) : Runs (running c e) 0 w c e img :=
  ⟨running_runner [] c e img hs hw he hi hq, running_not_overtaken [] c e, fun _ => by rw [hp]; decide, hc⟩

/-- Every word can be the next instruction of a tile, with every field its format leaves unused at zero and the next index within
the program: what the statements about the instructions of a program ask. -/
theorem witness_word_of_a_program (w : Word) : Runs (running (ctxOf w) ent0) 0 w (ctxOf w) ent0 img0 ∧ goesOn (ctxOf w) :=
  ⟨running_runs _ _ _ _ rfl rfl rfl rfl (by decide +kernel) rfl rfl, .inl rfl⟩

/-- A field of zeros (or of ones) read as the formats read it: registers 0, mask K0, no unused bit. -/
theorem witness_zero_fields : ∀ l n : Nat, (0 : BitVec 40).extractLsb' l n = 0 := by intro l n; ext i h; simp

/-- The context of a tile whose program word ADDX of zero fields trapped with EMULATE. -/
def trapCtx : Ctx :=
  { ctxOf 0 with pc := 0x3C10, trap := some { status := 0x0201, tpc := 7, tcause := 1, tinst := instrWord 0xC0 0, taddr := 0, tinfo := 0,
                                              ta := Vector.replicate 8 0, td := Vector.replicate 4 (quadOf 0) } }

/-- The tile runs the handler of EMULATE, with the word v at its vector. -/
def handling (v : Word) : State := runningWith (List.replicate 16 0 ++ [v]) trapCtx ent0

theorem handling_fetches (v : Word) : (handling v).fetch trapCtx = v := by
  have h : (List.replicate 16 (0 : Word) ++ [v]).getD 16 0 = v := by simp [List.getD]
  have h2 : emulatedWord (instrWord 0xC0 0) = true := by decide +kernel
  show (let w := (List.replicate 16 (0 : Word) ++ [v]).getD 16 0
    if (opcodeOf w == 0xB3 || opcodeOf w == 0xB4) && !emulatedWord (instrWord 0xC0 0) then tendWord else w) = v
  simp only [h, h2]
  simp

/-- In trap mode every word of the library can be the next one. -/
theorem witness_word_of_a_handler (v : Word) : Runs (handling v) 0 v trapCtx ent0 img0 ∧ goesOn trapCtx :=
  ⟨⟨running_runner _ _ _ _ rfl rfl rfl rfl (by decide +kernel), running_not_overtaken _ _ _, (fun h => by cases h), handling_fetches v⟩,
    .inr (show (0x3C10 : BitVec 14) ≠ 0x3FFF by decide)⟩

/-! ### Address, data and accumulator classes -/

/-- Fields at the given places of the 40 bits after the opcode. -/
def fields (l : List (Nat × Nat)) : BitVec 40 := BitVec.ofNat 40 (l.map fun p => p.2 * 2 ^ p.1).sum

theorem witness_AddressClassWritesItsResult : (∀ op, Runs (running (ctxOf (instrWord op 0)) ent0) 0 (instrWord op 0) (ctxOf (instrWord op 0)) ent0 img0
      ∧ goesOn (ctxOf (instrWord op 0))) ∧ ∀ l n : Nat, (0 : BitVec 40).extractLsb' l n = 0 :=
  ⟨fun _ => witness_word_of_a_program _, witness_zero_fields⟩

/-- Every condition and every summary of BRF, with flags under which it is taken and flags under which it is not. -/
theorem witness_FlagBranchesFollowTheirLanes : ∀ cond : Fin 14, ∀ sm : Fin 3,
    let f := fields [(36, cond.val), (34, sm.val)]
    f.extractLsb' 36 4 = BitVec.ofNat 4 cond.val ∧ f.extractLsb' 14 18 = 0 ∧ (f.extractLsb' 34 2).toNat < 3 ∧ (fTarget f).toNat < 0x3C00 := by
  decide +kernel

theorem test_brf_any_taken : (after (exec (.brf 0 (fields [(36, 0), (34, 0), (32, 0), (0, 9)]))
    (running { ctxOf (instrWord 0x5C (fields [(36, 0), (34, 0), (32, 0), (0, 9)])) with fl := 0x0400 } ent0))).map (fun c => (c.pc, c.fl))
    = some (9, 0x0400) := by decide +kernel

/-- No lane enabled: ANY is false (R145). -/
theorem test_brf_no_lane : (after (exec (.brf 0 (fields [(36, 1), (34, 0), (32, 1), (0, 9)]))
    (running (ctxOf (instrWord 0x5C (fields [(36, 1), (34, 0), (32, 1), (0, 9)]))) ent0))).map Ctx.pc = some 1 := by decide +kernel

/-- The branches: a taken target below the trap region, and an A register with a bit above 13. -/
theorem witness_AddressBranchesReachTheirTarget : (∀ cond : Fin 6, (fields [(37, cond.val)]).extractLsb' 37 3 = BitVec.ofNat 3 cond.val
      ∧ (fields [(37, cond.val)]).extractLsb' 14 15 = 0 ∧ (fTarget (fields [(37, cond.val), (0, 0x3BFF)])).toNat < 0x3C00)
    ∧ (BitVec.ofNat 48 0x4000).extractLsb' 14 34 ≠ 0 ∧ (BitVec.ofNat 48 0x3BFF).extractLsb' 14 34 = 0 := by decide +kernel

/-- CALL at index 0 leaves 1 in A15 (R140). -/
theorem test_call : (after (exec (.call 0 (fields [(0, 5)])) (running (ctxOf (instrWord 0x13 (fields [(0, 5)]))) ent0))).map
    (fun c => (c.pc, c.getA 15)) = some (5, 1) := by decide +kernel

theorem test_jmpr_high_bit : (after (exec (.jmpr 0 0) (running { ctxOf (instrWord 0x14 0) with a := Vector.replicate 16 0x4000 } ent0))).map
    (fun c => (c.pc, c.trap.map fun r => (r.tcause, r.taddr))) = some (0x3C40, some (4, 0x4000)) := by decide +kernel

/-- MOVH keeps the low 32 bits (R176). -/
theorem test_movh : (after (exec (.movh 0 (fields [(36, 2), (0, 0x02A0)])) (running { ctxOf (instrWord 0x03 (fields [(36, 2), (0, 0x02A0)])) with
    a := Vector.replicate 16 0xFFFF00704B1E } ent0))).map (fun c => c.getA 2) = some 0x02A000704B1E := by decide +kernel

/-- An arithmetic shift by 48 or more fills with the sign (R148). -/
theorem test_sara_wide : (after (exec (.sarai 0 (fields [(36, 1), (32, 2), (0, 200)])) (running { ctxOf (instrWord 0x0D (fields [(36, 1), (32, 2), (0, 200)])) with
    a := Vector.replicate 16 0x800000000000 } ent0))).map (fun c => c.getA 1) = some 0xFFFFFFFFFFFF := by decide +kernel

/-- The frame time stamp of the worked example of R44. -/
theorem test_ftime : (after (exec (.ftime 0 (fields [(36, 4)])) (running (ctxOf (instrWord 0x15 (fields [(36, 4)]))) ent0))).map
    (fun c => c.getA 4) = some 1717200000000 := by decide +kernel

theorem witness_LanewiseInstructions : (∀ op, Runs (running (ctxOf (instrWord op 0)) ent0) 0 (instrWord op 0) (ctxOf (instrWord op 0)) ent0 img0
      ∧ goesOn (ctxOf (instrWord op 0))) ∧ ∀ l n : Nat, (0 : BitVec 40).extractLsb' l n = 0 :=
  ⟨fun _ => witness_word_of_a_program _, witness_zero_fields⟩

/-- Both sides of the lane statement: K0 enables every lane, a mask of 0b1100 enables two. -/
theorem witness_DataClassLanesAndFlags : let c := { ctxOf 0 with k := Vector.replicate 3 0xC }
    (∀ n : Fin 4, c.enabled 0 n = true) ∧ c.enabled 1 0 = false ∧ c.enabled 1 3 = true := by decide +kernel

def quad4 (a b c d : Word) : Quad := #v[a, b, c, d]

/-- The largest value plus one wraps, sets N and V, and clears C (R142). -/
theorem test_add_wraps : (after (exec (.add 0 (fields [(35, 1), (30, 2), (25, 3)])) (running { ctxOf (instrWord 0x28 (fields [(35, 1), (30, 2), (25, 3)])) with
    d := ((Vector.replicate 32 (quadOf 0)).set 2 (quad4 0x7FFFFFFFFFFF 0xFFFFFFFFFFFF 1 0)).set 3 (quad4 1 1 1 0) } ent0))).map
    (fun c => (c.getD 1, c.fl, c.lx)) = some (quad4 0x800000000000 0 2 0, 0x4069, 0x10) := by decide +kernel

/-- A subtraction has C when there is no borrow (R142). -/
theorem test_sub_borrow : (after (exec (.sub 0 (fields [(35, 1), (30, 2), (25, 3)])) (running { ctxOf (instrWord 0x2B (fields [(35, 1), (30, 2), (25, 3)])) with
    d := ((Vector.replicate 32 (quadOf 0)).set 2 (quad4 0 5 5 0x800000000000)).set 3 (quad4 1 5 4 1) } ent0))).map
    (fun c => (c.getD 1, c.fl)) = some (quad4 0xFFFFFFFFFFFF 0 1 0x7FFFFFFFFFFF, 0x3268) := by decide +kernel

/-- The division of the first worked example of the traps chapter: a zero divisor in lane 1. -/
theorem test_div_example : (after (exec (.div 0 (fields [(35, 6), (30, 4), (25, 3)])) (running { ctxOf (instrWord 0x34 (fields [(35, 6), (30, 4), (25, 3)])) with
    d := ((Vector.replicate 32 (quadOf 0)).set 4 (quad4 7200 0 4410 1803)).set 3 (quad4 12 0 7 3), fl := 0xFFFF } ent0))).map
    (fun c => (c.getD 6, c.fl, c.lx)) = some (quad4 600 0 630 601, 0x2262, 0x02) := by decide +kernel

/-- The compare of the same example. -/
theorem test_cmpk_example : (after (exec (.cmpk 0 (fields [(30, 6), (25, 7), (21, 1), (17, 4)])) (running { ctxOf (instrWord 0x52 (fields [(30, 6), (25, 7), (21, 1), (17, 4)])) with
    d := ((Vector.replicate 32 (quadOf 0)).set 6 (quad4 600 0 630 601)).set 7 (quadOf 600) } ent0))).map (fun c => c.getK 1) = some 0xC := by
  decide +kernel

/-- The most negative value by −1: itself, with V and LX.OV (R148). -/
theorem test_div_overflow : (after (exec (.div 0 (fields [(35, 6), (30, 4), (25, 3)])) (running { ctxOf (instrWord 0x34 (fields [(35, 6), (30, 4), (25, 3)])) with
    d := ((Vector.replicate 32 (quadOf 0)).set 4 (quadOf 0x800000000000)).set 3 (quad4 0xFFFFFFFFFFFF 1 1 1) } ent0))).map
    (fun c => ((c.getD 6)[0], c.fl.extractLsb' 0 4, c.lx)) = some (0x800000000000, 9, 0x10) := by decide +kernel

/-- A rotate count is taken modulo 48 (R148). -/
theorem test_rol_modulo : (after (exec (.roli 0 (fields [(35, 1), (30, 2), (0, 49)])) (running { ctxOf (instrWord 0x48 (fields [(35, 1), (30, 2), (0, 49)])) with
    d := (Vector.replicate 32 (quadOf 0)).set 2 (quad4 0x800000000001 1 2 4) } ent0))).map (fun c => c.getD 1) = some (quad4 3 2 4 8) := by
  decide +kernel

theorem witness_MovesComparesAndMasks : (∀ l n : Nat, (0 : BitVec 40).extractLsb' l n = 0)
    ∧ (∀ sr : Fin 3, (fields [(30, sr.val)]).extractLsb' 30 2 = BitVec.ofNat 2 sr.val ∧ (fields [(30, sr.val)]).extractLsb' 32 8 = 0
      ∧ (fields [(30, sr.val)]).extractLsb' 0 30 = 0)
    ∧ (∀ kd : Fin 4, kd ≠ 0 → (fields [(38, kd.val)]).extractLsb' 38 2 ≠ 0 ∧ (fields [(38, kd.val)]).extractLsb' 0 36 = 0
      ∧ (fields [(21, kd.val)]).extractLsb' 21 2 ≠ 0 ∧ (fields [(26, kd.val)]).extractLsb' 26 2 ≠ 0)
    ∧ ((fields [(17, 13)]).extractLsb' 17 4).toNat < 14 ∧ ((fields [(22, 13)]).extractLsb' 22 4).toNat < 14 :=
  ⟨witness_zero_fields, by decide +kernel, by decide +kernel, by decide +kernel⟩

theorem test_puts_sticky : (after (exec (.puts 0 (fields [(30, 2)])) (running { ctxOf (instrWord 0x26 (fields [(30, 2)])) with
    a := Vector.replicate 16 0x11, lx := 0x22 } ent0))).map (fun c => c.lx) = some 0x33 := by decide +kernel

theorem test_mask_of_k0 : (after (exec (.kand 0 (fields [(38, 1), (36, 0), (34, 2)])) (running { ctxOf (instrWord 0x54 (fields [(38, 1), (36, 0), (34, 2)])) with
    k := Vector.replicate 3 5 } ent0))).map (fun c => c.getK 1) = some 5 := by decide +kernel

/-- XCNT at the largest value saturates and sets XS in its lane (R146). -/
theorem test_xcnt_saturates : (after (exec (.xcnt 0 (fields [(37, 1), (34, 1)])) (running { ctxOf (instrWord 0x66 (fields [(37, 1), (34, 1)])) with
    x := Vector.replicate 8 #v[BitVec.ofNat 96 (2 ^ 95 - 1), 0, 0, BitVec.ofNat 96 (2 ^ 95 - 1)] } ent0))).map
    (fun c => (c.getX 1, c.xs)) = some (#v[BitVec.ofNat 96 (2 ^ 95 - 1), 1, 1, BitVec.ofNat 96 (2 ^ 95 - 1)], 9) := by decide +kernel

/-- Both signs of a saturating multiply-accumulate, and pairs of D registers from an even one. -/
theorem witness_AccumulatorClassSaturates : (∀ l n : Nat, (0 : BitVec 40).extractLsb' l n = 0)
    ∧ (fields [(29, 30)]).extractLsb' 24 6 = 0 ∧ (fields [(29, 30)]).extractLsb' 0 22 = 0 ∧ (fields [(29, 30)]).extractLsb' 34 3 = 0 :=
  ⟨witness_zero_fields, by decide +kernel⟩

/-- The worked example of RSCL: 123,456, −123,456 and 123,450 brought from scale 4 to scale 2. -/
theorem test_rscl_example : (after (exec (.rscl 0 (fields [(35, 1), (30, 2), (0, 62)])) (running { ctxOf (instrWord 0xC2 (fields [(35, 1), (30, 2), (0, 62)])) with
    d := (Vector.replicate 32 (quadOf 0)).set 2 (quad4 123456 (BitVec.ofInt 48 (-123456)) 123450 0) } ent0))).map (fun c => c.getD 1)
    = some (quad4 1235 (BitVec.ofInt 48 (-1235)) 1235 0) := by decide +kernel

/-- Scale steps at the ends of their range, and every other field zero. -/
theorem witness_EmulatedInstructionsCompleteAtTheNextIndex : (∀ n : Fin 37, let f := fields [(0, (n.val + 46) % 64)]
      f.extractLsb' 6 22 = 0 ∧ (-18 : Int) ≤ (f.extractLsb' 0 6).toInt ∧ (f.extractLsb' 0 6).toInt ≤ 18)
    ∧ (∀ n : Fin 37, let f := fields [(16, (n.val + 46) % 64)]
      f.extractLsb' 24 10 = 0 ∧ f.extractLsb' 0 16 = 0 ∧ (-18 : Int) ≤ (f.extractLsb' 16 6).toInt ∧ (f.extractLsb' 16 6).toInt ≤ 18) := by
  decide +kernel

/-! ### Memory, scratchpad and block repeats -/

/-- The worked example of R69: selector 0x02A at BASE 0x3E80_0000, word 5 of line 100 of segment 7, reaches 0x3EF0_4B1E of slot 1,007. -/
theorem test_tile_address : descBase (BitVec.ofNat 192 (0x3E800000 + 0xFFFFFF * 2 ^ 48)) + offOf 0x02A000704B1E = 0x3EF04B1E
    ∧ selOf 0x02A000704B1E = 0x02A ∧ 0x3EF04B1E / slotBytes = 1007 ∧ 0x3EF04B1E % slotBytes = 19230 := by decide +kernel

/-- The word example of R6 at address 0xC0, least significant byte first. -/
theorem test_word_bytes : leBytes 6 0x00001F400000 = [0x00, 0x00, 0x40, 0x1F, 0x00, 0x00] ∧ lineOf 0xC5 = 192 := by decide +kernel

/-- The context of a load or store at tile address `ea`, with all four lanes of an index register at n, 2 n, ... -/
def memCtx (op : BitVec 8) (f : BitVec 40) (ea : Word) : Ctx :=
  { ctxOf (instrWord op f) with a := Vector.replicate 16 ea, d := (Vector.replicate 32 (quadOf 0x0102030405)).set 2 (quad4 0 1 2 31) }

/-- The first word of the span and the last word of the line area of its last segment, in selectors 4 and 5. -/
def eaFirst : Word := 0x005000000000
def eaLast : Word := BitVec.ofNat 48 (5 * 2 ^ 36 + 2 * 1048576 + 0xFFFBA)

/-- No line of the serving engine is in error. -/
theorem running_line_good (c : Ctx) (e : WorkEntry) (l : Nat) : LineGood (running c e) l :=
  ⟨List.not_mem_nil, fun _ h => absurd h List.not_mem_nil, fun _ h => absurd h List.not_mem_nil⟩

theorem opens_span' (s : State) (e : WorkEntry) (img : Image) (ea : Word) (store : Bool) (hd : s.host.descs = serving0.host.descs)
    (hi : e.inst = 1) (hs : img.sets = img0.sets) (h : selOf ea = 5) : Opens s e img store ea (s.desc e.inst (selOf ea)) := by
  have hx : s.desc 1 5 = serving0.desc 1 5 := by unfold State.desc; rw [hd]
  refine ⟨⟨(5, true), by rw [hs]; decide, h.symm, fun _ => rfl⟩, by rw [h]; decide, rfl, ?_, ?_⟩ <;> rw [h, hi, hx]
  · decide +kernel
  · cases store <;> decide +kernel

theorem opens_span (ea : Word) (store : Bool) (c : Ctx) (h : selOf ea = 5) :
    Opens (running c ent0) ent0 img0 store ea ((running c ent0).desc ent0.inst (selOf ea)) := opens_span' _ _ _ _ _ rfl rfl rfl h

/-- Both ends of the span are words that a tile may load and store. -/
theorem witness_LoadsReadTheComputedWords : ∀ op, let f : BitVec 40 := 0
    (∀ ea ∈ [eaFirst, eaLast], Runs (running (memCtx op f ea) ent0) 0 (instrWord op f) (memCtx op f ea) ent0 img0 ∧ goesOn (memCtx op f ea)
      ∧ (memCtx op f ea).getA (fA f 31) + BitVec.ofInt 48 (f.extractLsb' 0 29).toInt = ea
      ∧ Opens (running (memCtx op f ea) ent0) ent0 img0 false ea ((running (memCtx op f ea) ent0).desc ent0.inst (selOf ea))) := by
  intro op f ea h
  have h5 : selOf ea = 5 := by
    simp only [List.mem_cons, List.not_mem_nil, or_false] at h
    rcases h with rfl | rfl <;> decide +kernel
  refine ⟨running_runs _ _ _ _ rfl rfl rfl rfl (by decide +kernel) rfl rfl, .inl rfl, ?_, opens_span _ _ _ h5⟩
  have hz : BitVec.ofInt 48 ((0 : BitVec 40).extractLsb' 0 29).toInt = 0 := by decide +kernel
  show _ + BitVec.ofInt 48 ((0 : BitVec 40).extractLsb' 0 29).toInt = ea
  rw [hz]
  simp [memCtx, Ctx.getA]

/-- The same words pass the other tests, as loads and as stores of tile 0, which alone works on the entry. -/
theorem witness_StoresWriteOnlyTheComputedBytes : ∀ ea ∈ [eaFirst, eaLast], ∀ store,
    WordThere (running (memCtx 0x71 0 ea) ent0) (memCtx 0x71 0 ea) store (serving0.desc 1 5) (offOf ea) := by
  intro ea h store
  simp only [List.mem_cons, List.not_mem_nil, or_false] at h
  rcases h with rfl | rfl <;>
    exact ⟨by decide +kernel, by decide +kernel, by decide +kernel, by decide +kernel, running_line_good _ _ _, fun _ => by decide +kernel⟩

/-- A store reaches its six bytes, and the load of them gives the word back. -/
theorem test_store_then_bytes : (match exec (.stw 0 (fields [(35, 1), (31, 2)])) (running { memCtx 0x71 (fields [(35, 1), (31, 2)]) eaLast with
      a := (Vector.replicate 16 eaLast).set 1 0x00001F400000 } ent0) with
    | .next u => (u.bytesAt (4 * 1048576 + 0xFFFBA) 6, u.mem.bytes.length, u.mem.dirty, (u.head? 0).map Ctx.pc)
    | _ => ([], 0, [], none)) = ([0x00, 0x00, 0x40, 0x1F, 0x00, 0x00], 2, [4], some 1) := by decide +kernel

/-- The word after the last word is no word of the span (test 3 of R149). -/
theorem test_store_beyond : (after (exec (.stw 0 (fields [(35, 1), (31, 2)])) (running (memCtx 0x71 (fields [(35, 1), (31, 2)])
      (BitVec.ofNat 48 (5 * 2 ^ 36 + 3 * 1048576))) ent0))).map (fun c => (c.pc, c.trap.map fun r => (r.tcause, r.tinfo)))
    = some (0x3C20, some (2, 0x23)) := by decide +kernel

/-- Scratchpad words at both ends that await nothing. -/
theorem witness_ScratchpadAccessesReachTheirWords : ∀ i ∈ [(0 : Nat), 98303],
    (memCtx 0x75 0 (BitVec.ofNat 48 i)).spBusy i 1 = false ∧ i < 98304 ∧ ((memCtx 0x75 0 (BitVec.ofNat 48 i)).getA 0).toNat < 2 ^ 17 := by
  decide +kernel

theorem test_stpq_order : (after (exec (.stpq 0 (fields [(35, 2), (31, 0), (12, 3)])) (running { memCtx 0x78 (fields [(35, 2), (31, 0), (12, 3)]) 98290 with
    a := Vector.replicate 16 98290 } ent0))).map (fun c => (c.spWords 98293 4, c.pc)) = some ([0, 1, 2, 31], 1) := by decide +kernel

/-- Index 98,304 takes the scratchpad trap, with the lowest failing index in TADDR. -/
theorem test_scratch_trap : (after (exec (.ldpq 0 (fields [(35, 2), (31, 0), (12, 2)])) (running (memCtx 0x77 (fields [(35, 2), (31, 0), (12, 2)]) 98300) ent0))).map
    (fun c => (c.pc, c.trap.map fun r => (r.tcause, r.taddr))) = some (0x3C30, some (3, 98304)) := by decide +kernel

/-- A store in canonical form, and one that lists a zero, which is not. -/
theorem witness_WrittenValuesReadBackAndOthersStay : sparseWf ([(3, 1), (7, 255)] : Sparse 8) = true
    ∧ sparseWf ([(3, 0)] : Sparse 8) = false ∧ sparseWf ([(7, 1), (3, 1)] : Sparse 8) = false := by decide +kernel

/-- The context of a block repeat: A0, A1 and A2 are the three registers of its first fields. -/
def repCtx (op : BitVec 8) (f : BitVec 40) (a b c : Word) : Ctx :=
  { ctxOf (instrWord op f) with a := (((Vector.replicate 16 0).set 0 a).set 1 b).set 2 c, d := Vector.replicate 32 (quad4 7 8 9 10) }

def rep (imax : Nat) : BitVec 40 := fields [(36, 0), (32, 1), (28, 2), (7, imax)]

/-- LGET of the last line of a segment and the first of the next, into the last words of the scratchpad; LPUT of the same two. -/
theorem witness_BlockRepeatsMoveFillAndCompare :
    (rep 0).extractLsb' 15 13 = 0 ∧ (rep 0).extractLsb' 0 7 = 0 ∧ fA (rep 0) 36 ≠ fA (rep 0) 32 ∧ fA (rep 0) 36 ≠ fA (rep 0) 28
    ∧ fA (rep 0) 32 ≠ fA (rep 0) 28
    ∧ (∀ store, ∀ off ∈ [0xFFF00, 1048576], LineThere (running (repCtx 0x80 (rep 0) (BitVec.ofNat 48 (5 * 2 ^ 36 + 0xFFF00)) 98240 2) ent0)
      (repCtx 0x80 (rep 0) (BitVec.ofNat 48 (5 * 2 ^ 36 + 0xFFF00)) 98240 2) store (serving0.desc 1 5) off) := by
  refine ⟨by decide +kernel, by decide +kernel, by decide +kernel, by decide +kernel, by decide +kernel, fun store off h => ?_⟩
  simp only [List.mem_cons, List.not_mem_nil, or_false] at h
  rcases h with rfl | rfl <;>
    exact ⟨by decide +kernel, by decide +kernel, by decide +kernel, by decide +kernel, running_line_good _ _ _, fun _ => by decide +kernel⟩

/-- The memory pointer steps over the segment header, and the count runs out. -/
theorem test_lget_segment_end : (after (exec (.lget 0 (rep 0)) (running (repCtx 0x80 (rep 0) (BitVec.ofNat 48 (5 * 2 ^ 36 + 0xFFF00)) 98240 2) ent0))).map
    (fun c => (c.getA 0, c.getA 1, c.getA 2, c.pc)) = some (BitVec.ofNat 48 (5 * 2 ^ 36 + 1048576 + 192), 98304, 0, 1) := by decide +kernel

def fillOp : BitVec 40 := fields [(32, 1), (28, 2), (23, 4), (7, 1)]

theorem test_pfill_imax : (after (exec (.pfill 0 fillOp) (running (repCtx 0x82 fillOp 0 98294 9) ent0))).map
    (fun c => (c.spWords 98294 5, c.getA 1, c.getA 2)) = some ([7, 8, 9, 10, 0], 98298, 5) := by decide +kernel

/-- WCMP of two runs that differ in their second word. -/
theorem test_wcmp_differs : (after (exec (.wcmp 0 (rep 0)) (running { repCtx 0x83 (rep 0) 100 200 3 with
    sp := [(101, 4), (201, 5)] } ent0))).map (fun c => (c.getA 0, c.getA 1, c.getA 2, c.fl)) = some (101, 201, 2, 8) := by decide +kernel

/-! ### Predictive Column Code -/

/-- The five time stamps of the worked example of R87. -/
def stamps : List Word := [1717200000000, 1717200900000, 1717201800004, 1717202700000, 1717203599998]

/-- Best k and payload bits of each predictor in the example. -/
theorem test_pcc_residues : residues 3 1717200000000 stamps 0 0 = [0, 900000, 1800004, 2700000, 3599998]
    ∧ residues 1 1717200000000 stamps 1717200000000 1717200000000 = [0, 1800000, 1800008, 1799992, 1799996]
    ∧ residues 2 1717200000000 stamps 1717200000000 1717200000000 = [0, 1800000, 8, 15, 4]
    ∧ bestK [0, 900000, 1800004, 2700000, 3599998] = 20 ∧ bestK [0, 1800000, 8, 15, 4] = 18
    ∧ riceBits 18 [0, 1800000, 8, 15, 4] = 101 := by decide +kernel

/-- LINEAR wins with ENC_LEN 14. -/
theorem test_pcc_header : (encodeBlock 5 none stamps).1 = { magic := 0xB, n := 5, ty := 5, pred := 2, encLen := 14, rawM1 := 4, base := 1717200000000 } := by
  decide +kernel

def blockBytes : List Byte := (encodeBlock 5 none stamps).1.bytes ++ (encodeBlock 5 none stamps).2.flatten

/-- Memory that holds the block as the first and only one of the segment in slot 2: its directory entry, the block, and TYPE and
BLOCK_COUNT of the header. -/
def scanState (op : BitVec 8) (f : BitVec 40) : State :=
  let s := running (repCtx op f (BitVec.ofNat 48 (5 * 2 ^ 36 + 0x4800)) 98299 0) ent0
  { s with mem := { s.mem with bytes := putBytes (putBytes (putBytes (putBytes [] 2097152 (leBytes 6 (0x4800 + 5 * 2 ^ 20))) (2097152 + 0x4800) blockBytes)
      (2097152 + lineArea + 4) [5]) (2097152 + lineArea + 32) [1] } }

theorem test_pcc_round_trip : decodeBlock (encodeBlock 5 none stamps).1 (encodeBlock 5 none stamps).2.flatten = (stamps, 14, true) := by
  decide +kernel

/-- The block as DSCAN finds it: a sound header, no directory entry against it, groups that decode, room in the scratchpad. -/
theorem witness_BlockScansDeliverTheDecodedValues : let f := fields [(36, 0), (32, 1), (28, 2), (23, 4)]
    let s := scanState 0x84 f
    let h := parsePcc (s.bytesAt (2097152 + 0x4800) 12)
    (∀ i ∈ [(36 : Nat), 32, 28], ∀ j ∈ [(36 : Nat), 32, 28], i ≠ j → fA f i ≠ fA f j) ∧ f.extractLsb' 0 23 = 0
    ∧ h.ok = true ∧ h.n = 5 ∧ directoryCheck s 2 0x4800 h = none ∧ 98299 + h.n ≤ 98304
    ∧ decodeBlock h (s.bytesAt (2097152 + 0x480C) h.encLen) = (stamps, 14, true) ∧ descKind (s.desc 1 5) = 1 := by decide +kernel

/-- The lines of the block are readable. -/
theorem witness_BlockScans_lines : let f := fields [(36, 0), (32, 1), (28, 2), (23, 4)]
    ∀ i, 96 ≤ i → i ≤ 96 → 0 ≤ 0x4800 ∧ LineThere (scanState 0x84 f) (repCtx 0x84 f (BitVec.ofNat 48 (5 * 2 ^ 36 + 0x4800)) 98299 0) false
      (serving0.desc 1 5) (0x4800 - 0 + 192 * (i - 96)) := by
  intro f i h1 h2
  obtain rfl : i = 96 := by omega
  exact ⟨by decide, by decide +kernel, by decide +kernel, by decide +kernel, by decide +kernel,
    ⟨List.not_mem_nil, fun _ h => absurd h List.not_mem_nil, fun _ h => absurd h List.not_mem_nil⟩, fun h => by cases h⟩

/-- Two quads: Ad advances by 4 with each, and the last one writes only its valid lane (R155 step 4). -/
theorem test_dscan : (after (exec (.dscan 0 (fields [(36, 0), (32, 1), (28, 2), (23, 4)])) (scanState 0x84 (fields [(36, 0), (32, 1), (28, 2), (23, 4)])))).map
    (fun c => (c.spWords 98299 5, c.getD 4, c.getA 1, c.getA 2, c.pc)) = some (stamps, quad4 1717203599998 0 0 0, 98307, BitVec.ofNat 48 (26 * 65536 + 5), 1) := by
  decide +kernel

/-! ### Units of a tile -/

/-- The hash example of R195: cell code 1 falls into bank 5 of 8, partition 25. -/
theorem test_kma_hash : kmaBank 8 (keyOf 1 0) = 5 ∧ kmaPart (keyOf 1 0) = 25 := by decide +kernel

/-- The channel and slice examples of R225, R226 and R245. -/
theorem test_home : homeSel 48 0 0 255 = 44 ∧ homeChannel true 192 = 1 ∧ homeChannel true 384 = 2 ∧ homeSlice true 192 = (5, 127)
    ∧ homeSlice true 384 = (2, 254) := by decide +kernel

/-- The location example of R13: a corrected CAM error in bank 17. -/
theorem test_location : location 1 3 17 = 0x2611 := by decide

def op0 (kind : Nat) : ImageOp := { kind := kind, flags := 0, inA := 2, inB := 0, stage := 0, cycles := 20, arg1 := 0, arg2 := 0, arg3 := 0, arg4 := 0 }

/-- BUILD, AGGREGATE without local groups, SORT over two spilled segments, sorted SCAN, EMIT, plain SCAN, PROJECT, AGGREGATE
with local groups, EMIT to a span. -/
def unitOps : List ImageOp :=
  [{ op0 5 with arg2 := 4 * 2 ^ 17 }, op0 7, { op0 8 with arg2 := 2 ^ 17 + 5 * 2 ^ 20, arg3 := 3 }, { op0 1 with flags := 2, arg4 := 70000 },
   { op0 9 with arg3 := 100 * 2 ^ 17 }, op0 1, { op0 4 with cycles := 48 }, { op0 7 with arg3 := 2 * 2 ^ 16 },
   { op0 9 with arg1 := 5, arg3 := 100 * 2 ^ 17 }]

def unitImg : Image := { img0 with ops := unitOps }

def unitEnt : WorkEntry := { ent0 with image := some unitImg, entry := BitVec.ofNat 512 (4096 * 2 ^ 192 + 512 * 2 ^ 256 + 7 * 2 ^ 288) }

/-- The table of the first operator, with one entry for key 5. -/
def unitTable : KmaTable :=
  { inst := 1, tag := 0x4000 + 192, ordered := false, unique := false, dict := false, dictId := 0, bankset := 1, nb := 1, perBank := 1024,
    span := [0], extents := [(0, 0)], limit := 1024, charge := 1024, spillSel := 0, spillListed := false, owner := (1, 0), spilled := [], taken := [], inRound := [],
    ended := false, rebalances := 0 }

def unitState (op : BitVec 8) (f : BitVec 40) (a : Nat) (c : Nat) : State :=
  let s := running { ctxOf (instrWord op f) with a := ((Vector.replicate 16 0).set 1 (BitVec.ofNat 48 a)).set 2 (BitVec.ofNat 48 c),
                                                 d := (Vector.replicate 32 (quadOf 0)).set 1 (quad4 5 6 5 7) } unitEnt
  { s with kma := { s.kma with tables := [unitTable, { unitTable with tag := 0x4000 + 193 }],
                               entries := [(3, { inst := 1, tag := 0x4000 + 192, key := 5, prio := 0, payload := quad4 11 12 13 14 })] } }

/-- Fields of a unit instruction: Da 1, Db 0, Ap A1, Ac A2, Ar A0, mask 0, operator n. -/
def unitF (n : Nat) : BitVec 40 := fields [(35, 1), (26, 1), (22, 2), (8, n)]

/-- A search into the last words of the scratchpad: the table is there, four lanes are enabled, no entry is poisoned. -/
theorem witness_SearchesAndDrainsLeaveTheirResultsPending : let s := unitState 0x90 (unitF 0) 98272 0
    s.table? 1 (tableTag unitEnt unitImg 0) = some unitTable ∧ unitTable.ended = false ∧ (operator unitImg 0 [5, 7]).isSome = true
    ∧ (unitF 0).extractLsb' 0 8 = 0 ∧ (unitF 0).extractLsb' 18 4 = 0 ∧ uAp (unitF 0) = 1 ∧ 98272 + 8 * 3 + 8 ≤ 98304
    ∧ s.search 0 unitTable 5 ≠ .poisoned ∧ s.search 0 unitTable 6 ≠ .poisoned ∧ s.search 0 unitTable 7 ≠ .poisoned ∧ s.kma.poisoned = []
    ∧ (∀ n : Fin 4, (ctxOf 0).enabled (uKn (unitF 0)) n = true) ∧ (∀ n : Fin 4, (ctxOf 0).enabled (uKn (fields [(16, 1)])) n = false)
    ∧ (∀ n : Fin 4, ((ctxOf 0).spRead (98272 + 8 * n.val)).getLsbD 12 = false) ∧ s.kma.verifyDiscards < 2 ^ 48
    ∧ 0 + 24577 ≤ 98304 ∧ (s.tableEntries 1 (0x4000 + 192)).map Prod.fst = [3] := by decide +kernel

def ksrchF : BitVec 40 := fields [(35, 1), (26, 1), (8, 0)]

/-- KSRCH of keys 5, 6, 5, 7: lane 0 finds its entry with its payload, lane 1 finds none. -/
theorem test_ksrch : (after (exec (.ksrch 0 ksrchF) (unitState 0x90 ksrchF 98272 0))).map
    (fun c => (c.pending.map fun p => (p.first, p.len), (c.pending.map fun p => (p.words.drop 2).take 4), c.pc))
    = some ([(98272, 8), (98280, 8), (98288, 8), (98296, 8)],
        [[(98274, 11), (98275, 12), (98276, 13), (98277, 14)], [(98282, 0), (98283, 0), (98284, 0), (98285, 0)],
         [(98290, 11), (98291, 12), (98292, 13), (98293, 14)], [(98298, 0), (98299, 0), (98300, 0), (98301, 0)]], 1) := by decide +kernel

def kinsF : BitVec 40 := fields [(35, 1), (26, 1), (8, 0)]
def kaggF (n : Nat) : BitVec 40 := fields [(35, 1), (26, 1), (8, n)]

/-- Four records fit the four that the quota point allowed; the words lie at the end of the scratchpad. -/
theorem witness_InsertsAndAggregatesIssueTheirRecords : let s := unitState 0x92 kinsF 98284 0
    kinsF.extractLsb' 0 8 = 0 ∧ kinsF.extractLsb' 18 8 = 0 ∧ operator unitImg 0 [5] = some { op0 5 with arg2 := 4 * 2 ^ 17 }
    ∧ acts s unitEnt unitImg 0 = true ∧ (s.table? 1 (tableTag unitEnt unitImg 0)).isSome = true ∧ unitTable.dict = false
    ∧ operator unitImg 1 [7] = some (op0 7) ∧ operator unitImg 7 [7] = some { op0 7 with arg3 := 2 * 2 ^ 16 }
    ∧ acts s unitEnt unitImg 7 = true ∧ 98284 + 5 * 3 + 5 ≤ 98304 ∧ ((s.head? 0).map Ctx.allowed) = some 4 := by decide +kernel

/-- With room for two groups, keys 5, 6, 5, 7 make two groups and evict the group of key 5 for key 7. -/
theorem test_kagg_evicts : (match exec (.kagg 0 (kaggF 7)) (unitState 0x93 (kaggF 7) 98284 0) with
    | .next u => ((u.head? 0).map fun c => (c.localGroups 7).map Group.key, u.tiles[0].merge.map fun r => match r.kind with
      | .group g => g.key.toNat
      | _ => 0)
    | _ => (none, [])) = (some [6, 7], [5]) := by decide +kernel

/-- The entry with two runs of two elements. -/
def runsEnt : WorkEntry := { unitEnt with runs := [⟨2, 0, 0, 0, 0, 2⟩, ⟨2, 0, 0, 1, 1536, 2⟩] }

/-- Three elements of one key word and one payload word at A1, for run 0; the sort keeps three. -/
theorem witness_SortInstructionsFormMergeAndDeliverRuns : let f := fields [(26, 1), (22, 2), (18, 0), (8, 2)]
    let g := fields [(26, 1), (22, 2), (8, 3)]
    let s := unitState 0x95 f 98288 4
    f.extractLsb' 0 8 = 0 ∧ f.extractLsb' 30 10 = 0 ∧ f.extractLsb' 16 2 = 0 ∧ g.extractLsb' 18 4 = 0
    ∧ (operator unitImg 2 [8]).isSome = true ∧ acts s unitEnt unitImg 2 = true ∧ 98288 + 4 * 4 ≤ 98304
    ∧ (0 + 1) * 64 * 4 * 6 ≤ descSegs (s.desc 1 5) / 2 / 1 * 1048512 ∧ descBase (s.desc 1 5) % slotBytes = 0
    ∧ (unitEnt.sortState 2).ready = true ∧ (runsEnt.sortState 2).ready = false ∧ (((runsEnt.sortState 2).src ++ (runsEnt.sortState 2).next).map fun p => p.2).sum = 4
    ∧ ((operator unitImg 3 [1]).map fun o => (o.flags % 4, o.arg4 % 2 ^ 17)) = some (2, 70000) ∧ (unitImg.ops[2]?).isSome = true := by
  decide +kernel

/-- RUN_SEL is open to them, and every word there is resident and as it was written. -/
theorem witness_SortInstructions_memory (op : BitVec 8) (f : BitVec 40) (a n : Nat) (store : Bool) (l : List Nat) :
    Opens (unitState op f a n) unitEnt unitImg store (BitVec.ofNat 48 (5 * 2 ^ 36)) (serving0.desc 1 5)
    ∧ ∀ x ∈ l, (unitState op f a n).resident (x / slotBytes) = true ∧ LineGood (unitState op f a n) (lineOf x) :=
  ⟨opens_span' _ _ _ _ _ rfl rfl rfl (by decide +kernel), fun _ _ => ⟨rfl, running_line_good (ctxOf 0) unitEnt _⟩⟩

/-- A Carafe of 64 bytes with a place in the result area: A1 names its words, A2 its length. -/
theorem witness_CarafeHandOffQueuesOneDescriptor : let f := fields [(26, 1), (22, 2), (8, 4)]
    let s := unitState 0x98 f 1000 64
    f.extractLsb' 0 8 = 0 ∧ f.extractLsb' 30 10 = 0 ∧ f.extractLsb' 16 6 = 0 ∧ operator unitImg 4 [9] = some { op0 9 with arg3 := 100 * 2 ^ 17 }
    ∧ 64 ≤ 6 * 100 ∧ acts s unitEnt unitImg 4 = true ∧ unitEnt.fail = none ∧ s.mover.channels[0].disable = false
    ∧ s.mover.channels[0].queue.length < 8
    ∧ (match placeCarafe s (ctxOf 0) unitEnt { op0 9 with arg3 := 100 * 2 ^ 17 } 4 64 0 with
      | .ok p => p.space == 0
      | .error _ => false) = true
    ∧ (match placeCarafe s (ctxOf 0) unitEnt { op0 9 with arg1 := 5, arg3 := 100 * 2 ^ 17 } 8 64 0 with
      | .ok p => p.space == 1
      | .error _ => false) = true := by decide +kernel

/-- The span an EMIT may name is open to it. -/
theorem witness_CarafeHandOff_target (op : BitVec 8) (f : BitVec 40) (a n : Nat) :
    ∃ d, Opens (unitState op f a n) unitEnt unitImg true (BitVec.ofNat 48 (5 * 2 ^ 36)) d := ⟨_, opens_span' _ _ _ _ _ rfl rfl rfl (by decide +kernel)⟩

theorem test_chand : (match exec (.chand 0 (fields [(26, 1), (22, 2), (8, 4)])) (unitState 0x98 (fields [(26, 1), (22, 2), (8, 4)]) 1000 64) with
    | .next u => ((u.head? 0).map fun c => (c.pc, c.pending.map fun p => (p.first, p.len, p.carafe)), u.mover.channels[0].queue.length,
        u.work.map WorkEntry.carafes)
    | _ => (none, 0, [])) = (some (1, [(1000, 11, true)]), 1, [1]) := by decide +kernel

/-- A context at its END with two local tables of one group. -/
def endCtx : Ctx := { ctxOf (instrWord 0xA1 0) with locals :=
  [{ op := 7, groups := [{ key := 6, rows := [] }] }, { op := 1, groups := [{ key := 5, rows := [] }] }] }

/-- Steps 0, 2, 5 and 8 with counts at the ends of their ranges, and counters that take them. -/
theorem witness_QuotaPointsChargeTheStep : let s := unitState 0xA0 0 0 0
    qptKind unitImg 5 0 = true ∧ qptKind unitImg 6 5 = true ∧ qptKind unitImg 0 8 = true ∧ unitImg.ops[6]? = some { op0 4 with cycles := 48 }
    ∧ checkedFailure (ctxOf 0) = none ∧ 4 ≤ s.frame.header.quota ∧ s.tiles[0].beats + 256 ≤ s.frame.header.quota
    ∧ s.tiles[0].records + 4 ≤ s.frame.header.mergeAllow ∧ unitEnt.fail = none
    ∧ qptKind unitImg 7 10 = true ∧ ((endCtx.localGroups 7).take 1).length = 1 ∧ chargeOf s endCtx unitEnt unitImg 7 10 0 (op0 7) = .cost 1 1 := by
  decide +kernel

/-- A flush step (STEP 0xA) sends the one group of operator 7 as a record (R125). -/
theorem test_qpt_flushes : let f := fields [(32, 7), (28, 10)]
    (match exec (.qpt 0 f) (running { endCtx with code := [instrWord 0xA0 f] } unitEnt) with
    | .next u => (u.tiles[0].merge.map MergeRecord.op, u.tiles[0].beats, (u.head? 0).map fun c => (c.localGroups 7).length)
    | _ => ([], 0, none)) = ([7], 1, some 0) := by decide +kernel

/-- QPT of step 5 over 4,096 rows of a PROJECT of 48 cycles: 1 + ⌈48 × 1,024 / 16⌉ beats do not fit, so the tile yields; step 0 charges 2. -/
theorem test_qpt : (match exec (.qpt 0 (fields [(32, 5), (28, 0)])) (unitState 0xA0 (fields [(32, 5), (28, 0)]) 0 0) with
    | .next u => (u.tiles[0].beats, u.tiles[0].yielded, (u.head? 0).map Ctx.pc)
    | _ => (0, true, none)) = (2, false, some 1) := by decide +kernel

theorem test_qpt_yields : (match exec (.qpt 0 (fields [(32, 6), (28, 5), (24, 2)])) (unitState 0xA0 (fields [(32, 6), (28, 5), (24, 2)]) 0 4096) with
    | .next u => (u.tiles[0].beats, u.tiles[0].yielded, (u.head? 0).map Ctx.pc)
    | _ => (0, true, none)) = (0, true, some 0) := by decide +kernel

theorem witness_EndFlushesTheGroupsAndFinishesThePart : Runs (running endCtx ent0) 0 (instrWord 0xA1 0) endCtx ent0 img0
    ∧ endCtx.pending = [] ∧ checkedFailure endCtx = none ∧ ent0.fail = none ∧ (endCtx.locals.map fun l => l.op).Nodup
    ∧ (running endCtx ent0).tiles[0].beats + 2 ≤ 500 :=
  ⟨running_runs _ _ _ _ rfl rfl rfl rfl (by decide +kernel) rfl rfl, rfl, by decide +kernel, rfl, by decide +kernel, by decide +kernel⟩

/-- The groups leave in operator order (R161). -/
theorem test_end_flushes : (match exec (.endStage 0 0) (running endCtx ent0) with
    | .next u => (u.tiles[0].beats, u.tiles[0].merge.map MergeRecord.op, u.work.map WorkEntry.done, u.tiles[0].yielded)
    | _ => (0, [], [], false)) = (2, [1, 7], [[0]], true) := by decide +kernel

/-! ### Control and traps -/

def debugEnt : WorkEntry := { ent0 with entry := BitVec.ofNat 512 4096 }

theorem witness_NopBreakpointAndTrapMode : Runs (running (ctxOf (instrWord 0xA3 0)) debugEnt) 0 (instrWord 0xA3 0) (ctxOf (instrWord 0xA3 0)) debugEnt img0
    ∧ debugEnt.entry.getLsbD 12 = true ∧ ent0.entry.getLsbD 12 = false ∧ trapCtx.pc ≠ 0x3FFF ∧ trapCtx.trap ≠ none ∧ ent0.fail = none
    ∧ (∀ n : Fin 21, (n.val ≤ 4 ∨ 8 ≤ n.val) → ((fields [(26, n.val)]).extractLsb' 26 5).toNat = n.val ∧ (fields [(26, n.val)]).extractLsb' 31 5 = 0
      ∧ (fields [(26, n.val)]).extractLsb' 0 26 = 0) :=
  ⟨running_runs _ _ _ _ rfl rfl rfl rfl (by decide +kernel) rfl rfl, by decide +kernel, by decide +kernel, by decide +kernel,
    by decide +kernel, rfl, by decide +kernel⟩

/-- BRK does nothing without DEBUG and traps with it (R169). -/
theorem test_brk : (after (exec (.brk 0 0) (running (ctxOf (instrWord 0xA3 0)) ent0))).map Ctx.pc = some 1
    ∧ (after (exec (.brk 0 0) (running (ctxOf (instrWord 0xA3 0)) debugEnt))).map (fun c => (c.pc, c.trap.map fun r => r.tcause)) = some (0x3C50, some 5) := by
  decide +kernel

/-- TSKIP leaves trap mode at TPC + 1 (R167). -/
theorem test_tskip : (after (exec (.tskip 0 0) (handling (instrWord 0xB4 0)))).map (fun c => (c.pc, c.trap)) = some (8, none) := by decide +kernel

/-- A vector of another cause ends the entry at once, whatever the library holds (R167). -/
theorem test_other_vector : (running trapCtx ent0).fetch { trapCtx with trap := trapCtx.trap.map fun r => { r with tcause := 4 } } = instrWord 0xB5 0 := by
  decide +kernel

/-- The first and last opcode beside every range of R174, in a program. -/
theorem witness_UndefinedOpcodesTakeTheEmulateTrap : ∀ op ∈ [0x00, 0x0E, 0x0F, 0x16, 0x1F, 0x51, 0x5D, 0x69, 0x7A, 0x87, 0x99, 0xA4, 0xB6, 0xC4, 0xFF],
    ∀ r ∈ [(0x01, 0x0D), (0x10, 0x15), (0x20, 0x50), (0x52, 0x5C), (0x60, 0x68), (0x70, 0x79), (0x80, 0x86), (0x90, 0x98), (0xA0, 0xA3), (0xB0, 0xB5)],
    (op * 2 ^ 40) / 2 ^ 40 < r.1 ∨ r.2 < (op * 2 ^ 40) / 2 ^ 40 := by decide +kernel

theorem test_undefined : (after (exec (.undefinedOpcode 0 0x510000000000) (running (ctxOf 0x510000000000) ent0))).map
    (fun c => (c.pc, c.trap.map fun r => (r.tcause, r.tinst))) = some (0x3C10, some (1, 0x510000000000)) := by decide +kernel

/-- A reserved bit, K0 as a destination, a condition past the last, and an opcode of the handler. -/
theorem witness_ReservedFieldsTakeTheEmulateTrap : (fields [(31, 1)]).extractLsb' 0 32 ≠ 0 ∧ (0 : BitVec 40).extractLsb' 38 2 = 0
    ∧ 6 ≤ ((fields [(37, 6)]).extractLsb' 37 3).toNat ∧ 14 ≤ ((fields [(36, 14)]).extractLsb' 36 4).toNat
    ∧ ((fields [(34, 3)]).extractLsb' 34 2).toNat = 3 ∧ (ctxOf 0).trap = none := by decide +kernel

theorem test_reserved : (after (exec (.mova 0 1) (running (ctxOf (instrWord 0x01 1)) ent0))).map (fun c => (c.pc, c.a)) = some (0x3C10, Vector.replicate 16 0)
    ∧ (after (exec (.tretry 0 0) (running (ctxOf (instrWord 0xB3 0)) ent0))).map Ctx.pc = some 0x3C10 := by decide +kernel

/-- Index 0x3BFF goes on to 0x3C00, where a program stops; a handler stops after 0x3FFF. -/
theorem witness_PcTrapsStopAProgramAtTheTrapRegion : 0x3C00 ≤ ({ ctxOf 0 with pc := 0x3C00 } : Ctx).pc.toNat
    ∧ 0x3C00 ≤ (fTarget (fields [(0, 0x3C00)])).toNat ∧ (fields [(0, 0x3C00)]).extractLsb' 14 26 = 0
    ∧ ({ trapCtx with pc := 0x3FFF } : Ctx).trap ≠ none := by decide +kernel

theorem test_pc_trap : (after (exec (.nop 0 0) (running { ctxOf (instrWord 0xA2 0) with pc := 0x3C00 } ent0))).map
    (fun c => (c.pc, c.trap.map fun r => (r.tcause, r.taddr, r.tpc))) = some (0x3C40, some (4, 0x3C00, 0x3C00)) := by decide +kernel

/-- Tests 5, 3, 4, 7 and 6 fail for these addresses, and an absent slot passes them all. -/
theorem witness_FailedAccessesTrapOrWait : let d := serving0.desc 1 5
    selOf 0x006000000000 = 6 ∧ (∀ p ∈ img0.sets, p.1 = 6 → False) ∧ descLimit d < 3 * 1048576 + 5 ∧ 5 ≤ descLimit d
    ∧ (descBase d + 3) % slotBytes % 6 ≠ 0 ∧ (descBase d + 3) % slotBytes ≤ lineArea + 54 ∧ lineArea ≤ (descBase d + 0xFFFC0) % slotBytes
    ∧ (descBase d + 0xFFFC0) % slotBytes % 6 = 0 ∧ ¬ (1 * (descSegs d / 2) * slotBytes ≤ 0 ∧ 0 < 2 * (descSegs d / 2) * slotBytes)
    ∧ State.reset.resident 2 = false ∧ (2 : Nat) ∉ State.reset.mem.lost ∧ serving0.replaying = false
    ∧ descKind (serving0.desc 1 6) = 0 := by decide +kernel

/-- A word that is not resident: the tile waits and asks for the slot, and stays at its instruction (R162). -/
theorem test_wait_for_slot : (match exec (.ldw 0 0) { running (memCtx 0x70 0 eaFirst) ent0 with mem := State.reset.mem } with
    | .next u => ((u.head? 0).map fun c => (c.pc, c.waiting), u.persist.demand)
    | _ => (none, [])) = (some (0, some 2), [2]) := by decide +kernel

/-! ### Host interface, tables, digest engine -/

/-- Objects set to values. -/
def withOd (s : State) (l : List (Nat × Nat × Nat)) : State := l.foldl (fun s x => s.odSet x.1 x.2.1 x.2.2) s

/-- Submission ring 7 of instance 3 with 2 ^ 6 entries and burst 2, completing in ring 9, both in use; spans for images and staging. -/
def ringState : State :=
  let c : Word := BitVec.ofNat 48 (1 + 6 * 2 + 3 * 2 ^ 12 + 9 * 2 ^ 18 + 2 ^ 30 + 2 * 2 ^ 38)
  let q : Word := BitVec.ofNat 48 (1 + 6 * 2 + 3 * 2 ^ 12 + 5 * 2 ^ 18)
  let s := withOd serving0 [(0x2010, 1, 8), (0x4004, 1, 8)]
  let s := { s with host := { s.host with link := .l0, fns := s.host.fns.map fun (x : Function) => { x with busMaster := true, msixEnable := true }, vfEnable := true, numVfs := 63,
                                          descs := [(8, BitVec.ofNat 192 (100 * 1048576 + (64 * 1048576 - 1) * 2 ^ 48 + 3 * 2 ^ 96 + 4 * 2 ^ 108))] } }
  (s.setSq 7 { s.sq 7 with inEffect := { (s.sq 7).inEffect with config := c }, state := 1, producer := 4 }).setCq 9
    { s.cq 9 with inEffect := { (s.cq 9).inEffect with config := q }, state := 1 }

def keptOne : Completion := { inst := 3, cq := 9, bytes := 0, frame := 1, counts := true, places := 1 }

def rd0 (n : Nat) (waits : Bool) : ReadEntry := { index := n, entry := 0, desc := 0, image := none, refuse := 0, waitsImage := waits }

/-- Doorbells of the owner and of another, index blocks of a ring that runs and of one being enabled, at the ring's size and above. -/
theorem witness_RingCommandsActOnTheirRing : let s := ringState
    s.resetting 3 = false ∧ (s.sq 7).inEffect.enable = true ∧ (s.sq 7).inEffect.inst = 3 ∧ (s.sq 7).state = 1 ∧ (s.cq 9).inEffect.enable = true
    ∧ (s.cq 9).inEffect.inst = 3 ∧ (s.cq 9).state = 1 ∧ (s.sq 8).inEffect.enable = false ∧ (s.sq 7).enabling = false
    ∧ ((64 : BitVec 32) - (s.sq 7).consumer).toNat ≤ 2 ^ (s.sq 7).inEffect.log2 ∧ 2 ^ (s.sq 7).inEffect.log2 < ((65 : BitVec 32) - (s.sq 7).consumer).toNat
    ∧ s.hostHeld 3 = false ∧ s.hostStopped 3 = false ∧ ((s.setSq 7 { s.sq 7 with reading := 1, enabling := true }).sq 7).enabling = true
    ∧ ((s.setSq 7 { s.sq 7 with reading := 1 }).sq 7).reading ≠ 0 ∧ ((s.setCq 9 { s.cq 9 with reading := 2 }).cq 9).reading ≠ 0
    ∧ ((s.cq 9).producer - 0).toNat ≤ 2 ^ (s.cq 9).inEffect.log2 ∧ 2 ^ (s.cq 9).inEffect.log2 < ((s.cq 9).producer - 2).toNat
    ∧ s.canRead 7 = true ∧ s.canReadWrites = true ∧ s.imageStore = some 67108864 ∧ s.imageBytes = 0
    ∧ (∀ z ∈ [rd0 0 false], z.waitsImage = false) ∧ (rd0 1 true).waitsImage = true := by decide +kernel

/-- A NOP entry takes the next place of ring 7 and one of ring 9. -/
theorem test_nop_entry : (match exec (.nopEntry 7 (BitVec.ofNat 512 5)) ringState with
    | .next u => ((u.sq 7).entries.map ReadEntry.index, (u.sq 7).readPos, (u.cq 9).reserved)
    | _ => ([], 0, 0)) = ([0], 1, 1) := by decide +kernel

theorem test_ring_overrun : (match exec (.indexBlockReadComplete false 7 (some (65, 0))) (ringState.setSq 7 { ringState.sq 7 with reading := 1 }) with
    | .next u => ((u.sq 7).error, u.host.ringErrors)
    | _ => (0, 0)) = (1, 1) := by decide +kernel

/-- An interrupt timer that runs, blocked and not; PME set and clear; a masked vector whose message waits; training at both widths. -/
theorem witness_InterruptAndFunctionCommands : let s := ringState.setCq 9 { ringState.cq 9 with timer := true }
    (s.cq 9).timer = true ∧ s.irqBlocked (s.cq 9).inEffect.inst = false ∧ (s.cq 9).irqHeld = false ∧ (s.cq 9).unseen = 0
    ∧ { s.cq 9 with irqCount := 1, kept := [keptOne] }.irqCount ≤ { s.cq 9 with irqCount := 1, kept := [keptOne] }.unseen
    ∧ s.host.fns[3].msixEnable = true
    ∧ ({ s with host := { s.host with link := .l1 } } : State).irqBlocked 3 = true ∧ s.host.fns[3].pmeStatus = false ∧ s.resetting 3 = false
    ∧ s.host.fns[3].functionMask = false ∧ s.irqBlocked 3 = false ∧ s.host.link = .l0
    ∧ ({ s with pins := { s.pins with perstN := true }, moth := { s.moth with pwrgood := true } } : State).moth.pwrgood = true := by decide +kernel

theorem test_unmask_sends : (match exec (.msixUnmask 3 (some 63)) { ringState with host := { ringState.host with
      fns := ringState.host.fns.set 3 { ringState.host.fns[3] with pba := BitVec.ofNat 64 (2 ^ 63), msixTable := [(63, 0xFEE)] } } } with
    | .next u => (u.host.sent, u.host.fns[3].pba)
    | _ => ([], 1)) = ([.msix 3 63 0xFEE], 0) := by decide +kernel

/-- An instance with an empty and with a full mailbox, and its function enabled. -/
theorem witness_MailboxAndResetCommands : let s := ringState
    s.host.insts[63].mailbox.outFull = false ∧ s.host.insts[63].mailbox.inFull = false ∧ s.host.vfEnable = true ∧ 63 ≤ s.host.numVfs
    ∧ (1 : BitVec 64).getLsbD 0 = true ∧ (s.setMailbox 63 { s.host.insts[63].mailbox with outFull := true }).host.insts[63].mailbox.outFull = true := by
  decide +kernel

theorem test_mailbox_reject : (match exec (.outDoorbellSend 63 .qword 1) (ringState.setMailbox 63 { emptyMailbox with outFull := true }) with
    | .next u => (u.host.insts[63].mailbox.outReject, u.host.insts[63].mailbox.outFull)
    | _ => (false, false)) = (true, true) := by decide +kernel

/-- A table command descriptor: OP, FLAGS, instance 1, BANKSET, handle 5, CAPACITY, records. -/
def tcDesc (op flags bankset cap n : Nat) : BitVec 512 :=
  BitVec.ofNat 512 (op + flags * 2 ^ 8 + 1 * 2 ^ 16 + bankset * 2 ^ 24 + 5 * 2 ^ 32 + cap * 2 ^ 48 + n * 2 ^ 192)

/-- A merge whose next command is a TABLE entry with this descriptor, and a table with one entry. -/
def tableState (desc : BitVec 512) (present ordered : Bool) : State :=
  let e : WorkEntry := { ent0 with entry := BitVec.ofNat 512 (3 + 256), desc := desc, image := none }
  { serving0 with
    work := [e]
    frame := { serving0.frame with merging := true }
    kma := { serving0.kma with
      tables := if present then [{ unitTable with tag := 5, ordered := ordered, perBank := 1024, extents := (List.range 16).map fun i => (0, 112 + i) }] else []
      entries := if present && !ordered then [(7168, { inst := 1, tag := 5, key := 5, prio := 0, payload := quadOf 0 })] else [] } }

/-- One LOAD record: key k, payload word 0 = p. -/
def loadRec (k p : Nat) : List Byte := leBytes 6 k ++ List.replicate 12 0 ++ leBytes 6 p ++ List.replicate 24 0

theorem witness_TableCommandsActOnTheirTable :
    (∀ op ∈ [1, 2, 3], let s := tableState (tcDesc op 0 (if op = 1 then 1 else 0) (if op = 1 then 1024 else 0) 0) true false
      (s.nextCommand 3 3 op).isSome = true ∧ (s.table? 1 5).isSome = true ∧ tcArgument (tcDesc op 0 0 0 0) = false)
    ∧ (∀ op ∈ [1, 2, 3], let s := tableState (tcDesc op 0 (if op = 1 then 1 else 0) (if op = 1 then 1024 else 0) 0) false false
      (s.nextCommand 3 3 op).isSome = true ∧ s.table? 1 5 = none ∧ s.replaying = false)
    ∧ (∀ ordered, let s := tableState (tcDesc 4 0 0 0 1) true ordered
      (s.nextCommand 3 3 4).isSome = true ∧ s.fromRecords = false ∧ tcArgument (tcDesc 4 0 0 0 1) = false
      ∧ ((s.table? 1 5).map fun tb => (s.spanWait (s.tableSlots tb), (s.hashPlace tb 6).isSome, tb.spilled)) = some (none, true, [])
      ∧ (ordered = true → s.tableEntries 1 5 = []))
    ∧ (loadRec 6 1).length = 48 ∧ entryField (tcDesc 4 0 0 0 1) 24 4 = 1 ∧ (!fits (fieldNat (loadRec 6 1) 12 6) 16 || fieldNat (loadRec 6 1) 42 6 != 0) = false
    ∧ tcFlag (tcDesc 1 0 1 1024 0) 2 = false ∧ entryField (tcDesc 1 0 1 1024 0) 6 4 = 1024 ∧ entryField (tcDesc 1 0 1 1024 0) 3 1 = 1 ∧ ascending ([1, 2].map fun k => loadRecord 1 5 (loadRec k 0)) = true
    ∧ ascending ([2, 2].map fun k => loadRecord 1 5 (loadRec k 0)) = false := by decide +kernel

/-- CLEAR empties the table and answers LIMIT 1,024 and no entries. -/
theorem test_table_clear : (match exec (.tableClear 3) (tableState (tcDesc 2 0 0 0 0) true false) with
    | .next u => (u.kma.entries, u.kma.tables.length, u.work.map WorkEntry.finished)
    | _ => ([], 0, [])) = ([], 1, [some (0, 0, 0)]) := by decide +kernel

/-- A merge with every tile yielded, a SET_DESCRIPTOR next, and a SQUASH under way. -/
def mergeState (entry desc : BitVec 512) (merging : Bool) : State :=
  let s := running (ctxOf 0) { ent0 with entry := entry, desc := desc }
  { s with tiles := s.tiles.map fun (x : Tile) => { x with yielded := true, ctxs := [] }, frame := { s.frame with merging := merging } }

theorem witness_MergeSetDescriptorAndSquash : let s := mergeState 0 0 false
    s.executing = true ∧ (∀ t : Fin 64, s.tiles[t].yielded = true) ∧ s.spanJobsDone = true ∧ s.mergeWait = none
    ∧ s.mergeRecords = [] ∧ ((mergeState (BitVec.ofNat 512 260) (BitVec.ofNat 512 1) true).nextCommand 3 4 1).isSome = true
    ∧ (({ ent0 with entry := BitVec.ofNat 512 260, desc := BitVec.ofNat 512 (2 + 9 * 2 ^ 8), active := false } : WorkEntry).squashes) = true
    ∧ entryField (BitVec.ofNat 512 (2 + 9 * 2 ^ 8)) 1 1 = 9 ∧ s.kma.cam = [] ∧ s.kma.sram = [] ∧ (∀ e ∈ s.work, e.job = none) ∧ s.kma.tables = []
    ∧ (∀ e ∈ s.work, e.fail = none ∧ e.finished = none ∧ e.active = true ∧ e.image = some img0 ∧ ∀ y ∈ s.work, y.slot = e.slot → y = e)
    ∧ (∀ t ∈ img0.stageTiles 0, t.val ∈ ent0.done) := by decide +kernel

/-- With no record there is nothing to fail. -/
theorem witness_MergeSetDescriptorAndSquash_records : (mergeState 0 0 false).applyRecords [] = .ok (mergeState 0 0 false) := rfl

/-- An entry with a failure; a SQUASH of instance 9 in the work table. -/
theorem witness_MergeSetDescriptorAndSquash_entries : (let e := { ent0 with fail := some ⟨0, 0, 0x0601, 0⟩ }
      ((running (ctxOf 0) e).entry? 3).map (fun x => x.fail.isSome) = some true)
    ∧ (let e := { ent0 with entry := BitVec.ofNat 512 260, desc := BitVec.ofNat 512 (2 + 9 * 2 ^ 8), active := false, image := none }
      (({ mergeState 0 0 false with work := [e] } : State).work.find? fun x => x.slot == 3 && x.squashes).isSome = true) := by decide +kernel

/-- The worked example of R42: COUNT 5, two records of tile 9 and two of tile 2 as updates of one key; T02 applies first, so
COUNT becomes 8 and LAST_TS the value of T09. Word 0 adds, word 1 replaces. -/
def mergeExample : State :=
  let img : Image := { img0 with ops := [{ op0 7 with arg3 := 0x51, arg4 := 5 * 2 ^ 34 }] }
  let s := { tableState 0 true false with work := [{ ent0 with image := some img }], frame := serving0.frame }
  let s := { s with tiles := s.tiles.map fun (x : Tile) => { x with yielded := true } }
  let up (a b : Word) : MergeRecord := { slot := 3, op := 0, kind := .update 5 (quad4 a b 0 0) 0xF }
  { s with
    kma := { s.kma with entries := [(7168, { inst := 1, tag := 5, key := 5, prio := 0, payload := quad4 5 0 0 0 })] }
    tiles := (s.tiles.set 9 { s.tiles[9] with merge := [up 2 1717236000450] }).set 2 { s.tiles[2] with merge := [up 1 1717236000910] } }

theorem test_merge_example : (match exec .frameMerge mergeExample with
    | .next u => (u.kma.entries.map fun p => p.2.payload, u.frame.mergeDone, u.tiles[9].merge)
    | _ => ([], false, [])) = ([quad4 8 1717236000450 0 0], true, []) := by decide +kernel

/-- A free context and none, keys of the instance's own range, handles in each state. -/
def digestState (st : Nat) : State :=
  let s := withOd serving0 [(0x2104, 6, 32), (0x2104, 7, 16), (0x2104, 8, 2)]
  let s := s.putKey 40 (List.replicate 48 1)
  s.setHandle 64 { freeHandle with state := st, alg := 1, ctxAlg := 1 }

theorem witness_DigestCommandsActOnTheirHandle : let s := digestState 0
    s.portClosed 4 = false ∧ (s.handle 64).state = 0 ∧ s.freeContext = some 0 ∧ s.contextsHeld 4 < s.contextQuota 4
    ∧ (BitVec.ofNat 48 0x11).extractLsb' 0 4 = 1#4 ∧ ((s.handle 64).ctrl (BitVec.ofNat 48 0x11)).alg = 1
    ∧ ((s.handle 64).ctrl (BitVec.ofNat 48 0x31)).alg = 3 ∧ ((s.handle 64).ctrl (BitVec.ofNat 48 0x11)).hmac = false
    ∧ ((s.handle 64).ctrl (BitVec.ofNat 48 0x2800A1)).hmac = true ∧ ((s.handle 64).ctrl (BitVec.ofNat 48 0x2800A1)).keySlot = 40
    ∧ s.ownsKey 4 40 = true ∧ s.ownsKey 4 47 = true ∧ s.ownsKey 4 48 = false ∧ s.ownsKey 4 31 = false ∧ s.keyAt 40 ≠ [] ∧ s.keyAt 41 = []
    ∧ ((List.range 13).foldl (fun (s : State) c => s.setHandle c { freeHandle with state := 2, ctx := c }) s).freeContext = none
    ∧ ((digestState 2).handle 64).state = 2 ∧ (digestState 2).digest.queue = [] ∧ ((digestState 3).handle 64).waiting = []
    ∧ ((digestState 4).handle 64).lastCnt < 7 ∧ ((digestState 4).handle 64).expected.length ≤ 60 := by decide +kernel

/-- The OPEN of the worked example of the key store: key slot 40, HMAC, ALG 2, while contexts 0 to 12 are held. -/
theorem test_dg_open_waits : (match exec (.dgOpen 4 0 (BitVec.ofNat 48 0x2800A1))
      ((List.range 13).foldl (fun (s : State) c => s.setHandle c { freeHandle with state := 2, ctx := c }) (digestState 0)) with
    | .next u => ((u.handle 64).state, u.digest.queue)
    | _ => (9, [])) = (1, [64]) := by decide +kernel

/-- With KEY_SLOT 30 the same OPEN is refused with NOT_PERMITTED and takes no place. -/
theorem test_dg_open_refused : (match exec (.dgOpen 4 0 (BitVec.ofNat 48 0x1E00A1)) (digestState 0) with
    | .next u => ((u.handle 64).state, (u.handle 64).err, u.digest.queue)
    | _ => (9, 0, [])) = (0, 3, []) := by decide +kernel

/-- SHA-256 of the empty message (FIPS 180-4). -/
theorem test_sha256_empty : (hashOf 1 []).take 4 = [0xE3, 0xB0, 0xC4, 0x42] := by decide +kernel

/-- A buffer at 60 and at 66 bytes, and lengths up to 64 and above. -/
theorem witness_KeyLoadPortStoresKeys : let s := (digestState 0).setKeyPort 4 { slot := 40, buffer := List.replicate 60 7, err := 0 }
    (s.keyPort 4).buffer.length ≤ 60 ∧ s.ownsKey 4 (s.keyPort 4).slot = true ∧ ((BitVec.ofNat 48 60).extractLsb' 0 7).toNat ≤ (s.keyPort 4).buffer.length
    ∧ 60 < ((s.setKeyPort 4 { slot := 40, buffer := List.replicate 66 7, err := 0 }).keyPort 4).buffer.length
    ∧ 64 < ((BitVec.ofNat 48 65).extractLsb' 0 7).toNat := by decide +kernel

theorem test_ks_commit : (match exec (.ksCommit 4 48) ((digestState 0).setKeyPort 4 { slot := 41, buffer := List.replicate 66 7, err := 0 }) with
    | .next u => (u.keyAt 41 == List.replicate 48 7, u.keyAt 40 == List.replicate 48 1, (u.keyPort 4).buffer)
    | _ => (false, false, [])) = (true, true, []) := by decide +kernel

/-! ### Mover and durability -/

/-- Channel 24 with a descriptor at module address 64 of slot 2 queued, and channel 0 with a descriptor of 200 bytes in progress. -/
def moveDesc (src dst : Nat) : MoverDesc :=
  { ma := 2097216, next := 0, srcSpace := src, dstSpace := dst, evtRd := true, evtWr := false, ro := false,
    src := if src = 0 then 0x10000FC0 else if src = 1 then 3145728 else if src = 2 then 1000 else 0x40,
    dst := if dst = 0 then 0x20000F80 else if dst = 1 then 4194304 else 0x41, len := 200, inst := 3, tag := 9, entry := none }

def moverState (src dst : Nat) : State :=
  let s := { ringState with mem := { ringState.mem with bytes := putBytes [] 2097216 (List.replicate 6 0 ++ [5, 1] ++ leBytes 8 3145728 ++ leBytes 8 4194304 ++ leBytes 4 200 ++ [3, 0, 9, 0]) } }
  let s := s.setChannel 24 { s.mover.channels[24] with queue := [.ma 2097216] }
  s.setChannel 0 { s.mover.channels[0] with cur := some (moveDesc src dst), remain := 136, burst := 2, inflight := [{ off := 0, len := 64 }] }

theorem witness_MoverCommandsMoveTheirChannel : let s := moverState 0 1
    let x := s.mover.channels[24]
    x.disable = false ∧ x.queue.length < 8 ∧ x.canFetch = true ∧ x.next = none ∧ x.queue = [.ma 2097216] ∧ descPlaceOk s.e384 2097216 = true
    ∧ badDesc 24 (s.moduleBytes 2097216 32) (parseMover 2097216 (s.moduleBytes 2097216 32)) = false
    ∧ parseMover 2097216 (s.moduleBytes 2097216 32) = { moveDesc 1 1 with ma := 2097216 }
    ∧ badDesc 24 ((s.moduleBytes 2097216 32).set 29 1) (parseMover 0 ((s.moduleBytes 2097216 32).set 29 1)) = true
    ∧ rangeOk s.e384 1 (slotCount s.e384 * slotBytes) 200 = false ∧ rangeOk s.e384 1 3145728 200 = true ∧ rangeOk s.e384 1 4194304 200 = true ∧ (∀ y ∈ (moveDesc 1 1).slots 0 200, s.resident y = true)
    ∧ 0 < s.mover.channels[0].remain ∧ s.mover.channels[0].remain ≤ (moveDesc 0 1).len ∧ s.grant = some 0 ∧ serving0.grant = none
    ∧ s.mover.channels[0].inflight ≠ [] ∧ s.mover.channels[5].cur = none ∧ s.mover.channels[5].queue = [] := by decide +kernel

/-- A port is no place for a channel below 24 (R312). -/
theorem test_port_channel : let bs := List.replicate 6 0 ++ [13, 1] ++ leBytes 8 3145728 ++ leBytes 8 0x41 ++ leBytes 4 64 ++ [3, 0, 9, 0]
    badDesc 24 bs (parseMover 0 bs) = false ∧ badDesc 5 bs (parseMover 0 bs) = true := by decide +kernel

/-- The burst stops at the 4,096-byte host page of its source (R317): 64 of 136 bytes remain before it. -/
theorem test_burst_page : nextBurst { serving0.mover.channels[0] with remain := 200, burst := 2 } { moveDesc 0 1 with src := 0x10000FE0 } = 32 := by decide +kernel

theorem test_bad_descriptor : (match exec (.descriptorFetch 24) { moverState 0 1 with mem := { (moverState 0 1).mem with
      bytes := putBytes [] 2097216 (List.replicate 24 0 ++ leBytes 4 0) } } with
    | .next u => (u.mover.channels[24].errCause, u.mover.channels[24].errCount, u.mover.errPulses)
    | _ => (0, 0, 0)) = (4, 1, 1) := by decide +kernel

/-- No line is in error in these states. -/
theorem mover_line_good (src dst : Nat) (l : Nat) : LineGood (moverState src dst) l :=
  ⟨List.not_mem_nil, fun _ h => absurd h List.not_mem_nil, fun _ h => absurd h List.not_mem_nil⟩

/-- Bursts from every space to every space; the function held and not; an instance that is being reset. -/
theorem witness_BurstsCarryTheirBytes : (∀ sd ∈ [(0, 1), (1, 0), (1, 1), (0, 0), (2, 0), (3, 1), (1, 3)], let s := moverState sd.1 sd.2
      s.mover.channels[0].cur = some (moveDesc sd.1 sd.2) ∧ s.mover.channels[0].inflight = { off := 0, len := 64 } :: []
      ∧ s.mover.channels[0].mode = .leave ∧ s.frame.squashing = [] ∧ (∀ y ∈ rangeSlots 3145728 64, s.gone y = false)
      ∧ s.hostStopped 3 = false ∧ s.hostHeld 3 = false ∧ s.resetting 3 = false ∧ (moveDesc 2 0).src / 2 ^ 17 = 0
      ∧ (running (ctxOf 0) ent0).tiles[0].ctxs.head? = some (ctxOf 0)
      ∧ (let h := { s with host := { s.host with fns := s.host.fns.map fun (x : Function) => { x with busMaster := false } } }
        h.hostHeld 3 = true ∧ h.hostStopped 3 = false ∧ h.holdBytes + h.holdReserved + 64 + 136 ≤ holdSize)
      ∧ (match exec (.functionLevelReset 3) s with
        | .next u => u.resetting 3
        | _ => false) = true)
    ∧ memoryWf (moverState 0 1) := by decide +kernel

theorem test_burst_bytes : (match exec (.burstReadComplete 0 ⟨some (List.replicate 63 1 ++ [2]), false⟩) (moverState 0 1) with
    | .next u => (u.bytesAt 4194366 3, u.mover.channels[0].inflight)
    | _ => ([], [])) = ([1, 2, 0], []) := by decide +kernel

def set0 : PersistSet :=
  { setId := List.replicate 16 1, generation := 4, chrysNo := 3, chrysFrame := 90, jposStart := 0, volumeBlocks := 211703808, jringBlocks := 16777216,
    storeUnits := 761344, mapSel := 0, keySource := 0, label := List.replicate 16 0, mode := 0, portMask := 15, width := 4 }

def chrys0 : Chrysalis :=
  { no := 4, frame := 99, tstamp := 0, jposStart := 7, bytesAt := 0, map := [], manifest := [], dirty := [], heat := [], sealed := false, format := false }

/-- An engine with a set and members, cocoons of frames 97 and 98 written, and a chrysalis in progress. -/
def persistState : State :=
  { serving0 with
    frame := { serving0.frame with frameNo := 100 }
    persist := { serving0.persist with
      state := 5
      set := some set0
      ports := serving0.persist.ports.map fun (x : PersistPort) => { x with state := 2, blocks := 52926208 }
      waiting := [{ frame := 97, jpos := 1, blocks := 1 }, { frame := 98, jpos := 2, blocks := 1 }]
      open_ := [97, 98]
      committed := 96
      chrysalis := some chrys0 } }

theorem witness_CommitFollowsCocoonsAndChrysalises : let s := persistState
    (∃ c ∈ s.persist.waiting, c.frame = 97) ∧ s.persist.state ≠ 6 ∧ s.frozen = false ∧ s.needsAck = false ∧ s.persist.open_ = 97 :: [98]
    ∧ 97 ∉ s.persist.lateRaised ∧ s.od 0x5000 1 = 0 ∧ s.persist.chrysalis = some chrys0 ∧ s.persist.set = some set0 ∧ chrys0.sealed = false
    ∧ serving0.persist.open_ = [] ∧ serving0.needsAck = false ∧ { chrys0 with sealed := true }.sealed = true := by decide +kernel

/-- The acknowledgement of frame 97 commits it, and 98 still holds the commit back (R357). -/
theorem test_commit : (match exec (.cocoonAcknowledged 97) persistState with
    | .next u => (u.persist.committed, u.persist.open_)
    | _ => (0, [])) = (97, [98]) := by decide +kernel

/-- Out of order, frame 98 commits nothing. -/
theorem test_commit_order : (match exec (.cocoonAcknowledged 98) persistState with
    | .next u => (u.persist.committed, u.persist.open_)
    | _ => (0, [])) = (96, [97]) := by decide +kernel

def ssd (blocks : Nat) : SsdIdentity := ⟨true, 4096, false, 131072, 63, blocks, true, 8, none⟩

/-- Identities at and below each bound of R366, for a port that initialises. The bound is the worked example's 52,926,208 blocks. -/
theorem witness_SsdEventsSetTheirPort : let s := withOd { persistState with persist := { persistState.persist with
      ports := persistState.persist.ports.map fun (x : PersistPort) => { x with state := 1 } } } [(0x4000, 3, 15)]
    s.persist.ports[0].state = 1 ∧ s.ssdReason 0 (ssd 52926208) = 0 ∧ s.blocksNeeded 0 none = 52926208 ∧ (ssd 52926207).blocks < s.blocksNeeded 0 none
    ∧ (131071 < 131072 ∧ 62 < 63) ∧ persistState.persist.ports[0].state = 2 ∧ persistState.persist.set = some set0 ∧ set0.mode = 0
    ∧ set0.portMask.testBit 3 = true ∧ persistState.persist.state = 5 := by decide +kernel

theorem test_ssd_loss : (match exec (.ssdLinkDown 3) persistState with
    | .next u => (u.persist.state, u.persist.ports[3].state, u.persist.ports[3].failReason, u.persist.committed)
    | _ => (0, 0, 0, 0)) = (6, 3, 1, 96) := by decide +kernel

/-- The first cocoon after a chrysalis at frame 90, sealed with the journal key of the state. -/
def cocoon (frame : Nat) : List Byte :=
  let h := cocoonHead frame 89 0 0 0 0 set0.setId { resetFrame.header with frameNo := frame }
  h ++ hmac256 [1, 2, 3] (sealInput h []) ++ List.replicate 3968 0

def replayState : State :=
  let s := persistState.putKey 255 [1, 2, 3]
  { s with
    boot := { s.boot with stage := 4 }
    frame := { s.frame with frameNo := 89, mergeDone := true }
    persist := { s.persist with state := 3, chrysalis := none, nextJpos := 0, replayPrev := none, waiting := [], open_ := [] } }

/-- A restore that may begin, with no copy and with copies of two sets; a key; a cocoon that is good and one that is not. -/
theorem witness_RestoreReplaysAndFetches : let s := replayState
    s.replaying = true ∧ s.frame.mergeDone = true ∧ s.persist.set = some set0 ∧ s.cocoonGood set0 (cocoon 90) = true ∧ s.cocoonGood set0 (List.replicate 4096 0) = false
    ∧ s.persist.replayPrev = none ∧ s.persist.restoreRead = none
    ∧ (let r := { persistState with boot := { persistState.boot with stage := 4 }, persist := { persistState.persist with state := 1 } }
      r.frozen = false ∧ (∀ p : Fin 4, r.persist.ports[p].state ≠ 1) ∧ r.validCopies { superblocks := [], map := none, manifest := none } = []) := by
  decide +kernel

/-- A set of one member whose key the manager has loaded, and its superblock, with the seals of a map and a manifest of no bytes. -/
def set1 : PersistSet := { set0 with portMask := 1, width := 1, keySource := 1 }
def seal1 : List Byte := hmac256 [1, 2, 3] []
def super1 (p : PersistSet) : List Byte := p.superblock 380928 0 0 seal1 seal1
def set2 : PersistSet := { set1 with setId := List.replicate 16 2 }

def restoreState : State :=
  let s := withOd ({ persistState with boot := { persistState.boot with stage := 4 } }.putKey 255 [1, 2, 3]) [(0x4000, 3, 1), (0x4000, 5, 1), (0x4000, 7, 255)]
  { s with persist := { s.persist with state := 1, keyReady := true } }

/-- The last eight bytes of a block that ends with a number are that number. -/
theorem fieldNat_end (c : List Byte) (x : Nat) (hc : c.length = 4088) (hx : x < 2 ^ 64) : fieldNat (c ++ leBytes 8 x) 4088 8 = x := by
  have g : ∀ j, (c ++ leBytes 8 x).getD (4088 + j) 0 = (leBytes 8 x).getD j 0 := fun j => by
    simp only [List.getD_eq_getElem?_getD]; rw [List.getElem?_append_right (by omega), hc, Nat.add_sub_cancel_left]
  simp only [fieldNat, sliceBytes, g]
  simp [List.range, List.range.loop, leBytes, leNat]
  omega

/-- The 4,088 bytes before the CRC of a superblock. -/
def superBody (p : PersistSet) : List Byte := (super1 p).take 4088

theorem super_crc (p : PersistSet) (h : (super1 p) = superBody p ++ leBytes 8 (crc64 (superBody p))) (hl : (superBody p).length = 4088) :
    fieldNat (super1 p) 4088 8 == crc64 ((super1 p).take 4088) := by
  have e : (super1 p).take 4088 = superBody p := rfl
  have hx : crc64 (superBody p) < 2 ^ 64 := BitVec.isLt _
  rw [e]
  generalize crc64 (superBody p) = x at h hx ⊢
  rw [h, fieldNat_end _ _ hl hx, beq_self_eq_true]

/-- What a superblock of a set gives back. -/
def read1 (p : PersistSet) : Superblock :=
  { set := p, member := 0, epoch := 0, mapSeal := seal1, manifestSeal := seal1 }

theorem super_read (p : PersistSet) (hp : p = set1 ∨ p = set2) : restoreState.superblock? 0 (super1 p) = some (read1 p) := by
  have h : super1 p = superBody p ++ leBytes 8 (crc64 (superBody p)) ∧ (superBody p).length = 4088 := by
    rcases hp with rfl | rfl <;> refine ⟨?_, by decide +kernel⟩ <;> unfold superBody super1 PersistSet.superblock <;> simp only [] <;>
      rw [List.take_append_of_le_length (by decide +kernel), List.take_of_length_le (by decide +kernel)]
  simp only [State.superblock?, super_crc p h.1 h.2, Bool.and_true]
  rcases hp with rfl | rfl <;> exact (if_pos (by decide +kernel)).trans (by decide +kernel)

/-- A member that is ready gives both its copies. -/
theorem copies_of_member (s : State) (b c : List Byte) (x y : Superblock) (m f : Option (List Byte)) (hm : (s.od 0x4000 3).testBit 0 = true)
    (hp : s.persist.ports[(0 : Fin 4)].state = 2) (hb : s.superblock? 0 b = some x) (hc : s.superblock? 0 c = some y) :
    s.validCopies { superblocks := [(0, some b, none)], map := m, manifest := f } = [x]
    ∧ s.validCopies { superblocks := [(0, some b, some c)], map := m, manifest := f } = [x, y] := by
  have hp0 : s.persist.ports[0].state = 2 := hp
  simp [State.validCopies, hm, hp0, hb, hc]

/-- A restore from one set, with and without its key, with seals that match and that do not, and one from two sets. -/
theorem witness_Restore_copies (m f : Option (List Byte)) :
    restoreState.validCopies { superblocks := [(0, some (super1 set1), none)], map := m, manifest := f } = [read1 set1]
    ∧ restoreState.validCopies { superblocks := [(0, some (super1 set1), some (super1 set2))], map := m, manifest := f } = [read1 set1, read1 set2] :=
  copies_of_member _ _ _ _ _ _ _ (by decide +kernel) (by decide +kernel) (super_read set1 (.inl rfl)) (super_read set2 (.inr rfl))

theorem witness_Restore_sets : let s := restoreState
    s.boot.stage = 4 ∧ s.persist.state = 1 ∧ s.frozen = false ∧ (∀ p : Fin 4, s.persist.ports[p].state ≠ 1)
    ∧ newestCopy [read1 set1] = some (read1 set1) ∧ tooFew set1.mode set1.portMask [read1 set1] = false ∧ s.od 0x4000 5 = 1
    ∧ (s.deriveKey set1.label).journalKey = [1, 2, 3] ∧ hmac256 [1, 2, 3] [] = (read1 set1).mapSeal ∧ hmac256 [1, 2, 3] [0] ≠ (read1 set1).mapSeal
    ∧ { s.persist with keyReady := false }.keyReady = false ∧ (read1 set1).set.setId ≠ (read1 set2).set.setId := by decide +kernel

/-- A slot that is absent and not lost, whose copy is a slot of zeros with the CRC of its entry. -/
def fetchState : State :=
  { persistState with
    mem := { persistState.mem with flipped := [7] }
    persist := { persistState.persist with map :=
      [(7, { unit := 5, spanId := 0, seq := 0, heat := 0, present := true, zero := false, crc := crc64 (List.replicate slotBytes 0) })] } }

theorem witness_SlotFetch : fetchState.persist.set = some set0 ∧ fetchState.resident 7 = false ∧ fetchState.mem.lost.contains 7 = false ∧ 7 < openSlots fetchState.e384
    ∧ fetchState.serving = true ∧ memoryWf fetchState ∧ ((lookup? fetchState.persist.map 7).map fun e => (e.zero, e.unit)) = some (false, 5)
    ∧ lookup? fetchState.persist.map 8 = none := by decide +kernel

theorem witness_SlotFetch_crc : ∃ e, lookup? fetchState.persist.map 7 = some e ∧ (List.replicate slotBytes (0 : Byte)).length = slotBytes
    ∧ crc64 (List.replicate slotBytes 0) = e.crc := ⟨_, rfl, List.length_replicate, rfl⟩

/-! ### Bring-up, power, doze -/

def booting (stage : Nat) (trained : Bool) : State :=
  { State.reset with
    boot := { State.reset.boot with stage := stage, trained := trained, cause := 2 }
    moth := { State.reset.moth with pwrgood := true }
    pins := { State.reset.pins with perstN := true } }

/-- Each stage of bring-up, banks that are not valid, channels present and absent, and both states of a clock. -/
theorem witness_BringUpGoesStageByStage : (booting 0 false).boot.stage = 0 ∧ (booting 0 false).moth.pwrgood = true ∧ (booting 0 false).frozen = false
    ∧ (booting 0 false).pins.perstN = true ∧ (booting 1 false).boot.stage = 1 ∧ bankValid { header := List.replicate 512 0, body := [] } = false
    ∧ (booting 3 false).boot.trained = false ∧ channelPresent true 47 = true ∧ channelPresent false 12 = false ∧ channelPresent false 47 = false
    ∧ (booting 3 true).boot.trained = true ∧ State.reset.pins.auxClk = true := by decide +kernel

/-- A bank with every field as R478 wants it, whose key and signature the Config fields accept: what they accept is free. -/
def bank0 : FirmwareBank :=
  { header := asciiBytes "TQ48FIRM" ++ [1, 0, 0, 0] ++ leBytes 4 0xFFFFFFFF ++ List.replicate 68 0 ++ sha384 [] ++ List.replicate 380 0, body := [] }

theorem witness_bank (hr : Config.rollbackMin ≤ 0xFFFFFFFF) (hk : sha384 (sliceBytes bank0.header 132 97) = Config.keyDigest)
    (hv : Config.ecdsaVerify (sliceBytes bank0.header 132 97) (sliceBytes bank0.header 0 320) (sliceBytes bank0.header 320 96) = true) :
    bankValid bank0 = true := by
  have h1 : (sliceBytes bank0.header 0 8 == asciiBytes "TQ48FIRM" && fieldNat bank0.header 8 2 == 1) = true := by decide +kernel
  have h2 : fieldNat bank0.header 12 4 = 0xFFFFFFFF := by decide +kernel
  have h3 : (sha384 (bank0.body.take (fieldNat bank0.header 16 4)) == sliceBytes bank0.header 84 48) = true := by decide +kernel
  unfold bankValid
  simp only [Bool.and_eq_true] at h1 ⊢
  refine ⟨⟨⟨⟨h1, ?_⟩, ?_⟩, hv⟩, h3⟩
  · rw [h2]; simpa using hr
  · simp [hk]

theorem test_training_fails : (match exec (.memoryTrainingComplete [47]) (booting 3 false) with
    | .next u => (u.boot.stage, u.dram.channels[47].state, u.dram.channels[46].state)
    | _ => (0, 0, 0)) = (7, 3, 2) := by decide +kernel

/-- A key of a reset write, the stages of power-up, and a power failure. -/
def fired (l : List (Nat × Nat × Bool)) : State := { serving0 with moth := { serving0.moth with fired := l, power := 3, pwrgood := true } }

theorem witness_ResetsAndPowerUp : (BitVec.ofNat 64 0xD1CE).extractLsb' 0 16 = 0xD1CE#16 ∧ (BitVec.ofNat 64 0xD1CF).extractLsb' 0 16 ≠ 0xD1CE#16
    ∧ State.reset.moth.power = 1 ∧ (∀ p ∈ [2, 4], ({ State.reset.moth with power := p } : Moth).power = p ∧ State.reset.moth.state < 4)
    ∧ (fired [(2, 0, true)]).moth.fired.contains (2, 0, true) = true
    ∧ (let s := withOd { fired [] with moth := { (fired []).moth with state := 4, power := 6, channels :=
          ((fired []).moth.channels.set 0 { (fired []).moth.channels[0] with y := 256 * 3000 }).set 1 { (fired []).moth.channels[1] with y := 256 * 3200 } } } []
      s.moth.state = 4 ∧ s.moth.power = 6 ∧ s.od 0x6002 1 + 300 < 4 * s.channelValue 0 ∧ 3100 < s.channelValue 1 ∧ s.moth.asserted 3 = false
        ∧ s.moth.asserted 6 = false ∧ s.moth.asserted 9 = false) := by decide +kernel

theorem test_power_fail : (match exec (.powerFail 1) (fired [(1, 0, true)]) with
    | .next u => (u.moth.pwrgood, u.moth.state, u.mirror.state, u.persist.state, u.events.log.any fun e => e.code == 0x0060 && e.arg == 1)
    | _ => (true, 0, 0, 0, false)) = (false, 4, 5, 7, true) := by decide +kernel

theorem witness_RulesRaiseTheirEvents : (fired [(8, 43, true)]).moth.fired.contains (8, 32 + 11, true) = true
    ∧ (fired [(63, 0, true)]).moth.fired.contains (63, 0, true) = true ∧ (fired [(16, 0, false)]).moth.fired.contains (16, 0, false) = true
    ∧ ((fired [(7, 0, true)]).moth.fired.find? fun f => f.1 == 4 || f.1 == 5 || f.1 == 7) = some (7, 0, true)
    ∧ (fired [(3, 13, true)]).moth.fired.contains (3, 13, true) = true ∧ (fired [(9, 43, true)]).moth.fired.contains (9, 43, true) = true
    ∧ (fired []).coolEnough = true := by decide +kernel

theorem test_rule_assert : (match exec (.ruleAssert 16) (fired [(16, 0, true)]) with
    | .next u => (u.events.log.map fun e => (e.code, e.arg), u.moth.fired)
    | _ => ([], [(0, 0, false)])) = ([(0x0065, 16)], []) := by decide +kernel

/-- Every function in D3hot, and the link ready to sleep. -/
def asleep (s : State) : State :=
  { s with host := { s.host with link := .l2l3Ready, fns := s.host.fns.map fun (x : Function) => { x with d3hot := true } } }

/-- A solo engine that serves with its memory resident, each step of entry, and each source of a wake. -/
def dozing (state step : Nat) : State :=
  { persistState with moth := { persistState.moth with state := state, dozeStep := step, pwrgood := true, perstInDoze := state == 2 }, persist := { persistState.persist with state := 5 } }

theorem witness_DozeEntryAndWake : (dozing 0 0).mirror.state < 2 ∧ 5 ≤ (dozing 0 0).persist.state ∧ (dozing 0 0).dozeCode = 0 ∧ (dozing 1 1).dozeCode = 5
    ∧ ({ dozing 0 0 with mirror := { serving0.mirror with state := 4 } } : State).dozeCode = 1
    ∧ ({ dozing 0 0 with persist := { serving0.persist with state := 4 } } : State).dozeCode = 2
    ∧ (∀ s ∈ [2, 3, 4], (dozing 1 s).moth.state = 1 ∧ (dozing 1 s).moth.dozeStep = s) ∧ (asleep (dozing 1 4)).hostAsleep = true ∧ (dozing 2 0).moth.state = 2
    ∧ ({ dozing 1 4 with host := { serving0.host with link := .l0 } } : State).hostAsleep = false
    ∧ (withOd (dozing 2 0) [(0x6001, 2, 1000)]).od 0x6001 2 ≠ 0 ∧ (dozing 2 0).od 0x6001 2 = 0 ∧ (dozing 2 0).moth.perstInDoze = true
    ∧ (dozing 3 0).moth.state = 3 ∧ (dozing 0 0).moth.perstInDoze = false := by decide +kernel

theorem test_doze_refused : (match exec .mothCmdDoze { dozing 0 0 with persist := { serving0.persist with state := 4 } } with
    | .next u => (u.moth.state, u.moth.dozeRefusal, u.events.log.map fun e => (e.code, e.arg))
    | _ => (9, 0, [])) = (0, 2, [(0x0067, 2)]) := by decide +kernel

/-! ### Health, Moth, memory -/

/-- A tile that works, one that waits for a slot, one that has yielded with a part due, a late one and one at the bound. -/
theorem witness_HealthFollowsItsChecks : let s := running (ctxOf 0) ent0
    s.executing = true ∧ s.tiles[0].yielded = false ∧ (s.head? 0).isSome = true ∧ s.head? 1 = none ∧ s.mirror.state ≠ 5
    ∧ (let u := s.setTile 1 { s.tiles[1] with yielded := true, selfDue := [63, 0], selfPart := 63, selfAge := 8193 }
      u.serving = true ∧ u.tiles[1].selfDue = 63 :: [0] ∧ u.tiles[1].yielded = true ∧ 8192 < u.tiles[1].selfAge ∧ u.tiles[0].selfDue = []
      ∧ u.tiles[0].selfAge ≤ 8192)
    ∧ s.frame.frameNo % 1024 = 0 ∧ ({ s with frame := { s.frame with frameNo := 1023 } } : State).frame.frameNo % 1024 ≠ 0
    ∧ ({ s with boot := { s.boot with stage := 7 } } : State).serving = false := by decide +kernel

/-- Margins of 4 percent on the host ports are below MARGIN_MIN_PCT 20. Bits 12 (50), 15 (10) and 20 (200) are set: 740. -/
theorem test_margin_bit : (match exec .healthEvaluation { serving0 with health := { serving0.health with margins := (100, 4, 100) } } with
    | .next u => (u.health.faults, u.health.score)
    | _ => (0, 0)) = (0x109000, 740) := by decide +kernel

/-- A channel that is read and one that is not, a filter that is empty and one that is not, a rule one test before its change, a value
above, at and below a threshold, and rule words of every kind. -/
theorem witness_ChannelsFilterAndRulesDebounce : let s := serving0
    let m := { s.moth with rules := [(64 * 1, { asserted := false, cnt := 2 })] }
    sampledChannel true 12 = true ∧ sampledChannel true 50 = false ∧ s.moth.channels[0].raws = []
    ∧ (s.moth.channels[0].sample 3 900).raws ≠ []
    ∧ (let r := (belowTest 1 0 2549 2550 75 2).stands
      r.hit false = true ∧ r.hit true = false ∧ (lookupD m.rules 64 releasedRule).cnt = r.n ∧ (lookupD s.moth.rules 64 releasedRule).cnt ≠ r.n)
    ∧ (belowTest 1 0 2550 2550 75 2).hit false = false ∧ (belowTest 1 0 2625 2550 75 2).hit true = true ∧ (belowTest 1 0 2624 2550 75 2).hit true = false
    ∧ (aboveTest 16 0 65535 65534 0 0).hit false = true ∧ (aboveTest 16 0 0 0 0 0).hit true = true
    ∧ (let v := 47 * 2 ^ 42 + 2 ^ 40
      bitsOf v 47 42 < 48 ∧ bitsOf v 41 40 ≠ 3 ∧ bitsOf v 35 24 = 0) ∧ 48 ≤ bitsOf (48 * 2 ^ 42) 47 42 ∧ bitsOf (3 * 2 ^ 40) 41 40 = 3
    ∧ bitsOf (2 ^ 35) 35 24 ≠ 0 := by decide +kernel

/-- The first sample of channel 0 fills its filter. -/
theorem test_first_sample : (match exec (.channelSample 0 900) serving0 with
    | .next u => u.moth.channels[0]
    | _ => { raws := [], y := 0 }) = { raws := [900, 900, 900, 900, 900], y := 256 * 900 } := by decide +kernel

/-- Channel 0 is ready. -/
def readyState (debt : Nat) (payback : Bool) : State :=
  { serving0 with dram := { serving0.dram with
      channels := serving0.dram.channels.set 0 { resetDramChannel with state := 2, rate := 0, limband := 0, debt := debt, payback := payback, low := 2 } } }

theorem witness_ChannelsRefreshScanAndDrain : let s := readyState 8 false
    s.dram.channels[0].state = 2 ∧ s.dram.channels[1].state ≠ 2 ∧ s.dram.channels[0].debt = 8 ∧ s.dram.channels[0].limband = 0
    ∧ (readyState 7 false).dram.channels[0].debt < 8 ∧ (readyState 1 true).dram.channels[0].payback = true ∧ (readyState 0 false).dram.channels[0].debt = 0
    ∧ stackPresent true 11 = true ∧ stackPresent false 11 = false ∧ s.e384 = true ∧ s.cache.state = 0
    ∧ ({ s with cache := { s.cache with state := 1 } } : State).cache.state = 1
    ∧ lookupD ({ s.kma with rewrites := [(3 * 8192, 15)] } : Kma).rewrites (8192 * 3 + s.kma.scanRow[3]) 0 + 1 = 16 := by decide +kernel

/-- A buffered write of the line 0 in its slice; a channel that refreshes, drains, reads, writes and rests; readings within and above the
bands; and rows of the array as their shadow copies are, one with a changed cell and one with an SRAM word in error. -/
theorem witness_ChannelChoices : let s := readyState 0 false
    let x := s.dram.channels[0]
    let prio := s.portPrio 0
    let r : QueuedRead := { port := 8, ma := 0 }
    let q : QueuedRead := { port := 9, ma := 192 }
    let b := { s with cache := { s.cache with wbuf := [((homeSlice s.e384 0).1, [0])] } }
    (∀ k < 16, lookupD b.cache.wbuf k [] = if k = (homeSlice s.e384 0).1 then [0] else []) ∧ (homeSlice s.e384 0).1 < 16 ∧ homeChannel s.e384 0 < 48
    ∧ (∀ k < 16, lookupD s.cache.wbuf k [] = []) ∧ ({ x with debt := 1, payback := true } : Channel).choose prio = .refresh
    ∧ ({ x with draining := true } : Channel).choose prio = .drain ∧ ({ x with reads := [r, q] } : Channel).choose prio = .read r
    ∧ prio q.port ≤ prio r.port ∧ ({ x with queue := [0] } : Channel).choose prio = .write ∧ x.choose prio = .none
    ∧ (∀ v ∈ [0, 2, 1], v ≤ 2) ∧ 3 ∈ [0, 3].take 8
    ∧ s.kma.row 0 = camClean (camImage (s.kma.shadow 0)) ∧ s.kma.scanRow[0] = 0 ∧ s.kma.sram = []
    ∧ (let k : Kma := { s.kma with cam := [(0, { camClean 0 with cell := 1 })], sram := [(0, 2, 1)] }
      k.row 0 ≠ camClean (camImage (k.shadow 0)) ∧ (k.cam.map (·.1)).Nodup ∧ (k.row 0).stuckCell = 0 ∧ (k.row 0).stuckPair = 0
      ∧ (k.sram.filter fun x => x.1 == 0 && decide (x.2.1 < 3)) = [(0, 2, 1)]) := by decide +kernel

/-- A readout of band 1 on stack 0 moves its channel to band 1 at once, converts 8 units of debt and starts a payback. -/
theorem test_readout_raises_band : (match exec (.mr4Readout 0 [0, 1, 0, 0]) (readyState 8 false) with
    | .next u => (u.dram.stackBand[0], u.dram.channels[0].rate, u.dram.channels[0].limband, u.dram.channels[0].debt, u.dram.channels[0].payback)
    | _ => (9, 0, 0, 0, false)) = (1, 1, 1, 18, true) := by decide +kernel

/-- The first line and the last byte of module memory, a header line and a payload line, good, corrected and uncorrectable bursts. -/
theorem witness_MemoryErrorsAreCheckedOnEveryRead : let s := serving0
    let top := slotCount true * slotBytes
    s.e384 = true ∧ top - 1 < slotCount s.e384 * slotBytes ∧ slotCount s.e384 * slotBytes ≤ top ∧ lineOf 200 = 192 ∧ isHeader (lineOf 0) = false
    ∧ isHeader (lineOf lineArea) = true ∧ 0 ∉ s.mem.poisoned ∧ (∀ b ∈ [0, 1, 0].take 3, b ≤ 1) ∧ 1 ∈ [0, 1, 0].take 3 ∧ 2 ∈ [0, 1, 2].take 3
    ∧ memoryWf s ∧ 191 + [(7 : Byte)].length ≤ lineOf 191 + 192 ∧ (running (ctxOf 0) ent0).runner 0 = some (ctxOf 0, ent0, img0)
    ∧ (readyState 0 false).dram.channels[0].state = 2 ∧ s.od 0x3005 1 ≠ 0 ∧ (readyState 0 false).dram.channels[0].scrubPos < scrubUnits
    ∧ (readyState 0 false).dram.channels[0].scrubLate = false := by decide +kernel

/-- A read that its channel chooses and one that waits behind a drain; a good line with errors of no other line waiting, and an
uncorrectable one; and the readings of a scrub visit. -/
theorem witness_ReadsChosenAndWaiting : let s := readyState 0 false
    let c := homeChannel s.e384 (lineOf 191)
    let r : QueuedRead := { port := s.memPort .persist 0 c, ma := 0 }
    c = 0 ∧ ((s.dram.channels[0].enqueue r).choose (s.portPrio 0) = .read r) ∧ s.dram.channels[0].reads.length < 64
    ∧ (({ s.dram.channels[0] with draining := true } : Channel).enqueue r).choose (s.portPrio 0) ≠ .read r
    ∧ (∀ p ∈ [(192, 1)], lineOf p.1 ≠ (0 : Nat)) ∧ s.dram.errors = [] ∧ (0 : Nat) ∈ [0] ∧ sparseWf s.dram.check = true
    ∧ ([(7 : Byte)].length < 192 ∧ isHeader 0 = false) ∧ scrubAddress s.e384 0 s.dram.channels[0].scrubPos ∉ s.mem.poisoned
    ∧ (∀ b ∈ (Sys2Proof.EccOutcome.mk [0, 1, 1]).symbols.take 3, b ≤ 1) ∧ 2 ∈ (Sys2Proof.EccOutcome.mk [2, 0, 0]).symbols.take 3
    ∧ ({ s with mem := { s.mem with poisoned := [0] } } : State).mem.poisoned = [0] := by decide +kernel

/-- The scrub unit that is last in its channel, while no other channel is in use: the pass is complete. -/
theorem witness_last_scrub_visit : let s := readyState 0 false
    let x := s.dram.channels[0]
    let u := { s with dram := { s.dram with channels := s.dram.channels.set 0 { x with scrubPos := scrubUnits - 1 } } }
    (∀ q : Fin 48, u.dram.channels[q].state = 2 → if q = 0 then scrubUnits ≤ u.dram.channels[(0 : Fin 48)].scrubPos + 1 else scrubUnits ≤ u.dram.channels[q].scrubPos)
    ∧ ¬ (∀ q : Fin 48, s.dram.channels[q].state = 2 → if q = 0 then scrubUnits ≤ x.scrubPos + 1 else scrubUnits ≤ s.dram.channels[q].scrubPos) := by
  decide +kernel

theorem test_partial_write_of_poisoned : (match exec (.partialWrite 191 ⟨[7], []⟩ .persist) { serving0 with mem := { serving0.mem with poisoned := [0] } } with
    | .next u => (u.byteAt 191, u.dram.uncorrectable)
    | _ => (1, 0)) = (0, 1) := by decide +kernel

/-! ### BDP, the dictionary window, profiles, the test port -/

/-- A request to this engine: the object 0x2000.01 (FRAME_PERIOD, 50). -/
def bdpReq (type : Nat) (body : List Byte) : BdpFrame :=
  { dest := Config.t1sMac, src := 0x020000000001, version := 1, type := type, flags := 0, reserved := 0, transId := 9, bodyLen := body.length,
    index := 0x2000, subindex := 1, dataType := 0, error := 0, reserved2 := 0, body := body, queueFull := false }

/-- A serving engine with its firmware and its clock. -/
def dictState : State := { serving0 with
    boot := { serving0.boot with firmware := some { header := [], body := [] } }, moth := { serving0.moth with pwrgood := true }, pins := { serving0.pins with auxClk := true } }

theorem witness_BdpRequestsAreAnswered : dictState.bdpLive = true ∧ ({ dictState with pins := { dictState.pins with auxClk := false } } : State).bdpLive = false
    ∧ groupAddress 0xFFFFFFFFFFFF = true ∧ dictState.moth.state = 0 ∧ dictState.bdp.abandoned = [] ∧ dictState.bdp.kept = [] ∧ dictState.bdp.transfers = []
    ∧ (∀ type body, (bdpReq type body).dest = Config.t1sMac ∧ (bdpReq type body).version = 1 ∧ (bdpReq type body).bodyLen ≤ (bdpReq type body).body.length
      ∧ (bdpReq type body).queueFull = false ∧ (bdpReq type body).type = type) ∧ fieldNat (List.replicate 4 0) 0 4 = 0
    ∧ fieldNat ((leBytes 4 2 ++ List.replicate 4 0 ++ [100, 0])) 0 4 = [(100 : Byte), 0].length
    ∧ ({ dictState with moth := { dictState.moth with state := 1 } } : State).mothError 0x2000 = 0x000C := by
  refine ⟨by decide +kernel, by decide +kernel, by decide +kernel, by decide +kernel, by decide +kernel, by decide +kernel, by decide +kernel,
    fun type body => ⟨rfl, rfl, Nat.le_refl _, rfl, rfl⟩, by decide +kernel, by decide +kernel, by decide +kernel⟩

/-- A response is kept for its requester, and a transfer is open. -/
theorem witness_kept_response (r : BdpReply) : ({ dictState with bdp := { dictState.bdp with kept := [(0x020000000001, bdpReq 1 [], [r])] } } : State).keptFor
    (bdpReq 1 []) = some [r] := by
  simp [State.keptFor, bdpReq]

/-- A request with and without a reserved bit, transfers that are open and not, an object that reads and one that does not, a segment of a
write, and an event that waits. -/
theorem witness_RequestsAndTransfers : let s := dictState
    let w : BdpTransfer := { src := 0x020000000001, transId := 9, index := 0x2000, sub := 1, write := true, total := 4, bytes := [1, 2], next := 2 }
    let e : Event := { seq := 1, code := 0x0060, severity := 1, frame := 0, time := 0, location := 0, detail := 0, arg := 0 }
    requestReserved (bdpReq 1 []) = false ∧ requestReserved { bdpReq 1 [] with reserved := 1 } = true ∧ requestReserved { bdpReq 5 [] with reserved2 := 1 } = true
    ∧ s.transfer? (bdpReq 1 []) false = none ∧ s.transfer? (bdpReq 3 []) true = none ∧ s.mothError 0x2000 = 0
    ∧ (match s.readObject 0x2000 1 false true with | .ok r => decide (r.2.length ≤ 1024) | .error _ => false) = true
    ∧ (match s.readObject 0x2FFF 1 false true with | .ok _ => false | .error e => e != 0) = true
    ∧ fieldNat (leBytes 4 2 ++ List.replicate 4 0 ++ [100, 0]) 4 4 = 0 ∧ fieldNat (leBytes 4 7) 0 4 ≠ 0
    ∧ ({ s with bdp := { s.bdp with transfers := [w] } } : State).transfer? (bdpReq 3 []) true = some w ∧ [w][0]? = some w ∧ s.bdp.transfers[0]? = none
    ∧ ({ s with events := { s.events with queue := [e] } } : State).events.queue = e :: [] ∧ s.pins.auxClk = true ∧ s.events.queue = [] := by decide +kernel

/-- A response whose body is two bytes, as R457 lays it out: the EtherType 0x88, 0xB5, then the header, the body and zeros up to 60 bytes. -/
def answer0 : BdpReply :=
  { dest := 0x020000000001, type := 2, more := false, shadow := false, transId := 9, index := 0x2000, sub := 1, dataType := 2, error := 0, body := [0x32, 0] }

theorem test_bdp_frame : answer0.frame.drop 12 = [0x88, 0xB5, 1, 2, 0, 0, 9, 0, 2, 0, 0, 0x20, 1, 2, 0, 0, 0, 0, 0x32, 0] ++ List.replicate 28 0 := by
  decide +kernel

/-- FRAME_PERIOD reads as 50, a write of 100 is accepted and one of 1 is out of range; an object that is not there cannot be read. -/
theorem test_objects : (match dictState.readObject 0x2000 1 false true with
      | .ok r => r.2
      | .error _ => []) = [50, 0]
    ∧ (match dictState.writeObject 0x2000 1 [100, 0] true with
      | .ok t => t.odNext 0x2000 1
      | .error _ => 0) = 100
    ∧ (match dictState.writeObject 0x2000 1 [1, 0] true with
      | .ok _ => 0
      | .error e => e) = 0x0005
    ∧ (match dictState.readObject 0x2FFF 1 false true with
      | .ok _ => 0
      | .error e => e) = 0x0001 := by decide +kernel

/-- Slots of the window in each state, copies of a profile there and not, a write of the flash under way. -/
theorem witness_WindowProfilesAndTestPort : let s := dictState
    s.windowLive = true ∧ s.window[7].state ≠ 1 ∧ s.profiles.state = 0 ∧ s.profileCopy? 0 = none
    ∧ (let c : ProfileCopy := { generation := 4, records := [(odKey 0x2000 1, 60)] }
      let u := { s with profiles := { s.profiles with copies := [(1, c)], writing := some (0, c) } }
      u.profileCopy? 0 = some (1, c) ∧ u.profiles.writing = some (0, c))
    ∧ s.moth.pwrgood = true ∧ s.exists? 0 = true ∧ s.mover.channels[31].pause = false ∧ s.mover.channels[31].disable = false
    ∧ (0x4000000 : BitVec 64).extractLsb' 0 2 = 0 ∧ (0x7F : BitVec 8) ∉ [0x00, 0x01, 0x02, 0x04, 0x05, 0x10, 0x11]
    ∧ s.exists? 63 = false ∧ s.mirror.state ≠ 5 := by decide +kernel

/-- The window open and shut, a request of each operation, the status of a channel in each of its states. -/
theorem witness_WindowAndChannelStatus : let s := dictState
    let x := s.mover.channels[0]
    let op (n : Nat) : DwSlot := { s.window[7] with req := BitVec.ofNat 48 (0x2000 * 2 ^ 24 + 2 ^ 16 + n * 2 ^ 40 + 2), irq := decide (n = 3), state := if n = 3 then 1 else 0 }
    ({ s with boot := { s.boot with firmware := none } } : State).windowLive = false ∧ (op 1).op = 1 ∧ (op 2).op = 2 ∧ (op 3).op = 3
    ∧ sparseWf s.window[7].buffer = true ∧ ((op 3).state = 1 ∧ (op 3).irq = true) ∧ (op 1).irq = false
    ∧ x.queue.length ≤ 8 ∧ x.inflight.length ≤ 7 ∧ x.disable = false ∧ x.cur = none ∧ x.pause = false ∧ x.next = none ∧ x.queue = []
    ∧ ({ x with pause := true } : MvChannel).pause = true ∧ ({ x with disable := true } : MvChannel).disable = true
    ∧ ({ s with profiles := { s.profiles with state := 1 } } : State).profiles.state ≠ 0
    ∧ (match s.writeObject 0x2000 1 [100, 0] false with | .ok _ => true | .error _ => false) = true
    ∧ (match s.writeObject 0x2000 1 [1, 0] false with | .ok _ => false | .error _ => true) = true := by decide +kernel

theorem test_window_read : (match exec (.dwRead 7 true) { dictState with window := dictState.window.set 7 { dictState.window[7] with
      req := BitVec.ofNat 48 (0x2000 * 2 ^ 24 + 2 ^ 16 + 2 ^ 40) } } with
    | .next u => (u.window[7].state, u.window[7].resultLen, u.window[7].error, sparseRead u.window[7].buffer 0)
    | _ => (0, 0, 0, 0)) = (1, 2, 0, 50) := by decide +kernel

/-! ### The codec -/

/-- A descriptor of an encode of two INT values: input at 4096 of selector 4, output of 24,652 bytes at 8192, result at 16384. -/
def encodeDesc (op spans : Nat) : BitVec 512 :=
  BitVec.ofNat 512 (op + (if op = 1 then 2 else 0) * 2 ^ 8 + spans * 2 ^ 24 + 4096 * 2 ^ 64 + 8192 * 2 ^ 128 + 16384 * 2 ^ 256 + 12 * 2 ^ 320
    + 24652 * 2 ^ 368)

def job0 (unit : Option (Fin 4)) (done : Bool) : CodecJob :=
  { unit := unit, done := done, status := 0, flags := 0, consumed := 0, produced := 0, values := 0, trailing := 0, blocks := 0, headers := [], written := false }

/-- An entry of a codec job. -/
def jobEnt (slot : Fin 256) (desc : BitVec 512) (j : CodecJob) : WorkEntry :=
  { ent0 with slot := slot, entry := BitVec.ofNat 512 2, desc := desc, image := none, job := some j }

def jobState (op spans : Nat) (unit : Option (Fin 4)) (done : Bool) : State :=
  let s := { serving0 with work := [jobEnt 3 (encodeDesc op spans) (job0 unit done)] }
  { s with host := { s.host with link := .l0, fns := s.host.fns.map fun (x : Function) => { x with busMaster := true } } }

theorem witness_CodecJobsRunToTheirResult : (∀ op ∈ [1, 2], let e := jobEnt 3 (encodeDesc op 0) (job0 (some 0) false)
      let s := jobState op 0 (some 0) false
      s.jobAt 3 = some e ∧ s.jobStatus e = 0 ∧ (jobOf e.desc).op = op ∧ (jobOf e.desc).spanOut = false ∧ (jobOf e.desc).spanIn = false
        ∧ s.headWait e (jobOf e.desc) = none ∧ (e.writes && s.fromRecords) = false ∧ s.mover.channels[e.channel].disable = false
        ∧ s.channelWaits e.channel = false ∧ s.hostHeld e.inst = false ∧ s.resetting e.inst = false ∧ s.hostStopped e.inst = false
        ∧ s.jobStatus (jobEnt 3 (encodeDesc op 0 + BitVec.ofNat 512 (2 ^ 23)) (job0 (some 0) false)) ≠ 0)
    ∧ (jobState 1 0 none false).jobAt 3 = none ∧ (jobState 1 0 none false).frozen = false
    ∧ (let s := jobState 1 0 none false
      let wants := s.work.filter fun x => x.wantsUnit true
      wants.find? WorkEntry.spanOut = none ∧ wants.head? = s.work.head? ∧ s.unitsHeld true = [] ∧ (s.work.filter fun x => x.wantsUnit false) = [])
    ∧ (let hold (i : Fin 256) (u : Fin 4) : WorkEntry := jobEnt i (encodeDesc 1 (if i = 3 then 0 else 2)) (job0 (some u) false)
      let s := { serving0 with work := [jobEnt 3 (encodeDesc 1 2) (job0 none false), hold 3 0, hold 4 1, hold 5 2, hold 6 3] }
      let wants := s.work.filter fun x => x.wantsUnit true
      wants.find? WorkEntry.spanOut = s.work.head? ∧ (∀ u : Fin 4, ∃ x ∈ s.unitsHeld true, x.unit = some u) ∧ hold 3 0 ∈ s.unitsHeld true
        ∧ (hold 3 0).spanOut = false ∧ ∀ y ∈ s.unitsHeld true, y ≠ hold 3 0 → y.spanOut = true)
    ∧ (jobOf (encodeDesc 1 0)).inLen = 12 ∧ (jobOf (encodeDesc 1 0)).flushEvery = 4096 := by decide +kernel

/-- A finished job, with its channel free, waiting and off; a function that is held; and an encode whose span names no segment. -/
theorem witness_CodecJobFinish : let s := jobState 1 0 (some 0) true
    let e := jobEnt 3 (encodeDesc 1 0) (job0 (some 0) true)
    let at_ (f : MvChannel → MvChannel) : State :=
      { s with mover := { s.mover with channels := s.mover.channels.set e.channel (f s.mover.channels[e.channel]) } }
    s.entry? 3 = some e ∧ e.finished = none ∧ s.frozen = false ∧ s.hostStopped e.inst = false ∧ s.hostHeld e.inst = false
    ∧ s.channelWaits e.channel = false ∧ (at_ fun c => { c with pause := true }).channelWaits e.channel = true
    ∧ (at_ fun c => { c with disable := true }).mover.channels[e.channel].disable = true ∧ serving0.hostHeld e.inst = true
    ∧ serving0.resetting e.inst = false := by decide +kernel

/-- An encode into a span and a decode out of one: selector 4 names it, and the TYPE of its first segment is 2. -/
def spanDesc (op spans : Nat) : BitVec 512 :=
  BitVec.ofNat 512 (op + (if op = 1 then 2 else 0) * 2 ^ 8 + spans * 2 ^ 24 + (if op = 1 then 4096 else 4 * 2 ^ 36) * 2 ^ 64
    + (if op = 1 then 4 * 2 ^ 36 else 8192) * 2 ^ 128 + 16384 * 2 ^ 256 + 12 * 2 ^ 320 + (if op = 1 then 0 else 24652) * 2 ^ 368)

def spanState (op spans : Nat) (unit : Fin 4) (pause : Bool) : State :=
  let s := jobState op 0 none false
  { s with
    work := [jobEnt 3 (spanDesc op spans) (job0 (some unit) false)]
    mem := { s.mem with bytes := [(2 * 1048576 + lineArea + 4, 2)] }
    mover := { s.mover with channels := s.mover.channels.map fun c => { c with pause := pause } } }

theorem witness_CodecSpanJobs : (∀ op ∈ [1, 2], let s := spanState op (3 - op) 1 false
    let e := jobEnt 3 (spanDesc op (3 - op)) (job0 (some 1) false)
    let j := jobOf e.desc
    s.jobAt 3 = some e ∧ s.jobStatus e = 0 ∧ (j.spanOut || j.spanIn) = true ∧ s.headWait e j = none ∧ (e.writes && s.fromRecords) = false
    ∧ s.mover.channels[e.channel].disable = false ∧ s.channelWaits e.channel = false ∧ s.hostHeld e.inst = false ∧ s.resetting e.inst = false
    ∧ (match s.jobSpan e.inst (if op = 1 then j.outAddr else j.inAddr) with
      | some d => (descSlotList d).all fun n => s.resident n
      | none => false) = true
    ∧ (spanState op (3 - op) 1 true).channelWaits e.channel = true)
    ∧ (let s := { spanState 1 2 1 false with mem := { (spanState 1 2 1 false).mem with flipped := [2] } }
      let e := jobEnt 3 (spanDesc 1 2) (job0 (some 1) false)
      s.jobStatus e = 0 ∧ (s.headWait e (jobOf e.desc)).isSome = true
      ∧ ({ s with mem := { s.mem with bytes := [] } } : State).jobStatus e = 0x0301) := by decide +kernel

/-! ### The frame and the mirror -/

/-- The tick of a solo engine, and of a follower with its messages. -/
theorem witness_TicksStartTheNextFrame :
    (let s := { serving0 with frame := { serving0.frame with timerExpired := true, mergeDone := true } };
      s.serving = true ∧ s.frame.timerExpired = true ∧ s.frame.mergeDone = true ∧ s.mirror.state = 0)
    ∧ serving0.frame.timerExpired = false ∧ (withOd serving0 [(0x2001, 1, 1)]).od 0x2001 1 = 1
    ∧ serving0.frame.timeFraction < 1000
    ∧ (let t : TickPayload := { hb := hb0, digestFrame := 0, digest := [], records := [] }
      let s := { serving0 with mirror := { serving0.mirror with state := 3, ticks := [(1, t)], lists := [(1, list0)] }
                               frame := { serving0.frame with mergeDone := true } }
      s.serving = true ∧ s.mirror.state = 3 ∧ s.followReady = some (t, list0))
    ∧ ({ serving0 with mirror := { serving0.mirror with drainAsked := true } } : State).listsNothing = true
    ∧ ({ serving0 with frame := { serving0.frame with overran := true, consecutive := 3 } } : State).frame.overran = true := by decide +kernel

/-- Time of a frame with and without a write of TIME_BASE, an overrun at its threshold and below it, and HOLD. -/
theorem witness_FrameEnds : let s := withOd { serving0 with frame := { serving0.frame with overran := true, consecutive := 3 } } [(0x2003, 3, 4)]
    serving0.frame.timeWritten = none ∧ ({ serving0 with frame := { serving0.frame with timeWritten := some 7 } } : State).frame.timeWritten.isSome = true
    ∧ s.od 0x2003 3 ≤ s.frame.consecutive + 1 ∧ s.frame.alarmed = false ∧ s.frame.overran = true
    ∧ ({ s with frame := { s.frame with consecutive := 2 } } : State).frame.consecutive + 1 < s.od 0x2003 3
    ∧ ({ s with frame := { s.frame with alarmed := true } } : State).frame.alarmed = true := by decide +kernel

/-- The frame number of a tick, and the time base 50 microseconds later. -/
theorem test_tick : (match exec (.tick 50) { serving0 with frame := { serving0.frame with timerExpired := true, mergeDone := true } } with
    | .next u => (u.frame.frameNo, u.frame.timeFraction)
    | _ => (0, 0)) = (1, 50) := by decide +kernel

def rosterValue : Nat :=
  let r (p : Nat) : List Byte := leBytes 2 p ++ leBytes 6 (0x100 + p) ++ leBytes 6 (0x200 + p) ++ [0, 0]
  fieldNat (r 1 ++ r 2 ++ r 3 ++ [1]) 0 49

/-- The engine at position 2 of three, in a mirror state, its ports up with the neighbours at 1 and 3. -/
def chained (st : Nat) : State :=
  let s := withOd serving0 [(0x5000, 1, 1), (0x5000, 2, 1), (0x5000, 3, 2), (0x5010, 1, rosterValue)]
  let p (n : Nat) : MirrorPort := { s.mirror.portA with up := true, peer := n, mirLive := true, t1sLive := true }
  { s with mirror := { s.mirror with state := st, epoch := 7, feedEpoch := 7, portA := p 1, portB := p 3 }
           pins := { s.pins with auxClk := true, mirRefclk := true }, frame := { s.frame with frameNo := 100 } }

def msg0 : MirrorMsg := { portB := true, type := 1, epoch := 7, frameNo := 100, payload := [] }

theorem witness_MirrorMessagesAndNeighbours : let s := chained 3
    (∀ b, s.hears b = true) ∧ s.follows = true ∧ s.inChain = true ∧ s.mirrored = true ∧ s.frozen = false ∧ hdr0.epoch = s.mirror.epoch
    ∧ s.mirror.epoch ≤ s.mirror.feedEpoch ∧ s.frame.frameNo < hdr0.frameNo ∧ s.mirror.resumes = false ∧ s.mirror.join = none
    ∧ hb0.role = 3 ∧ hb0.flags.getLsbD 5 = false ∧ hb0.flags.getLsbD 6 = s.mirror.portB.drain ∧ s.mirror.portB.fresh = false
    ∧ lookup? s.mirror.digests 99 = none
    ∧ (chained 4).mirror.state = 4 ∧ (chained 4).mirror.portB.peer ≠ 0xFFFF ∧ (chained 0).hears true = true ∧ (chained 0).follows = false
    ∧ (chained 0).inChain = false ∧ serving0.hears true = false ∧ (rosterOf (s.od 0x5010 1)) = [(1, 0x101, 0x201), (2, 0x102, 0x202), (3, 0x103, 0x203)]
    ∧ s.rosterMac 3 false = some 0x103
    ∧ (let p := { s.mirror.portB with unacked := [(5, 1, msg0)], owed := true }
      let u := { s with mirror := { s.mirror with portB := p } }
      (u.mirror.port true).unacked ≠ [] ∧ (u.mirror.port true).owed = true ∧ (u.mirror.port false).unacked = [])
    ∧ (let u := { s with mirror := { s.mirror with portA := { s.mirror.portA with lastRole := 1, mirLive := false }, heard := [] } }
      u.mirror.portA.mirLive = false ∧ u.mirror.portA.lastRole = 1 ∧ u.mirror.portA.failed = false ∧ u.mirror.heard = []) := by decide +kernel

/-- A LIST with a reset record of instance 2, and one with a reserved bit of its header set. -/
def resetRecord : List Byte := [3, 0] ++ leBytes 6 80 ++ [0, 0, 2, 0, 0, 0, 0xFF, 0xFF] ++ List.replicate 8 0 ++ [4] ++ List.replicate 63 0
def listReset : FrameList := { list0 with records := resetRecord }

theorem witness_ListsFramesAndAcks : let s := chained 3
    listMessageReserved listReset = false ∧ (journalOf listReset.records).list.map (fun r => (r.reset, r.inst)) = [(true, 2)]
    ∧ listMessageReserved { list0 with header := List.replicate 20 0 ++ [4, 0, 0, 0] } = true ∧ recordsReserved [] = false
    ∧ recordsReserved (resetRecord.set 1 2) = true ∧ tick0.hb.flags.getLsbD 7 = false ∧ { hb0 with flags := 0x80 }.flags.getLsbD 7 = true
    ∧ (tick0.hb.flags.getLsbD 5 && tick0.hb.toPos == s.position) = false ∧ hdr0.epoch = s.mirror.epoch
    ∧ (s.mirror.port true).up = true ∧ s.rosterMac (s.mirror.port true).peer false = some 0x103 ∧ s.pins.mirRefclk = true
    ∧ (let f : MirrorFrame := { dest := Config.macB, src := 0x103, reservedSet := true, linkSeq := 0, pause := false }
      f.dest = (if true then Config.macB else Config.macA) ∧ f.reservedSet = true ∧ { f with reservedSet := false }.reservedSet = false
        ∧ { f with pause := true }.pause = true)
    ∧ lookup? ({ s.mirror with digests := [(99, [1])] } : Mirror).digests 99 = some [1] := by
  refine ⟨?_, ?_, ?_, ?_, ?_, ?_, ?_, ?_, ?_, ?_, ?_, ?_, ⟨rfl, rfl, rfl, rfl⟩, ?_⟩ <;> decide +kernel

/-- RESET_STATE of the instance of a reset record reads 2 as soon as the LIST has arrived. -/
theorem test_listed_reset : (match exec (.listMessage { hdr0 with epoch := 7, frameNo := 101 } listReset) (chained 3) with
    | .next u => (u.host.insts[2].resetState, u.host.insts[3].resetState)
    | _ => (9, 9)) = (2, 0) := by decide +kernel

/-- The second of two frames of a message. -/
theorem witness_MirrorFrames : (1 : Nat) < 2 := by decide

/-- The tail of a sequencer that falls silent on its second path takes over with the next epoch. -/
theorem test_takeover : let s := chained 3
    (match exec (.pathSilenceTimeout false true) { s with mirror := { s.mirror with portA := { s.mirror.portA with lastRole := 1, mirLive := false } } } with
    | .next u => (u.mirror.state, u.mirror.epoch, u.mirror.takeover)
    | _ => (0, 0, 0)) = (4, 8, 101) := by decide +kernel

/-- An LIST of an epoch whose first frame the follower has executed deposes it. -/
theorem test_list_of_a_new_epoch : (match exec (.listMessage { hdr0 with epoch := 8, frameNo := 100 } list0) (chained 3) with
    | .next u => (u.mirror.state, u.mirror.fenceReason)
    | _ => (0, 0)) = (5, 3) := by decide +kernel

def joiner : Join := { donor := false, round := 0, dirty := [], failures := 2, prior := 0, asked := true, resume := false, provisional := false }

theorem witness_JoiningFormationAndHeartbeats :
    (let s := chained 0;
      s.mirrored = true ∧ s.mirror.state = 0 ∧ s.boot.stage = 6 ∧ s.pins.testFenced = false ∧ s.moth.state < 2)
    ∧ (let s := { chained 3 with mirror := { (chained 3).mirror with portB := { (chained 3).mirror.portB with peer := 0xFFFF } } }
      s.mirror.portB.up = true ∧ s.inChain = true ∧ (∃ r ∈ rosterOf (s.od 0x5010 1), r.1 = 3) ∧ 3 ≠ s.position ∧ s.mirror.portB.peer = 0xFFFF
        ∧ s.mirror.join = none ∧ s.persist.state < 5
        ∧ 5 ≤ ({ s with persist := { s.persist with state := 8 } } : State).persist.state)
    ∧ (let s := { chained 2 with mirror := { (chained 2).mirror with join := some joiner, drainAsked := true } }
      s.joining = true ∧ s.mirror.drainAsked = true ∧ s.mirror.state ≠ 5 ∧ memoryWf s)
    ∧ (chained 3).joining = false ∧ (0 : Nat) < openSlots true
    ∧ (chained 6).mirror.state = 6 ∧ (chained 6).ranksFirst = true ∧ (chained 6).od 0x5000 2 = 1 ∧ (chained 6).others = [1, 3]
    ∧ (let f (p : Nat) : Heard := { pos := p, hb := { hb0 with role := 6, position := p, flags := 0, frameNo := 0, epoch := 0, committed := 0 }, live := true }
      let s := { chained 6 with mirror := { (chained 6).mirror with heard := [f 1, f 3] } }
      (∀ h ∈ s.mirror.heard, h.hb.role ≠ 1) ∧ (∀ p ∈ s.others, ∃ h ∈ s.mirror.heard, h.pos = p ∧ h.hb.role = 6) ∧ s.ranksFirst = true)
    ∧ (∃ x ∈ [({ pos := 1, hb := { hb0 with role := 1 }, live := true } : Heard)], x.hb.role = 1)
    ∧ (let s := chained 4
      s.portOf 1 = some false ∧ s.portOf 3 = some true ∧ s.portOf 9 = none ∧ s.portOf 0xFFFF = none ∧ s.mirror.epoch < 8
        ∧ hb0.role ≠ 5 ∧ hb0.flags.getLsbD 5 = false ∧ s.hears true = true ∧ 3 ∈ s.others)
    ∧ ({ chained 4 with frame := { (chained 4).frame with overran := true } } : State).frame.overran = true := by decide +kernel

/-- A heartbeat of a path that was never heard before, of an engine that forms: it is kept; the tail of a new chain becomes sequencer
by command. -/
theorem test_form_by_command : (match exec .mirrorCmdForm (chained 6) with
    | .next u => (u.mirror.state, u.mirror.epoch, u.mirror.epochStart)
    | _ => (0, 0, none)) = (4, 8, some 102) := by decide +kernel

/-! ### The whole block -/

/-- A command in front of others, an empty queue, commands that move no frame and store nothing, addresses within and beyond memory. -/
theorem witness_StepRunsTheFrontCommand : ({ State.reset with pending := [.highz, .idcode] } : State).pending = .highz :: [.idcode]
    ∧ State.reset.pending = [] ∧ movesFrame .highz = false ∧ writesStore .highz = false ∧ movesFrame (.tick 0) = true
    ∧ beyondMemory true .highz = false ∧ beyondMemory true (.partialWrite (slotCount true * slotBytes) ⟨[], []⟩ .persist) = true
    ∧ beyondMemory true (.partialWrite (slotCount true * slotBytes - 1) ⟨[], []⟩ .persist) = false := by decide +kernel

/-- A store without errors of cells, and one with one. -/
theorem witness_SoundStore : SoundStore State.reset ∧ ¬ SoundStore { State.reset with dram := { State.reset.dram with errors := [(0, 0)] } } :=
  ⟨⟨rfl, rfl, rfl⟩, fun h => by simpa using h.symbols⟩

/-- A read-only entry whose instance the next frame resets waits no more; one that writes does (R308). -/
theorem witness_waitOver : let s := running (ctxOf 0) ent0
    let u := { s with mirror := { s.mirror with listedResets := [(s.frame.frameNo + 1, 1)] } }
    s.waitOver (ctxOf 0) = false ∧ u.waitOver (ctxOf 0) = true
    ∧ ({ u with work := [{ ent0 with entry := BitVec.ofNat 512 (2 ^ 8) }] } : State).waitOver (ctxOf 0) = false := by decide +kernel

theorem witness_EveryStepKeepsMemoryQueueAndOrderingCode : memoryWf State.reset ∧ queueWf { State.reset with pending := [.highz] } = true := by decide +kernel

/-- Some commands that leave the frame and the store run from reset. -/
theorem witness_OnlyTheseCommandsMoveFramesAndStores : step { State.reset with pending := [.idcode] } = exec .idcode State.reset := rfl

end Sys2Proof.Tests
end

section
/-! The branches of a program: the flag branch of R145 and the branches, calls and jumps of R140. Where a branch ends is said once,
for every branch; each instruction adds when it is taken. -/

namespace Sys2Proof.Machine

variable {s : State} {t : Fin 64} {c : Ctx} {e : WorkEntry} {img : Image} {f : BitVec 40}

/-! ### Where a branch ends -/

theorem zeros_of_extract {m l : Nat} (h : f.extractLsb' l (m - l + 1) = 0) : zeros f m l = true := by
  simp [zeros, h]

/-- A branch goes to its target when its condition `b` holds and to the next index when it does not (R176). -/
theorem branch_follows {op : BitVec 8} {ok : Bool} {taken : Ctx → Bool} {b : Bool} (h : Runs s t (instrWord op f) c e img)
    (hk : ok = true) (hb : taken c = b) (hin : if b then c.trap = none → (fTarget f).toNat < 0x3C00 else goesOn c) :
    branch t op f ok taken s = s.setHead t { c with pc := if b then fTarget f else c.pc + 1 } := by
  cases b with
  | true => exact branch_taken h hk hb hin
  | false => exact branch_not_taken h hin hk hb

/-! ### The flag branch (R145) -/

theorem laneFlags_getLsbD (fl : BitVec 16) (n : Fin 4) {j : Nat} (hj : j < 4) :
    (laneFlags fl n).getLsbD j = fl.getLsbD (4 * n.val + j) := by
  simp [laneFlags, hj]

theorem Ctx.mem_lanes {kn n : Fin 4} : n ∈ c.lanes kn ↔ c.enabled kn n = true := by
  simp [Ctx.lanes]

/-- A code of R172 and the condition on N, Z, C and V it stands for (R145). -/
def IsFlagCond (r : BitVec 4 × (Bool → Bool → Bool → Bool → Bool)) : Prop :=
  r.1.toNat < 14 ∧ ∀ x, condHolds r.1 x = r.2 (x.getLsbD 3) (x.getLsbD 2) (x.getLsbD 1) (x.getLsbD 0)

/-- In a lane, a condition reads the lane's own four bits of FL (R141). -/
theorem IsFlagCond.holds_lane {r : BitVec 4 × (Bool → Bool → Bool → Bool → Bool)} (hr : IsFlagCond r) (fl : BitVec 16) (n : Fin 4) :
    condHolds r.1 (laneFlags fl n)
      = r.2 (fl.getLsbD (4 * n.val + 3)) (fl.getLsbD (4 * n.val + 2)) (fl.getLsbD (4 * n.val + 1)) (fl.getLsbD (4 * n.val)) := by
  rw [hr.2]
  simp only [laneFlags_getLsbD, Nat.reduceLT, Nat.add_zero]

/-- BRF is taken: the test of `execBrf` as a function of its own. -/
def brfTaken (f : BitVec 40) (c : Ctx) : Bool :=
  let holds (n : Fin 4) : Bool := condHolds (f.extractLsb' 36 4) (laneFlags c.fl n)
  match fNat f 34 2 with
  | 0 => (c.lanes (fK f 32)).any holds
  | 1 => (c.lanes (fK f 32)).all holds
  | _ => holds 0

theorem exec_brf : exec (.brf t f) s
    = .next (branch t 0x5C f (zeros f 31 14 && decide (fNat f 36 4 < 14) && decide (fNat f 34 2 < 3)) (brfTaken f) s) := rfl

/-- ANY, ALL and L0 over the lane results (R145): with no lane enabled ANY fails and ALL holds, and L0 takes lane 0 whatever the
mask. -/
theorem brfTaken_iff {lane : Fin 4 → Bool} (hl : ∀ n, condHolds (f.extractLsb' 36 4) (laneFlags c.fl n) = lane n) :
    brfTaken f c = true ↔ if (f.extractLsb' 34 2).toNat = 0 then ∃ n, c.enabled (fK f 32) n = true ∧ lane n = true
      else if (f.extractLsb' 34 2).toNat = 1 then ∀ n, c.enabled (fK f 32) n = true → lane n = true else lane 0 = true := by
  simp only [brfTaken, fNat, hl]
  split
  next any => simp [any, Ctx.mem_lanes]
  next all => simp [all, Ctx.mem_lanes]
  next notAny notAll => rw [if_neg notAny, if_neg notAll]

/-! ### The branches of the address class (R140) -/

/-- A code of R172 and the condition on two address-class values it stands for (R140). -/
def IsAddrCond (r : BitVec 3 × (Word → Word → Bool)) : Prop :=
  r.1.toNat < 6 ∧ ∀ a b, addrCond r.1 a b = r.2 a b

theorem exec_bra : exec (.bra t f) s = .next (branch t 0x10 f (zeros f 28 14 && decide (fNat f 37 3 < 6))
    (fun c => addrCond (f.extractLsb' 37 3) (c.getA (fA f 33)) (c.getA (fA f 29))) s) := rfl

theorem exec_brai : exec (.brai t f) s = .next (branch t 0x11 f (decide (fNat f 37 3 < 6))
    (fun c => addrCond (f.extractLsb' 37 3) (c.getA (fA f 33)) (fImm f 14 19)) s) := rfl

theorem exec_jmp : exec (.jmp t f) s = .next (branch t 0x12 f (zeros f 39 14) (fun _ => true) s) := rfl

/-- What CALL comes to once its checks pass: A15 is written with the branch. -/
theorem exec_call (h : Runs s t (instrWord 0x13 f) c e img) (hz : f.extractLsb' 14 26 = 0) :
    exec (.call t f) s = .next (s.conclude t (instrWord 0x13 f)
      (branchTo (fTarget f) s (c.setA 15 (BitVec.ofNat 48 (c.pc.toNat + 1))) c)) :=
  congrArg _ (runInstr_effect h (by simp [zeros_of_extract (m := 39) hz]) (.inl rfl))

/-- What JMPR comes to once its checks pass: the PC trap, or a branch to the low 14 bits. -/
theorem exec_jmpr (h : Runs s t (instrWord 0x14 f) c e img) (hz : f.extractLsb' 0 36 = 0) :
    exec (.jmpr t f) s = .next (s.conclude t (instrWord 0x14 f)
      (if 2 ^ 14 ≤ (c.getA (fA f 36)).toNat then .trap 4 Status.pcRange (c.getA (fA f 36)) 0 s c
        else branchTo ((c.getA (fA f 36)).setWidth 14) s c c)) :=
  congrArg _ (runInstr_effect h (by simp [zeros_of_extract (m := 35) hz]) (.inl rfl))

/-- A value with any of bits [47:14] set is no index of the instruction store. -/
theorem le_toNat_of_high_bits {a : Word} (h : a.extractLsb' 14 34 ≠ 0) : 2 ^ 14 ≤ a.toNat := by
  refine Nat.le_of_not_lt fun hlt => h (BitVec.eq_of_toNat_eq ?_)
  simp only [BitVec.extractLsb'_toNat, Nat.shiftRight_eq_div_pow, BitVec.ofNat_eq_ofNat, BitVec.toNat_ofNat]
  omega

/-- A JMPR with one of bits [47:14] of its register set raises the PC trap with the register as TADDR (R140, R164). -/
theorem exec_jmpr_high (h : Runs s t (instrWord 0x14 f) c e img) (hz : f.extractLsb' 0 36 = 0)
    (ha : (c.getA (fA f 36)).extractLsb' 14 34 ≠ 0) :
    exec (.jmpr t f) s = .next (s.takeTrap t c (instrWord 0x14 f) 4 Status.pcRange (c.getA (fA f 36)) 0) := by
  rw [exec_jmpr h hz, if_pos (le_toNat_of_high_bits ha)]
  rfl

theorem exec_jmpr_low {target : BitVec 14} (h : Runs s t (instrWord 0x14 f) c e img) (hz : f.extractLsb' 0 36 = 0)
    (ha : (c.getA (fA f 36)).toNat = target.toNat) (hin : c.trap = none → target.toNat < 0x3C00) :
    exec (.jmpr t f) s = .next (s.setHead t { c with pc := target }) := by
  have hlt : ¬ 2 ^ 14 ≤ (c.getA (fA f 36)).toNat := by have := target.isLt; omega
  have hset : (c.getA (fA f 36)).setWidth 14 = target :=
    BitVec.eq_of_toNat_eq (by rw [BitVec.toNat_setWidth, ha, Nat.mod_eq_of_lt target.isLt])
  rw [exec_jmpr h hz, if_neg hlt, hset, branchTo_done hin]
  rfl

end Sys2Proof.Machine

namespace Sys2Proof

open Machine

/-- Settles O2: the table of R145 is `condHolds` row by row, the summary is `brfTaken_iff`, and the PC is `branch_follows`. -/
theorem flagBranchesFollowTheirLanes : Obligations.FlagBranchesFollowTheirLanes := by
  intro r hr s t f c e img hcond hrun hzero hsum b htaken hin
  have hrow : IsFlagCond r := by
    simp only [List.mem_cons, List.not_mem_nil, or_false] at hr
    rcases hr with rfl | rfl | rfl | rfl | rfl | rfl | rfl | rfl | rfl | rfl | rfl | rfl | rfl | rfl <;>
      exact ⟨by decide, fun _ => rfl⟩
  have hok : (zeros f 31 14 && decide (fNat f 36 4 < 14) && decide (fNat f 34 2 < 3)) = true := by
    have hcode : fNat f 36 4 < 14 := by rw [fNat, hcond]; exact hrow.1
    simp only [Bool.and_eq_true, decide_eq_true_eq]
    exact ⟨⟨zeros_of_extract hzero, hcode⟩, hsum⟩
  have htest : brfTaken f c = b :=
    Bool.eq_iff_iff.2 ((brfTaken_iff fun n => by rw [hcond]; exact hrow.holds_lane c.fl n).trans htaken.symm)
  rw [exec_brf, branch_follows hrun hok htest hin]

/-- Settles O3: the table of R140 is `addrCond` row by row; BRA, BRAI and JMP are branches, and CALL and JMPR have their own
equations. -/
theorem addressBranchesReachTheirTarget : Obligations.AddressBranchesReachTheirTarget := by
  refine ⟨fun r hr s t f c e img hcond => ?_, fun s t f c e img => ⟨?jmp, ?call, ?jmprLow, ?jmprHigh⟩⟩
  · have hrow : IsAddrCond r := by
      simp only [List.mem_cons, List.not_mem_nil, or_false] at hr
      rcases hr with rfl | rfl | rfl | rfl | rfl | rfl <;>
        exact ⟨by decide, fun a b => by simp [addrCond, bne, Bool.beq_eq_decide_eq]⟩
    have hcode : fNat f 37 3 < 6 := by rw [fNat, hcond]; exact hrow.1
    constructor
    case left =>
      intro b hb hrun hzero hin
      rw [exec_bra, branch_follows hrun (by simp [zeros_of_extract (m := 28) hzero, hcode]) (by rw [hcond, hrow.2, hb]) hin]
    case right =>
      intro b hb hrun hin
      rw [exec_brai, branch_follows hrun (by simp [hcode]) (by rw [hcond, hrow.2, hb]; rfl) hin]
  case jmp =>
    intro hrun hzero hin
    rw [exec_jmp, branch_taken hrun (zeros_of_extract hzero) rfl hin]
  case call =>
    intro hrun hzero hin
    rw [exec_call hrun hzero, branchTo_done (c := c.setA 15 _) hin]
    rfl
  case jmprLow =>
    intro target hrun hzero ha hin
    exact exec_jmpr_low hrun hzero ha hin
  case jmprHigh =>
    intro hrun hzero ha
    rw [exec_jmpr_high hrun hzero ha]
    refine ⟨fun hprogram => ?_, fun r hhandler => ?_⟩
    · simp only [State.takeTrap, hprogram]
      rfl
    · simp only [State.takeTrap, hhandler]
      rfl

end Sys2Proof
end
